-- ==== Sys2Proof/Word.lean ====
section
/-!
DEFINITION. The word and byte types of the Waluc (R4, R16: little-endian, unsigned arithmetic modulo
2^width) and the shape of a sparse table. Everything that computes with them stands under Machine/.
-/
namespace Sys2Proof

/-- A byte of memory, of a packet, of a frame or of an image (R4). -/
abbrev Byte := BitVec 8
/-- 16-bit quantity. -/
abbrev W16 := BitVec 16
/-- 32-bit quantity: a 32-bit register, a packet word. -/
abbrev W32 := BitVec 32
/-- 64-bit quantity: a 64-bit register, a Tiller instruction, a stored word (R298). -/
abbrev W64 := BitVec 64
/-- An instance of a repeated part by number, sparse: keys strictly rising, no entry at the default. -/
abbrev Tbl (α : Type) := List (Nat × α)

end Sys2Proof
end

