-- ==== Sys2Proof/Syntax.lean ====
section
/-!
DEFINITION. The commands the block takes: one constructor of `Instr` per row of spec/opcode_table.json,
with the row's operands, and the plain data those operands are made of.
-/
namespace Sys2Proof

/-- The packet header of R490 as a started command carries it: the Windrow it came through, SEQ, the low
20 bits of CONTEXT and the two FLAGS bits that act after the read. -/
structure CmdHdr where
  windrow : Nat
  seq : W32
  context : BitVec 20
  waitPrev : Bool
  irq : Bool
deriving DecidableEq, Repr

/-- A line by space (DPA[55:52] of R317: 0 device, 1 host, 2 Loft) and line number (key >> 6 of R320). -/
structure LineAddr where
  space : Nat
  line : Nat
deriving DecidableEq, Repr

/-- What an access does (R303, R411): an atomic needs the rights of a read and of a write. -/
inductive AccessKind where
  | read | write | atomic
deriving DecidableEq, Repr

/-- Who a register access comes from (R15, R582): the host through BAR0 or the board controller over the
Tally chain. Each side has its own holding registers. -/
inductive Side where
  | host | tally
deriving DecidableEq, Repr

/-- Configuration-space fields of R428 that a rule of the spec reads (PRESUMED, log 9: places of PCI Express). -/
inductive CfgReg where
  | msixControl   -- [15] enable, [14] function mask (R446)
  | msiControl    -- [0] enable, [6:4] multiple message enable (R446)
  | msiMask       -- one bit per message (R428: per-vector masking)
  | devCtl2       -- [3:0] completion timeout value (R447)
  | pmcsr         -- [8] PME_En, [15] PME_Status, cleared by writing 1 (R450)
  | ptmControl    -- [0] enable (R456)
  | aerSeverity   -- one bit per uncorrectable error (R454)
  | aerStatus     -- cleared by writing 1 (R447)
  | bar0          -- BAR0 and BAR1, BAR2 and BAR3, BAR4 and BAR5: a 64-bit base each (R427)
  | bar2
  | bar4
deriving DecidableEq, Repr

/-- Where REGISTER_WRITE goes: a BAR0 offset (R575) or a configuration-space field. -/
inductive RegTarget where
  | bar0 (off : Nat)
  | cfg (r : CfgReg)
deriving DecidableEq, Repr

/-- Where READ_TO_CLEAR goes: a BAR0 offset (R575), a BAR4 offset (R492) or a byte offset of configuration space (R427, R428). -/
inductive ReadTarget where
  | bar0 (off : Nat)
  | bar4 (off : Nat)
  | config (off : Nat)
deriving DecidableEq, Repr

/-- Why the host port freezes (R454, R459). -/
inductive FreezeCause where
  | surpriseDown | fatal | viral
deriving DecidableEq, Repr

/-- Result of host-link training that HL_STATUS reports (R426, R458). -/
structure HostTraining where
  cxl : Bool
  cxlVer : BitVec 2
  flit256 : Bool
  rate : Byte
  width : BitVec 7
  modules : BitVec 3
deriving DecidableEq, Repr

/-- What a Profile A Translation Completion grants (R399): readable, writable, page frame address and size
in 4 KiB pages, and whether it may be cached. -/
structure TransResult where
  read : Bool
  write : Bool
  addr : W64
  pages : Nat
  cacheable : Bool
deriving DecidableEq, Repr

/-- Who waits for a translation (R402, R410, R412). -/
inductive Requester where
  | tiller (t : Nat)
  | command (windrow : Nat) (seq : W32)
  | engineGroup (att : Nat) (group : BitVec 30) (tag : BitVec 12)
  | copyEngine (c : Nat)
  | nobody
deriving DecidableEq, Repr

/-- An atomic of R358 at a byte offset of its line: SIZE as in R466 (2, 3 or 4), and its lanes' operands
and compare values in ascending lane order (one lane unless combined under R472). -/
structure AtomArgs where
  op : BitVec 4
  size : BitVec 3
  off : Nat
  lanes : List (BitVec 128 × BitVec 128)
deriving DecidableEq, Repr

/-- What a request to a home carries beside its line: the context it is checked under (R304), whether its region
is NORMAL-STREAM (R326), and its requester port for the prefetch streams of R329. -/
structure ReqInfo where
  ctx : BitVec 20
  stream : Bool
  port : Nat
deriving DecidableEq, Repr

/-- One lane of an engine-port request (R466): its context address, store data or operand, compare value. -/
structure Lane where
  addr : W64
  data : BitVec 128
  cmp : BitVec 128
deriving DecidableEq, Repr

/-- An engine-port request (R466) of attachment `att`; `lanes` holds one entry per lane of the width, and
`param` the 64-byte PARAM of ACOPY and GM requests. KIND is the row's constructor. -/
structure EpReq where
  att : Nat
  tag : BitVec 12
  group : BitVec 30
  context : BitVec 20
  mask : W64
  size : BitVec 3
  mark : BitVec 2
  aop : BitVec 4
  mok : Bool
  lanes : List Lane
  param : List Byte
deriving DecidableEq, Repr

/-- IDENT frame of R234. -/
structure IdentMsg where
  tally : BitVec 10
  cropId : W32
  position : Nat
  planId : BitVec 128
  imageCrc : W32
  bindCrc : W32
  orderV1 : Bool
  link : Nat
deriving DecidableEq, Repr

/-- One step's gathered flag byte and vanish counter (R88, R155). -/
structure StepGather where
  step : Nat
  flags : Byte
  vanish : W32
deriving DecidableEq, Repr

/-- Margin request codes of R546 with the member's position. -/
structure MarginReq where
  position : Nat
  code : BitVec 3
deriving DecidableEq, Repr

/-- The barrier an ARRIVE is for: the start barrier, an epoch's end, the drain of a replay (R531), or the second round after a
re-alignment (R247 step 5). -/
inductive ArriveKind where
  | start | epoch | replay | second
deriving DecidableEq, Repr

/-- ARRIVE of R242's table for the member and everything below it: the barrier's kind and number (the epoch; for a start barrier
the attempt), whether every Tiller halted, a refusal of R219, a stop request, gathered steps, margin requests with the policy
limits of R548, and whether a link has drifted (R241). -/
structure ArriveMsg where
  kind : ArriveKind
  barrier : W64
  halted : Bool
  refusedAt : Option Nat
  stop : Option Bool
  gather : List StepGather
  margin : List MarginReq
  maxFmin : Nat
  minFmax : Nat
  drift : Bool
deriving DecidableEq, Repr

/-- DECIDE of R242's table (R245 to R250, R531, R535, R587). `settle` asks for a new root or a re-alignment and a second ARRIVE
before the release tick is named; `stage` is the phase of R249; a REPLAY without a tick is the first one of R531. -/
inductive DecideMsg where
  | release (tick epoch : W64) (rootPct : Nat) (settle : Bool) (gather : List StepGather)
  | replay (tick : Option W64) (rootPct : Nat) (settle : Bool)
  | replan (epoch : W64) (suspect : Option Nat)
  | stop (now : Bool) (rootPct : Nat) (gather : List StepGather)
  | complete (stage rootPct : Nat) (gather : List StepGather)
  | abandon (position : Option Nat)
  | failure (status : Byte) (position : Nat)
deriving DecidableEq, Repr

/-- A trained link of a member to another (R234, R235): its number, the peer's Tally address and link, and the recorded round trip in
half root cycles. -/
structure PeerLink where
  link : Nat
  tally : Nat
  peer : Nat
  rt : Nat
deriving DecidableEq, Repr

/-- What a member's own checks of R231 gave, with what is compared between members (R223, R231) and its links to members (R238).
Every member hears it; a later one of the same member has a higher `round`; `known` says that the links of its LINK table are settled and its member
links measured, `closed` that none of its links still trains, and `moldo` that the member is a Moldo chip (R256). -/
structure JoinMsg where
  position : Nat
  tally : Nat
  isRoot : Bool
  code : Nat
  planId : BitVec 128
  imageCrc : W32
  bindCrc : W32
  orderV1 : Bool
  nmember : Nat
  table : List Nat
  peers : List PeerLink
  round : Nat
  known : Bool
  closed : Bool
  moldo : Bool
deriving DecidableEq, Repr

/-- Reports of formation (R231, R233): a member's checks, what the root has settled on, and a member's provisional binding. -/
inductive BindMsg where
  | checks (j : JoinMsg)
  | settled (js : List JoinMsg)
  | bound (position : Nat)
deriving DecidableEq, Repr

/-- STOP of R242's table: a PLAN_STOP, a replay report (R531), a re-plan report (R284, R535), a Contained
failure (R587) or a start timeout (R248), each with the reporting position. -/
inductive StopMsg where
  | planStop (now : Bool)
  | replay (position : Nat)
  | replanned (position : Nat) (suspect : Option Nat) (source : Nat)
  | failure (position : Nat) (status : Byte)
  | startTimeout (position : Nat)
deriving DecidableEq, Repr

/-- The frame fields of R261 to R264 common to every kind, KIND among them; `decodes` says whether all eight codewords
decode and `corrected` how many symbols they corrected (R264: both come from the RS decoder). -/
structure FrameHead where
  kind : BitVec 2
  seq : Byte
  ack : Byte
  nak : Bool
  held : Bool
  cred0 : Byte
  cred1 : Byte
  cred2 : Byte
  decodes : Bool
  corrected : Nat
deriving DecidableEq, Repr

/-- A DATA frame (R262, R263): channel, MAP, the 64-byte lines of the set slots in ascending order, and the
CRC field of its trailer. -/
structure DataFrame where
  head : FrameHead
  vc : BitVec 2
  map : BitVec 80
  lines : List (List Byte)
  crc : W32
deriving DecidableEq, Repr

/-- The trailer fields of a CONTROL frame that the receiver checks (R262, R264): MAP and CRC. -/
structure FrameEnd where
  map : BitVec 80
  crc : W32
deriving DecidableEq, Repr

/-- A time of the Crop: the CTB in root cycles and its fraction in quarters of a root cycle (R239; log 29). -/
structure CropTime where
  ctb : W64
  quarter : BitVec 2
deriving DecidableEq, Repr

/-- Control messages a CONTROL frame delivers (R242, R284, R233); their byte layout is not given (log 21). TIME carries the CTB in
root cycles and its fraction in quarters of a root cycle (R239; log 29). -/
inductive CtrlMsg where
  | ident (m : IdentMsg)
  | probe (echo : Bool) (index : Nat)
  | time (ctb : W64) (quarter : BitVec 2)
  | arrive (m : ArriveMsg)
  | decide (m : DecideMsg)
  | stop (m : StopMsg)
  | abort (cropId : W32) (code : Byte) (position : Nat) (fromRoot : Bool)
  | bindReport (m : BindMsg)
  | bindNotice (startTo : Nat)
  | completion (position : Nat) (flagDone : Bool)
  | leave
deriving DecidableEq, Repr

/-- A remote request or response record of R277. -/
structure RemoteRec where
  op : Byte
  status : Byte
  tag : W16
  src : BitVec 10
  dst : BitVec 10
  context : BitVec 20
  nlines : Nat
  dpa : BitVec 56
  firstMask : W64
  lastMask : W64
deriving DecidableEq, Repr

/-- Outcome of firmware authentication and of loading the configuration record (R564 to R566). -/
structure AuthResult where
  authA : Bool
  authB : Bool
  versionA : Nat
  versionB : Nat
  fusedMin : Nat
  fwVersionA : W32
  fwVersionB : W32
  serial : W64
  recordSigned : Bool
  record : List Byte
deriving DecidableEq, Repr

/-- What one stack port reports at the end of training (R289, R290, R314). -/
structure PortTrain where
  kind : BitVec 2
  up : Bool
  capGib : Byte
  rate : Byte
deriving DecidableEq, Repr

/-- TAP instructions and IJTAG instruments of R573. -/
inductive TapOp where
  | bypass | idcode | samplePreload | extest | clamp | highz
  | ijtagMonitors | ijtagPhy | ijtagBist
  | debugToken (signed : Bool)
deriving DecidableEq, Repr

/-- The commands of the block: one constructor per row of spec/opcode_table.json, in the table's order. -/
inductive Instr where
  -- Granger commands (R509, R513, R515)
  | nop (h : CmdHdr)
  | fence (h : CmdHdr) (kind : Byte)
  | flushPublish (h : CmdHdr) (base length : W64) (mode : Byte)
  | copy (h : CmdHdr) (src dst bytes : W64) (conv : Byte) (sfmt : BitVec 4) (dfmt : BitVec 4) (sat : Bool)
      (rnd : BitVec 2) (tensor : W32) (seed : W64)
  | fill (h : CmdHdr) (dst bytes pattern : W64)
  | copyRemote (h : CmdHdr) (src doff : W64) (bytes : W32) (tally : BitVec 10)
  | ctxBind (h : CmdHdr) (action : Byte) (mode levels5 adUpdate : Bool)
  | segSet (h : CmdHdr) (seg : Byte) (entry : BitVec 128)
  | ptRootSet (h : CmdHdr) (root : W64)
  | tlbInval (h : CmdHdr) (base length : W64)
  | grant (h : CmdHdr) (first count entry : W32)
  | regionRegister (h : CmdHdr) (key : W16) (wr : Bool) (base length : W64)
  | regionRevoke (h : CmdHdr) (key : W16)
  | faultResolve (h : CmdHdr) (faultId : W16) (outcome : Byte)
  | planLoad (h : CmdHdr) (slot : Byte) (position : W16) (image bindList : W64)
  | planRun (h : CmdHdr) (slot : Byte)
  | planStop (h : CmdHdr) (slot mode : Byte)
  | cropForm (h : CmdHdr) (slot : Byte) (nmember : W16) (cropId : W32) (table : W64) (formTo startTo : W32)
  | cropJoin (h : CmdHdr) (slot : Byte) (nmember : W16) (cropId : W32) (table : W64) (joinTo : W32)
  | seedcornExport (h : CmdHdr) (slot : Byte) (dst length : W64)
  | seedcornImport (h : CmdHdr) (slot : Byte) (src length : W64)
  | planResume (h : CmdHdr) (slot : Byte)
  | loftConfig (h : CmdHdr) (action ways first count : Byte) (entry : W32)
  | engineLease (h : CmdHdr) (action attach : Byte) (sheaves : W16)
  | query (h : CmdHdr) (selector : W16) (arg : W32) (dst : W64)
  | countersRead (h : CmdHdr) (slot what : Byte) (first count : W32) (dst : W64)
  | marginPolicy (h : CmdHdr) (ceilMv : W16) (fmin : Byte) (enable : Bool) (fmax : Byte)
  -- Windrow pipeline (R492 to R506, R520)
  | doorbell (off width : Nat) (value : W64) (stores : List (Nat × Byte))
  | windrowAdmission
  | packetRead (w : Nat)
  | packetReread (w : Nat)
  | commandStart
  | reply (w : Nat)
  | windrowEnable (w : Nat) (value : W64)
  | windrowDisable (w : Nat) (value : W64)
  | grgReplyHeadWrite (w : Nat) (value : W32)
  -- Host register accesses with rows of their own (R414, R417, R455, R9 to R15, R446)
  | frHeadWrite (value : W32)
  | frEnableClear (value : W32)
  | frEnableSet (value : W32)
  | hlContainRelease (value : W32)
  | registerWrite (target : RegTarget) (width : Nat) (value : W64)
  | readToClear (target : ReadTarget) (width : Nat)
  | lowHalfRead (side : Side) (off : Nat)
  | badAccess (bar off width : Nat) (write : Bool)
  | vectorUnmask (v : Nat)
  -- Host windows, CXL.mem and CXL.cache (R430 to R436)
  | hatchWrite (off : Nat) (data : List Byte)
  | hatchRead (off n : Nat)
  | memRd (hpa : W64)
  | memRdData (hpa : W64)
  | memWr (hpa : W64) (data : List Byte)
  | memWrPtl (hpa : W64) (data : List Byte) (mask : W64)
  | memInv (hpa : W64)
  | memSpecRd (hpa : W64)
  | snpData (hpa : W64)
  | snpInv (hpa : W64)
  | snpCur (hpa : W64)
  | go (tag : Nat)
  | placementWrite (direct : Bool) (addr : W64) (key requester : W16) (data : List Byte)
  -- Translation traffic and host-link events (R399, R404, R415, R426, R441, R447 to R456)
  | invalidationRequest (itag : BitVec 5) (pasid : Option (BitVec 20)) (addr : W64) (size : Nat)
  | invalidationComplete (index : Nat)
  | translationCompletion (miss : Nat) (r : TransResult)
  | pageResponse (faultId : W16) (success : Bool)
  | completionTimeout (tag : Nat)
  | unexpectedCompletion (tag : Nat)
  | ptmSample (hostTime : W64)
  | hostLinkTrained (t : HostTraining)
  | portFreeze (cause : FreezeCause)
  | selfReset
  | hotReset
  | functionLevelReset
  | d3hotEntry
  | d0Return
  | wakeWain (link : Nat)
  | tlbMiss (req : Requester) (ctx : BitVec 20) (va : W64) (acc : AccessKind)
  | walkComplete (miss : Nat)
  | faultRingSignal
  | faultTimeout (slot : Nat)
  -- Coherence (R331, R351 to R359, R367, R322)
  | rds (agent : Nat) (l : LineAddr) (q : ReqInfo)
  | rdo (agent : Nat) (l : LineAddr) (q : ReqInfo)
  | upg (agent : Nat) (l : LineAddr) (q : ReqInfo)
  | rdcur (agent : Nat) (l : LineAddr) (q : ReqInfo)
  | wrline (agent : Nat) (l : LineAddr) (q : ReqInfo) (data : List Byte) (mask : W64)
  | atom (agent : Nat) (l : LineAddr) (q : ReqInfo) (args : AtomArgs)
  | offer (agent : Nat) (l : LineAddr)
  | fwdS (holder : Nat) (l : LineAddr)
  | fwdI (holder : Nat) (l : LineAddr)
  | inv (holder : Nat) (l : LineAddr)
  | invD (holder : Nat) (l : LineAddr)
  | cur (holder : Nat) (l : LineAddr)
  | snoopResponse (holder : Nat) (l : LineAddr)
  | nackRetry (agent : Nat) (l : LineAddr)
  | nearAtomic (agent : Nat) (l : LineAddr) (q : ReqInfo) (args : AtomArgs)
  | storeBufferPerform (issuer index : Nat)
  | fillArrival (cache : Nat) (l : LineAddr)
  -- Stacked memory (R290, R295, R309, R311)
  | gleanLine (stack : Nat)
  | correctiveWriteback (index : Nat)
  | stackLost (stack : Nat)
  | stackHot (stack : Nat)
  -- Tiller instructions (R159 to R176): the Tiller executes the word at its program counter
  | halt (t : Nat)
  | tillerNop (t : Nat)
  | loop (t : Nat)
  | endl (t : Nat)
  | agset (t : Nat)
  | agskip (t : Nat)
  | agrst (t : Nat)
  | twait (t : Nat)
  | twaitExpiry (t : Nat)
  | sig (t : Nat)
  | waits (t : Nat)
  | waitsPass (t : Nat)
  | step (t : Nat)
  | ebar (t : Nat)
  | issue (t : Nat)
  | queueEntry (t : Nat)
  -- Sub-operations begun by their unit (R179 to R188)
  | loadTile (sheaf : Nat)
  | passRows (sheaf : Nat)
  | openRegion (sheaf : Nat)
  | freeRegion (sheaf : Nat)
  | regionFinish (sheaf rbase : Nat)
  | npush (rick : Nat)
  | lpush (rick : Nat)
  | nsend (rick : Nat)
  | rfin (rick : Nat)
  | win (rick : Nat)
  | send (link : Nat)
  | recv (link : Nat)
  | xsend
  | xrecv
  | tillerCopy (engine : Nat)
  | pref (engine : Nat)
  | zero (engine : Nat)
  | subopCompletion (unit : Nat)
  -- Engine port (R466 to R480)
  | epLoad (r : EpReq)
  | epStore (r : EpReq)
  | epAtomic (r : EpReq)
  | epFence (r : EpReq)
  | acopy (r : EpReq)
  | acopyStart
  | acopyComplete (engine : Nat)
  | gmLoad (r : EpReq)
  | gmPass (r : EpReq)
  | gmStore (r : EpReq)
  | leaseBegin (sheaf : Nat)
  -- Crop formation and barriers (R232 to R251, R531 to R536, R587)
  | ident (link : Nat) (m : IdentMsg)
  | probe (link : Nat) (echo : Bool) (index roundTrip : Nat)
  | time (link : Nat) (c : CropTime)
  | abort (link : Nat) (cropId : W32) (code : Byte) (position : Nat) (fromRoot : Bool)
  | bindReport (link : Nat) (m : BindMsg)
  | bindNotice (startTo : Nat)
  | formTimeout
  | joinTimeout
  | sendArrive
  | arrive (link : Nat) (m : ArriveMsg)
  | stop (m : StopMsg)
  | decideRelease (tick : W64) (epoch : W64) (rootPct : Nat) (settle : Bool) (gather : List StepGather)
  | decideReplay (tick : Option W64) (rootPct : Nat) (settle : Bool)
  | decideReplan (epoch : W64) (suspect : Option Nat)
  | decideStop (now : Bool) (rootPct : Nat) (gather : List StepGather)
  | decideComplete (stage rootPct : Nat) (gather : List StepGather)
  | completionReport (position : Nat) (flagDone : Bool)
  | decideAbandon (position : Option Nat)
  | decideFailure (status : Byte) (position : Nat)
  | startTimeout
  | barrierRelease
  | rootRouteLoss
  | driftCheck (link departure : Nat)
  -- Wain frames and link events (R261 to R285)
  | frameSend (link : Nat)
  | dataFrame (link : Nat) (f : DataFrame)
  | controlFrame (link : Nat) (h : FrameHead) (last : FrameEnd) (msgs : List CtrlMsg)
  | idleFrame (link : Nat) (h : FrameHead) (crc : W32)
  | trainingComplete (link : Nat)
  | trainingTimeout (link : Nat)
  | lossOfLock (link : Nat)
  | relock (link : Nat)
  | linkLossTimeout (link : Nat)
  | creditWaitTimeout (link : Nat)
  | elasticBufferOverflow (link : Nat)
  | leave (link : Nat)
  -- Remote memory (R276 to R280)
  | remoteRead (link : Nat) (r : RemoteRec)
  | remoteWrite (link : Nat) (r : RemoteRec) (lines : List (List Byte))
  | rdata (link : Nat) (r : RemoteRec) (lines : List (List Byte))
  | wack (link : Nat) (r : RemoteRec)
  | nack (link : Nat) (r : RemoteRec)
  | remoteTimeout (tag : Nat)
  -- Monitors, power, boot, Tally, TAP (R524, R545, R559 to R573, R28, R295)
  | ripenessSample (monitor slack : Nat)
  | watchdogExpiry
  | vidAck
  | vidAckTimeout
  | thermtrip
  | pwrOkFall
  | fundamentalReset (straps : W16)
  | pllLock (locked : Bool)
  | firmwareAuthentication (r : AuthResult)
  | stackTraining (ports : List PortTrain)
  | poolClear
  | enumStart
  | enum (v : BitVec 11)
  | tallyRead (payload : W64) (crc : Byte)
  | tallyWrite (payload : W64) (crc : Byte)
  | resp (payload : W64) (crc : Byte)
  | tallyWake (payload : W64) (crc : Byte)
  | perstNAsserted
  | rootSettled
  | stackHotClear (stack : Nat)
  | tapInstruction (op : TapOp)
deriving DecidableEq, Repr

end Sys2Proof
end

