-- ==== Sys2Proof/Config.lean ====
section
/-!
DEFINITION. What the spec leaves open, as constants without a body: no proof can see their value.
-/
namespace Sys2Proof.Config

/-- Which of the free segment slots a segment-mode BIND takes (R390 says "a free slot"; log 12). Applied to
the model's free-value counter; an answer that is not free stands for the lowest free slot. -/
opaque segSlot : Nat → Nat
/-- Which free slot of the pending-fault table a new fault takes (R411 names none; log 12). -/
opaque faultSlot : Nat → Nat
/-- The generation of the first fault in each pending-table slot (R412 names the field, not its start; log 12). -/
opaque faultGen : Nat → BitVec 4
/-- BAR0 offset, within the component block, of the HDM decoder's registers (R577 leaves it to CXL; log 9). -/
opaque hdmOffset : Nat
/-- What a read of the component block returns outside the HDM decoder (R577: CXL RAS and link capability;
log 9): offset and a free-value index. -/
opaque componentRead : Nat → Nat → W64
/-- Bits of configuration space to which the spec gives no value (R427, R428; log 9): byte offset of the word and a free-value index. -/
opaque cfgRead : Nat → Nat → W32
/-- Message number TAG choice for a new outstanding host request (R437: a free tag; log 12). -/
opaque hostTag : Nat → Nat
/-- TAG choice for a new remote request (R277: requester's tag; log 12). -/
opaque remoteTag : Nat → Nat
/-- Data read from the flash before any write to it over the Tally chain (R571; log 7). -/
opaque flashByte : Nat → Byte
/-- Word a Tally READ of an unlisted selector returns (R571 gives it no word; log 17). -/
opaque tallyWord : Nat → W32
/-- A-cycles of a sub-operation whose duration the spec does not state, in the schedule of R212 (log 25): unit, word, and a sum of the
logical indices of its runs, so that two uses of one word may differ. -/
opaque subTicks : Nat → W64 → Nat → Nat

/-- The 64 bytes of a slot that holds a control message: R242 and R263 give no layout (log 21). -/
opaque ctrlSlot : CtrlMsg → List Byte
/-- A-cycles a PASS is held (R117): the spec gives no latency of a miss or a lost arbitration (log 22). -/
opaque passHold : Nat → Nat
/-- Corrections a stack's on-die ECC reports with a patrol read (R289 gives no number; log 47). -/
opaque stackCe : Nat → Nat
/-- POSITION in the DETAIL of a BAD_PACKET reply with a packet code: R498 gives it no meaning there (log 32). -/
opaque packetPosition : Nat → Nat
/-- DETAIL of a reply of a status for which neither R498 nor the opcode states one (R496; log 32). -/
opaque replyDetail : Byte → W32
/-- A stack entry of a reduction beyond the DEPTH its descriptor gives: R184 gives it no place (log 33). -/
opaque workSpill : Nat → Nat → Nat

end Sys2Proof.Config
end

