-- ==== Sys2Proof/Machine/Bits.lean ====
section
/-!
DEFINITION. Bit fields (R5), little-endian byte strings (R4), saturating counters, sparse tables, CRC-32C
(R194) and CRC-8 (R569).
-/
namespace Sys2Proof.Machine

/-- Field [hi:lo] of a number (R5). -/
def bits (x hi lo : Nat) : Nat := (x >>> lo) % 2 ^ (hi - lo + 1)

/-- Field [hi:lo] of a register (R5). -/
def field {w : Nat} (x : BitVec w) (hi lo : Nat) : Nat := bits x.toNat hi lo

/-- The register with field [hi:lo] replaced by the low bits of `v`. -/
def setField {w : Nat} (x : BitVec w) (hi lo v : Nat) : BitVec w :=
  BitVec.ofNat w (x.toNat - 2 ^ lo * field x hi lo + 2 ^ lo * (v % 2 ^ (hi - lo + 1)))

/-- Bit i of a register. -/
def bitOf {w : Nat} (x : BitVec w) (i : Nat) : Bool := x.toNat.testBit i

/-- The register with bit i set to b. -/
def setBit {w : Nat} (x : BitVec w) (i : Nat) (b : Bool) : BitVec w := setField x i i b.toNat

/-- Field [hi:lo] raised by n, saturating at its largest value (R288, R315, R344, R380, R421, R461, R486, R522). -/
def bump {w : Nat} (x : BitVec w) (hi lo n : Nat) : BitVec w :=
  setField x hi lo (min (field x hi lo + n) (2 ^ (hi - lo + 1) - 1))

/-- A 32-bit counter raised by n, saturating. -/
def satAdd32 (x : W32) (n : Nat) : W32 := BitVec.ofNat 32 (min (x.toNat + n) (2 ^ 32 - 1))

/-- Little-endian value of a byte string (R4). -/
def leNat : List Byte → Nat
  | [] => 0
  | b :: t => b.toNat + 256 * leNat t

/-- The n low bytes of a value, little-endian (R4). -/
def toLE : Nat → Nat → List Byte
  | 0, _ => []
  | n + 1, v => BitVec.ofNat 8 v :: toLE n (v / 256)

/-- n bytes from offset `off`; bytes beyond the end read as 0. -/
def slice (bs : List Byte) (off n : Nat) : List Byte :=
  let t := (bs.drop off).take n
  t ++ List.replicate (n - t.length) 0

/-- Little-endian field of n bytes at offset `off`. -/
def fieldLE (bs : List Byte) (off n : Nat) : Nat := leNat (slice bs off n)

/-- Whether every byte of [off, off + n) is zero: an RSV field of a packet or an image (R500, R221). -/
def zeroAt (bs : List Byte) (off n : Nat) : Bool := (slice bs off n).all (· == 0)

/-- The bytes with those from `off` replaced by `new`. -/
def splice (bs : List Byte) (off : Nat) (new : List Byte) : List Byte :=
  slice bs 0 off ++ new ++ bs.drop (off + new.length)

/-- a rounded up to a multiple of m. -/
def roundUp (a m : Nat) : Nat := (a + m - 1) / m * m

/-- Quotient rounded up. -/
def ceilDiv (a m : Nat) : Nat := (a + m - 1) / m

/-- Instance k of a repeated part, `d` being the part's value when nothing is listed. -/
def look {α : Type} (d : α) : Tbl α → Nat → α
  | [], _ => d
  | (i, v) :: t, k => if k = i then v else look d t k

/-- The table without instance k. -/
def del {α : Type} : Tbl α → Nat → Tbl α
  | [], _ => []
  | (i, v) :: t, k => if k = i then del t k else (i, v) :: del t k

/-- The table with instance k listed at its place. -/
def ins {α : Type} : Tbl α → Nat → α → Tbl α
  | [], k, v => [(k, v)]
  | (i, w) :: t, k, v =>
    if k = i then ins t k v
    else if k < i then (k, v) :: (i, w) :: del t k
    else (i, w) :: ins t k v

/-- Set instance k: keys stay strictly rising and no entry equals the default. -/
def put {α : Type} [DecidableEq α] (d : α) (t : Tbl α) (k : Nat) (v : α) : Tbl α := if v = d then del t k else ins t k v

/-- Set consecutive instances k, k + 1, … to the listed values. -/
def putAll {α : Type} [DecidableEq α] (d : α) (t : Tbl α) (k : Nat) : List α → Tbl α
  | [] => t
  | v :: vs => putAll d (put d t k v) (k + 1) vs

/-- The canonical form of a sparse table with default d. -/
def tblWf {α : Type} [DecidableEq α] (d : α) : Tbl α → Bool
  | [] => true
  | (i, v) :: t => decide (v ≠ d) && t.all (fun e => decide (i < e.1)) && tblWf d t

/-- One bit of CRC-32C, reflected (R194). -/
def crcBit (c : Nat) : Nat := if c % 2 = 1 then (c / 2) ^^^ 0x82F63B78 else c / 2

/-- One byte of CRC-32C (R194). -/
def crcByte (c : Nat) (b : Byte) : Nat :=
  let x := c ^^^ b.toNat
  crcBit (crcBit (crcBit (crcBit (crcBit (crcBit (crcBit (crcBit x)))))))

/-- CRC-32C with initial value and final XOR 0xFFFF_FFFF (R194). -/
def crc32c (bs : List Byte) : W32 := BitVec.ofNat 32 (bs.foldl crcByte 0xFFFFFFFF ^^^ 0xFFFFFFFF)

/-- CRC-8 of R569: polynomial 0x07, initial value 0, over the payload bits least significant first. -/
def crc8 (payload : W64) : Byte :=
  BitVec.ofNat 8 ((List.range 64).foldl (fun c i =>
    let fb := (c / 128 % 2 == 1) != bitOf payload i
    ((c * 2) % 256) ^^^ (if fb then 0x07 else 0)) 0)

/-- Whether the number of ones in a value of at most 256 bits is odd (R335, R347). -/
def oddOnes (n : Nat) : Bool :=
  let n := n ^^^ (n >>> 128)
  let n := n ^^^ (n >>> 64)
  let n := n ^^^ (n >>> 32)
  let n := n ^^^ (n >>> 16)
  let n := n ^^^ (n >>> 8)
  let n := n ^^^ (n >>> 4)
  let n := n ^^^ (n >>> 2)
  (n ^^^ (n >>> 1)) % 2 == 1

/-- A number built from fields, the first in the lowest bits: (value, width). -/
def packBits : List (Nat × Nat) → Nat
  | [] => 0
  | (v, w) :: t => v % 2 ^ w + 2 ^ w * packBits t

/-- floor(log2 n), 0 for 0. -/
def log2 (n : Nat) : Nat := Nat.log2 n

/-- The low `w` bits of n read as two's complement. -/
def signed (w n : Nat) : Int :=
  let m := n % 2 ^ w
  if m < 2 ^ (w - 1) then (m : Int) else (m : Int) - (2 ^ w : Nat)

/-- The low `w` bits of an integer. -/
def lowBits (w : Nat) (i : Int) : Nat := (i % ((2 ^ w : Nat) : Int)).toNat

/-- Rotate a u64 left by n mod 64 places (R16). -/
def rotl (x : W64) (n : Nat) : W64 :=
  if n % 64 = 0 then x else (x <<< (n % 64)) ||| (x >>> (64 - n % 64))

end Sys2Proof.Machine
end

