-- ==== Sys2Proof/Machine/State.lean ====
section
/-!
DEFINITION. The state of the Waluc as plain data: every register, queue, store, table and mode the spec
gives the block. A field's initial value is its value at reset (PERST_N low, R567 before time 0; log 2);
sparse tables (`Tbl`) and RAMs list only what differs from the part's reset value.
-/
namespace Sys2Proof.Machine

/-- An addressed store of bytes with one check byte per 64-bit word (R298, R300). `data` maps a byte address
and `chk` a word index (address / 8); unlisted reads as 0, whose check bits are 0 (R312; log 13). -/
structure Ram where
  data : List Host.Cell := []
  chk : List Host.Cell := []
deriving DecidableEq, Repr

/-- A 64-byte line with the check bytes of its eight words. -/
structure Line where
  data : List Byte
  chk : List Byte
deriving DecidableEq, Repr

/-- Messages the block emits, in order: writes to host memory, completions, frames, pins (log 3). -/
inductive Out where
  | hostWrite (addr : W64) (bytes : List Byte)          -- CXL.io posted write (R433)
  | msix (vector : Nat)                                 -- MSI-X table entry sent (R446)
  | msi (message : Nat)                                 -- MSI message sent (R446)
  | completion (bytes : List Byte) (poison : Bool)      -- CXL.io completion to the host (R440)
  | abortCompletion                                     -- Completer Abort (R454) or Unsupported Request (R449)
  | memData (bytes : List Byte) (poison : Bool)         -- CXL.mem MemData
  | memCmp                                              -- CXL.mem Cmp
  | d2h (request : String) (line : Nat)                 -- CXL.cache request of R435
  | snoopRsp (name : String) (bytes : List Byte)        -- CXL.cache response of R436
  | invalCompletion (itag : BitVec 5)                   -- ATS Invalidation Completion (R441)
  | translationRequest (ctx : BitVec 20) (va : W64) (write : Bool)  -- R399
  | pageRequest (ctx : BitVec 20) (va : W64) (faultId : W16)        -- R441
  | dataFrame (link : Nat) (f : DataFrame)              -- Wain DATA frame (R262)
  | controlFrame (link : Nat) (h : FrameHead) (map : BitVec 80) (msgs : List CtrlMsg) (crc : W32)
  | idleFrame (link : Nat) (h : FrameHead) (crc : W32)
  | lanes (link : Nat) (symbols : List (List (BitVec 10)))  -- a frame's symbols on its eight lanes (R261)
  | cropFigures (lUp lDown w : Nat)                     -- what CROP_FORM reports (R245)
  | probeEcho (link index : Nat)                        -- PROBE returned at once (R235)
  | memRead (dpa : Nat)                                 -- patrol or table read issued
  | tally (payload : W64)                               -- frame on TALLY_OUT (R569)
  | epResponse (att : Nat) (tag : BitVec 12) (status : BitVec 4) (lanes : List (Nat × BitVec 128))
      (faultId : W16) (flags : Byte)                    -- engine-port response (R468)
  | epWake (att : Nat) (group : BitVec 30) (faultId : W16) (retry : Bool)
  | epLease (att : Nat) (sheaves : W16) (begins : Bool) (ctx : BitVec 20)
  | epReset (att : Nat)
  | epCredits (att n : Nat)
  | vid (v : Nat)                                       -- VID driven and VID_STB pulsed (R562)
  | wake                                                -- WAKE# or beacon (R450)
  | tdo (word : W32)                                    -- the test data register's word, on TDO (R573)
  | agentData (agent : Nat) (l : LineAddr) (state : String) (data : Option Line)  -- data and state to a requester (R351)
  | agentNack (agent : Nat) (l : LineAddr)
  | agentRefused (agent : Nat) (l : LineAddr) (status : Byte)         -- R303, R304
  | agentDone (agent : Nat) (l : LineAddr)              -- a WRLINE is complete (R351)
  | atomResult (agent : Nat) (old : List (BitVec 128)) (contended poison : Bool)  -- R359; poison: R301
deriving DecidableEq, Repr

/-! ## Boot, straps, Tally, power, test (18) -/

/-- BOOT_STATUS (R574) and what boot loads (R565, R567), straps (R555), Tally (R570), TAP (R573). -/
structure Boot where
  perstLow : Bool := true
  straps : W16 := 0
  step : BitVec 4 := 0
  fail : BitVec 4 := 0
  poolAbsent : Bool := false
  strapRsv : Bool := false
  tallyConflict : Bool := false
  copyB : Bool := false
  tallyAddr : BitVec 10 := 0
  tallyValid : Bool := false
  alert : Bool := false
  thermtrip : Bool := false
  memoryActive : Bool := false
  pllLocked : Bool := false
  fwRunning : Bool := false
  stacksTrained : Bool := false
  fwVersion : W32 := 0
  serial : W64 := 0
  subsysVid : W16 := 0
  subsysId : W16 := 0
  epCachesHi : Byte := 0
  flashAddr : W32 := 0
  flash : List Host.Cell := []
  erased : List Nat := []
  tap : TapOp := .bypass
  debugToken : Bool := false
  tallyDeferred : Option (BitVec 10) := none
deriving DecidableEq, Repr

/-! ## Host link (14) -/

/-- One MSI-X table entry (R578); PCI Express default: address 0, data 0, masked. -/
structure MsixEntry where
  addr : W64 := 0
  data : W32 := 0
  masked : Bool := true
deriving DecidableEq, Repr

/-- Placement region of R443. -/
structure PlaceRegion where
  key : W16
  context : BitVec 20
  base : Nat
  length : Nat
  wr : Bool
deriving DecidableEq, Repr

/-- What an outstanding host request is (R437, R447). -/
inductive HostReqKind where
  | cacheRead (l : LineAddr) (own : Bool) | cacheWrite (line : Nat) (data : List Byte) (mask : W64) | walk (ctx : BitVec 20) (page : Nat)
deriving DecidableEq, Repr

/-- An outstanding host request and who waits for it. -/
structure HostReq where
  tag : Nat
  kind : HostReqKind
  context : BitVec 20
  who : Requester
deriving DecidableEq, Repr

/-- Host-link registers and configuration-space fields (R427 to R462). -/
structure HostLink where
  cfg : W32 := 0x0000000A
  linkUp : Bool := false
  cxlActive : Bool := false
  cxlVer : BitVec 2 := 0
  flit256 : Bool := false
  rate : Byte := 0
  width : BitVec 7 := 0
  modules : BitVec 3 := 0
  frozen : Bool := false
  d3hot : Bool := false
  gated : Bool := false
  contain : W32 := 0
  hatchBase : W64 := 0
  err : W64 := 0
  placeLog : W64 := 0
  ptmHost : W64 := 0
  ptmTick : W64 := 0
  holdHost : Tbl (Option W32) := []
  holdTally : Tbl (Option W32) := []
  msixTable : Tbl MsixEntry := []
  pba : List Nat := []
  msixControl : W16 := 0x07FF
  msiControl : W16 := 0x018A
  msiMask : W32 := 0
  devCtl2 : W16 := 0
  pmcsr : W16 := 0x0008
  ptmControl : W32 := 0
  aerSeverity : W32 := 0x00462030
  aerStatus : W32 := 0
  bar0 : W64 := 0
  bar2 : W64 := 0
  bar4 : W64 := 0
  hdmBase : W64 := 0
  hdmControl : W32 := 0
  hdmCommitted : Bool := false
  heldWrites : List Out := []
  hostReqs : List HostReq := []
  regions : List PlaceRegion := []
deriving DecidableEq, Repr

/-! ## Granger: Windrows (16) -/

/-- A completed command's reply before it is written (R496). -/
structure ReplyRec where
  seq : W32
  detail : W32
  time : W32
  status : Byte
  flags : Byte
  info : Byte
  signal : Bool
deriving DecidableEq, Repr

/-- A packet that passed checks 1 and 2 (R493): its 64 bytes (Moldo packets expanded, R519). -/
structure Packet where
  seq : W32
  bytes : List Byte
deriving DecidableEq, Repr

/-- A command in progress (R502): its SEQ, its decoded command, and the tick at which it started. -/
structure InProg where
  seq : W32
  cmd : Instr
  start : Nat
deriving DecidableEq, Repr

/-- Registers and queues of one Windrow (R487 to R506, R520, R521); `serial` is the SEQ of the last serialising command or FENCE it has started
(R503, R510). -/
structure Windrow where
  cfg : W64 := 0x0000000000000600
  base : W64 := 0
  replyBase : W64 := 0
  replyHead : W32 := 0
  replyTail : W32 := 0
  head : W32 := 0
  tail : W32 := 0
  halted : Bool := false
  resident : Bool := false
  faultHeld : Bool := false
  rereading : Bool := false
  rereads : Nat := 0
  accepted : List Packet := []
  inprog : List InProg := []
  replies : List ReplyRec := []
  lastSeq : W32 := 0
  lastStatus : Byte := 0
  serial : Option W32 := none
  idleSince : Nat := 0
  waitSince : Nat := 0
  targetLost : Bool := false
deriving DecidableEq, Repr

/-- The run a PLAN_RUN or PLAN_RESUME started (R224): where its reply goes. -/
structure RunReq where
  windrow : Nat
  seq : W32
  context : BitVec 20
  irq : Bool
  start : Nat
deriving DecidableEq, Repr

/-- Granger's scheduler (R501, R502) and GRG_ERR (R522). -/
structure Granger where
  windrows : Tbl Windrow := []
  active : List Nat := []
  admission : List Nat := []
  turn : Nat := 0
  lastServed : Tbl Nat := []
  err : W64 := 0
deriving DecidableEq, Repr

/-! ## Contexts and translation (13) -/

/-- STATE of R383. -/
inductive CtxState where
  | unbound | active | blocked
deriving DecidableEq, Repr

/-- Context table entry of R382. -/
structure Ctx where
  state : CtxState := .unbound
  segment : Bool := false
  levels5 : Bool := false
  adUpdate : Bool := false
  segslot : W16 := 0
  ptRoot : W64 := 0
  faults : W32 := 0
  refusals : W32 := 0
  lastAddr : W64 := 0
deriving DecidableEq, Repr

/-- Region type of R371. -/
inductive RegionType where
  | wb | stream | strict
deriving DecidableEq, Repr

/-- Segment entry of R388. -/
structure Seg where
  valid : Bool := false
  rd : Bool := false
  wr : Bool := false
  type : BitVec 2 := 0
  base : Nat := 0
  limit : Nat := 0
deriving DecidableEq, Repr

/-- TLB entry of R400: `pages` pages of 2^shift bytes from `va`, mapped from `dpa` upward. -/
structure TlbEntry where
  ctx : BitVec 20
  va : Nat
  shift : Nat
  pages : Nat
  dpa : Nat
  type : RegionType
  write : Bool
  dirty : Bool
deriving DecidableEq, Repr

/-- A miss entry (R402): who waits and with which access, whether its walk has been marked stale (R406, R407), and, while its fault finds the
pending table full and waits at its walker, the reason and level (R411). -/
structure Miss where
  tlb : Nat
  ctx : BitVec 20
  va : Nat
  access : AccessKind
  waiters : List (Requester × AccessKind)
  stale : Bool
  walking : Bool
  stopped : Option (Byte × Nat) := none
deriving DecidableEq, Repr

/-- A pending fault (R411, R412, R414). -/
structure Fault1 where
  ctx : BitVec 20
  page : Nat
  va : W64
  access : AccessKind
  reason : Byte
  level : Nat
  gen : BitVec 4
  recorded : Bool
  maker : Requester
  waiters : List Requester
deriving DecidableEq, Repr

/-- Where an invalidation's completion goes (R404, R406). -/
inductive InvalFor where
  | ats (itag : BitVec 5)
  | command (windrow : Nat) (seq : W32)
  | internal
deriving DecidableEq, Repr

/-- An invalidation awaiting the conditions of R406. -/
structure Inval where
  ctx : Option (BitVec 20)
  lo : Nat
  hi : Nat
  dest : InvalFor
deriving DecidableEq, Repr

/-- Translation unit: contexts (R382), segments (R390), TLBs (R400), misses (R402), faults (R411), the ring
(R413) and the registers of R419 to R422. `micro` 0 to 3 are the Ricks', 4 to 7 the attachments'; `held` are the misses of BLOCKED contexts and
of faults that wait for an invalidation (R414, R418); `once` are translations that serve one access and fill no entry (R399). -/
structure Trans where
  ctxs : Tbl Ctx := []
  segs : Tbl (Tbl Seg) := []
  shared : List TlbEntry := []
  micro : Tbl (List TlbEntry) := []
  misses : List Miss := []
  faults : Tbl (Option Fault1) := []
  gens : Tbl (Option (BitVec 4)) := []
  unrecorded : List Nat := []
  held : List Miss := []
  once : List (Requester × TlbEntry) := []
  invals : List Inval := []
  cfg : W32 := 0x27100000
  frBase : W64 := 0
  frHead : W32 := 0
  frTail : W32 := 0
  overflow : W16 := 0
  stat : W64 := 0
  desc0 : W64 := 0
  desc1 : W64 := 0
  lastSignal : Option Nat := none
deriving DecidableEq, Repr

/-! ## Caches and coherence (11, 12) -/

/-- State of a line at an agent (R346). -/
inductive Coh where
  | modified | exclusive | shared | forward | invalid
deriving DecidableEq, Repr

/-- What a tag entry holds (R321, R327, R335): for a Bin or engine-port cache `coh` and `ctx`, for the Granary
`dirty`, and in `coh` the state in which the host's home agent has granted a host line (R435, R436). -/
structure Tag where
  valid : Bool := false
  space : Nat := 0
  line : Nat := 0
  dirty : Bool := false
  coh : Coh := .invalid
  age : Nat := 0
  ctx : BitVec 20 := 0
deriving DecidableEq, Repr

/-- A cache way (R319): its tag entry, the entry's second copy `twin` and the parity bit of each copy (R335), whether the
line entered as a streaming fill (R332), and the line. -/
structure Way extends Tag where
  twin : Tag := {}
  par0 : Bool := false
  par1 : Bool := false
  stream : Bool := false
  content : Line := ⟨[], []⟩
deriving DecidableEq, Repr

/-- Directory STATE of R347. -/
inductive DirState where
  | uncached | excl | shared
deriving DecidableEq, Repr

/-- Fields of a directory entry (R347): `owner` is 15 when no agent holds F; `ptrs` are the valid pointers. -/
structure DirCopy where
  state : DirState := .uncached
  owner : Nat := 15
  ptrs : List Nat := []
  ovf : Bool := false
  busy : Bool := false
  age : Nat := 0
  space : Nat := 0
  line : Nat := 0
deriving DecidableEq, Repr

/-- A directory entry: its fields, their second copy `twin` and the PARITY bit of each copy (R347). -/
structure DirEntry extends DirCopy where
  twin : DirCopy := {}
  par0 : Bool := false
  par1 : Bool := false
deriving DecidableEq, Repr

/-- Requests of R350. -/
inductive ReqKind where
  | rds | rdo | upg | rdcur | wrline | atom
deriving DecidableEq, Repr

/-- Snoops of R351. -/
inductive SnoopKind where
  | fwdS | fwdI | inv | invD | cur
deriving DecidableEq, Repr

/-- A snoop on its way to a holder, or, once `done`, its answer on its way to the home (R351). -/
structure Snoop where
  holder : Nat
  line : LineAddr
  kind : SnoopKind
  done : Bool := false
  content : Option Line := none
  dirty : Bool := false
deriving DecidableEq, Repr

/-- A request at its home: who asks, for what, and what it carries (R350). -/
structure HomeReq where
  agent : Nat
  line : LineAddr
  req : ReqKind
  info : ReqInfo
  data : List Byte
  mask : W64
  args : AtomArgs
deriving DecidableEq, Repr

/-- A transaction for which its line is BUSY (R351, R354): the holders whose answers it awaits, the data a holder
forwarded, whether that copy was dirty, whether the request took its agent's reserved queue entry (R355). -/
structure Txn where
  req : HomeReq
  awaiting : List Nat
  content : Option Line
  dirtySeen : Bool
  held : Bool
  reserved : Bool
deriving DecidableEq, Repr

/-- A NACKed request, its count on the line and the order of its first NACK (R354 to R356). -/
structure Nack where
  req : HomeReq
  count : Nat
  first : Nat
deriving DecidableEq, Repr

/-- How a fill was asked for (R327): the age it inserts at. -/
inductive FillHow where
  | demand | prefetch | pref | streaming
deriving DecidableEq, Repr

/-- A fill entry (R322, R323): cache 0-3 Bins, 4-11 engine-port caches, 12 Granary. `waiters` are the requests
that joined at a slice, `kept` the agents among them whose request holds its agent's reserved queue entry (R355); `granted` is
the state and data the home has sent to an agent's entry, `req` what that entry asks for, `asked` whether a demand request waits
on it. Misses past the 64th of their cache wait in the list for an entry to free. -/
structure Fill where
  cache : Nat
  line : LineAddr
  waiters : List HomeReq := []
  how : FillHow
  ctx : BitVec 20
  granted : Option (Coh × Line) := none
  kept : List Nat := []
  req : ReqKind := .rds
  asked : Bool := false
deriving DecidableEq, Repr

/-- A write detector (R325): cache 0-3 Bins, 12 the Granary front; `writer` is a unit's number, or an agent's above 64. -/
structure Detector where
  cache : Nat
  writer : Nat
  line : LineAddr
  count : Nat
  used : Nat
deriving DecidableEq, Repr

/-- A prefetch stream (R329): the last line its requester touched, its stride (0 before the second miss), whether
two consecutive misses confirmed it, its predicted accesses, the furthest line fetched ahead, and when it last matched. A
stream's number is its place among its cache's streams. -/
structure PrefStream where
  cache : Nat
  port : Nat
  last : LineAddr
  stride : Int
  confirmed : Bool
  predicted : Nat
  ahead : Nat
  matched : Nat
deriving DecidableEq, Repr

/-- A store-buffer entry (R366): `asked` is its address as carried (R382); mask bit i covers byte i; `release` holds a RELEASE; `strict` a
DEVICE-STRICT store; `closed` after a RELEASE, fence or strict access. -/
structure SbEntry where
  line : LineAddr
  data : List Byte
  mask : W64
  asked : Nat
  ctx : BitVec 20
  release : Bool
  strict : Bool
  streamType : Bool
  closed : Bool
deriving DecidableEq, Repr

/-- Caches, Loft, directory and coherence state; registers of R342 to R344, R379, R380. -/
structure Caches where
  granary : Tbl (List Way) := []
  bins : Tbl (List Way) := []
  epcs : Tbl (List Way) := []
  dir : Tbl (List DirEntry) := []
  loftDir : Tbl DirEntry := []
  txns : List Txn := []
  snoops : List Snoop := []
  nacks : List Nack := []
  fills : List Fill := []
  detectors : List Detector := []
  streams : List PrefStream := []
  pred : Tbl Nat := []
  recent : List (LineAddr × Nat × Nat) := []
  sbufs : Tbl (List SbEntry) := []
  loft : Ram := {}
  loftWays : Nat := 0
  loftBusy : Bool := false
  loftOwner : Tbl W32 := []
  cfg : W32 := 0x00003007
  err : W64 := 0
  cohCfg : W32 := 0
  cohStat : W64 := 0
deriving DecidableEq, Repr

/-! ## Stacked memory (10) -/

/-- A stack port (R289, R314). -/
structure Port where
  kind : BitVec 2 := 0
  up : Bool := false
  hot : Bool := false
  capGib : Byte := 0
  rate : Byte := 0
deriving DecidableEq, Repr

/-- A corrective write-back waiting (R311): word index, corrected data, check bits. -/
structure Corr where
  word : Nat
  data : W64
  chk : Byte
deriving DecidableEq, Repr

/-- The pool and its controllers (R289 to R316). -/
structure Pool where
  ram : Ram := {}
  poolGib : BitVec 11 := 0
  mixed : Bool := false
  rsvGran : BitVec 10 := 0
  ports : Tbl Port := []
  err : Tbl W64 := []
  owner : Tbl W32 := []
  ownerRefuse : W32 := 0
  gleanCfg : W32 := 0x00000118
  gleanStatus : W32 := 0
  gleanPos : Tbl Nat := []
  gleanStart : Nat := 0
  corr : List Corr := []
deriving DecidableEq, Repr

/-! ## Error bank (17) -/

/-- Error record of R526; `flags` bit 0 REPLAY, 1 ESCALATED, 2 PREEMPTED. -/
structure ErrRec where
  tick : W64
  epoch : W32
  cls : Byte
  source : Byte
  inst : W16
  address : W64
  context : BitVec 20
  position : BitVec 10
  detail : W16
  slot : Byte
  flags : Byte
deriving DecidableEq, Repr

/-- Error bank of R527 to R529 and R553: the rings keep at most 32,768 records, oldest first. -/
structure ErrBank where
  first : Option ErrRec := none
  next : Option ErrRec := none
  firstValid : Bool := false
  nextValid : Bool := false
  restarts : Nat := 0
  replaying : Bool := false
  reported : List ErrRec := []      -- errors this member has reported in its run, oldest first (R533)
  count : W64 := 0
  counts : Tbl W32 := []
  ring : List ErrRec := []
  errWrites : W32 := 0
  gleanRing : List ErrRec := []
  gleanWrites : W32 := 0
deriving DecidableEq, Repr

/-! ## Plans (07) -/

/-- POSITION entry of R196. -/
structure PosEntry where
  stage : Nat
  tillerTab : Nat
  tickFirst : Nat
  tickCount : Nat
  linkMask : Nat
  sheafMask : Nat
deriving DecidableEq, Repr

/-- TILLER entry of R197. -/
structure TillerEntry where
  prog : Nat
  ninstr : Nat
  ndesc : Nat
  desc : Nat
deriving DecidableEq, Repr

/-- STAGE entry of R198. -/
structure StageEntry where
  firstLayer : Nat
  nlayer : Nat
  firstStep : Nat
  nsteps : Nat
deriving DecidableEq, Repr

/-- STEP entry of R199. -/
structure StepEntry where
  seed : W64
  stage : Nat
  layer : Nat
  rowsPerPass : Nat
  firstEpoch : Nat
  lastEpoch : Nat
deriving DecidableEq, Repr

/-- TENSOR entry of R200. -/
structure TensorEntry where
  tensor : Nat
  fmt : Nat
  sch : Nat
  outw : Nat
  arena : Nat
  elemBase : Nat
  elemPitch : Nat
  scaleBase : Nat
  scalePitch : Nat
  rows : Nat
  rowlen : Nat
deriving DecidableEq, Repr

/-- ARENA entry of R202. -/
structure ArenaEntry where
  position : Nat
  kind : Nat
  space : Nat
  publish : Bool
  size : Nat
deriving DecidableEq, Repr

/-- RELOC entry of R204. -/
structure RelocEntry where
  position : Nat
  tiller : Nat
  entry : Nat
  field : Nat
  mode : Nat
  arena : Nat
deriving DecidableEq, Repr

/-- LINK entry of R210. -/
structure LinkEntry where
  posA : Nat
  linkA : Nat
  posB : Nat
  linkB : Nat
  rate : Nat
deriving DecidableEq, Repr

/-- XFER entry of R211. -/
structure XferEntry where
  srcPos : Nat
  srcLink : Nat
  pairing : Nat
  seq : Nat
  bytes : Nat
  epoch : Nat
  nepoch : Nat
  sendTick : Nat
  releaseTick : Nat
deriving DecidableEq, Repr

/-- TICK entry of R212. -/
structure TickEntry where
  step : Nat
  tiller : Nat
  kind : Nat
  epoch : Nat
  nepoch : Nat
  tick : Nat
deriving DecidableEq, Repr

/-- LEASE entry of R214. -/
structure LeaseEntry where
  position : Nat
  sheaves : Nat
  attach : Nat
  epochFirst : Nat
  epochLast : Nat
deriving DecidableEq, Repr

/-- A node set that the plan's programs place in an arena (R124, R125): where it lies, and its range. -/
structure PlanSet where
  arena : Nat
  mode : Nat
  offset : Nat
  lo : Nat
  hi : Nat
deriving DecidableEq, Repr

/-- The retained copy of a plan (R220): header, tables, and the programs and descriptor blocks of the own
position, Tiller by Tiller; `sets` are the node sets that the programs of all positions form (R127). -/
structure Plan where
  flags : W32
  imageSize : Nat
  npos : Nat
  nstep : Nat
  el : Nat
  loftWays : Nat
  margin : Nat
  linkBudget : Nat
  crc : W32
  planId : BitVec 128
  doneArena : Nat
  doneOffset : Nat
  positions : List PosEntry
  tillers : List TillerEntry
  stages : List StageEntry
  steps : List StepEntry
  tensors : List TensorEntry
  arenas : List ArenaEntry
  relocs : List RelocEntry
  links : List LinkEntry
  xfers : List XferEntry
  ticks : List TickEntry
  leases : List LeaseEntry
  progs : List (List W64)
  descs : List (List (List Byte))
  sets : List PlanSet
deriving DecidableEq, Repr

/-- Slot states of R216. -/
inductive SlotState where
  | empty | loaded | bound | running | stopping | stopped | held | done | failed
deriving DecidableEq, Repr

/-- Run-time step record of R209. -/
structure StepRec where
  flags : Byte := 0
  vanish : W32 := 0
  epochLast : W32 := 0
deriving DecidableEq, Repr

/-- Run state of a Tiller: executing; waiting at a TWAIT for an epoch tick (R163), at a WAITS (R165), at an
ISSUE for a queue entry (R176), at an EBAR (R169); halted (R171) or stopped by a decision (R531). -/
inductive TillerMode where
  | idle | run | waitTick (target : Nat) | waitSignal | waitQueue | barrier | halted
deriving DecidableEq, Repr

/-- An address generator (R157, R172): its descriptor and four positions. -/
structure Agen where
  desc : List Byte
  p0 : Nat := 0
  p1 : Nat := 0
  p2 : Nat := 0
  p3 : Nat := 0
deriving DecidableEq, Repr

/-- The Tiller record of R170. -/
structure TillerRec where
  pc : Nat
  loops : List (Nat × Nat)
  ags : Tbl (Option Agen)
  step : Nat
  mode : TillerMode
deriving DecidableEq, Repr

/-- A Seedcorn record (R208, R209): the epoch, the Tiller records, the LOAD and PASS counts of each Sheaf
(log 23), and the step records gathered at its barrier. -/
structure SeedRec where
  epoch : W64
  tillers : List TillerRec
  counts : List (Nat × Nat)
  steps : List StepRec
deriving DecidableEq, Repr

/-- What COUNTERS_READ WHAT 1 returns (R518): epoch, global tick, slip counters, Sheaf hold counters. -/
structure Counters where
  epoch : W64 := 0
  tick : W64 := 0
  slips : List W32 := []
  holds : List W32 := []
deriving DecidableEq, Repr

/-- What the record written at a decided barrier replaced, until the barrier releases (R247 steps 1 and 2, R251, R530). -/
structure PendRec where
  newest : Option SeedRec
  older : Option SeedRec
  seedValid : Bool
  steps : List StepRec
  counters : Counters
deriving DecidableEq, Repr

/-- A plan slot (R216, R217, R588): `isolated` says that its run ended under R536 or R534, `twoEpochs` that its OUT copies hold the
next epoch too. -/
structure Slot where
  state : SlotState := .empty
  seedValid : Bool := false
  lastStatus : Byte := 0
  context : BitVec 20 := 0
  position : Nat := 0
  plan : Option Plan := none
  binds : List Nat := []
  bindCrc : W32 := 0
  orderV1 : Bool := false
  cropId : W32 := 0
  table : List Nat := []
  before : SlotState := .loaded
  provisional : Bool := false
  epoch : W64 := 0
  replays : Nat := 0
  replans : Nat := 0
  steps : List StepRec := []
  newest : Option SeedRec := none
  older : Option SeedRec := none
  pend : Option PendRec := none
  counters : Counters := {}
  isolated : Bool := false
  twoEpochs : Bool := false
  run : Option RunReq := none
  forming : Option RunReq := none
deriving DecidableEq, Repr

/-! ## Tillers and units (06, 04, 05) -/

/-- Tiller state of R157 with its stores of R158. `incoming` holds the additions of the current A-cycle,
visible from the next (R166); `nextTick` is the first tick at which the next instruction executes (R161); `progChk` and `descChk` are
the check bytes of the words of both stores (R158). -/
structure Tiller where
  pc : Nat := 0
  loops : List (Nat × Nat) := []
  ags : Tbl (Option Agen) := []
  sc : Tbl Nat := []
  incoming : Tbl Nat := []
  step : Nat := 0
  prevTarget : Nat := 0
  slip : W32 := 0
  mode : TillerMode := .idle
  nextTick : Nat := 0
  prog : List W64 := []
  progChk : List Byte := []
  descs : List (List Byte) := []
  descChk : List (List Byte) := []
deriving DecidableEq, Repr

/-- An issued sub-operation (R175, R176) with the generators its ISSUE drew on and the step index current at
its ISSUE (R168). -/
structure SubOp where
  tiller : Nat
  word : W64
  step : Nat
  issued : Nat
  ags : List Agen
deriving DecidableEq, Repr

/-- A sub-operation begun and not yet complete: `doneTick` is the tick of its last effect (R177) once that is known, no
earlier than `earliest`; `placed` counts the lines a receive has written (R272). -/
structure Begun where
  op : SubOp
  doneTick : Option Nat
  earliest : Nat
  placed : Nat
deriving DecidableEq, Repr

/-- A unit's queue of at most 4 (R176) and its begun sub-operations, oldest first; `lastBegin` is the first tick at which
the `freed` entries of the tick before it can be used; until `freeTick` the unit is occupied (R123, R185). -/
structure SubUnit where
  queue : List SubOp := []
  begun : List Begun := []
  lastBegin : Nat := 0
  freed : Nat := 0
  freeTick : Nat := 0
deriving DecidableEq, Repr

/-- Weights of one output column of a tile: element codes along K, and its scale and offset bytes (R95, R96). -/
structure WeightRow where
  codes : List Nat
  scales : List Byte
  offsets : List Byte
deriving DecidableEq, Repr

/-- A weight buffer (R93 to R96): one row per output column, none standing for zeros; element k of element c of `parity` is the parity
bit of the weight register of cell (k, c), none standing for 0 (R114). `begun` is the tick at which its first column began to load, `freed` and `freedStep`
say when column c was free: c steps after `freed` (R104). -/
structure Tile where
  fmt : Nat := 0
  sch : Nat := 0
  lanes : Nat := 1
  kblk : Nat := 0
  len : Nat := 256
  rows : List WeightRow := []
  parity : List (List Bool) := []
  begun : Nat := 0
  freed : Nat := 0
  freedStep : Nat := 0
deriving DecidableEq, Repr

/-- An open accumulator region (R107, R109, R182): descriptor fields, push counter, and the flags raised in forming it under plan step
`step`. `passEnd` is the tick at which the last node of its passes is written, `chained` says that its stacks started from the running
values of the earlier K-blocks (R86). -/
structure Region where
  rbase : Nat
  acc : Nat
  depth : Nat
  ecount : Nat
  lo : Nat
  nblk : Nat
  sigt : Nat
  sigc : Nat
  finish : Bool
  pushes : Nat
  finished : Bool
  flags : Byte
  step : Nat
  voids : List Nat
  passEnd : Nat := 0
  chained : Bool := false
deriving DecidableEq, Repr

/-- An engine-port lease of a Sheaf (R20, R478): attachment, context, whether a plan lease, and whether the
clear has completed and LEASE has been sent. -/
structure Lease where
  att : Nat
  context : BitVec 20
  byPlan : Bool
  begun : Bool
deriving DecidableEq, Repr

/-- A Sheaf: accumulator store (R106), weight buffers (R95), LOAD and PASS counts (R180), regions, when column 0 of each buffer is free
and the step of the pass that used it (R104), hold counter (R117), lease, and the port region of GM_PASS with the flags of its rows and the loads and passes of the lease (R474 to R477). -/
structure Sheaf where
  store : Ram := {}
  buf0 : Tile := {}
  buf1 : Tile := {}
  loads : Nat := 0
  passes : Nat := 0
  regions : List Region := []
  hold : W32 := 0
  lease : Option Lease := none
  portRegion : Option Region := none
  freeAt0 : Nat := 0
  freeAt1 : Nat := 0
  freeStep0 : Nat := 0
  freeStep1 : Nat := 0
  portFree : Nat := 0
  fillFree : Nat := 0
  gmLoads : Nat := 0
  gmPasses : Nat := 0
  portFlags : Tbl Byte := []
deriving DecidableEq, Repr

/-- A reduction in progress (R184): descriptor fields, next LO expected, and its flag byte (R128). The stack
values lie in the Loft at WORK; levels and indices follow from the range pushed (R109). -/
structure Reduction where
  rick : Nat
  red : Nat
  tensor : Nat
  elem0 : Nat
  ecount : Nat
  acc : Nat
  kind : Nat
  depth : Nat
  work : Nat
  nlo : Nat
  nhi : Nat
  next : Nat
  flags : Byte
deriving DecidableEq, Repr

/-! ## Wain links (09) -/

/-- Link states of R281. -/
inductive LinkState where
  | down | training | up | recovery | lost
deriving DecidableEq, Repr

/-- What a frame carries besides its header (R263). -/
inductive FrameBody where
  | data (vc : BitVec 2) (lines : List (List Byte))
  | control (msgs : List CtrlMsg)
  | idle
deriving DecidableEq, Repr

/-- A sent frame kept for resending (R266), with the credits it carries. -/
structure SentFrame where
  seq : Byte
  cred0 : Nat
  cred1 : Nat
  cred2 : Nat
  body : FrameBody
deriving DecidableEq, Repr

/-- One end of a Wain link (R261 to R288); `resync` says that the first frame to pass its check after relock decides where to
resend from (R285), `rt` is RT of R235 in half root cycles, `sentSeq` counts the transfers begun in the epoch, `recvSeq` and `xrecvSeq`
those of each pairing received (SEQ of R211). -/
structure WainLink where
  state : LinkState := .down
  rate : Bool := false
  peerHeld : Bool := false
  localHeld : Bool := false
  peerLink : BitVec 5 := 0
  peerTally : BitVec 10 := 0
  peerIdent : Option IdentMsg := none
  err : W64 := 0
  txSeq : Byte := 0
  rxSeq : Byte := 255
  nakDue : Bool := false
  lastNak : Option Byte := none
  badFrames : Nat := 0
  resync : Bool := false
  replay : List SentFrame := []
  resend : List SentFrame := []
  ctrl : List CtrlMsg := []
  inbox : List CtrlMsg := []
  tx0 : List (List Byte) := []
  tx1 : List (List Byte) := []
  tx2 : List (List Byte) := []
  rx0 : List (List Byte) := []
  rx1 : List (List Byte) := []
  rx2 : List (List Byte) := []
  own0 : Nat := 16
  own1 : Nat := 16
  own2 : Nat := 16
  sharedCred : Nat := 2000
  ret0 : Nat := 0
  ret1 : Nat := 0
  ret2 : Nat := 0
  lastVc : Nat := 0
  rtSamples : List Nat := []
  rt : Nat := 0
  leaveLeft : Nat := 0
  lastXsend : Bool := false
  sentSeq : Nat := 0
  recvSeq : Nat := 0
  xrecvSeq : Nat := 0
deriving DecidableEq, Repr

/-- An outstanding remote request of this chip (R277, R280); `asked` is its address as carried (R382). -/
structure RemoteReq where
  tag : Nat
  record : RemoteRec
  link : Nat
  who : Requester
  asked : Nat
deriving DecidableEq, Repr

/-- What the remote requests of one requester have brought (R276 to R280): lines read, by DPA / 64, lines whose WRITE
has left, and the status of the first request that failed. -/
structure RemoteTask where
  who : Requester
  got : List (Nat × Line) := []
  sent : List Nat := []
  failed : Option Byte := none
deriving DecidableEq, Repr

/-- Wain registers (R286), links, and remote requests and responses (R276 to R280). -/
structure Wain where
  cfg : W32 := 0x003C0032
  links : Tbl WainLink := []
  remote : List RemoteReq := []
  routes : Tbl (Option Nat) := []
  tasks : List RemoteTask := []
deriving DecidableEq, Repr

/-! ## Engine port (15) -/

/-- A waiting or running asynchronous copy (R479, R480); `counter` is its Loft offset, `ended` how its transfer ended. -/
structure AcopyJob where
  att : Nat
  context : BitVec 20
  src : W64
  dst : W64
  bytes : Nat
  counter : Nat
  engine : Option Nat
  ended : Option Bool := none
deriving DecidableEq, Repr

/-- A request an attachment has accepted at tick `since` and not answered; `sheaf` is the Sheaf a GM request names, `due` the tick at
which a load, or a pass, that has begun is complete. -/
structure OutReq where
  tag : BitVec 12
  group : BitVec 30
  sheaf : Option Nat
  since : Nat := 0
  due : Option Nat := none
  pass : Bool := false
deriving DecidableEq, Repr

/-- A group parked on a fault (R481). -/
structure FaultedGroup where
  group : BitVec 30
  faultId : W16
deriving DecidableEq, Repr

/-- An attachment (R463 to R486): requests not yet answered in arrival order, parked groups, groups that hold a store
buffer, groups that have lost a store to a timeout (R370). -/
structure Attach where
  credits : Nat := 64
  outstanding : List OutReq := []
  faulted : List FaultedGroup := []
  groups : List (BitVec 30) := []
  lost : List (BitVec 30) := []
  arriveBase : W64 := 0
  err : W64 := 0
deriving DecidableEq, Repr

/-- The engine port. -/
structure EnginePort where
  atts : Tbl Attach := []
  copies : List AcopyJob := []
deriving DecidableEq, Repr

/-! ## Crop (08, 17) -/

/-- Which barrier a member is in (R242, R247, R531). -/
inductive BarrierPhase where
  | none
  | start            -- waiting in the start barrier
  | epoch            -- waiting in an epoch barrier
  | decided          -- DECIDE RELEASE received, T known
  | replayDrain      -- DECIDE REPLAY received, draining
  | replayDecided    -- second DECIDE received, T known
  | resettle         -- root change or re-alignment before the second round
  | complete         -- DECIDE COMPLETE received
deriving DecidableEq, Repr

/-- Formation progress at this member (R230 to R233): its command, its own check code, the check results known here, whether
the root has settled on them, whether its counter is aligned, the bindings reported, whether it waits for the root's ABORT. -/
structure Forming where
  active : Bool := false
  isRoot : Bool := false
  further : Bool := false
  slot : Nat := 0
  cropId : W32 := 0
  nmember : Nat := 0
  table : List Nat := []
  startTo : Nat := 0
  code : Nat := 0
  joins : List JoinMsg := []
  settled : Bool := false
  aligned : Bool := false
  bound : List Nat := []
  aborting : Bool := false
  req : Option RunReq := none
deriving DecidableEq, Repr

/-- Why a run is ending while its accesses drain: a DECIDE, or the isolation of R536. -/
inductive RunEnding where
  | decided (m : DecideMsg)
  | isolated
deriving DecidableEq, Repr

/-- The Crop record of R253, the timing tree (R238), formation, barrier and run state of this member. `children` are the links to
its children, `farLate` the excesses of R237 on links that do not end here, `waitTime` a TIME that waits for the new round trip, with this chip's
time base at its receipt, both in quarters of a root cycle; `attempts` counts abandoned start barriers, `reports` holds the STOP
messages of the root's own making until they are taken up (R531, R587); `stops` the PLAN_STOP commands of this chip that wait, each with
whether its mode is NOW, `ending` is what ends the run
once its accesses have drained. -/
structure Crop where
  member : Bool := false
  cropId : W32 := 0
  rootTally : W16 := 0
  nmember : W16 := 0
  depth : Byte := 0
  myDepth : Byte := 0
  parentLink : Byte := 0
  lUp : W32 := 0
  lDown : W32 := 0
  lateLinks : W32 := 0
  worstExcess : W32 := 0
  driftEvents : W32 := 0
  remeasures : W32 := 0
  startCtb : W64 := 0
  startTo : Nat := 10000
  children : List Nat := []
  forming : Forming := {}
  phase : BarrierPhase := .none
  startBarrier : Bool := false
  replayBarrier : Bool := false
  arrived : List (Nat × ArriveMsg) := []
  selfArrive : Option ArriveMsg := none
  attempts : Nat := 0
  release : W64 := 0
  nextEpoch : W64 := 0
  nextRootPct : Nat := 100
  realigned : Bool := false
  waitTime : Option (Nat × Nat) := none
  farLate : List Nat := []
  settled : Bool := true
  lastRelease : W64 := 0
  stopAgreed : Bool := false
  stops : List (CmdHdr × Bool) := []
  drift : Bool := false
  ending : Option RunEnding := none
  acc : Tbl StepRec := []
  completions : List (Nat × Bool) := []
  stage : Nat := 0
  replaySeen : List (Nat × Nat) := []
  reports : List StopMsg := []
deriving DecidableEq, Repr

/-! ## Margin (17) -/

/-- Ripeness and the margin policy (R545 to R551, R562). -/
structure Margin where
  vddMv : Nat := 0
  vddCeil : Nat := 0
  vddBoot : Nat := 0
  fmin : Nat := 0
  fmax : Nat := 0
  enable : Bool := false
  pendingPolicy : Option (Nat × Nat × Nat × Bool) := none
  lastReq : Nat := 0
  vsteps : W32 := 0
  fsteps : W32 := 0
  relaxRun : W32 := 0
  worst : W32 := 65535
  slack : Tbl Nat := []
  critical : Bool := false
  epochsSinceStep : Nat := 16
  vid : Nat := 0
  vidAckHigh : Bool := true
  atCeiling : Bool := false
  stepWanted : Option Bool := none
deriving DecidableEq, Repr

/-! ## The whole block -/

/-- The state of the block. `pending` is the queue of commands that wait, first in first out; `wall` is wall-clock time (R8); the Crop time base is
`ctb` root cycles and `ctbQuarter` quarters of one, and `stretch` root cycles lengthen the next A-cycle (R239). -/
structure State where
  pending : List Instr := []
  out : List Out := []
  freeCtr : Nat := 0
  tick : Nat := 0
  wall : Nat := 0
  ctb : W64 := 0
  ctbQuarter : Nat := 0
  stretch : Nat := 0
  globalTick : W64 := 0
  counting : Bool := false
  epochStart : Nat := 0
  rootPct : Nat := 100
  boot : Boot := {}
  hl : HostLink := {}
  hostMem : Ram := {}
  grg : Granger := {}
  tr : Trans := {}
  cache : Caches := {}
  mem : Pool := {}
  err : ErrBank := {}
  slots : Tbl Slot := []
  tillers : Tbl Tiller := []
  units : Tbl SubUnit := []
  sheaves : Tbl Sheaf := []
  reds : List Reduction := []
  wain : Wain := {}
  ep : EnginePort := {}
  crop : Crop := {}
  margin : Margin := {}
deriving DecidableEq, Repr

/-- Why a command stops the machine. No rule of the spec stops it (INVENTORY, Faults), so nothing raises one. -/
inductive Fault where
deriving DecidableEq, Repr

/-- Why the model gives a command no meaning. -/
inductive Refusal where
  /-- A row of the table without its meaning yet, by its mnemonic (safe: it only stops). -/
  | notModelled (mnemonic : String)
deriving DecidableEq, Repr

/-- The block right after a fundamental reset has been entered: PERST_N low, every register at its Reset value,
every table and queue empty (R13, R378, R567; log 2). -/
def State.reset : State := {}

end Sys2Proof.Machine
end

