-- ==== Sys2Proof/Machine/Ops.lean ====
section
/-!
DEFINITION. The named operations over registers, stored words, the owner table, the error bank, and what the
block emits. (A block takes no exceptions: raising an error, an interrupt or an alert is an effect on State.)
-/
namespace Sys2Proof.Machine

/-! ## Reply and refusal status codes (R497) -/

def stDone : Byte := 0x00
def stReplayed : Byte := 0x01
def stReplanned : Byte := 0x02
def stFaultPending : Byte := 0x10
def stFaultUnresolved : Byte := 0x11
def stProtection : Byte := 0x20
def stGrantMissing : Byte := 0x21
def stEarlyDoorbell : Byte := 0x30
def stBadPacket : Byte := 0x31
def stBadOpcode : Byte := 0x32
def stTargetLost : Byte := 0x40
def stCropLost : Byte := 0x41
def stAbortedReset : Byte := 0x60

/-- Packet codes of R499. -/
def pcChecksum : Nat := 1
def pcReserved : Nat := 2
def pcRange : Nat := 3
def pcDescriptor : Nat := 4
def pcState : Nat := 5
def pcLoft : Nat := 6
def pcSize : Nat := 7

/-- DETAIL with a table, a code, a Tiller and a position (R498). -/
def detailOf (table code tiller position : Nat) : W32 :=
  BitVec.ofNat 32 (code % 256 + 2 ^ 8 * (table % 4) + 2 ^ 10 * (tiller % 64) + 2 ^ 16 * (position % 1024))

/-- DETAIL of a BAD_PACKET reply with a packet code (R498): table 0, TILLER 63 for none; the spec states no POSITION for
a packet code, so POSITION is a free value (log 32). -/
def packetDetail (code : Nat) : W32 := detailOf 0 code 63 (Config.packetPosition code)

/-- DETAIL of a reply to which no rule gives one: 0 with DONE, as in the chapter's worked example; with another status a
free value (R496, R498; log 32). -/
def plainDetail (st : Byte) : W32 := if st = stDone then 0 else Config.replyDetail st

/-! ## Stored words and the (72,64) code (R298 to R301) -/

/-- Columns of the data bits (R298). -/
def eccCol : List Nat :=
  [0x07, 0x0B, 0x0D, 0x0E, 0x13, 0x15, 0x16, 0x19, 0x1A, 0x1C, 0x23, 0x25, 0x26, 0x29, 0x2A, 0x2C,
   0x31, 0x32, 0x34, 0x38, 0x43, 0x45, 0x46, 0x49, 0x4A, 0x4C, 0x51, 0x52, 0x54, 0x58, 0x61, 0x62] ++
  [0x64, 0x68, 0x70, 0x83, 0x85, 0x86, 0x89, 0x8A, 0x8C, 0x91, 0x92, 0x94, 0x98, 0xA1, 0xA2, 0xA4,
   0xA8, 0xB0, 0xC1, 0xC2, 0xC4, 0xC8, 0xD0, 0xE0, 0x1F, 0x2F, 0x37, 0x3B, 0x3D, 0x3E, 0x4F, 0x57]

/-- XOR of the columns of the bits set in d, from bit i. -/
def checkFrom (d : Nat) : List Nat → Nat → Nat
  | [], _ => 0
  | c :: cs, i => (if d.testBit i then c else 0) ^^^ checkFrom d cs (i + 1)

/-- check_bits of R298. -/
def checkBits (d : Nat) : Nat := checkFrom d eccCol 0

/-- Syndrome of a stored word (R299). -/
def syndrome (w : Nat × Nat) : Nat := w.2 ^^^ checkBits w.1

/-- What a reader makes of a stored word (R299). -/
inductive EccRead where
  | clean (d : Nat)
  | corrected (d : Nat)
  | bad (d : Nat)
deriving DecidableEq, Repr

/-- R299: the syndrome decides, first row that matches. -/
def eccRead (d chk : Nat) : EccRead :=
  let s := chk ^^^ checkBits d
  if s = 0 then .clean d
  else if (List.range 8).any (fun j => s == 2 ^ j) then .corrected d
  else match eccCol.findIdx? (· == s) with
    | some i => .corrected (d ^^^ 2 ^ i)
    | none => .bad d

/-- The data that a reader takes from a stored word (R299). -/
def eccData (x : Nat × Nat) : Nat := match eccRead x.1 x.2 with | .clean d => d | .corrected d => d | .bad d => d

/-- Whether a reader corrects a stored word, or finds it uncorrectable (R299). -/
def eccFixed (x : Nat × Nat) : Bool := match eccRead x.1 x.2 with | .corrected _ => true | _ => false
def eccBad (x : Nat × Nat) : Bool := match eccRead x.1 x.2 with | .bad _ => true | _ => false

/-- Check bits of a poisoned word (R301). -/
def poisonBits (d : Nat) : Nat := checkBits d ^^^ 0xFF

/-- The word as every later reader finds it (R299 to R301): corrected, or kept poisoned. -/
def settleWord (d chk : Nat) : Nat × Nat :=
  match eccRead d chk with
  | .clean d => (d, checkBits d)
  | .corrected d => (d, checkBits d)
  | .bad d => (d, poisonBits d)

/-- Word i of a line, with its check byte. -/
def lineWord (l : Line) (i : Nat) : Nat × Nat := (fieldLE l.data (8 * i) 8, fieldLE l.chk i 1)

/-- Build a line from eight (data, check) words. -/
def lineOf (ws : List (Nat × Nat)) : Line :=
  ⟨ws.flatMap (fun w => toLE 8 w.1), ws.map (fun w => BitVec.ofNat 8 w.2)⟩

/-- The eight words of a line. -/
def lineWords (l : Line) : List (Nat × Nat) := (List.range 8).map (lineWord l)

/-- The all-zero line. -/
def zeroLine : Line := ⟨List.replicate 64 0, List.replicate 8 0⟩

/-- A line of clean words from 64 bytes of data (R298). -/
def cleanLine (data : List Byte) : Line :=
  lineOf ((List.range 8).map (fun i => let d := fieldLE data (8 * i) 8; (d, checkBits d)))

/-- A line of eight poisoned zero words: what stands for data that never came (R301). -/
def poisonLine : Line := lineOf (List.replicate 8 (0, poisonBits 0))

/-- Whether a word of the line is uncorrectable (R299). -/
def linePoison (l : Line) : Bool :=
  (lineWords l).any (fun w => match eccRead w.1 w.2 with | .bad _ => true | _ => false)

/-- Indices of uncorrectable words. -/
def badWords (l : Line) : List Nat :=
  (List.range 8).filter (fun i => match eccRead (lineWord l i).1 (lineWord l i).2 with | .bad _ => true | _ => false)

/-- The line as read: every correctable word restored, every other kept poisoned (R299 to R301). -/
def lineSettle (l : Line) : Line := lineOf ((lineWords l).map (fun w => settleWord w.1 w.2))

/-- Data bytes merged into word data under an 8-bit byte mask. -/
def mergeBytes (old new mask : Nat) : Nat :=
  leNat ((List.range 8).map (fun b => BitVec.ofNat 8 ((if mask.testBit b then new else old) >>> (8 * b))))

/-- One word written under a byte mask (R301): a whole word replaces poison; a partial write to a poisoned word
merges its bytes and leaves it poisoned. -/
def mergeWord (old : Nat × Nat) (new mask : Nat) : Nat × Nat :=
  if mask % 256 = 0 then old
  else if mask % 256 = 255 then (new, checkBits new)
  else match eccRead old.1 old.2 with
    | .clean d => let m := mergeBytes d new mask; (m, checkBits m)
    | .corrected d => let m := mergeBytes d new mask; (m, checkBits m)
    | .bad d => let m := mergeBytes d new mask; (m, poisonBits m)

/-- A line written under a 64-bit byte mask (R278, R301, R324). -/
def lineMerge (old : Line) (data : List Byte) (mask : Nat) : Line :=
  lineOf ((List.range 8).map (fun i =>
    mergeWord (lineWord old i) (fieldLE data (8 * i) 8) ((mask >>> (8 * i)) % 256)))

/-- Byte at an address. -/
def ramByte (r : Ram) (a : Nat) : Byte := look 0 r.data a

/-- n bytes at address a. -/
def ramBytes (r : Ram) (a n : Nat) : List Byte := (List.range n).map (fun i => ramByte r (a + i))

/-- Line number l of a RAM, as stored. -/
def ramLine (r : Ram) (l : Nat) : Line :=
  ⟨ramBytes r (64 * l) 64, (List.range 8).map (fun i => look 0 r.chk (8 * l + i))⟩

/-- Store a line with its check bits as they are (R300). -/
def ramPutLine (r : Ram) (l : Nat) (x : Line) : Ram :=
  { data := putAll 0 r.data (64 * l) (slice x.data 0 64), chk := putAll 0 r.chk (8 * l) (slice x.chk 0 8) }

/-- Word number w of a RAM, as stored. -/
def ramWord (r : Ram) (w : Nat) : Nat × Nat := (leNat (ramBytes r (8 * w) 8), (look 0 r.chk w).toNat)

/-- Store a word and its check bits. -/
def ramPutWord (r : Ram) (w : Nat) (x : Nat × Nat) : Ram :=
  { data := putAll 0 r.data (8 * w) (toLE 8 x.1), chk := put 0 r.chk w (BitVec.ofNat 8 x.2) }

/-- Store bytes that carry no check bits (host memory, the flash). -/
def ramPutBytes (r : Ram) (a : Nat) (bs : List Byte) : Ram := { r with data := putAll 0 r.data a bs }

/-- Word indices that lie whole in n bytes at an address. -/
def wholeWords (a n : Nat) : List Nat := (List.range ((a + n) / 8 - (a + 7) / 8)).map (fun i => (a + 7) / 8 + i)

/-- Store bytes in host memory: a word written whole is no longer poisoned (R301). In host memory `chk` marks the words that the block wrote
poisoned (log 10). -/
def hostPutBytes (r : Ram) (a : Nat) (bs : List Byte) : Ram :=
  { data := putAll 0 r.data a bs, chk := (wholeWords a bs.length).foldl (fun c w => put 0 c w 0) r.chk }

/-- The canonical form of a RAM: both lists rise strictly and list no zero byte. -/
def Ram.wf (r : Ram) : Bool := tblWf 0 r.data && tblWf 0 r.chk

/-! ## Time -/

/-- Units of `wall` in a nanosecond: six times the least common multiple of 80 to 105, so that a root cycle is a whole number of them at
every root frequency. -/
def wallUnit : Nat := 11238206963857528378561480843200

/-- Ticks since the current epoch began (R163). -/
def epochTick (s : State) : Nat := s.tick - s.epochStart

/-- The Crop tick: A-cycle edges since CTB 0 (R239; six root cycles each, R25), the edges lying within half a root cycle of multiples
of six. -/
def cropTick (s : State) : Nat := (4 * s.ctb.toNat + s.ctbQuarter + 12) / 24

/-- CTB in quarters of a root cycle. -/
def ctbQuarters (s : State) : Nat := 4 * s.ctb.toNat + s.ctbQuarter

/-- A hyperperiod boundary of this chip (R26, R239): CTB lies within half a root cycle of a multiple of 12 and no stretch is due. -/
def atHyper (s : State) : Bool := s.stretch == 0 && decide ((ctbQuarters s + 2) % 48 ≤ 4)

/-! ## Parts of the state by number -/

/-- Windrow n; COMPAT's Reset is the COMPAT_MOLDO strap (R520). -/
def windrowDefault (s : State) : Windrow := { cfg := setBit (0x600 : W64) 1 (bitOf s.boot.straps 1) }

def getWindrow (s : State) (n : Nat) : Windrow := look (windrowDefault s) s.grg.windrows n
def setWindrow (s : State) (n : Nat) (w : Windrow) : State :=
  { s with grg := { s.grg with windrows := put (windrowDefault s) s.grg.windrows n w } }

def getCtx (s : State) (n : Nat) : Ctx := look {} s.tr.ctxs n
def setCtx (s : State) (n : Nat) (c : Ctx) : State := { s with tr := { s.tr with ctxs := put {} s.tr.ctxs n c } }

def getSlot (s : State) (n : Nat) : Slot := look {} s.slots n
def setSlot (s : State) (n : Nat) (x : Slot) : State := { s with slots := put {} s.slots n x }

def getTiller (s : State) (n : Nat) : Tiller := look {} s.tillers n
def setTiller (s : State) (n : Nat) (x : Tiller) : State := { s with tillers := put {} s.tillers n x }

def getUnit (s : State) (n : Nat) : SubUnit := look {} s.units n
def setUnit (s : State) (n : Nat) (x : SubUnit) : State := { s with units := put {} s.units n x }

def getSheaf (s : State) (n : Nat) : Sheaf := look {} s.sheaves n
def setSheaf (s : State) (n : Nat) (x : Sheaf) : State := { s with sheaves := put {} s.sheaves n x }

def getLink (s : State) (n : Nat) : WainLink := look {} s.wain.links n
def setLink (s : State) (n : Nat) (x : WainLink) : State :=
  { s with wain := { s.wain with links := put {} s.wain.links n x } }

def getAtt (s : State) (n : Nat) : Attach := look {} s.ep.atts n
def setAtt (s : State) (n : Nat) (x : Attach) : State := { s with ep := { s.ep with atts := put {} s.ep.atts n x } }

def getPort (s : State) (n : Nat) : Port := look {} s.mem.ports n
def setPort (s : State) (n : Nat) (x : Port) : State := { s with mem := { s.mem with ports := put {} s.mem.ports n x } }

/-- The slot whose state is RUNNING or STOPPING, if any (R218: at most one). -/
def runningSlot (s : State) : Option Nat :=
  (List.range 16).find? (fun n => (getSlot s n).state == .running || (getSlot s n).state == .stopping)

/-! ## Is the block alive -/

/-- Clocks run and the block is out of fundamental reset (R561, R567). -/
def alive (s : State) : Bool := !s.boot.perstLow && !s.boot.thermtrip

/-- Granger runs: alive and firmware authenticated (R564, R567 step 5). -/
def grangerUp (s : State) : Bool := alive s && s.boot.fwRunning

/-- The host reaches windows, doorbells and registers: step 7 done and not in D3hot (R449, R566, R567). -/
def hostUp (s : State) : Bool := grangerUp s && !s.hl.d3hot

/-- The pool serves (R290, R291). -/
def poolUp (s : State) : Bool := s.boot.memoryActive

/-! ## What the block emits -/

def emit (s : State) (o : Out) : State := { s with out := s.out ++ [o] }
def emitAll (s : State) (os : List Out) : State := { s with out := s.out ++ os }

/-- Write host memory by a CXL.io posted write (R433), or hold it while the port is frozen (R454). -/
def hostPost (s : State) (addr : W64) (bs : List Byte) : State :=
  if s.hl.frozen then { s with hl := { s.hl with heldWrites := s.hl.heldWrites ++ [.hostWrite addr bs] } }
  else emit { s with hostMem := hostPutBytes s.hostMem addr.toNat bs } (.hostWrite addr bs)

/-- Whether vector v is masked (R446). -/
def vectorMasked (s : State) (v : Nat) : Bool :=
  if bitOf s.hl.msixControl 15 then
    bitOf s.hl.msixControl 14 || (look ({} : MsixEntry) s.hl.msixTable v).masked
  else bitOf s.hl.msiMask (v % 2 ^ (field s.hl.msiControl 6 4))

/-- The message of vector v under R446: MSI-X entry v, or MSI message v mod n, or none. -/
def vectorMsg (s : State) (v : Nat) : Option Out :=
  if bitOf s.hl.msixControl 15 then some (.msix v)
  else if bitOf s.hl.msiControl 0 then some (.msi (v % 2 ^ (field s.hl.msiControl 6 4)))
  else none

/-- Send or hold one message (R454). -/
def sendMsg (s : State) (o : Out) : State :=
  if s.hl.frozen then { s with hl := { s.hl with heldWrites := s.hl.heldWrites ++ [o] } } else emit s o

/-- Signal vector v (R446): a masked vector sets its pending bit; while a message is pending no second is sent. -/
def signalVector (s : State) (v : Nat) : State :=
  match vectorMsg s v with
  | none => s
  | some m =>
    if vectorMasked s v then
      if s.hl.pba.contains v then s else { s with hl := { s.hl with pba := s.hl.pba ++ [v] } }
    else sendMsg s m

/-! ## The error bank (R523 to R528) -/

def clsCorrected : Nat := 0
def clsContained : Nat := 1
def clsReplayed : Nat := 2
def clsReplanned : Nat := 3
def clsFatal : Nat := 4

def srcMemWord : Nat := 0x01
def srcCacheWord : Nat := 0x02
def srcTag : Nat := 0x03
def srcAccStore : Nat := 0x04
def srcTillerStore : Nat := 0x05
def srcNodeSet : Nat := 0x06
def srcSignal : Nat := 0x07
def srcWainXfer : Nat := 0x09
def srcWainLost : Nat := 0x0A
def srcPoisonUse : Nat := 0x0B
def srcStack : Nat := 0x0C
def srcMember : Nat := 0x0D
def srcRipeness : Nat := 0x0E
def srcEscalation : Nat := 0x0F
def srcAccess : Nat := 0x10
def srcHostLink : Nat := 0x11
def srcControl : Nat := 0x12

/-- The record of an error detected now (R526): tick and epoch are 0 outside a run. -/
def errRecord (s : State) (cls source inst address ctx detail : Nat) : ErrRec :=
  let run := runningSlot s
  let sl := run.map (getSlot s)
  { tick := if run.isSome then s.globalTick else 0
    epoch := match sl with | some x => BitVec.ofNat 32 x.epoch.toNat | none => 0
    cls := BitVec.ofNat 8 cls, source := BitVec.ofNat 8 source, inst := BitVec.ofNat 16 inst
    address := BitVec.ofNat 64 (address % 2 ^ 56), context := BitVec.ofNat 20 ctx
    position := match sl with | some x => BitVec.ofNat 10 x.position | none => 0
    detail := BitVec.ofNat 16 detail
    slot := match run with | some n => BitVec.ofNat 8 (n + 16) | none => 0
    flags := if s.err.replaying then 1 else 0 }

/-- Append to a ring of 32,768 records, overwriting the oldest (R528). -/
def ringAdd (r : List ErrRec) (e : ErrRec) : List ErrRec :=
  let r' := r ++ [e]
  r'.drop (r'.length - 32768)

/-- ERR_COUNT field of a class (R553). -/
def bumpErrCount (c : W64) (cls : Nat) : W64 :=
  if cls = 0 then bump c 31 0 1 else bump c (39 + 8 * (cls - 1)) (32 + 8 * (cls - 1)) 1

/-- Log one record (R527, R528): counters, the spill ring, the first or next record for CLASS 1 or more, and
BOOT_STATUS.ALERT for REPLANNED and FATAL (R572). An error while the first record is held becomes the next. -/
def logRecord (s : State) (e : ErrRec) : State :=
  let cls := e.cls.toNat
  let b := s.err
  let b := { b with count := bumpErrCount b.count cls, counts := put 0 b.counts cls (satAdd32 (look 0 b.counts cls) 1)
                    ring := ringAdd b.ring e, errWrites := b.errWrites + 1 }
  let b := if cls = 0 then b
    else if b.firstValid then { b with next := some e, nextValid := true }
    else { b with first := some e, firstValid := true }
  { s with err := b, boot := { s.boot with alert := s.boot.alert || decide (cls ≥ 3) } }

/-- Detect and log an error (R523, R524, R527). -/
def logError (s : State) (cls source inst address ctx detail : Nat) : State :=
  logRecord s (errRecord s cls source inst address ctx detail)

/-! ## Pool geometry and the owner table (R292, R296, R302, R303, R308) -/

/-- P in bytes (R292, R313). -/
def poolBytes (s : State) : Nat := 2 ^ 30 * s.mem.poolGib.toNat

/-- First granule of the reserved region, the last 1,280 MiB of the pool (R308). -/
def reservedGranule (s : State) : Nat := 512 * s.mem.poolGib.toNat - 640

/-- Start of the reserved region (R308). -/
def reservedStart (s : State) : Nat := 2 ^ 21 * reservedGranule s

/-- Owner entry of a granule; the reserved region's granules are CLASS RESERVED (R302, R308). -/
def ownerEntry (s : State) (g : Nat) : W32 :=
  if reservedGranule s ≤ g then setField (0 : W32) 21 20 3 else look 0 s.mem.owner g

/-- fold of R296. -/
def placeFold (q : Nat) : Nat := (q ^^^ (q >>> 5) ^^^ (q >>> 11) ^^^ (q >>> 17) ^^^ (q >>> 23)) % 32

/-- Stack, interleave unit, granule within the unit and byte within the stack of a pool offset (R296). -/
def place (o : Nat) : Nat × Nat × Nat × Nat :=
  let g := o >>> 8
  let q := g / 20
  let r := g % 20
  ((r + placeFold q) % 20, (q % 32) ^^^ ((q >>> 5) % 32) ^^^ ((q >>> 10) % 32), q >>> 5, (q <<< 8) + o % 256)

/-- Verdict of a protection check: admitted, or refused with a reply status and the row that decided. -/
inductive Verdict where
  | ok
  | refuse (status : Byte) (row : Nat)
deriving DecidableEq, Repr

/-- Whether an owner entry gives the rights an access needs: an atomic needs both (R303). -/
def hasRights (e : W32) (rdBit wrBit : Nat) (acc : AccessKind) : Bool :=
  match acc with
  | .read => bitOf e rdBit
  | .write => bitOf e wrBit
  | .atomic => bitOf e rdBit && bitOf e wrBit

/-- Rows 2 to 8 of R303 for a context request against an owner entry. -/
def ownerJudge (e : W32) (ctx : BitVec 20) (acc : AccessKind) (remote : Bool) : Verdict :=
  if field e 21 20 = 3 then .refuse stProtection 2
  else if field e 21 20 = 0 then .refuse stGrantMissing 3
  else if remote && !bitOf e 26 then .refuse stProtection 4
  else if field e 19 0 = ctx.toNat then
    if hasRights e 22 23 acc then .ok else .refuse stProtection 6
  else if field e 21 20 = 2 && acc == .read then .ok
  else .refuse stGrantMissing 8

/-- The owner check of a context request at a pool offset (R303). -/
def ownerCheck (s : State) (off : Nat) (ctx : BitVec 20) (acc : AccessKind) (remote : Bool) : Verdict :=
  if poolBytes s ≤ off then .refuse stProtection 1
  else ownerJudge (ownerEntry s (off / 2 ^ 21)) ctx acc remote

/-- Rows 1 to 3, 9 and 10 of R303 for a host access. -/
def hostCheck (s : State) (off : Nat) (acc : AccessKind) : Verdict :=
  let e := ownerEntry s (off / 2 ^ 21)
  if poolBytes s ≤ off then .refuse stProtection 1
  else if field e 21 20 = 3 then .refuse stProtection 2
  else if field e 21 20 = 0 then .refuse stProtection 3
  else if hasRights e 24 25 acc then .ok else .refuse stProtection 10

/-- Loft bytes (R337). -/
def loftBytes (s : State) : Nat := 16 * 2 ^ 20 * s.cache.loftWays

/-- The Loft granule check of R339: rows 1, 3 and 5 to 8 of R303. -/
def loftCheck (s : State) (off : Nat) (ctx : BitVec 20) (acc : AccessKind) : Verdict :=
  let e := look 0 s.cache.loftOwner (off / 2 ^ 21)
  if loftBytes s ≤ off then .refuse stProtection 1
  else if field e 21 20 = 0 then .refuse stGrantMissing 3
  else if field e 19 0 = ctx.toNat then
    if hasRights e 22 23 acc then .ok else .refuse stProtection 6
  else if field e 21 20 = 2 && acc == .read then .ok
  else .refuse stGrantMissing 8

/-- Count a refusal in OWNER_REFUSE (R303, R316). -/
def countRefuse (s : State) : State := { s with mem := { s.mem with ownerRefuse := satAdd32 s.mem.ownerRefuse 1 } }

/-- A Contained refusal of a context (R303, R382, R409): REFUSALS rises, LAST_ADDR takes the address as carried (`asked`: the
context address of a translated access, else the DPA), the error is logged with the DPA, 0 for none (R526). `counted` is whether
it counts in OWNER_REFUSE (owner-table and space refusals do). -/
def refuseCtx (s : State) (ctx : BitVec 20) (asked addr detail : Nat) (counted : Bool) : State :=
  let s := if counted then countRefuse s else s
  let c := getCtx s ctx.toNat
  let s := setCtx s ctx.toNat { c with refusals := satAdd32 c.refusals 1, lastAddr := BitVec.ofNat 64 asked }
  logError s clsContained srcAccess 0 addr ctx.toNat detail

/-- The next value of the model's free-value counter (log 4). -/
def freshFree (s : State) : Nat × State := (s.freeCtr, { s with freeCtr := s.freeCtr + 1 })

/-- A choice among allowed numbers that the spec does not make: the opaque function's answer when allowed,
else the least allowed one (log 12). -/
def chooseFrom (allowed : List Nat) (want : Nat) : Option Nat :=
  if allowed.contains want then some want else allowed.head?

/-- DPA of a local device offset (R204): space 0, own Tally address. -/
def localDpa (s : State) (off : Nat) : Nat := 2 ^ 40 * s.boot.tallyAddr.toNat + off

end Sys2Proof.Machine
end

