-- ==== Sys2Proof/Machine/Report.lean ====
section
/-!
DEFINITION. Completing commands (R496 to R505), halting Tillers and reporting errors towards the Crop's root (R531, R587),
and what becomes of a task whose fault is resolved (R410, R415).
-/
namespace Sys2Proof.Machine

/-- TIME of a reply: A-cycles since the start, divided by 1,024, saturating (R496). -/
def replyTime (s : State) (start : Nat) : W32 := BitVec.ofNat 32 (min ((s.tick - start) / 1024) (2 ^ 32 - 1))

/-- A command completes: its reply joins its Windrow's completed replies, in completion order (R496, R505), and it
leaves the commands in progress. -/
def finishReply (s : State) (w : Nat) (r : ReplyRec) : State :=
  let x := getWindrow s w
  setWindrow s w { x with
    replies := x.replies ++ [r], inprog := x.inprog.filter (fun p => p.seq != r.seq),
    faultHeld := x.faultHeld && x.inprog.any (fun p => p.seq != r.seq) }

/-- Tick at which a command in progress started; now for one that is not listed. -/
def startOf (s : State) (w : Nat) (seq : W32) : Nat :=
  match (getWindrow s w).inprog.find? (fun p => p.seq == seq) with
  | some p => p.start
  | none => s.tick

/-- The packet header a Granger command carries (R490); the block's other commands carry none. -/
def hdrOf : Instr → Option CmdHdr
  | .nop h | .fence h _ | .flushPublish h _ _ _ | .copy h _ _ _ _ _ _ _ _ _ _ | .fill h _ _ _ | .copyRemote h _ _ _ _
  | .ctxBind h _ _ _ _ | .segSet h _ _ | .ptRootSet h _ | .tlbInval h _ _ | .grant h _ _ _
  | .regionRegister h _ _ _ _ | .regionRevoke h _ | .faultResolve h _ _ | .planLoad h _ _ _ _
  | .planRun h _ | .planStop h _ _ | .cropForm h _ _ _ _ _ _ | .cropJoin h _ _ _ _ _
  | .seedcornExport h _ _ _ | .seedcornImport h _ _ _ | .planResume h _ | .loftConfig h _ _ _ _ _
  | .engineLease h _ _ _ | .query h _ _ _ | .countersRead h _ _ _ _ _ | .marginPolicy h _ _ _ _ => some h
  | _ => none

/-- Whether a command is LOFT_CONFIG. -/
def isLoftConfig : Instr → Bool
  | .loftConfig _ _ _ _ _ _ => true
  | _ => false

/-- The translations that served one access of a requester are gone with its task (R399). -/
def dropOnce (s : State) (who : Requester) : State := { s with tr := { s.tr with once := s.tr.once.filter (fun p => p.1 != who) } }

/-- Complete a command by its number (R496); IRQ is that of its packet. -/
def completeSeq (s : State) (w : Nat) (seq : W32) (irq : Bool) (st : Byte) (detail : W32) (flags : Byte) : State :=
  let s := dropOnce s (.command w seq)
  let irq' := match (getWindrow s w).inprog.find? (fun p => p.seq == seq) with
    | some p => (match hdrOf p.cmd with | some h => h.irq | none => irq)
    | none => irq
  finishReply s w ⟨seq, detail, replyTime s (startOf s w seq), st, flags, 0, irq' || bitOf (getWindrow s w).cfg 5⟩

/-- Complete a command (R496, R505). -/
def complete (s : State) (h : CmdHdr) (st : Byte) (detail : W32) (flags : Byte) : State :=
  completeSeq s h.windrow h.seq h.irq st detail flags

/-- A BAD_PACKET completion with a packet code (R498, R499). -/
def badPacket (s : State) (h : CmdHdr) (code : Nat) : State := complete s h stBadPacket (packetDetail code) 0

/-- DONE (R497). -/
def done (s : State) (h : CmdHdr) : State := complete s h stDone 0 0

/-! ## Reports -/

/-- Granger halts the chip's Tillers (R531 step 1, R535, R587). -/
def haltTillers (s : State) : State :=
  (List.range 53).foldl (fun s n =>
    let t := getTiller s n
    if t.mode = .idle then s else setTiller s n { t with mode := .idle }) s

/-- A control message joins a link's control queue (R268). -/
def sendCtrl (s : State) (link : Nat) (m : CtrlMsg) : State :=
  let x := getLink s link
  setLink s link { x with ctrl := x.ctrl ++ [m] }

/-- The peer's IDENT names this Crop (R234). -/
def peerInCrop (s : State) (x : WainLink) : Bool := match x.peerIdent with | some m => m.cropId == s.crop.cropId | none => false

/-- A link that is UP and whose IDENT names this Crop (R234). -/
def memberLink (s : State) (n : Nat) : Bool := (getLink s n).state == .up && peerInCrop s (getLink s n)

/-- Links that have trained and are UP (R232). -/
def trainedLinks (s : State) : List Nat := (List.range 24).filter (fun n => (getLink s n).state == .up)

/-- Links to members, lowest first. -/
def memberLinks (s : State) : List Nat := (List.range 24).filter (memberLink s)

/-- The way towards the root (R238, R284): the parent's link, or, when that is gone, any other that does not lead to a child. -/
def upLink (s : State) : Nat :=
  let p := s.crop.parentLink.toNat
  if memberLink s p then p
  else ((memberLinks s).find? (fun n => !s.crop.children.contains n)).getD p

/-- A STOP message on its way to the root (R242): over the link upwards, or the root's own (R531, R587). -/
def reportToRoot (s : State) (m : StopMsg) : State :=
  if s.crop.member then
    if s.crop.parentLink = 0xFF then { s with crop := { s.crop with reports := s.crop.reports ++ [m] } }
    else sendCtrl s (upLink s) (.stop m)
  else s

/-- The logical position of this member. -/
def ownPosition (s : State) : Nat :=
  match runningSlot s with
  | some n => (getSlot s n).position
  | none => 0

/-- An error that this member meets in a run, whose handling the Crop begins: it is remembered until the handling is over (R533). -/
def reportError (s : State) (e : ErrRec) : State :=
  let s := logRecord s e
  { s with err := { s.err with reported := s.err.reported ++ [e] } }

/-- An error of class REPLAYED (R523, R531 steps 1 and 2): logged; in a run the Tillers halt and the report leaves. -/
def raiseReplayed (s : State) (source inst addr ctx detail : Nat) : State :=
  let e := errRecord s clsReplayed source inst addr ctx detail
  if (runningSlot s).isSome then reportToRoot (haltTillers (reportError s e)) (.replay (ownPosition s)) else logRecord s e

/-- Every Tiller stands at its EBAR or has halted, and every sub-operation is complete (R243). -/
def tillersArrived (s : State) : Bool :=
  (List.range 53).all (fun t => let m := (getTiller s t).mode; m == .barrier || m == .halted)
  && s.units.all (fun u => u.2.queue.isEmpty && u.2.begun.isEmpty)

/-- Every receive of the epoch is complete at this member, and no tick of release is named: no transfer of the plan awaits a line of VC0
(R243, R272). -/
def transfersDone (s : State) : Bool :=
  (runningSlot s).isSome && !s.crop.startBarrier && (s.crop.phase == .none || s.crop.phase == .epoch) && s.crop.ending.isNone && tillersArrived s

/-- Links that hold lines then: surplus of a transfer (R275; log 44). -/
def surplusLinks (s : State) : List Nat :=
  if transfersDone s then (List.range 24).filter (fun n => !(getLink s n).rx0.isEmpty) else []

/-- The surplus of a link is discarded, its credits return, and an error of class REPLAYED is raised (R275). -/
def dropSurplus (s : State) (link : Nat) : State :=
  let x := getLink s link
  let ctx := match runningSlot s with | some n => (getSlot s n).context.toNat | none => 0
  raiseReplayed (setLink s link { x with rx0 := [], ret0 := x.ret0 + x.rx0.length }) srcWainXfer link 0 ctx 0

/-- An error of class REPLANNED: logged and reported with its SOURCE; members halt when they receive DECIDE REPLAN (R284, R535). -/
def raiseReplanned (s : State) (source inst addr ctx detail : Nat) (suspect : Option Nat) : State :=
  let e := errRecord s clsReplanned source inst addr ctx detail
  if (runningSlot s).isSome then reportToRoot (reportError s e) (.replanned (ownPosition s) suspect source) else logRecord s e

/-- A CONTAINED error on the plan's context (R587 steps 1 and 2). -/
def planContained (s : State) (status : Byte) : State :=
  if (runningSlot s).isSome then reportToRoot (haltTillers s) (.failure (ownPosition s) status) else s

/-- Class of the errors whose handling is in progress at this member (R533). -/
def handledClass (s : State) : Option Nat :=
  match s.crop.ending with
  | some (.decided (.replan _ _)) | some .isolated => some clsReplanned
  | _ => if s.err.replaying then some clsReplayed else none

/-- Handling in progress is pre-empted (R533): the last error this member reported for it is marked PREEMPTED where the bank holds its
record, and a copy so marked goes to the error ring. -/
def markPreempted (s : State) : State :=
  let mark (e : ErrRec) : ErrRec := { e with flags := e.flags ||| 4 }
  match handledClass s with
  | none => s
  | some cls =>
    match (s.err.reported.filter (fun e => e.cls.toNat == cls)).getLast? with
    | none => s
    | some e =>
      let b := s.err
      let at_ (r : Option ErrRec) : Option ErrRec := if r = some e then some (mark e) else r
      { s with err := { b with next := at_ b.next, first := at_ b.first, ring := ringAdd b.ring (mark e), errWrites := b.errWrites + 1 } }

/-! ## Parked tasks (R410, R415, R481) -/

/-- REQ_KIND and REQUESTER of a fault record (R412). -/
def reqKindOf (r : Requester) : Nat × Nat :=
  match r with
  | .tiller t => (0, t)
  | .command w _ => (1, w)
  | .engineGroup a g _ => (2, a + 4 * g.toNat)
  | .copyEngine c => (3, c)
  | .nobody => (1, 0)

/-- A requester is parked on a fault (R410): a command's Windrow holds; a group is switched out (R481). -/
def parkRequester (s : State) (r : Requester) (faultId : W16) : State :=
  match r with
  | .command w _ => let x := getWindrow s w; setWindrow s w { x with faultHeld := true }
  | .engineGroup a g _ =>
    let x := getAtt s a
    setAtt s a { x with faulted := x.faulted ++ [⟨g, faultId⟩] }
  | _ => s

/-- A parked requester resumes after RETRY (R415, R481): it issues its access again. -/
def resumeRequester (s : State) (r : Requester) (faultId : W16) : State :=
  match r with
  | .command w _ => let x := getWindrow s w; setWindrow s w { x with faultHeld := false }
  | .engineGroup a g _ =>
    let x := getAtt s a
    emit (setAtt s a { x with faulted := x.faulted.filter (fun f => f.faultId != faultId || f.group != g) }) (.epWake a g faultId true)
  | _ => s

/-- A parked requester's task ends (R409, R415, R416): its command completes, its run fails, its group is woken with FAIL. -/
def failRequester (s : State) (r : Requester) (faultId : W16) (status : Byte) : State :=
  match r with
  | .command w seq => completeSeq s w seq false status (plainDetail status) 0
  | .engineGroup a g _ =>
    let x := getAtt s a
    emit (setAtt s a { x with faulted := x.faulted.filter (fun f => f.faultId != faultId || f.group != g) }) (.epWake a g faultId false)
  | .tiller _ => planContained s status
  | .copyEngine c => { s with ep := { s.ep with copies := s.ep.copies.map (fun j => if j.engine = some c then { j with ended := some false } else j) } }
  | .nobody => s

end Sys2Proof.Machine
end

