-- ==== Sys2Proof/Machine/Cache.lean ====
section
/-!
DEFINITION. Memory controllers, the arrays of Bins, engine-port caches and Granary, placement and replacement
(R317 to R338), their tag copies (R335), streaming writes (R325), and the stores behind the Granary.
-/
namespace Sys2Proof.Machine

/-! ## Lines and placement -/

/-- Home slice of a line (R320). -/
def homeSlice (l : Nat) : Nat :=
  (List.range 8).foldl (fun s i => s ^^^ ((l >>> (6 * i)) % 64)) 0

/-- Set within a slice (R320). -/
def grnSet (l : Nat) : Nat := (l >>> 6) % 4096

/-- Place of a Loft line (R338): slice, physical way, set. -/
def loftPlace (w l : Nat) : Nat × Nat × Nat := (l % 64, 16 - w + ((l >>> 6) >>> 12), (l >>> 6) % 4096)

/-- Slice that serves a line: its home slice, a Loft line's by its place (R320, R338). -/
def lineSlice (w : Nat) (l : LineAddr) : Nat := if l.space = 2 then (loftPlace w l.line).1 else homeSlice l.line

/-- Local device line at an offset. -/
def devLine (off : Nat) : LineAddr := ⟨0, off / 64⟩

/-- Ways of a cache: 8 in a Bin or engine-port cache, 16 in a slice (R319, R464). -/
def cacheWays (c : Nat) : Nat := if c = 12 then 16 else 8

/-- Table key of a line's set in a cache: 0 to 3 Bins (R321), 4 to 11 engine-port caches (R464), 12 Granary. -/
def setKey (c : Nat) (l : LineAddr) : Nat :=
  if c < 4 then 16384 * c + l.line % 16384
  else if c < 12 then 2048 * (c - 4) + l.line % 2048
  else 4096 * homeSlice l.line + grnSet l.line

def padWays (c : Nat) (ws : List Way) : List Way := ws ++ List.replicate (cacheWays c - ws.length) ({} : Way)

/-- The ways of a line's set. -/
def getWays (s : State) (c : Nat) (l : LineAddr) : List Way :=
  padWays c (look [] (if c < 4 then s.cache.bins else if c < 12 then s.cache.epcs else s.cache.granary) (setKey c l))

/-- Code of a coherence state in a tag entry; the spec gives the entry's fields, not their codes (DESIGN CHOICE, log 45). -/
def cohCode (c : Coh) : Nat :=
  match c with
  | .invalid => 0 | .shared => 1 | .forward => 2 | .exclusive => 3 | .modified => 4

/-- Lowest bit of the address tag in a line number (R320, R321, R464). -/
def tagShift (c : Nat) : Nat := if c < 4 then 14 else if c < 12 then 11 else 18

/-- The bits of a tag entry under its parity bit: address tag, space, coherence state, age and, in a Bin, the context (R335). -/
def tagWord (c : Nat) (t : Tag) : Nat :=
  packBits [(t.line >>> tagShift c, 64), (t.space, 4), (cohCode t.coh, 3), (t.valid.toNat, 1), (t.dirty.toNat, 1), (t.age, 2),
    (if c = 12 then 0 else t.ctx.toNat, 20)]

/-- Parity bit of a tag entry: the number of ones, parity included, is even (R335). -/
def tagParity (c : Nat) (t : Tag) : Bool := oddOnes (tagWord c t)

/-- A way as an array write leaves it: both copies of a changed tag entry are written, each with its parity (R335). -/
def sealWay (c : Nat) (old new : Way) : Way :=
  if new.toTag = old.toTag then new
  else { new with twin := new.toTag, par0 := tagParity c new.toTag, par1 := tagParity c new.toTag }

/-- Store the ways of a set as they are; a set whose ways all stand as at reset is not listed. -/
def storeWays (s : State) (c : Nat) (l : LineAddr) (ws : List Way) : State :=
  let ws := if ws.any (fun w => w != {}) then ws else []
  { s with cache :=
    if c < 4 then { s.cache with bins := put [] s.cache.bins (setKey c l) ws }
    else if c < 12 then { s.cache with epcs := put [] s.cache.epcs (setKey c l) ws }
    else { s.cache with granary := put [] s.cache.granary (setKey c l) ws } }

/-- Write ways of a set: the tag entries that change are sealed. -/
def setWays (s : State) (c : Nat) (l : LineAddr) (ws : List Way) : State :=
  storeWays s c l (List.zipWith (sealWay c) (getWays s c l) ws)

/-- Way that holds a line. -/
def findWay (ws : List Way) (l : LineAddr) : Option Nat :=
  ws.findIdx? (fun w => w.valid && w.space == l.space && w.line == l.line)

/-- The way of a line in a cache, if present. -/
def cacheFind (s : State) (c : Nat) (l : LineAddr) : Option Way :=
  match findWay (getWays s c l) l with
  | some i => (getWays s c l)[i]?
  | none => none

/-- Change the way that holds a line. -/
def cacheModify (s : State) (c : Nat) (l : LineAddr) (f : Way → Way) : State :=
  let ws := getWays s c l
  match findWay ws l with
  | some i => setWays s c l (ws.modify i f)
  | none => s

/-- Drop a line from a cache. -/
def cacheDrop (s : State) (c : Nat) (l : LineAddr) : State := cacheModify s c l (fun _ => {})

/-- EP_PRESENT of attachment a (R463, R555). -/
def attPresent (s : State) (a : Nat) : Bool := decide (a < 4) && bitOf s.boot.straps (4 + a)

/-- Engine-port caches of attachment a (R463): straps for 0 and 1, the configuration record for 2 and 3; a count of 3 is
taken as 0 and an absent attachment has none (R556). -/
def epCaches (s : State) (a : Nat) : Nat :=
  let n := if a = 0 then field s.boot.straps 13 12 else if a = 1 then field s.boot.straps 15 14
    else if a = 2 then field s.boot.epCachesHi 1 0 else field s.boot.epCachesHi 3 2
  if attPresent s a && n != 3 then n else 0

/-- Caching agents present (R345, R348). -/
def presentAgents (s : State) : List Nat :=
  (List.range 12).filter (fun a => decide (a < 4) || decide ((a - 4) % 2 < epCaches s ((a - 4) / 2)))

/-- Saturating counters of CACHE_ERR (R344) and COH_STAT (R380). -/
def bumpCacheErr (s : State) (hi lo k : Nat) : State :=
  { s with cache := { s.cache with err := bump s.cache.err hi lo k } }
def bumpCoh (s : State) (hi lo k : Nat) : State :=
  { s with cache := { s.cache with cohStat := bump s.cache.cohStat hi lo k } }

/-- DPA of a line. -/
def lineDpa (s : State) (l : LineAddr) : Nat :=
  if l.space = 0 then localDpa s (64 * l.line) else 2 ^ 52 * l.space + 64 * l.line

/-! ## Tag copies (R335, R347) -/

/-- What the check of an entry's two copies finds (R335). -/
inductive TagFind where
  | good | fix0 | fix1 | lost
deriving DecidableEq, Repr

/-- The verdict on two copies whose parity fails or not. -/
def tagFind (bad0 bad1 : Bool) : TagFind :=
  if bad0 && bad1 then .lost else if bad0 then .fix0 else if bad1 then .fix1 else .good

/-- The check of a way's tag entry (R335). -/
def wayFind (c : Nat) (w : Way) : TagFind :=
  tagFind (tagParity c w.toTag != w.par0) (tagParity c w.twin != w.par1)

/-- The way once its failing copy is rewritten from the other; one whose copies both fail can no longer be placed (R335). -/
def wayFixed (c : Nat) (w : Way) : Way :=
  match wayFind c w with
  | .good => w
  | .fix0 => { w with toTag := w.twin, par0 := tagParity c w.twin }
  | .fix1 => { w with twin := w.toTag, par1 := tagParity c w.toTag }
  | .lost => {}

/-- The report of one entry's check: a rewritten copy is counted and CORRECTED, a lost entry REPLANNED (R335, R344, R524). -/
def tagReport (s : State) (inst addr : Nat) (f : TagFind) : State :=
  match f with
  | .good => s
  | .lost => raiseReplanned s srcTag inst addr 0 0 none
  | _ => logError (bumpCacheErr s 15 0 1) clsCorrected srcTag inst addr 0 0

/-- Number of a cache array in an error record: the agent of a Bin or engine-port cache, a line's slice for the Granary (log 45). -/
def arrayInst (s : State) (c : Nat) (l : LineAddr) : Nat := if c < 12 then c else lineSlice s.cache.loftWays l

/-- The tags of a line's set are read and checked (R335). -/
def checkSet (s : State) (c : Nat) (l : LineAddr) : State :=
  let ws := getWays s c l
  if ws.all (fun w => wayFind c w == .good) then s
  else (ws.map (wayFind c)).foldl (fun s f => tagReport s (arrayInst s c l) (lineDpa s l) f) (storeWays s c l (ws.map (wayFixed c)))

/-! ## Memory controllers -/

/-- Port that serves a pool offset. -/
def portOf (off : Nat) : Nat := (place off).1

/-- Raise fields of MEM_ERR n (R315). -/
def bumpMemErr (s : State) (n hi lo k : Nat) : State :=
  { s with mem := { s.mem with err := put 0 s.mem.err n (bump (look 0 s.mem.err n) hi lo k) } }

/-- One word read by a controller (R299, R300): a corrected word is counted, logged and queued for write-back
(R311); an uncorrectable one is counted. -/
def memWordRead (s : State) (w : Nat) : State :=
  let x := ramWord s.mem.ram w
  match eccRead x.1 x.2 with
  | .clean _ => s
  | .corrected d =>
    let n := portOf (8 * w)
    let s := bumpMemErr s n 31 0 1
    let s := logError s clsCorrected srcMemWord n (localDpa s (8 * w)) 0 (syndrome x)
    { s with mem := { s.mem with corr := s.mem.corr ++ [⟨w, BitVec.ofNat 64 d, BitVec.ofNat 8 (checkBits d)⟩] } }
  | .bad _ => bumpMemErr s (portOf (8 * w)) 47 32 1

/-- A line read by its controller: the line as delivered, and the counts (R299 to R301). -/
def memReadLine (s : State) (n : Nat) : Line × State :=
  (lineSettle (ramLine s.mem.ram n), (List.range 8).foldl (fun s i => memWordRead s (8 * n + i)) s)

/-- Any write to a line cancels its corrective write-backs (R311). -/
def cancelCorr (s : State) (n : Nat) : State :=
  { s with mem := { s.mem with corr := s.mem.corr.filter (fun c => c.word / 8 != n) } }

/-- A whole line with its check bits reaches its controller (R300, R333). -/
def memPutLine (s : State) (n : Nat) (x : Line) : State :=
  cancelCorr { s with mem := { s.mem with ram := ramPutLine s.mem.ram n x } } n

/-- A write under a byte mask merged at the controller (R278, R301). -/
def memWriteLine (s : State) (n : Nat) (data : List Byte) (mask : Nat) : State :=
  memPutLine s n (lineMerge (ramLine s.mem.ram n) data mask)

/-- Bytes of device memory as the controllers would deliver them: what Granger reads (R303: always admitted). -/
def memBytes (s : State) (off n : Nat) : List Byte := ramBytes s.mem.ram off n

/-! ## Host lines -/

/-- A line of host memory: a word that the block wrote poisoned is still poisoned (R301; log 10). -/
def hostStored (s : State) (n : Nat) : Line :=
  let l := cleanLine (ramBytes s.hostMem (64 * n) 64)
  lineOf ((List.range 8).map (fun i =>
    let w := lineWord l i
    if look 0 s.hostMem.chk (8 * n + i) = 0 then w else (w.1, poisonBits w.1)))

/-- A host line as the home agent answers it, with this block's writes that still await GO laid over it in order
(R363 rule 1, R435; log 10). -/
def hostLine (s : State) (n : Nat) : Line :=
  s.hl.hostReqs.foldl (fun l r =>
    match r.kind with
    | .cacheWrite m d k => if m = n then lineMerge l d k.toNat else l
    | _ => l) (hostStored s n)

/-- Bytes of a line written under a mask into host memory. -/
def hostPutMasked (s : State) (n : Nat) (data : List Byte) (mask : Nat) : State :=
  { s with hostMem :=
    { data := (List.range 64).foldl (fun r i => if mask.testBit i then put 0 r (64 * n + i) (data.getD i 0) else r) s.hostMem.data
      chk := (List.range 8).foldl (fun r i => if (mask >>> (8 * i)) % 256 = 255 then put 0 r (8 * n + i) 0 else r) s.hostMem.chk } }

/-- A whole line written into host memory, its poisoned words still poisoned (R301). -/
def hostPutWhole (s : State) (n : Nat) (x : Line) : State :=
  let s := hostPutMasked s n x.data (2 ^ 64 - 1)
  { s with hostMem := { s.hostMem with chk := (badWords x).foldl (fun r i => put 0 r (8 * n + i) 1) s.hostMem.chk } }

/-- Tags free for a host request in Profile P's space (R437). -/
def freeTags (s : State) : List Nat :=
  (List.range 4096).filter (fun t => s.hl.hostReqs.all (fun r => r.tag != t))

/-- Open an outstanding host request (R437, R447); the tag is one of the free ones (log 12). -/
def openHostReq (s : State) (k : HostReqKind) (ctx : BitVec 20) (who : Requester) : State :=
  let f := freshFree s
  match chooseFrom (freeTags s) (Config.hostTag f.1) with
  | some t => { f.2 with hl := { f.2.hl with hostReqs := f.2.hl.hostReqs ++ [⟨t, k, ctx, who⟩] } }
  | none => s

/-- A whole dirty host line leaves through CXL.cache (R333, R435). -/
def hostPutLine (s : State) (n : Nat) (x : Line) : State :=
  emit (hostPutWhole s n x) (.d2h "DirtyEvict" n)

/-! ## Behind the Granary -/

/-- A line read from an array (R336): corrected and uncorrectable words counted, each correction logged with its syndrome. -/
def arrayRead (s : State) (inst addr : Nat) (x : Line) : Line × State :=
  let s := (List.range 8).foldl (fun s i =>
    let w := lineWord x i
    match eccRead w.1 w.2 with
    | .corrected _ => logError (bumpCacheErr s 31 16 1) clsCorrected srcCacheWord inst (addr + 8 * i) 0 (syndrome w)
    | _ => s) s
  (lineSettle x, bumpCacheErr s 47 32 (badWords x).length)

/-- A Loft line read: a corrected word is rewritten in the array in the same access (R336). -/
def loftRead (s : State) (l : LineAddr) : Line × State :=
  let r := arrayRead s (lineSlice s.cache.loftWays l) (lineDpa s l) (ramLine s.cache.loft l.line)
  (r.1, { r.2 with cache := { r.2.cache with loft := ramPutLine r.2.cache.loft l.line r.1 } })

/-- A line as it stands behind the Granary, read for a fill: a host line for a write or an atomic is asked for in ownership (R435). -/
def backRead (s : State) (l : LineAddr) (forWrite : Bool) : Line × State :=
  if l.space = 0 then memReadLine s l.line
  else if l.space = 1 then (hostLine s l.line, emit s (.d2h (if forWrite then "RdOwn" else "RdShared") l.line))
  else loftRead s l

/-- State in which the Granary holds a line it fills: for a host line what the host has granted (R435, R436). -/
def homeState (l : LineAddr) (own dirty : Bool) : Coh :=
  if l.space = 1 then (if dirty then .modified else if own then .exclusive else .shared) else .invalid

/-- A Granary way whose line the home writes. -/
def wayWritten (w : Way) (x : Line) : Way :=
  { w with dirty := true, coh := homeState ⟨w.space, w.line⟩ true true, content := x }

/-- Ownership of a host line that the Granary holds only shared is asked of the host before the line is written (R361, R435). -/
def ownHostLine (s : State) (l : LineAddr) : State :=
  match cacheFind s 12 l with
  | some w =>
    if l.space = 1 && w.coh == .shared then emit (cacheModify s 12 l (fun w => { w with coh := .exclusive })) (.d2h "RdOwn" l.line) else s
  | none => s

/-- A line written back behind the Granary with its check bits (R331, R333). -/
def backPut (s : State) (l : LineAddr) (x : Line) : State :=
  if l.space = 0 then memPutLine s l.line x
  else if l.space = 1 then hostPutLine s l.line x
  else { s with cache := { s.cache with loft := ramPutLine s.cache.loft l.line x } }

/-- A write that passes the Granary: merged at the controller, or WOWrInv or WrInv to the host (R325, R435). -/
def backWrite (s : State) (l : LineAddr) (data : List Byte) (mask : Nat) (ctx : BitVec 20) : State :=
  if l.space = 0 then memWriteLine s l.line data mask
  else if l.space = 1 then
    let s := openHostReq s (.cacheWrite l.line data (BitVec.ofNat 64 mask)) ctx .nobody
    emit s (.d2h (if mask = 2 ^ 64 - 1 then "WrInv" else "WOWrInv") l.line)
  else { s with cache := { s.cache with loft := ramPutLine s.cache.loft l.line (lineMerge (ramLine s.cache.loft l.line) data mask) } }

/-! ## Replacement (R327, R328) -/

/-- Cache ways of a set: a Loft way is none, and no Granary way is used while the pool is absent (R291, R319, R337). -/
def cacheTop (s : State) (c : Nat) : Nat := if c = 12 then (if s.boot.poolAbsent then 0 else 16 - s.cache.loftWays) else 8

/-- Way numbers a victim may come from: cache ways, no fill and no transaction in progress on their line. -/
def eligibleWays (s : State) (c : Nat) (ws : List Way) : List Nat :=
  (List.range (cacheTop s c)).filter (fun i =>
    match ws[i]? with
    | none => false
    | some w => !w.valid ||
      (s.cache.txns.all (fun t => !(t.req.line.space == w.space && t.req.line.line == w.line)) &&
       s.cache.fills.all (fun f => !(f.cache == c && f.line.space == w.space && f.line.line == w.line))))

/-- Ages after step 2 of R328. -/
def ageUp (ws : List Way) (el : List Nat) : List Way :=
  let oldest := el.foldl (fun m i => max m (ws.getD i {}).age) 0
  el.foldl (fun ws i => ws.modify i (fun w => { w with age := w.age + (3 - oldest) })) ws

/-- The victim of R328 and the ways with their ages raised. -/
def victim (s : State) (c : Nat) (ws : List Way) : Option (Nat × List Way) :=
  let el := eligibleWays s c ws
  match el.find? (fun i => !(ws.getD i {}).valid) with
  | some i => some (i, ws)
  | none =>
    let ws := if el.any (fun i => (ws.getD i {}).age == 3) then ws else ageUp ws el
    (el.find? (fun i => (ws.getD i {}).age == 3)).map (fun i => (i, ws))

/-- Age a fill inserts at (R327). -/
def insertAge (how : FillHow) : Nat :=
  match how with
  | .demand => 2 | .prefetch => 2 | .pref => 1 | .streaming => 3

/-- A Granary way leaves (R333). -/
def granaryEvict (s : State) (w : Way) : State :=
  let l : LineAddr := ⟨w.space, w.line⟩
  if !w.valid then s
  else if w.dirty then backPut s l w.content
  else if w.space = 1 then emit s (.d2h "CleanEvictNoData" w.line) else s

/-- A line of a cache can be placed: it is there, or a way of its set is eligible (R328). -/
def canPlace (s : State) (c : Nat) (l : LineAddr) : Bool :=
  (findWay (getWays s c l) l).isSome || (victim s c (getWays s c l)).isSome

/-- Place a line in the Granary. A fill for which no way is eligible waits before it comes here (R328); without one, a dirty line
goes behind the Granary and a clean one is dropped (log 43). -/
def granaryInsert (s : State) (l : LineAddr) (x : Line) (dirty own : Bool) (age : Nat) : State :=
  match victim s 12 (getWays s 12 l) with
  | some (i, ws) =>
    let old := ws.getD i {}
    let s := setWays s 12 l (ws.set i { valid := true, space := l.space, line := l.line, dirty := dirty, coh := homeState l own dirty, age := age, content := x })
    granaryEvict s old
  | none => if dirty then backPut s l x else s

/-- A dirty line reaches its home (R331, R351): in place when held, at age 2 otherwise; a Loft line goes to its place. -/
def homeTakeDirty (s : State) (l : LineAddr) (x : Line) : State :=
  if l.space = 2 then backPut s l x
  else match cacheFind s 12 l with
    | some _ => cacheModify s 12 l (fun w => wayWritten w x)
    | none => granaryInsert s l x true true 2

/-- A line the Granary holds, read: corrected words are rewritten in the array (R336) and the hit sets its age to 0 (R327). -/
def granaryHit (s : State) (l : LineAddr) (x : Line) : Line × State :=
  let r := arrayRead s (homeSlice l.line) (lineDpa s l) x
  (r.1, cacheModify r.2 12 l (fun w => { w with age := 0, content := r.1 }))

/-- The line at its home: from the Granary, else through a fill (R322). -/
def homeFetch (s : State) (l : LineAddr) (how : FillHow) (forWrite : Bool) : Line × State :=
  if l.space = 2 then backRead s l forWrite
  else match cacheFind s 12 l with
    | some w => granaryHit (if forWrite then ownHostLine s l else s) l w.content
    | none =>
      let r := backRead s l forWrite
      (r.1, granaryInsert r.2 l r.1 false forWrite (insertAge how))

/-! ## Streaming writes (R325) -/

/-- Detectors of a cache: 8 per Bin, 32 at the Granary front. -/
def detectorLimit (c : Nat) : Nat := if c < 4 then 8 else 32

/-- Count of a detector after a write to line l (R325). -/
def detectorCount (d : Detector) (l : LineAddr) : Nat :=
  if d.line.space = l.space ∧ l.line = d.line.line + 1 then min 32 (d.count + 1)
  else if d.line = l then d.count else 1

/-- A write by a writer: its detector moves (R325); the answer says whether the writer is streaming. -/
def detectWrite (s : State) (c writer : Nat) (l : LineAddr) : Bool × State :=
  let mine := s.cache.detectors.find? (fun d => d.cache == c && d.writer == writer)
  let count := match mine with | some d => detectorCount d l | none => 1
  let new : Detector := ⟨c, writer, l, count, s.tick⟩
  let rest := s.cache.detectors.filter (fun d => !(d.cache == c && d.writer == writer))
  let here := rest.filter (fun d => d.cache == c)
  let drop := if here.length < detectorLimit c then none
    else here.foldl (fun m d => match m with
      | none => some d
      | some e => if d.used < e.used then some d else some e) none
  let rest := match drop with | some d => rest.erase d | none => rest
  (count == 32, { s with cache := { s.cache with detectors := rest ++ [new] } })

/-- Whether a writer is streaming in a cache (R325). -/
def streamingWriter (s : State) (c writer : Nat) : Bool :=
  s.cache.detectors.any (fun d => d.cache == c && d.writer == writer && d.count == 32)

/-- A mask that covers the whole line. -/
def wholeLine (mask : Nat) : Bool := mask % 2 ^ 64 == 2 ^ 64 - 1

/-- The home performs a write on the line behind it (R324 to R326, R351): in place on a hit; a streaming miss passes
on; a whole line is allocated without a fetch; a part is fetched and merged. -/
def homeStore (s : State) (l : LineAddr) (data : List Byte) (mask : Nat) (streaming : Bool) (ctx : BitVec 20) : State :=
  if mask = 0 then s
  else if l.space = 2 then backWrite (if wholeLine mask then s else (loftRead s l).2) l data mask ctx
  else match cacheFind s 12 l with
    | some w =>
      let s := ownHostLine s l
      let r : Line × State := if wholeLine mask then (w.content, s) else arrayRead s (homeSlice l.line) (lineDpa s l) w.content
      cacheModify r.2 12 l (fun w => { wayWritten w (lineMerge r.1 data mask) with age := 0 })
    | none =>
      if streaming then backWrite s l data mask ctx
      else if wholeLine mask then
        granaryInsert (if l.space = 1 then emit s (.d2h "RdOwnNoData" l.line) else s) l (cleanLine data) true true 2
      else
        let r := backRead s l true
        granaryInsert r.2 l (lineMerge r.1 data mask) true true 2

end Sys2Proof.Machine
end

