-- ==== Sys2Proof/Machine/Coherence.lean ====
section
/-!
DEFINITION. The directory (R347 to R349), requests and snoops (R350 to R353), NACK and retry (R354 to R357), atomics
(R358 to R361), offers (R331, R332), fills (R322, R323) and prefetch (R329, R330) at the home slices.
-/
namespace Sys2Proof.Machine

/-! ## Directory -/

/-- Table key of a line's directory set (R347). -/
def dirKey (l : LineAddr) : Nat := 1024 * homeSlice l.line + grnSet l.line % 1024

def padDir (es : List DirEntry) : List DirEntry := es ++ List.replicate (16 - es.length) ({} : DirEntry)

/-- Whether an entry tracks a line. -/
def DirCopy.live (e : DirCopy) : Bool := e.state != .uncached || e.busy

/-- Way of a line in its directory set. -/
def dirFind (es : List DirEntry) (l : LineAddr) : Option Nat :=
  es.findIdx? (fun e => e.live && e.space == l.space && e.line == l.line)

def getDirSet (s : State) (l : LineAddr) : List DirEntry := padDir (look [] s.cache.dir (dirKey l))

/-- The bits of a directory entry under its PARITY bit, in the order of R347. -/
def dirWord (e : DirCopy) : Nat :=
  let ptr (i : Nat) : Nat := match e.ptrs[i]? with | some a => 16 + a | none => 0
  packBits [((match e.state with | .uncached => 0 | .excl => 1 | .shared => 2), 2), (e.owner, 4), (ptr 0, 5), (ptr 1, 5), (ptr 2, 5), (ptr 3, 5),
    (e.ovf.toNat, 1), (e.busy.toNat, 1), (e.age, 2), (e.line >>> 16, 64), (e.space, 4)]

/-- PARITY of a directory entry (R347). -/
def dirParity (e : DirCopy) : Bool := oddOnes (dirWord e)

/-- An entry as a write leaves it: both copies, each with its PARITY (R347). -/
def sealEntry (old new : DirEntry) : DirEntry :=
  if new.toDirCopy = old.toDirCopy then new
  else { new with twin := new.toDirCopy, par0 := dirParity new.toDirCopy, par1 := dirParity new.toDirCopy }

/-- Store the entries of a set as they are; a set that stands as at reset is not listed. -/
def storeDirSet (s : State) (l : LineAddr) (es : List DirEntry) : State :=
  let es := if es.any (fun e => e != {}) then es else []
  { s with cache := { s.cache with dir := put [] s.cache.dir (dirKey l) es } }

/-- Write entries of a set: those that change are sealed. -/
def setDirSet (s : State) (l : LineAddr) (es : List DirEntry) : State :=
  storeDirSet s l (List.zipWith sealEntry (getDirSet s l) es)

/-- The check of an entry's two copies (R335, R347). -/
def entryFind (e : DirEntry) : TagFind := tagFind (dirParity e.toDirCopy != e.par0) (dirParity e.twin != e.par1)

/-- The entry once its failing copy is rewritten from the other; one whose copies both fail is lost (R335, R347). -/
def entryFixed (e : DirEntry) : DirEntry :=
  match entryFind e with
  | .good => e
  | .fix0 => { e with toDirCopy := e.twin, par0 := dirParity e.twin }
  | .fix1 => { e with twin := e.toDirCopy, par1 := dirParity e.toDirCopy }
  | .lost => {}

/-- The directory entries a lookup of a line reads are checked (R347): its set, or a Loft line's entry at its place. -/
def checkDir (s : State) (l : LineAddr) : State :=
  if l.space = 2 then
    let e := look {} s.cache.loftDir l.line
    if entryFind e = .good then s
    else tagReport { s with cache := { s.cache with loftDir := put {} s.cache.loftDir l.line (entryFixed e) } } (arrayInst s 12 l) (lineDpa s l) (entryFind e)
  else
    let es := getDirSet s l
    if es.all (fun e => entryFind e == .good) then s
    else (es.map entryFind).foldl (fun s f => tagReport s (arrayInst s 12 l) (lineDpa s l) f) (storeDirSet s l (es.map entryFixed))

/-- What a lookup of a line at its home reads is checked: the Granary's tags and the directory (R335, R347). -/
def checkHome (s : State) (l : LineAddr) : State := checkDir (if l.space = 2 then s else checkSet s 12 l) l

/-- Directory entry of a line; a Loft line's stands at its place (R347). -/
def dirGet (s : State) (l : LineAddr) : DirEntry :=
  if l.space = 2 then look {} s.cache.loftDir l.line
  else match dirFind (getDirSet s l) l with
    | some i => (getDirSet s l).getD i {}
    | none => {}

/-- Write a line's entry; one that tracks nothing frees its way. -/
def dirPut (s : State) (l : LineAddr) (e : DirEntry) : State :=
  let e : DirEntry := if e.live then { e with space := l.space, line := l.line } else {}
  if l.space = 2 then { s with cache := { s.cache with loftDir := put {} s.cache.loftDir l.line (sealEntry (look {} s.cache.loftDir l.line) e) } }
  else
    let es := getDirSet s l
    match dirFind es l with
    | some i => setDirSet s l (es.set i e)
    | none =>
      if e.live then
        match es.findIdx? (fun x => !x.live) with
        | some i => setDirSet s l (es.set i { e with age := 2 })
        | none => s
      else s

/-- Agents a snoop of the whole set goes to: the pointers, or every present agent under OVF (R348). -/
def dirSharers (s : State) (e : DirEntry) : List Nat :=
  match e.state with
  | .uncached => []
  | .excl => [e.owner]
  | .shared => if e.ovf then presentAgents s else e.ptrs

/-- Add a sharer: a fifth sets OVF, after which the pointers stand (R348). -/
def addSharer (e : DirEntry) (a : Nat) : DirEntry :=
  if e.ovf || e.ptrs.contains a then e
  else if e.ptrs.length < 4 then { e with ptrs := e.ptrs ++ [a] }
  else { e with ovf := true }

/-- Remove a holder (R348, R351 row OFFER). -/
def removeHolder (e : DirEntry) (a : Nat) : DirEntry :=
  match e.state with
  | .uncached => e
  | .excl => if e.owner = a then { e with state := .uncached, owner := 15, ptrs := [] } else e
  | .shared =>
    let e := if e.owner = a then { e with owner := 15 } else e
    if e.ovf then e
    else
      let ps := e.ptrs.erase a
      if ps.isEmpty then { e with state := .uncached, owner := 15, ptrs := [] } else { e with ptrs := ps }

/-- Entry of a line no agent holds. -/
def dirUncached (e : DirEntry) : DirEntry := { e with state := .uncached, owner := 15, ptrs := [], ovf := false }
/-- Entry of a line one agent owns. -/
def dirExcl (e : DirEntry) (a : Nat) : DirEntry := { e with state := .excl, owner := a, ptrs := [a], ovf := false }

/-! ## An agent's copy -/

/-- The copy an agent holds: in its cache, or granted by the home and on its way to a fill entry. -/
def agentCopy (s : State) (a : Nat) (l : LineAddr) : Option (Coh × Line) :=
  match cacheFind s a l with
  | some w => if w.coh = .invalid then none else some (w.coh, w.content)
  | none => (s.cache.fills.find? (fun f => f.cache == a && f.line == l)).bind (fun f => f.granted)

/-- Change or drop (state I) the copy an agent holds. -/
def agentSet (s : State) (a : Nat) (l : LineAddr) (c : Coh) : State :=
  let s := if c = .invalid then cacheDrop s a l else cacheModify s a l (fun w => { w with coh := c })
  { s with cache := { s.cache with fills := s.cache.fills.map (fun f =>
      if f.cache = a ∧ f.line = l then { f with granted := if c = .invalid then none else f.granted.map (fun g => (c, g.2)) }
      else f) } }

/-- The copy an agent holds, read from its array: corrected words are rewritten there (R336). -/
def copyRead (s : State) (a : Nat) (l : LineAddr) : Line × State :=
  match cacheFind s a l with
  | some w =>
    let r := arrayRead s a (lineDpa s l) w.content
    (r.1, cacheModify r.2 a l (fun w => { w with content := r.1 }))
  | none => ((match agentCopy s a l with | some (_, x) => x | none => poisonLine), s)

/-- What a snoop does at its target (R351, R357): the copy's new state and the data it gives, with whether it was
dirty; a target that holds no copy answers without data. -/
def snoopAct (s : State) (k : SnoopKind) (a : Nat) (l : LineAddr) : State × Option (Line × Bool) :=
  let s := checkSet s a l
  match agentCopy s a l with
  | none => (s, none)
  | some (c, _) =>
    let d := c == .modified
    if k = .inv ∨ (k = .invD ∧ !d) then (agentSet s a l .invalid, none)
    else
      let x := copyRead s a l
      (match k with
        | .fwdS => agentSet x.2 a l .shared
        | .cur => x.2
        | _ => agentSet x.2 a l .invalid, some (x.1, d))

/-! ## Recall (R349) -/

/-- Every holder of a tracked line is invalidated and a dirty copy written into the Granary. -/
def recallEntry (s : State) (e : DirEntry) : State :=
  let l : LineAddr := ⟨e.space, e.line⟩
  let s := (dirSharers s e).foldl (fun s a =>
    let r := snoopAct s .invD a l
    match r.2 with
    | some x => homeTakeDirty r.1 l x.1
    | none => r.1) s
  bumpCoh (dirPut s l {}) 63 48 1

/-- Make room for a line in the directory: a recall of a victim by R328 among entries that are not BUSY. -/
def dirReserve (s : State) (l : LineAddr) : Option State :=
  let es := getDirSet s l
  if l.space = 2 || (dirFind es l).isSome || es.any (fun e => !e.live) then some s
  else
    let el := (List.range 16).filter (fun i => !(es.getD i {}).busy)
    let oldest := el.foldl (fun m i => max m (es.getD i {}).age) 0
    let es' := if el.any (fun i => (es.getD i {}).age == 3) then es
      else el.foldl (fun es i => es.modify i (fun e => { e with age := e.age + (3 - oldest) })) es
    match el.find? (fun i => (es'.getD i {}).age == 3) with
    | some i => some (recallEntry (setDirSet s l es') (es'.getD i {}))
    | none => none

/-! ## Offers (R331, R332, R351) -/

/-- Whether a fill is one of the fills of a cache, a Granary slice's by the line. -/
def sameFills (c : Nat) (l : LineAddr) (f : Fill) : Bool := f.cache == c && (c != 12 || homeSlice f.line.line == homeSlice l.line)

/-- Fill entries in use at a cache, or at a line's home slice: 64 at most, further misses wait (R323). -/
def fillsOf (s : State) (c : Nat) (l : LineAddr) : Nat := min 64 ((s.cache.fills.filter (sameFills c l)).length)

/-- A fill holds one of its cache's 64 entries: 64 older ones do not (R323). -/
def fillActive (s : State) (f : Fill) : Bool :=
  ((s.cache.fills.filter (sameFills f.cache f.line)).take 64).contains f

/-- An agent evicts a line and offers it to its home. -/
def homeOffer (s : State) (a : Nat) (w : Way) : State :=
  let l : LineAddr := ⟨w.space, w.line⟩
  let s := cacheDrop s a l
  let s :=
    if w.coh = .modified then homeTakeDirty s l w.content
    else if l.space = 2 || (cacheFind s 12 l).isSome then s
    else if !bitOf s.cache.cfg 2 || w.stream || decide (field s.cache.cfg 15 8 ≤ fillsOf s 12 l) then bumpCacheErr s 63 48 1
    else granaryInsert s l w.content false false 2
  dirPut s l (removeHolder (dirGet s l) a)

/-- Place a line in an agent's cache, its victim offered (R322, R327, R328, R331). A fill for which no way is eligible waits before it comes here
(R328); without one, the copy is offered at once: it is not kept (log 43). -/
def agentPlace (s : State) (a : Nat) (l : LineAddr) (c : Coh) (x : Line) (ctx : BitVec 20) (how : FillHow) : State :=
  let new : Way := { valid := true, space := l.space, line := l.line, coh := c, age := insertAge how, ctx := ctx,
                     stream := how == .streaming, content := x }
  match findWay (getWays s a l) l with
  | some i => setWays s a l ((getWays s a l).set i new)
  | none =>
    match victim s a (getWays s a l) with
    | some (i, ws) =>
      let old := ws.getD i {}
      let s := if old.valid then homeOffer (setWays s a l ws) a old else setWays s a l ws
      setWays s a l ((getWays s a l).set i new)
    | none => homeOffer s a new

/-! ## Atomics (R358) -/

/-- Width in bytes of SIZE (R466). -/
def sizeBytes (size : BitVec 3) : Nat := 2 ^ size.toNat

/-- New value of an atomic, nothing when CAS does not write, nor for a width or an operation that R358 does not offer. -/
def atomNew (op w old v cmp : Nat) : Option Nat :=
  let n := 8 * w
  let le := decide (signed n old ≤ signed n v)
  if !(w == 4 || w == 8 || (w == 16 && decide (8 ≤ op))) then none
  else match op with
  | 0 => some ((old + v) % 2 ^ n)
  | 1 => some (old &&& v)
  | 2 => some (old ||| v)
  | 3 => some (old ^^^ v)
  | 4 => some (if le then v else old)
  | 5 => some (if le then old else v)
  | 6 => some (max old v)
  | 7 => some (min old v)
  | 8 => some v
  | 9 => if old = cmp then some v else none
  | _ => none

/-- Mask of w bytes at offset `off` of a line. -/
def byteMask (off w : Nat) : Nat := (2 ^ w - 1) * 2 ^ off

/-- 64 bytes of write data with `bs` at offset `off`. -/
def lineData (off : Nat) (bs : List Byte) : List Byte := slice (List.replicate off 0 ++ bs) 0 64

/-- What an atomic does to a line: the line after, the old value of each lane, whether anything was written, and whether a word it
reads is poisoned. -/
structure AtomDone where
  after : Line
  olds : List (BitVec 128)
  wrote : Bool
  poison : Bool
deriving DecidableEq, Repr

/-- Whether a word that w bytes at an offset touch is uncorrectable (R301). -/
def wordsPoisoned (x : Line) (off w : Nat) : Bool := (badWords x).any (fun i => decide (off / 8 ≤ i) && decide (8 * i < off + w))

/-- The lanes of an atomic on a line, in order. A poisoned word gives no old value and takes no value formed from it: only
SWAP writes it (R301). -/
def atomLine (x : Line) (args : AtomArgs) : AtomDone :=
  let w := sizeBytes args.size
  args.lanes.foldl (fun r ln =>
    let bad := wordsPoisoned r.after args.off w
    let old := if bad then 0 else fieldLE r.after.data args.off w
    match (if bad && args.op != 8 then none else atomNew args.op.toNat w old (ln.1.toNat % 2 ^ (8 * w)) (ln.2.toNat % 2 ^ (8 * w))) with
    | some v => ⟨lineMerge r.after (lineData args.off (toLE w v)) (byteMask args.off w), r.olds ++ [BitVec.ofNat 128 old], true, r.poison || bad⟩
    | none => ⟨r.after, r.olds ++ [BitVec.ofNat 128 old], r.wrote, r.poison || bad⟩) ⟨x, [], false, false⟩

/-- The operations R358 offers: 4 or 8 bytes, aligned in one line; SWAP and CAS also 16. -/
def atomOk (args : AtomArgs) : Bool :=
  decide (args.op.toNat < 10) && (args.size == 2 || args.size == 3 || (args.size == 4 && decide (8 ≤ args.op.toNat)))
  && args.off % sizeBytes args.size == 0 && decide (args.off + sizeBytes args.size ≤ 64)

/-! ## Requests at the home (R350, R351) -/

/-- What the home sends back to the requester. -/
structure Answer where
  data : Option Line
  coh : Coh
  olds : List (BitVec 128) := []
  contended : Bool := false
  poison : Bool := false
deriving DecidableEq, Repr

/-- Agents 0 to 11 that are fitted keep copies; the others read and write at the home (R345, R464). -/
def keepsCopies (s : State) (a : Nat) : Bool := (presentAgents s).contains a

/-- A holder of the line by its directory entry (R351 rows UPG). -/
def isHolder (s : State) (e : DirEntry) (a : Nat) (l : LineAddr) : Bool :=
  match e.state with
  | .uncached => false
  | .excl => e.owner == a
  | .shared => e.ptrs.contains a || (e.ovf && (agentCopy s a l).isSome)

/-- Snoops a request calls for (R351), target and kind. -/
def snoopsFor (s : State) (e : DirEntry) (r : HomeReq) : List (Nat × SnoopKind) :=
  let a := r.agent
  let others (skip : Nat) := ((dirSharers s e).filter (fun b => b != a && b != skip)).map (fun b => (b, SnoopKind.inv))
  match e.state, r.req with
  | .uncached, _ => []
  | .excl, .rds => if e.owner = a then [] else [(e.owner, .fwdS)]
  | .excl, .rdo => if e.owner = a then [] else [(e.owner, .fwdI)]
  | .excl, .upg => []
  | .excl, .rdcur => if e.owner = a then [] else [(e.owner, .cur)]
  | .excl, .wrline => [(e.owner, .invD)]
  | .excl, .atom => [(e.owner, .invD)]
  | .shared, .rds => if e.owner = 15 ∨ e.owner = a then [] else [(e.owner, .fwdS)]
  | .shared, .rdo => (if e.owner = 15 ∨ e.owner = a then [] else [(e.owner, .fwdI)]) ++ others e.owner
  | .shared, .upg => others a
  | .shared, .rdcur => []
  | .shared, .wrline => (dirSharers s e).map (fun b => (b, .inv))
  | .shared, .atom => (dirSharers s e).map (fun b => (b, .inv))

/-- Whether a request's invalidations are a broadcast (R348). -/
def isBroadcast (e : DirEntry) (k : ReqKind) : Bool :=
  e.ovf && e.state == .shared && (k == .rdo || k == .upg || k == .wrline || k == .atom)

/-- Another agent's ATOM or RDO reached the line in the last 256 F-cycles, 128 A-cycles (R360). -/
def recentOther (s : State) (r : HomeReq) : Bool :=
  s.cache.recent.any (fun x => x.1 == r.line && x.2.1 != r.agent && decide (s.tick ≤ x.2.2 + 128))

/-- The home notes an ATOM or RDO on a line (R360). -/
def noteRecent (s : State) (r : HomeReq) : State :=
  if r.req = .rdo ∨ r.req = .atom then
    { s with cache := { s.cache with recent :=
        (s.cache.recent.filter (fun x => decide (s.tick ≤ x.2.2 + 128) && !(x.1 == r.line && x.2.1 == r.agent)))
          ++ [(r.line, r.agent, s.tick)] } }
  else s

/-- Number of the writer whose write reaches the Granary front (R325): a Rick's unit by its port, else the agent. -/
def frontWriter (r : HomeReq) : Nat := if r.agent < 4 then r.info.port else 64 + r.agent

/-- How the fill of a request inserts (R326, R327): a streaming writer's and a NORMAL-STREAM read's as a streaming fill. -/
def howOf (s : State) (r : HomeReq) : FillHow := if r.info.stream || streamingWriter s 12 (frontWriter r) then .streaming else .demand

/-- A write reaches the Granary front (R325, R326): its writer's detector moves; Granger has none, and an empty
mask writes nothing. -/
def frontStreaming (s : State) (r : HomeReq) : Bool × State :=
  if r.agent = 21 || r.mask == 0 then (false, s)
  else
    let d := detectWrite s 12 (frontWriter r) r.line
    (d.1 || r.info.stream, d.2)

/-- The home's answer once every snoop has answered: `content` is the data a holder forwarded, `dirty` whether it was
in M, `held` whether a holder was found (R351, R359). -/
def homeFinish (s : State) (r : HomeReq) (content : Option Line) (dirty held : Bool) : Answer × State :=
  let l := r.line
  let s := match content with
    | some x => if dirty && r.req != .rdcur then homeTakeDirty s l x else s
    | none => s
  let e := dirGet s l
  match r.req with
  | .rds =>
    let d : Line × State := match content with
      | some x => (x, s)
      | none => homeFetch s l (howOf s r) false
    let s := d.2
    if !keepsCopies s r.agent then ({ data := some d.1, coh := .invalid }, s)
    else if e.state = .uncached then ({ data := some d.1, coh := .exclusive }, dirPut s l (dirExcl e r.agent))
    else if e.state = .excl ∧ e.owner = r.agent then
      match agentCopy s r.agent l with
      | some (c, x) => ({ data := some x, coh := c }, s)
      | none => ({ data := some d.1, coh := .exclusive }, s)
    else
      let e' : DirEntry := if e.state = .excl then { e with state := .shared, ptrs := [e.owner] } else e
      ({ data := some d.1, coh := .forward }, dirPut s l { addSharer e' r.agent with owner := r.agent })
  | .rdo =>
    let d : Option Line × State := match content with
      | some x => (some x, s)
      | none => match agentCopy s r.agent l with
        | some (_, x) => (some x, s)
        | none =>
          if wholeLine r.mask.toNat then
            (none, if l.space = 1 then emit s (.d2h "RdOwnNoData" l.line) else s)
          else let d := homeFetch s l (howOf s r) true; (some d.1, d.2)
    if !keepsCopies s r.agent then ({ data := d.1, coh := .invalid }, d.2)
    else
      let keepM := dirty || (match agentCopy s r.agent l with | some (.modified, _) => true | _ => false)
      ({ data := d.1, coh := if keepM then .modified else .exclusive }, noteRecent (dirPut d.2 l (dirExcl e r.agent)) r)
  | .upg =>
    let s := if e.state = .excl then s else agentSet (ownHostLine s l) r.agent l .exclusive
    ({ data := none, coh := .exclusive }, dirPut s l (dirExcl e r.agent))
  | .rdcur =>
    match content with
    | some x => ({ data := some x, coh := .invalid }, s)
    | none => let d := homeFetch s l (howOf s r) false; ({ data := some d.1, coh := .invalid }, d.2)
  | .wrline =>
    let st := frontStreaming s r
    ({ data := none, coh := .invalid }, dirPut (homeStore st.2 l r.data r.mask.toNat st.1 r.info.ctx) l (dirUncached e))
  | .atom =>
    let d := homeFetch s l .demand true
    let x := atomLine d.1 r.args
    let s := if x.wrote then homeTakeDirty d.2 l x.after else d.2
    ({ data := none, coh := .invalid, olds := x.olds, contended := held || recentOther s r, poison := x.poison },
      noteRecent (dirPut s l (dirUncached e)) r)

/-- Every snoop of a request performed at once (a request whose transaction is not split in steps). -/
def snoopAll (s : State) (l : LineAddr) (ks : List (Nat × SnoopKind)) : State × Option Line × Bool :=
  ks.foldl (fun (acc : State × Option Line × Bool) k =>
    let r := snoopAct acc.1 k.2 k.1 l
    match r.2 with
    | some (x, d) => (r.1, some x, acc.2.2 || d)
    | none => (r.1, acc.2.1, acc.2.2)) (s, none, false)

/-! ## Contention predictor (R360) -/

/-- Counter of agent a for a line. -/
def predKey (a : Nat) (l : LineAddr) : Nat :=
  let k := l.line
  1024 * a + (k ^^^ (k >>> 10) ^^^ (k >>> 20) ^^^ (k >>> 30)) % 1024

def predMove (s : State) (a : Nat) (l : LineAddr) (up : Bool) : State :=
  let v := look 0 s.cache.pred (predKey a l)
  { s with cache := { s.cache with pred := put 0 s.cache.pred (predKey a l) (if up then min 3 (v + 1) else v - 1) } }

/-! ## Admission of coherent requests (R303, R304, R317, R339, R426, R454) -/

/-- Verdict on a coherent request to a line: Granger is always admitted, the Hatch and snoops are the host's, and the host has
no path to the Loft (R339). -/
def coherentCheck (s : State) (a : Nat) (l : LineAddr) (ctx : BitVec 20) (acc : AccessKind) : Verdict :=
  if l.space = 0 then
    if a = 21 then (if poolBytes s ≤ 64 * l.line then .refuse stProtection 1 else .ok)
    else if a = 20 then hostCheck s (64 * l.line) acc
    else ownerCheck s (64 * l.line) ctx acc false
  else if l.space = 1 then
    if !s.hl.cxlActive then .refuse stProtection 0
    else if s.hl.frozen then .refuse stTargetLost 0
    else .ok
  else if l.space = 2 then
    if a = 20 then .refuse stProtection 0
    else if a = 21 then (if loftBytes s ≤ 64 * l.line then .refuse stProtection 1 else .ok)
    else loftCheck s (64 * l.line) ctx acc
  else .refuse stProtection 0

/-- A refused coherent request: counted and logged under its context; the host's only counted and logged (R303). -/
def coherentRefuse (s : State) (a : Nat) (l : LineAddr) (ctx : BitVec 20) (row : Nat) : State :=
  if a = 20 then logError (countRefuse s) clsContained srcAccess 0 (lineDpa s l) 0 row
  else refuseCtx s ctx (lineDpa s l) (lineDpa s l) row (l.space != 1)

/-- What kind of access a request is for the owner check. -/
def reqAccess (k : ReqKind) : AccessKind :=
  match k with
  | .rds => .read | .rdcur => .read | .rdo => .write | .upg => .write | .wrline => .write | .atom => .atomic

/-! ## NACK and retry (R354 to R356) -/

/-- Whether two lines have one home slice. -/
def sameSlice (s : State) (l m : LineAddr) : Bool := lineSlice s.cache.loftWays l == lineSlice s.cache.loftWays m

/-- A request refused with NACK: its count on the line rises; the fourth makes it starving, and an agent has one starving request
at a home, so a further one stays at three (R356). -/
def nackNote (s : State) (r : HomeReq) : State :=
  let same (n : Nack) := n.req.agent == r.agent && n.req.line == r.line
  let old := s.cache.nacks.find? same
  let other := s.cache.nacks.any (fun n => n.req.agent == r.agent && !same n && sameSlice s n.req.line r.line && decide (4 ≤ n.count))
  let n : Nack := match old with
    | some x => { x with req := r, count := if x.count = 3 ∧ other then 3 else x.count + 1 }
    | none => ⟨r, 1, s.tick⟩
  let s := bumpCoh s 23 0 1
  let s := if n.count = 4 then bumpCoh s 31 24 1 else s
  let nacks := match old with
    | some x => s.cache.nacks.map (fun y => if y = x then n else y)
    | none => s.cache.nacks ++ [n]
  emit { s with cache := { s.cache with nacks := nacks } } (.agentNack r.agent r.line)

/-- The agent's NACK record on the line ends when its request is admitted. -/
def nackClear (s : State) (r : HomeReq) : State :=
  { s with cache := { s.cache with nacks := s.cache.nacks.filter (fun n => !(n.req.agent == r.agent && n.req.line == r.line)) } }

/-- The starving request on a line that is admitted next (R356): the nacks stand in the order of their first NACK. -/
def starvingNext (s : State) (l : LineAddr) : Option Nat :=
  (s.cache.nacks.find? (fun n => n.req.line == l && decide (4 ≤ n.count))).map (fun n => n.req.agent)

/-- Shared request-queue entries in use at a slice (R355): transactions and joined fills not on a reserved entry. -/
def queueUsed (s : State) (l : LineAddr) : Nat :=
  (s.cache.txns.filter (fun t => !t.reserved && sameSlice s t.req.line l)).length
  + (s.cache.fills.filter (fun f => f.cache == 12 && sameSlice s f.line l)).foldl
      (fun n f => n + (f.waiters.length - f.kept.length)) 0

/-- The reserved queue entry of an agent at a line's slice is in use (R355). -/
def keptUsed (s : State) (a : Nat) (l : LineAddr) : Bool :=
  s.cache.txns.any (fun t => t.reserved && t.req.agent == a && sameSlice s t.req.line l)
  || s.cache.fills.any (fun f => f.cache == 12 && sameSlice s f.line l && f.kept.contains a)

/-- Why a request is NACKed before it is looked at: its line is BUSY, another agent's starving request waits for the line, or no queue entry
is left for it (R354 to R356). -/
def turnedAway (s : State) (a : Nat) (l : LineAddr) (retry : Bool) : Bool :=
  (dirGet s l).busy || !(starvingNext s l == none || starvingNext s l == some a)
  || (!(retry && !keptUsed s a l) && decide (42 ≤ queueUsed s l))

/-! ## Prefetch (R329, R330) -/

/-- Lines of the same 2 MiB granule, or 4 KiB host page, as the access that triggered a prefetch. -/
def samePage (a b : LineAddr) : Bool :=
  a.space == b.space && (if a.space = 1 then a.line / 64 == b.line / 64 else a.line / 32768 == b.line / 32768)

/-- A slice's fill of a host line asks the host for it, in ownership for a write or an atomic, under a tag of its own (R435, R437), once
it has an entry. -/
def askHost (s : State) (l : LineAddr) (own : Bool) (ctx : BitVec 20) : State :=
  if l.space = 1 ∧ fillsOf s 12 l < 64 then openHostReq (emit s (.d2h (if own then "RdOwn" else "RdShared") l.line)) (.cacheRead l own) ctx .nobody else s

/-- One prefetch into cache c: dropped when forbidden, present, already filling, or short of fill entries. -/
def prefetchLine (s : State) (c : Nat) (ctx : BitVec 20) (l : LineAddr) (streaming : Bool) : State :=
  if coherentCheck s c l ctx .read ≠ .ok ∨ (cacheFind s c l).isSome ∨ s.cache.fills.any (fun f => f.cache == c && f.line == l)
    ∨ 64 < fillsOf s c l + 16 then s
  else
    let s := if c = 12 then askHost s l false ctx else s
    { s with cache := { s.cache with fills := s.cache.fills ++ [{ cache := c, line := l, how := if streaming then .streaming else .prefetch, ctx := ctx }] } }

/-- Streams of a cache: 64 per Bin, 256 at the Granary front. -/
def streamLimit (c : Nat) : Nat := if c = 12 then 256 else 64

/-- The stream matched least recently, of several the one of the lowest number. -/
def oldestStream (ss : List PrefStream) : Option PrefStream :=
  ss.foldl (fun m x => match m with
    | none => some x
    | some y => if x.matched < y.matched then some x else some y) none

/-- A new stream takes a free one of its cache, else the one matched least recently (R329). -/
def placeStream (ss : List PrefStream) (new : PrefStream) : List PrefStream :=
  let here := ss.filter (fun p => p.cache == new.cache)
  if here.length < streamLimit new.cache then ss ++ [new]
  else match oldestStream here with
    | some p => ss.set (ss.findIdx (fun q => q == p)) new
    | none => ss

/-- The next lines of a stream, as far as its degree reaches (R329, R330). -/
def fetchAhead (s : State) (c : Nat) (ctx : BitVec 20) (p : PrefStream) : State :=
  (List.range p.ahead).foldl (fun s (i : Nat) =>
    let t := (p.last.line : Int) + p.stride * ((i + 1 : Nat) : Int)
    let tl : LineAddr := ⟨p.last.space, t.toNat⟩
    if t < 0 || !samePage p.last tl then s else prefetchLine s c ctx tl (decide (32 ≤ p.predicted) && p.stride == 1)) s

/-- Streams watch at this cache: its bit of CACHE_CFG, and, at the Granary front, lines the Granary holds (R329, R342). -/
def prefetchOn (s : State) (c : Nat) (l : LineAddr) : Bool :=
  if c = 12 then bitOf s.cache.cfg 1 && l.space != 2 else decide (c < 4) && bitOf s.cache.cfg 0

/-- A demand access of one requester (R329): it advances the confirmed stream that predicts it, which fetches ahead; a miss that no stream
predicts returns the requester's streams to unconfirmed and moves or allocates one. -/
def prefetchNote (s : State) (c port : Nat) (ctx : BitVec 20) (l : LineAddr) (miss : Bool) : State :=
  if !prefetchOn s c l then s
  else
    let mine (p : PrefStream) := p.cache == c && p.port == port
    let step (p : PrefStream) : Int := (l.line : Int) - p.last.line
    match s.cache.streams.find? (fun p => mine p && p.confirmed && p.last.space == l.space && p.stride == step p) with
    | some p =>
      let n := p.predicted + 1
      let p' := { p with last := l, predicted := n, ahead := min 16 (4 + 4 * (n / 8)), matched := s.tick }
      fetchAhead { s with cache := { s.cache with streams := s.cache.streams.map (fun q => if q = p then p' else q) } } c ctx p'
    | none =>
      if !miss then s
      else
        let ss := s.cache.streams.map (fun p => if mine p && p.confirmed then { p with confirmed := false, predicted := 0, ahead := 0 } else p)
        match ss.find? (fun p => mine p && p.last.space == l.space && step p != 0 && decide ((step p).natAbs ≤ 32)) with
        | some p =>
          let sure := p.stride == step p
          let p' := { p with last := l, stride := step p, confirmed := sure, ahead := if sure then 4 else 0, matched := s.tick }
          fetchAhead { s with cache := { s.cache with streams := ss.map (fun q => if q = p then p' else q) } } c ctx p'
        | none => { s with cache := { s.cache with streams := placeStream ss ⟨c, port, l, 0, false, 0, 0, s.tick⟩ } }

/-- A miss of a Bin, an engine-port cache, a copy engine or the Hatch reaches the Granary front (R329). -/
def frontNote (s : State) (r : HomeReq) : State :=
  if r.agent ≤ 20 ∧ (r.req = .rds ∨ r.req = .rdo ∨ r.req = .rdcur) then
    prefetchNote s 12 r.agent r.info.ctx r.line (cacheFind s 12 r.line).isNone
  else s

/-! ## Answers and fills -/

/-- The state a copy is granted in, as an answer names it (R346). -/
def cohName (c : Coh) : String :=
  match c with
  | .modified => "M" | .exclusive => "E" | .shared => "S" | .forward => "F" | .invalid => "I"

/-- The home's answer to a request (R351): data for a fill entry waits there until FILL_ARRIVAL (R322), anything else is emitted; an atomic's
completion moves its agent's predictor (R360). -/
def sendAnswer (s : State) (r : HomeReq) (a : Answer) : State :=
  if r.req = .atom then
    let s := emit s (.atomResult r.agent a.olds a.contended a.poison)
    if keepsCopies s r.agent then predMove s r.agent r.line a.contended else s
  else if r.req = .wrline then emit s (.agentDone r.agent r.line)
  else match a.data with
    | some x =>
      if a.coh != .invalid && s.cache.fills.any (fun f => f.cache == r.agent && f.line == r.line) then
        { s with cache := { s.cache with fills := s.cache.fills.map (fun f =>
          if f.cache = r.agent ∧ f.line = r.line then { f with granted := some (a.coh, x) } else f) } }
      else emit s (.agentData r.agent r.line (cohName a.coh) a.data)
    | none => emit s (.agentData r.agent r.line (cohName a.coh) none)

/-- A request whose snoops are over needs the line fetched from behind the Granary (R322, R324, R351). -/
def missesHome (s : State) (r : HomeReq) (content : Option Line) : Bool :=
  content.isNone && r.line.space != 2 && (cacheFind s 12 r.line).isNone && (agentCopy s r.agent r.line).isNone
  && (match r.req with
    | .rds => true | .rdcur => true | .atom => true | .upg => false
    | .rdo => !wholeLine r.mask.toNat
    | .wrline => r.mask != 0 && !wholeLine r.mask.toNat && !(frontStreaming s r).1)

/-- A request joins the fill of its line at the slice, or opens one (R323); `kept` says that it holds its agent's reserved entry. -/
def joinSlice (s : State) (r : HomeReq) (kept : Bool) : State :=
  let mine := if kept then [r.agent] else []
  let open_ := !s.cache.fills.any (fun f => f.cache == 12 && f.line == r.line)
  let s := if open_ then askHost s r.line (r.req != .rds && r.req != .rdcur) r.info.ctx else s
  let fills := if !open_ then
      s.cache.fills.map (fun f => if f.cache = 12 ∧ f.line = r.line then { f with waiters := f.waiters ++ [r], kept := f.kept ++ mine } else f)
    else s.cache.fills ++ [{ cache := 12, line := r.line, waiters := [r], how := howOf s r, ctx := r.info.ctx, kept := mine, asked := true }]
  { s with cache := { s.cache with fills := fills } }

/-- A request takes a way of the directory for its line (R347, R349). -/
def takesEntry (s : State) (r : HomeReq) : Bool := (r.req == .rds || r.req == .rdo) && keepsCopies s r.agent

/-- Room in the directory for a request that needs it; none while every way of the set is BUSY (R349). -/
def roomFor (s : State) (r : HomeReq) : Option State := if takesEntry s r then dirReserve s r.line else some s

/-- A request that joined a fill is served: one for which the directory has no room is NACKed. -/
def serveWaiter (s : State) (r : HomeReq) : State :=
  match roomFor s r with
  | none => nackNote s r
  | some s =>
    let k := snoopsFor s (dirGet s r.line) r
    let g := snoopAll s r.line k
    let x := homeFinish g.1 r g.2.1 g.2.2 (!k.isEmpty)
    sendAnswer x.2 r x.1

/-- The younger of two ways to insert a fill (R327). -/
def younger (a b : FillHow) : FillHow := if insertAge a ≤ insertAge b then a else b

/-- How a slice's fill inserts: at the lowest age that any request that joined would give (R327). -/
def fillHow (s : State) (f : Fill) : FillHow := f.waiters.foldl (fun h r => younger h (howOf s r)) f.how

/-- A fill of a slice serves a write or an atomic, for which a host line is asked for in ownership (R435). -/
def fillOwns (f : Fill) : Bool := f.waiters.any (fun r => r.req != .rds && r.req != .rdcur)

/-- The line that a slice's fill brings: a host line in ownership where a request that joined needs it (R322, R435). -/
def fillRead (s : State) (f : Fill) : Line × State :=
  if f.line.space = 1 then
    let asked (own : Bool) := s.hl.hostReqs.any (fun r => r.kind == .cacheRead f.line own)
    let d2h := if fillOwns f then (if asked true then none else some "RdOwn") else if asked false || asked true then none else some "RdShared"
    let s := { s with hl := { s.hl with hostReqs := s.hl.hostReqs.filter (fun r => r.kind != .cacheRead f.line true && r.kind != .cacheRead f.line false) } }
    (hostLine s f.line.line, match d2h with | some q => emit s (.d2h q f.line.line) | none => s)
  else backRead s f.line (fillOwns f)

/-- All eight words of a slice's fill arrive (R322, R323): the line is placed, and the requests that joined are answered in arrival order. While no
way is eligible it waits (R328). -/
def granaryFillArrive (s : State) (f : Fill) : State :=
  if !canPlace s 12 f.line then s
  else
    let s := { s with cache := { s.cache with fills := s.cache.fills.erase f } }
    let s := match cacheFind s 12 f.line with
      | some _ => s
      | none => let r := fillRead s f; granaryInsert r.2 f.line r.1 false (fillOwns f) (insertAge (fillHow s f))
    f.waiters.foldl serveWaiter s

/-- The last awaited answer is in: the line leaves BUSY, and the home answers or fetches the line (R351, R354). -/
def finishTxn (s : State) (t : Txn) : State :=
  let s := { s with cache := { s.cache with txns := s.cache.txns.erase t } }
  let s := dirPut s t.req.line { dirGet s t.req.line with busy := false }
  if missesHome s t.req t.content then joinSlice s t.req t.reserved
  else
    let x := homeFinish s t.req t.content t.dirtySeen t.held
    sendAnswer x.2 t.req x.1

/-! ## Whole transactions -/

/-- A step that acts on a line as a whole waits for the transaction or the fill in progress there, which end first. -/
def settleLine (s : State) (l : LineAddr) : State :=
  let s := (s.cache.txns.filter (fun t => t.req.line == l)).foldl (fun s t =>
    let pend := s.cache.snoops.filter (fun k => k.line == l && !k.done)
    let g := snoopAll s l (pend.map (fun k => (k.holder, k.kind)))
    let doneData := (s.cache.snoops.filter (fun k => k.line == l && k.done)).foldl
      (fun (acc : Option Line × Bool) k => (match k.content with | some x => some x | none => acc.1, acc.2 || k.dirty))
      (t.content, t.dirtySeen)
    let t' := { t with content := match g.2.1 with | some x => some x | none => doneData.1, dirtySeen := doneData.2 || g.2.2 }
    finishTxn { g.1 with cache := { g.1.cache with
      snoops := g.1.cache.snoops.filter (fun k => k.line != l), txns := g.1.cache.txns.map (fun u => if u = t then t' else u) } } t') s
  (s.cache.fills.filter (fun f => f.cache == 12 && f.line == l)).foldl granaryFillArrive s

/-- Starving requests of other agents on a line go first, in the order of their first NACK (R356). -/
def serveStarving (s : State) (a : Nat) (l : LineAddr) : State :=
  (s.cache.nacks.filter (fun n => n.req.line == l && n.req.agent != a && decide (4 ≤ n.count))).foldl
    (fun s n => serveWaiter (nackClear s n.req) n.req) s

/-- A whole-step request reaches its home: one that is turned away is NACKed, and retries once the transaction in progress, and the starving
requests before it, are over (R354 to R356; log 46). -/
def reachHome (s : State) (a : Nat) (l : LineAddr) (r : HomeReq) : State :=
  let s := checkHome s l
  let s := serveStarving (settleLine (if turnedAway s a l false then nackNote s r else s) l) a l
  nackClear s r

/-- While no way of a line's set is eligible, the transactions and fills of its lines end first: the fill waits for them (R328). -/
def makeRoom (s : State) (c : Nat) (l : LineAddr) : State :=
  if canPlace s c l then s
  else (getWays s c l).foldl (fun s w => settleLine s ⟨w.space, w.line⟩) s

/-- Room in the directory for a whole-step request: while every way of the set is BUSY, those transactions end first (R349). -/
def makeDirRoom (s : State) (r : HomeReq) : State :=
  match roomFor s r with
  | some s' => s'
  | none =>
    let s := (getDirSet s r.line).foldl (fun s e => settleLine s ⟨e.space, e.line⟩) s
    (roomFor s r).getD s

/-- A whole transaction at the home as one step: those before it end, the directory and the Granary find room, every snoop acts, the home
answers. -/
def homeRun (s : State) (r : HomeReq) : Answer × State :=
  let s := makeDirRoom (makeRoom (reachHome s r.agent r.line r) 12 r.line) r
  let s := frontNote s r
  let e := dirGet s r.line
  let k := snoopsFor s e r
  let s := if isBroadcast e r.req then bumpCoh s 47 32 1 else s
  let g := snoopAll s r.line k
  homeFinish g.1 r g.2.1 g.2.2 (!k.isEmpty)

def noArgs : AtomArgs := ⟨0, 0, 0, []⟩

/-- A request without data of a requester port. -/
def readReq (a port : Nat) (l : LineAddr) (k : ReqKind) (ctx : BitVec 20) (stream : Bool) : HomeReq :=
  ⟨a, l, k, ⟨ctx, stream, port⟩, [], 0, noArgs⟩

/-- A WRLINE of a writer. -/
def writeReq (a port : Nat) (l : LineAddr) (data : List Byte) (mask : Nat) (ctx : BitVec 20) (stream : Bool) : HomeReq :=
  ⟨a, l, .wrline, ⟨ctx, stream, port⟩, data, BitVec.ofNat 64 mask, noArgs⟩

/-- A line read without keeping a copy (RDCUR). -/
def readCur (s : State) (a : Nat) (l : LineAddr) (ctx : BitVec 20) (stream : Bool) : Line × State :=
  let r := homeRun s (readReq a a l .rdcur ctx stream)
  (r.1.data.getD poisonLine, r.2)

/-- A line written under a mask without keeping a copy (WRLINE). -/
def writeLine (s : State) (a : Nat) (l : LineAddr) (data : List Byte) (mask : Nat) (ctx : BitVec 20) (stream : Bool) : State :=
  (homeRun s (writeReq a a l data mask ctx stream)).2

/-! ## Fills of an agent (R322, R323) -/

/-- A granted line is placed and its requester served; while no way is eligible it waits in its entry (R322, R328). -/
def placeFill (s : State) (f : Fill) (c : Coh) (x : Line) : State :=
  if canPlace s f.cache f.line then
    let s := agentPlace s f.cache f.line c x f.ctx f.how
    if f.asked then emit s (.agentData f.cache f.line (cohName c) (some x)) else s
  else { s with cache := { s.cache with fills := s.cache.fills ++ [{ f with granted := some (c, x) }] } }

/-- All words of a miss arrive at an agent's cache (R322): a granted line is placed. An entry that has not asked its home yet (a prefetch, or a miss
that waited for an entry) asks now, and is checked now: a forbidden prefetch is dropped (R305), a refused miss ends (R303, R339). -/
def agentFillArrive (s : State) (f : Fill) : State :=
  let s := { s with cache := { s.cache with fills := s.cache.fills.erase f } }
  match f.granted with
  | some (c, x) => placeFill s f c x
  | none =>
    match coherentCheck s f.cache f.line f.ctx (reqAccess f.req) with
    | .refuse st row => if f.asked then emit (coherentRefuse s f.cache f.line f.ctx row) (.agentRefused f.cache f.line st) else s
    | .ok =>
      let r := homeRun s (readReq f.cache f.cache f.line f.req f.ctx (f.how == .streaming))
      placeFill r.2 f r.1.coh (r.1.data.getD poisonLine)

/-- The fill entry of an agent for a line. -/
def fillAt (s : State) (c : Nat) (l : LineAddr) : Option Fill := s.cache.fills.find? (fun f => f.cache == c && f.line == l)

/-- An access of an agent to a line with a fill entry joins it: the line arrives, at the lower age of the two, before the access is served
(R323, R327). -/
def joinFill (s : State) (a : Nat) (l : LineAddr) (how : FillHow) : State :=
  match fillAt s a l with
  | none => s
  | some _ =>
    let s := settleLine s l
    match fillAt s a l with
    | none => s
    | some f => agentFillArrive { s with cache := { s.cache with fills := s.cache.fills.map (fun g => if g = f then { f with how := younger f.how how } else g) } }
        { f with how := younger f.how how }

/-! ## Accesses through an agent's cache -/

/-- A hit: the line is there, filled by the same context (R304, R321). -/
def hitWay (s : State) (a : Nat) (l : LineAddr) (ctx : BitVec 20) : Option Way := (cacheFind s a l).filter (fun w => w.ctx == ctx)

/-- A way holds its line in M or E. -/
def ownsWay (w : Option Way) : Bool := match w with | some w => w.coh == .modified || w.coh == .exclusive | none => false

/-- A load of a requester port through an agent's cache: a hit is served there (R304, R327); any other access asks the home, and a caching
agent keeps the copy. -/
def agentRead (s : State) (a port : Nat) (l : LineAddr) (ctx : BitVec 20) (how : FillHow) : Line × State :=
  if !keepsCopies s a then readCur s a l ctx (how == .streaming)
  else
    let s := joinFill (checkSet s a l) a l how
    let s := prefetchNote s a port ctx l (hitWay s a l ctx).isNone
    match hitWay s a l ctx with
    | some w =>
      let r := arrayRead s a (lineDpa s l) w.content
      (r.1, cacheModify r.2 a l (fun w => { w with age := 0, content := r.1 }))
    | none =>
      let r := homeRun s (readReq a port l .rds ctx (how == .streaming))
      let x := r.1.data.getD poisonLine
      (x, agentPlace (makeRoom r.2 a l) a l r.1.coh x ctx how)

/-- The bytes of a store merged into the line an agent owns: a part reads the words it merges into (R336). -/
def storeOwned (s : State) (a : Nat) (l : LineAddr) (data : List Byte) (mask : Nat) (ctx : BitVec 20) : State :=
  let r : Line × State := if wholeLine mask then (zeroLine, s) else copyRead s a l
  cacheModify r.2 a l (fun w => { w with coh := .modified, age := 0, ctx := ctx, content := lineMerge r.1 data mask })

/-- A store through an agent's cache (R324 to R326, R346): in M or E in place; in S or F after UPG; a streaming miss
passes to the home; a whole-line miss takes ownership without the old data; a part fetches and merges. -/
def agentWrite (s : State) (a writer : Nat) (l : LineAddr) (data : List Byte) (mask : Nat) (ctx : BitVec 20) (stream : Bool) : State :=
  if !keepsCopies s a then writeLine s a l data mask ctx stream
  else
    let s := joinFill (checkSet s a l) a l .demand
    let d : Bool × State := if a < 4 then detectWrite s a writer l else (false, s)
    let s := d.2
    if ownsWay (hitWay s a l ctx) then storeOwned s a l data mask ctx
    else
      let s := reachHome s a l (readReq a writer l .rdo ctx stream)
      match hitWay s a l ctx with
      | some w =>
        if ownsWay (some w) then storeOwned s a l data mask ctx
        else storeOwned (homeRun s (readReq a writer l .upg ctx stream)).2 a l data mask ctx
      | none =>
        if d.1 || stream then (homeRun s (writeReq a writer l data mask ctx stream)).2
        else
          let whole := wholeLine mask
          let r := homeRun s { readReq a writer l .rdo ctx false with mask := if whole then BitVec.allOnes 64 else 0 }
          let x := if whole then cleanLine data else lineMerge (r.1.data.getD poisonLine) data mask
          agentPlace (makeRoom r.2 a l) a l .modified x ctx .demand

/-- What an atomic answers: old values, the CONTENDED bit of a far one, whether poison was met, and the state after. -/
structure AtomRun where
  olds : List (BitVec 128)
  contended : Bool
  poison : Bool
  after : State

/-- A far atomic as one step (R359). -/
def farAtomic (s : State) (a : Nat) (l : LineAddr) (ctx : BitVec 20) (args : AtomArgs) : AtomRun :=
  let r := homeRun s ⟨a, l, .atom, ⟨ctx, false, a⟩, [], 0, args⟩
  ⟨r.1.olds, r.1.contended, r.1.poison, r.2⟩

/-- Whether an agent runs its next atomic on a line far (R360, R379); one on a host line runs on the Granary's copy (R361). -/
def runsFar (s : State) (a : Nat) (l : LineAddr) : Bool :=
  if 12 ≤ a || !keepsCopies s a || l.space == 1 then true
  else
    let m := field s.cache.cohCfg 1 0
    if m = 1 then false
    else if m = 2 then true
    else decide (2 ≤ look 0 s.cache.pred (predKey a l))

/-- A far atomic of an agent, whose predictor its completion moves (R360). -/
def farRun (s : State) (a : Nat) (l : LineAddr) (ctx : BitVec 20) (args : AtomArgs) : AtomRun :=
  let r := farAtomic s a l ctx args
  { r with after := if keepsCopies s a then predMove r.after a l r.contended else r.after }

/-- An agent takes a line in E or M before a near atomic, by RDO or UPG where it does not own it (R359, R360). -/
def takeOwned (s : State) (a : Nat) (l : LineAddr) (ctx : BitVec 20) : State :=
  if ownsWay (hitWay s a l ctx) then predMove s a l false
  else
    let away := turnedAway s a l false
    let s := reachHome s a l (readReq a a l .rdo ctx false)
    let kind : ReqKind := if (hitWay s a l ctx).isSome then .upg else .rdo
    let req := readReq a a l kind ctx false
    let snooped := away || !(snoopsFor s (dirGet s l) req).isEmpty
    let r := homeRun s req
    let s := match r.1.data with | some x => agentPlace (makeRoom r.2 a l) a l r.1.coh x ctx .demand | none => r.2
    if snooped then predMove s a l true else s

/-- A near atomic (R359, R360): on the line the agent owns. One that writes nothing leaves its state. -/
def nearAtomicRun (s : State) (a : Nat) (l : LineAddr) (ctx : BitVec 20) (args : AtomArgs) : AtomRun :=
  let s := takeOwned (joinFill (checkSet s a l) a l .demand) a l ctx
  match cacheFind s a l with
  | some w =>
    let r := copyRead s a l
    let x := atomLine r.1 args
    ⟨x.olds, false, x.poison, cacheModify r.2 a l (fun v => { v with coh := if x.wrote then .modified else w.coh, age := 0, content := x.after })⟩
  | none => farRun s a l ctx args

/-- An atomic wherever the predictor runs it (R359, R360). -/
def atomicAccess (s : State) (a : Nat) (l : LineAddr) (ctx : BitVec 20) (args : AtomArgs) : AtomRun :=
  if runsFar s a l then farRun s a l ctx args else nearAtomicRun s a l ctx args

/-! ## Split requests -/

/-- An agent that keeps copies opens a fill entry for its miss (R322); an UPG or a hit has none. -/
def openAgentFill (s : State) (r : HomeReq) : State :=
  if takesEntry s r ∧ (fillAt s r.agent r.line).isNone then
    let s := if r.req = .rds then prefetchNote s r.agent r.info.port r.info.ctx r.line true else s
    { s with cache := { s.cache with fills := s.cache.fills ++
      [{ cache := r.agent, line := r.line, how := howOf s r, ctx := r.info.ctx, req := r.req, asked := true }] } }
  else s

/-- A request for a line whose fill entry at the agent already fetches it joins that entry (R323). -/
def joinsFill (s : State) (r : HomeReq) : Bool :=
  takesEntry s r && (match fillAt s r.agent r.line with | some f => r.req == .rds || f.req == .rdo | none => false)

/-- The entry a request joins: at the lower age of the two, with a request that waits on it (R323, R327). -/
def joinAgentFill (s : State) (r : HomeReq) : State :=
  { s with cache := { s.cache with fills := s.cache.fills.map (fun f =>
    if f.cache = r.agent ∧ f.line = r.line then { f with how := younger f.how (howOf s r), asked := true } else f) } }

/-- An admitted request: it joins a fill at the slice, starts a transaction, opens a fill, or is answered at once. -/
def admitReq (s : State) (r : HomeReq) (kept : Bool) : State :=
  match roomFor s r with
  | none => nackNote s r
  | some s =>
    let s := frontNote (nackClear s r) r
    let e := dirGet s r.line
    let k := snoopsFor s e r
    if s.cache.fills.any (fun f => f.cache == 12 && f.line == r.line) then joinSlice s r kept
    else if k.isEmpty then
      if missesHome s r none then joinSlice s r kept
      else
        let x := homeFinish s r none false false
        sendAnswer x.2 r x.1
    else
      let s := if isBroadcast e r.req then bumpCoh s 47 32 1 else s
      let s := dirPut s r.line { e with busy := true }
      { s with cache := { s.cache with
        txns := s.cache.txns ++ [⟨r, k.map (fun p => p.1), none, false, true, kept⟩],
        snoops := s.cache.snoops ++ k.map (fun p => { holder := p.1, line := r.line, kind := p.2 }) } }

/-- A request reaches its home (R303, R304, R317, R351, R354 to R357). One that joins its agent's fill entry, or that waits for a free one, does not go
on to the home (R323). -/
def requestHome (s : State) (r : HomeReq) (retry : Bool) : State :=
  match coherentCheck s r.agent r.line r.info.ctx (reqAccess r.req) with
  | .refuse st row => emit (coherentRefuse s r.agent r.line r.info.ctx row) (.agentRefused r.agent r.line st)
  | .ok =>
    if !retry && joinsFill s r then joinAgentFill s r
    else if !retry && takesEntry s r && (fillAt s r.agent r.line).isNone && decide (64 ≤ fillsOf s r.agent r.line) then openAgentFill s r
    else
      let s := checkHome (openAgentFill s r) r.line
      if turnedAway s r.agent r.line retry then nackNote s r
      else if r.req = .upg && !isHolder s (dirGet s r.line) r.agent r.line then nackNote s { r with req := .rdo }
      else admitReq s r (retry && !keptUsed s r.agent r.line)

/-- A snoop reaches its target (R351, R357): the target acts and its answer is on its way. -/
def snoopArrive (s : State) (k : SnoopKind) (a : Nat) (l : LineAddr) : State :=
  match s.cache.snoops.find? (fun x => x.holder == a && x.line == l && x.kind == k && !x.done) with
  | none => s
  | some x =>
    let r := snoopAct s k a l
    let x' := { x with done := true, content := r.2.map (fun p => p.1), dirty := (r.2.map (fun p => p.2)).getD false }
    { r.1 with cache := { r.1.cache with snoops := r.1.cache.snoops.map (fun y => if y = x then x' else y) } }

/-- A snoop's answer reaches the home (R351, R354): with the last one the line leaves BUSY. -/
def snoopAnswered (s : State) (a : Nat) (l : LineAddr) : State :=
  match s.cache.snoops.find? (fun x => x.holder == a && x.line == l && x.done), s.cache.txns.find? (fun t => t.req.line == l) with
  | some x, some t =>
    let t' : Txn := { t with awaiting := t.awaiting.erase a,
                             content := (match x.content with | some y => some y | none => t.content),
                             dirtySeen := t.dirtySeen || x.dirty }
    let s := { s with cache := { s.cache with snoops := s.cache.snoops.erase x, txns := s.cache.txns.map (fun u => if u = t then t' else u) } }
    if t'.awaiting.isEmpty then finishTxn s t' else s
  | _, _ => s

/-! ## Commands -/

/-- RDS: read for sharing at the line's home (R351, R354). -/
def execRds (agent : Nat) (l : LineAddr) (q : ReqInfo) (s : State) : Host.Outcome State Fault Refusal :=
  .next (requestHome s ⟨agent, l, .rds, q, [], 0, noArgs⟩ false)

/-- RDO: read for ownership (R351). -/
def execRdo (agent : Nat) (l : LineAddr) (q : ReqInfo) (s : State) : Host.Outcome State Fault Refusal :=
  .next (requestHome s ⟨agent, l, .rdo, q, [], 0, noArgs⟩ false)

/-- UPG: upgrade a held copy; an agent that holds none is NACKed and reissues as RDO (R351). -/
def execUpg (agent : Nat) (l : LineAddr) (q : ReqInfo) (s : State) : Host.Outcome State Fault Refusal :=
  .next (requestHome s ⟨agent, l, .upg, q, [], 0, noArgs⟩ false)

/-- RDCUR: read the current value without keeping a copy (R351). -/
def execRdcur (agent : Nat) (l : LineAddr) (q : ReqInfo) (s : State) : Host.Outcome State Fault Refusal :=
  .next (requestHome s ⟨agent, l, .rdcur, q, [], 0, noArgs⟩ false)

/-- WRLINE: write bytes under a mask without keeping a copy (R351, R324 to R326). -/
def execWrline (agent : Nat) (l : LineAddr) (q : ReqInfo) (data : List Byte) (mask : W64) (s : State) : Host.Outcome State Fault Refusal :=
  .next (requestHome s ⟨agent, l, .wrline, q, data, mask, noArgs⟩ false)

/-- ATOM: a far atomic at the home (R359). -/
def execAtom (agent : Nat) (l : LineAddr) (q : ReqInfo) (args : AtomArgs) (s : State) : Host.Outcome State Fault Refusal :=
  .next (requestHome s ⟨agent, l, .atom, q, [], 0, args⟩ false)

/-- OFFER: an agent evicts a line it holds and offers it (R331, R332, R351). -/
def execOffer (agent : Nat) (l : LineAddr) (s : State) : Host.Outcome State Fault Refusal :=
  let s := checkHome (checkSet s agent l) l
  match cacheFind s agent l with
  | some w => .next (if agent < 12 then homeOffer s agent w else s)
  | none => .next s

/-- FWD_S at its holder (R351). -/
def execFwdS (holder : Nat) (l : LineAddr) (s : State) : Host.Outcome State Fault Refusal := .next (snoopArrive s .fwdS holder l)
/-- FWD_I at its holder (R351). -/
def execFwdI (holder : Nat) (l : LineAddr) (s : State) : Host.Outcome State Fault Refusal := .next (snoopArrive s .fwdI holder l)
/-- INV at its holder (R351). -/
def execInv (holder : Nat) (l : LineAddr) (s : State) : Host.Outcome State Fault Refusal := .next (snoopArrive s .inv holder l)
/-- INV_D at its holder (R351). -/
def execInvD (holder : Nat) (l : LineAddr) (s : State) : Host.Outcome State Fault Refusal := .next (snoopArrive s .invD holder l)
/-- CUR at its holder (R351). -/
def execCur (holder : Nat) (l : LineAddr) (s : State) : Host.Outcome State Fault Refusal := .next (snoopArrive s .cur holder l)

/-- A snoop's answer reaches the home (R351, R354). -/
def execSnoopResponse (holder : Nat) (l : LineAddr) (s : State) : Host.Outcome State Fault Refusal := .next (snoopAnswered s holder l)

/-- A NACKed requester retries (R354 to R356). -/
def execNackRetry (agent : Nat) (l : LineAddr) (s : State) : Host.Outcome State Fault Refusal :=
  match s.cache.nacks.find? (fun n => n.req.agent == agent && n.req.line == l) with
  | some n => .next (requestHome s n.req true)
  | none => .next s

/-- NEAR_ATOMIC: an atomic in the requester's cache on a line it owns or now takes; one on a host line runs on the Granary's copy
(R359, R360, R361). -/
def execNearAtomic (agent : Nat) (l : LineAddr) (q : ReqInfo) (args : AtomArgs) (s : State) : Host.Outcome State Fault Refusal :=
  if !keepsCopies s agent then .next s
  else match coherentCheck s agent l q.ctx .atomic with
    | .refuse st row => .next (emit (coherentRefuse s agent l q.ctx row) (.agentRefused agent l st))
    | .ok =>
      let r := if l.space = 1 then farRun s agent l q.ctx args else nearAtomicRun s agent l q.ctx args
      .next (emit r.after (.atomResult agent r.olds r.contended r.poison))

/-- The words of a fill can come: a slice's or a granted one's; an agent's that has not asked its home asks now, unless its request stands there
already or the line is taken (R322, R354). -/
def fillComes (s : State) (f : Fill) : Bool :=
  fillActive s f && (f.cache == 12 || f.granted.isSome ||
    !((dirGet s f.line).busy || s.cache.nacks.any (fun n => n.req.agent == f.cache && n.req.line == f.line)
      || s.cache.fills.any (fun g => g.cache == 12 && g.line == f.line)))

/-- FILL_ARRIVAL: the words of a missed line have all arrived and been checked (R322); a miss that waits for an entry has none on
the way (R323). -/
def execFillArrival (cache : Nat) (l : LineAddr) (s : State) : Host.Outcome State Fault Refusal :=
  match s.cache.fills.find? (fun f => f.cache == cache && f.line == l) with
  | none => .next s
  | some f => .next (if !fillComes s f then s else if cache = 12 then granaryFillArrive s f else agentFillArrive s f)

end Sys2Proof.Machine
end

