-- ==== Sys2Proof/Machine/Flush.lean ====
section
/-!
DEFINITION. Write-back and invalidation of sets of lines (R306, R307, R340, R374, R378, R452), and accesses of Granger.
-/
namespace Sys2Proof.Machine

/-- Lines held in a cache. -/
def waysLines (t : Tbl (List Way)) : List LineAddr :=
  t.flatMap (fun e => (e.2.filter (fun w => w.valid)).map (fun w => ⟨w.space, w.line⟩))

/-- Every line held in any Bin, engine-port cache or the Granary, or on its way to one. -/
def cachedLines (s : State) : List LineAddr :=
  (waysLines s.cache.bins ++ waysLines s.cache.epcs ++ waysLines s.cache.granary
    ++ s.cache.fills.map (fun f => f.line) ++ s.cache.txns.map (fun t => t.req.line)).eraseDups

/-- The agent that holds a line in M. -/
def dirtyAgent (s : State) (l : LineAddr) : Option Nat :=
  (List.range 12).find? (fun a => match agentCopy s a l with | some (.modified, _) => true | _ => false)

/-- A dirty copy, an agent's before the Granary's, goes behind the Granary and the copies that stay are clean (R374). -/
def writeBack (s : State) (l : LineAddr) : State :=
  match dirtyAgent s l with
  | some a =>
    let x := copyRead s a l
    cacheModify (backPut (agentSet x.2 a l .exclusive) l x.1) 12 l (fun w => { w with dirty := false, content := x.1 })
  | none =>
    match cacheFind s 12 l with
    | some w =>
      if w.dirty then
        let r := arrayRead s (homeSlice l.line) (lineDpa s l) w.content
        cacheModify (backPut r.2 l r.1) 12 l (fun w => { w with dirty := false, content := r.1 })
      else s
    | none => s

/-- No copy of a line stays, and nothing tracks it. -/
def dropLine (s : State) (l : LineAddr) : State :=
  let s := (List.range 12).foldl (fun s a => agentSet s a l .invalid) s
  dirPut (if l.space = 2 then s else cacheDrop s 12 l) l {}

/-- One line written back, the transaction or fill in progress there over first (R306); with `inval` every copy goes (R374). -/
def flushLine (s : State) (l : LineAddr) (inval : Bool) : State :=
  let s := writeBack (settleLine (checkHome s l) l) l
  if inval then dropLine s l else s

/-- Every cached line that satisfies p is flushed. -/
def flushWhere (s : State) (p : LineAddr → Bool) (inval : Bool) : State :=
  ((cachedLines s).filter p).foldl (fun s l => flushLine s l inval) s

/-- Local device lines of a byte range. -/
def inRange (lo n : Nat) (l : LineAddr) : Bool := l.space == 0 && decide (lo / 64 ≤ l.line) && decide (64 * l.line < lo + n)

/-- Host lines: dirty ones written back through CXL.cache, clean ones dropped (R452 function-level reset). -/
def flushHostLines (s : State) : State := flushWhere s (fun l => l.space == 1) true

/-- Whether any copy of a line is dirty. -/
def lineDirty (s : State) (l : LineAddr) : Bool :=
  (dirtyAgent s l).isSome || (match cacheFind s 12 l with | some w => w.dirty | none => false)

/-- Host lines discarded; dirty ones counted in HOST_LINE_LOST (R452, R454). -/
def dropHostLines (s : State) (onlyDirty : Bool) : State :=
  ((cachedLines s).filter (fun l => l.space == 1)).foldl (fun s l =>
    let d := lineDirty s l
    if onlyDirty && !d then s
    else
      let s := dropLine s l
      if d then { s with hl := { s.hl with err := bump s.hl.err 63 56 1 } } else s) s

/-! ## Granger at the homes (R303: always admitted) -/

/-- n bytes of a space at an offset, read line by line at the homes by agent a; the first uncorrectable line's number. -/
def homeReadBytes (s : State) (a space off n : Nat) (ctx : BitVec 20) : List Byte × Option Nat × State :=
  let first := off / 64
  let cnt := (off + n + 63) / 64 - first
  let r := (List.range cnt).foldl (fun (acc : List Byte × Option Nat × State) i =>
    let x := readCur acc.2.2 a ⟨space, first + i⟩ ctx false
    (acc.1 ++ slice x.1.data 0 64, if acc.2.1 = none && linePoison x.1 then some (first + i) else acc.2.1, x.2)) ([], none, s)
  (slice (r.1.drop (off % 64)) 0 n, r.2.1, r.2.2)

/-- Bytes written line by line at the homes by agent a. -/
def homeWriteBytes (s : State) (a space off : Nat) (bs : List Byte) (ctx : BitVec 20) : State :=
  let first := off / 64
  let cnt := (off + bs.length + 63) / 64 - first
  let padded := List.replicate (off % 64) 0 ++ bs
  (List.range cnt).foldl (fun s i =>
    let lo := if i = 0 then off % 64 else 0
    let hi := min 64 (off % 64 + bs.length - 64 * i)
    writeLine s a ⟨space, first + i⟩ (slice padded (64 * i) 64) (byteMask lo (hi - lo)) ctx false) s

/-- Where an uncorrectable word of a line is found, for its error record (R494, R586): a cache or Loft array, else the
stack; the answer is the SOURCE and the instance. -/
def poisonWhere (s : State) (l : LineAddr) : Nat × Nat :=
  if l.space = 2 then (srcCacheWord, lineSlice s.cache.loftWays l)
  else match (List.range 12).find? (fun a => match cacheFind s a l with | some w => linePoison w.content | none => false) with
    | some a => (srcCacheWord, a)
    | none => match cacheFind s 12 l with
      | some _ => (srcCacheWord, homeSlice l.line)
      | none => (srcMemWord, portOf (64 * l.line))

/-- Granger logs a CONTAINED error for the first uncorrectable word it met in a line (R494, R586). -/
def logPoison (s : State) (place : Nat × Nat) (l : LineAddr) (x : Line) (ctx : Nat) : State :=
  match (badWords x).head? with
  | some i => logError s clsContained place.1 place.2 (lineDpa s l + 8 * i) ctx (syndrome (lineWord x i))
  | none => s

end Sys2Proof.Machine
end

