-- ==== Sys2Proof/Machine/Operands.lean ====
section
/-!
DEFINITION. Operand addresses (R386, R508): segment mode (R387 to R389), page mode (R392 to R401), TLBs (R400 to R402),
faults (R408 to R417) and invalidation (R404 to R407).
-/
namespace Sys2Proof.Machine

/-! ## Reason codes (R409) -/

def rsNotPresent : Byte := 0x01
def rsWriteDenied : Byte := 0x02
def rsNonCanonical : Byte := 0x10
def rsBadEntry : Byte := 0x11
def rsSegInvalid : Byte := 0x12
def rsSegLimit : Byte := 0x13
def rsSegRights : Byte := 0x14
def rsSpace : Byte := 0x15
def rsUnbound : Byte := 0x16
def rsTablePoison : Byte := 0x17

/-- Outcome of a translation: a DPA with its region type, a refusal with its reason and reply status (R409), or the
requester parked or waiting. -/
inductive Xl where
  | ok (dpa : Nat) (type : RegionType)
  | refuse (reason : Byte) (status : Byte)
  | parked
deriving DecidableEq, Repr

def isWrite (a : AccessKind) : Bool := a != .read
def isRead (a : AccessKind) : Bool := a != .write

/-- The HOST_PROFILE strap: true in Profile P (R423, R555). -/
def profileP (s : State) : Bool := bitOf s.boot.straps 0

/-! ## Segment mode -/

/-- TYPE of R388. -/
def segType (t : BitVec 2) : RegionType := if t = 1 then .stream else if t = 2 then .strict else .wb

/-- The three checks of R389, in order. -/
def segTranslate (segs : Tbl Seg) (a n : Nat) (acc : AccessKind) : Xl :=
  let g := look {} segs (bits a 63 60)
  if !g.valid then .refuse rsSegInvalid stProtection
  else if bits a 59 48 ≠ 0 ∨ g.limit < bits a 47 0 + n - 1 then .refuse rsSegLimit stProtection
  else if (isRead acc && !g.rd) || (isWrite acc && !g.wr) then .refuse rsSegRights stProtection
  else .ok (g.base + bits a 47 0) (segType g.type)

/-! ## Page tables -/

/-- Byte k of PTE_DESC0 (R422). -/
def pteDesc (s : State) (k : Nat) : Nat := field s.tr.desc0 (8 * k + 7) (8 * k)

/-- Attribute k of an entry (R394): 0 VALID, 1 WRITE, 2 LEAF, 3 ACCESSED, 4 DIRTY, 5 REMOTE, 6 STREAM, 7 STRICT. -/
def pteAttr (s : State) (k e : Nat) : Bool :=
  let d := pteDesc s k
  if d.testBit 6 then e.testBit (d % 64) != d.testBit 7 else k == 1

/-- Frame address of an entry (R394). -/
def pteFrame (s : State) (e : Nat) : Nat :=
  let lo := field s.tr.desc1 5 0
  let hi := field s.tr.desc1 13 8
  ((e >>> lo) % 2 ^ (hi - lo + 1)) <<< 12

/-- Whether a host physical address lies in this chip's CXL.mem range (R396, R431). -/
def inHdm (s : State) (a : Nat) : Bool :=
  s.hl.hdmCommitted && decide (s.hl.hdmBase.toNat ≤ a) && decide (a < s.hl.hdmBase.toNat + poolBytes s)

/-- The word of a table entry: at the controller inside the CXL.mem range, else in host memory (R395). -/
def tableWord (s : State) (a : Nat) : Nat × Nat :=
  if inHdm s a then ramWord s.mem.ram ((a - s.hl.hdmBase.toNat) / 8) else lineWord (hostLine s (a / 64)) (a % 64 / 8)

/-- A table entry as the walker reads it; nothing when the word is poisoned (R301, R409). -/
def readTable (s : State) (a : Nat) : Option Nat :=
  let x := tableWord s a
  match eccRead x.1 x.2 with
  | .clean d => some d
  | .corrected d => some d
  | .bad _ => none

/-- What reading the line of a table entry does: a controller's read (R299, R300), or an RdCurr (R395, R435). -/
def tableRead (s : State) (a : Nat) : State :=
  if inHdm s a then (memReadLine s ((a - s.hl.hdmBase.toNat) / 64)).2 else emit s (.d2h "RdCurr" (a / 64))

/-- How a walk ends: the leaf with its address, shift and write permission, or a reason of R409 and its level. -/
inductive WalkEnd where
  | leaf (addr e shift : Nat) (w : Bool)
  | stop (reason : Byte) (level : Nat)
deriving DecidableEq, Repr

/-- The walk of R395 from a table at level n. -/
def walk (s : State) (va : Nat) (write : Bool) : Nat → Nat → Bool → WalkEnd
  | 0, _, _ => .stop rsBadEntry 0
  | n + 1, table, w =>
    let sh := 12 + 9 * n
    let ea := table + 8 * ((va >>> sh) % 512)
    match readTable s ea with
    | none => .stop rsTablePoison (n + 1)
    | some e =>
      if !pteAttr s 0 e then .stop rsNotPresent (n + 1)
      else
        let w := w && pteAttr s 1 e
        if n = 0 || pteAttr s 2 e then
          if 4 ≤ n + 1 then .stop rsBadEntry (n + 1)
          else if pteFrame s e % 2 ^ sh ≠ 0 then .stop rsBadEntry (n + 1)
          else if write && !w then .stop rsWriteDenied (n + 1)
          else .leaf ea e sh w
        else walk s va write n (pteFrame s e) w

/-- The table entries that a walk from a table at level n reads (R395). -/
def walkReads (s : State) (va : Nat) : Nat → Nat → List Nat
  | 0, _ => []
  | n + 1, table =>
    let ea := table + 8 * ((va >>> (12 + 9 * n)) % 512)
    ea :: (match readTable s ea with
      | none => []
      | some e => if !pteAttr s 0 e || n == 0 || pteAttr s 2 e then [] else walkReads s va n (pteFrame s e))

/-- The other lines of the aligned group of 64 entries around a leaf, which the walker reads too (R401). -/
def groupReads (ea sh : Nat) : List Nat :=
  if sh = 30 then [] else ((List.range 8).map (fun i => ea - ea % 512 + 64 * i)).filter (fun a => a / 64 != ea / 64)

/-- DPA of offset o of a leaf with frame F (R396). -/
def leafDpa (s : State) (remote : Bool) (F o : Nat) : Nat :=
  if remote then (F + o) % 2 ^ 50
  else if inHdm s F then 2 ^ 40 * s.boot.tallyAddr.toNat + (F - s.hl.hdmBase.toNat + o)
  else 2 ^ 52 + (F + o) % 2 ^ 52

/-- Region type of an entry (R396). -/
def pteType (s : State) (e : Nat) : RegionType :=
  if pteAttr s 7 e then .strict else if pteAttr s 6 e then .stream else .wb

/-- Whether entry number m + d of the leaf's group continues the run of R401 (d counts from the missed entry), in
entries and in DPA. -/
def continues (s : State) (ea e sh : Nat) (d : Int) : Bool :=
  match readTable s ((ea : Int) + 8 * d).toNat with
  | none => false
  | some x =>
    pteAttr s 0 x && (sh == 12 || pteAttr s 2 x)
    && (pteFrame s x : Int) == (pteFrame s e : Int) + d * (2 ^ sh : Nat)
    && [1, 4, 5, 6, 7].all (fun k => pteAttr s k x == pteAttr s k e)
    && (leafDpa s (pteAttr s 5 x) (pteFrame s x) 0 : Int) == (leafDpa s (pteAttr s 5 e) (pteFrame s e) 0 : Int) + d * (2 ^ sh : Nat)

/-- How many entries the run extends in one direction, at most n. -/
def runLength (s : State) (ea e sh : Nat) (dir : Int) : Nat → Nat → Nat
  | 0, k => k
  | n + 1, k => if continues s ea e sh (dir * ((k : Int) + 1)) then runLength s ea e sh dir n (k + 1) else k

/-- The TLB entry a leaf fills (R400, R401). -/
def leafEntry (s : State) (ctx : BitVec 20) (va ea e sh : Nat) (w : Bool) : TlbEntry :=
  let m := (va >>> sh) % 64
  let lo := if sh = 30 then 0 else runLength s ea e sh (-1) m 0
  let hi := if sh = 30 then 0 else runLength s ea e sh 1 (63 - m) 0
  { ctx := ctx, va := ((va >>> sh) - lo) <<< sh, shift := sh, pages := lo + hi + 1,
    dpa := leafDpa s (pteAttr s 5 e) (pteFrame s e) 0 - lo * 2 ^ sh, type := pteType s e, write := w, dirty := pteAttr s 4 e }

/-- An atomic OR of attribute k's bit into a table entry (R398): at the controller, or through CXL.cache in ownership. -/
def setPteBit (s : State) (ea k : Nat) : State :=
  match readTable s ea with
  | none => s
  | some e =>
    if !(pteDesc s k).testBit 6 then s
    else
      let e' := e ||| 2 ^ (pteDesc s k % 64)
      if inHdm s ea then
        let off := ea - s.hl.hdmBase.toNat
        memWriteLine s (off / 64) (slice (List.replicate (off % 64) 0 ++ toLE 8 e') 0 64) (255 * 2 ^ (off % 64))
      else emit (emit { s with hostMem := hostPutBytes s.hostMem ea (toLE 8 e') } (.d2h "RdOwn" (ea / 64))) (.d2h "DirtyEvict" (ea / 64))

/-- ACCESSED before use and DIRTY before the first write (R398). -/
def markPte (s : State) (ea e : Nat) (ad write : Bool) : State :=
  if !ad then s
  else
    let s := if pteAttr s 3 e then s else setPteBit s ea 3
    if write && !pteAttr s 4 e then setPteBit s ea 4 else s

/-! ## TLBs (R400) -/

/-- An entry serves an access: its context, its range, write permission, and DIRTY where AD_UPDATE asks for it. -/
def tlbServes (e : TlbEntry) (ctx : BitVec 20) (va : Nat) (acc : AccessKind) (ad : Bool) : Bool :=
  e.ctx == ctx && decide (e.va ≤ va) && decide (va < e.va + e.pages * 2 ^ e.shift)
  && (acc == .read || (e.write && (e.dirty || !ad)))

/-- Micro-TLB n, or the shared TLB. -/
def getTlb (s : State) (n : Option Nat) : List TlbEntry :=
  match n with
  | some k => look [] s.tr.micro k
  | none => s.tr.shared

def setTlb (s : State) (n : Option Nat) (es : List TlbEntry) : State :=
  match n with
  | some k => { s with tr := { s.tr with micro := put [] s.tr.micro k es } }
  | none => { s with tr := { s.tr with shared := es } }

/-- Add an entry; a full TLB loses its oldest (256 and 16,384 entries). -/
def tlbInsert (s : State) (n : Option Nat) (e : TlbEntry) : State :=
  let es := getTlb s n ++ [e]
  setTlb s n (es.drop (es.length - (if n = none then 16384 else 256)))

/-- Fill the shared TLB and the micro-TLB that missed. -/
def tlbFill (s : State) (n : Option Nat) (e : TlbEntry) : State :=
  let s := tlbInsert s none e
  if n = none then s else tlbInsert s n e

/-- Look an address up; a micro-TLB miss that hits the shared TLB fills the micro-TLB. -/
def tlbLookup (s : State) (n : Option Nat) (ctx : BitVec 20) (va : Nat) (acc : AccessKind) (ad : Bool) : Option TlbEntry × State :=
  match (if n = none then none else (getTlb s n).find? (fun e => tlbServes e ctx va acc ad)) with
  | some e => (some e, s)
  | none => match s.tr.shared.find? (fun e => tlbServes e ctx va acc ad) with
    | some e => (some e, if n = none then s else tlbInsert s n e)
    | none => (none, s)

/-- DPA of an address inside an entry. -/
def entryDpa (e : TlbEntry) (va : Nat) : Nat := e.dpa + (va - e.va)

/-! ## Invalidation (R404 to R407) -/

/-- An entry overlaps an address range of a context (none: every page-mode context). -/
def overlaps (s : State) (ctx : Option (BitVec 20)) (lo hi : Nat) (e : TlbEntry) : Bool :=
  (match ctx with | some c => e.ctx == c | none => !(getCtx s e.ctx.toNat).segment)
  && decide (e.va < hi) && decide (lo < e.va + e.pages * 2 ^ e.shift)

/-- An address range of the contexts an invalidation names reaches a page. -/
def reaches (s : State) (ctx : Option (BitVec 20)) (lo hi : Nat) (c : BitVec 20) (va : Nat) : Bool :=
  (match ctx with | some x => c == x | none => !(getCtx s c.toNat).segment)
  && decide (va - va % 4096 < hi) && decide (lo < va - va % 4096 + 4096)

/-- A miss whose translation an invalidation removes: its walk is stale; one whose fault waits at its walker walks again (R406, R407). -/
def missStale (m : Miss) : Miss :=
  if m.stopped.isSome then { m with stopped := none, walking := false } else if m.walking then { m with stale := true } else m

/-- Remove every overlapping entry, merged ones whole, and mark overlapping walks stale (R405, R406). -/
def invalidate (s : State) (ctx : Option (BitVec 20)) (lo hi : Nat) : State :=
  let keep (es : List TlbEntry) := es.filter (fun e => !overlaps s ctx lo hi e)
  let hit (m : Miss) := reaches s ctx lo hi m.ctx m.va
  { s with tr := { s.tr with
    shared := keep s.tr.shared
    micro := (List.range 8).foldl (fun t k => put [] t k (keep (look [] t k))) s.tr.micro
    once := s.tr.once.filter (fun p => !overlaps s ctx lo hi p.2)
    stat := bump s.tr.stat 63 48 (s.tr.misses.countP (fun m => hit m && m.stopped.isSome))
    misses := s.tr.misses.map (fun m => if hit m then missStale m else m) } }

/-- A context that an invalidation names. -/
def namesCtx (s : State) (ctx : Option (BitVec 20)) (c : BitVec 20) : Bool :=
  match ctx with | some x => c == x | none => c != 0 && !(getCtx s c.toNat).segment

/-- A host request that carries an access of a context, not a walk. -/
def isAccess (k : HostReqKind) : Bool := match k with | .walk _ _ => false | _ => true

/-- Whether every request of the contexts an invalidation names has been performed: none waits in a store buffer, on the host or on a remote
chip (R406). -/
def quiet (s : State) (ctx : Option (BitVec 20)) : Bool :=
  s.cache.sbufs.all (fun b => b.2.all (fun e => !namesCtx s ctx e.ctx))
  && s.hl.hostReqs.all (fun r => !(isAccess r.kind && namesCtx s ctx r.context))
  && s.wain.remote.all (fun r => !namesCtx s ctx r.record.context)

/-- An invalidation of a page is not yet complete (R406, R418). -/
def invalPending (s : State) (ctx : BitVec 20) (va : Nat) : Bool := s.tr.invals.any (fun v => reaches s v.ctx v.lo v.hi ctx va)

/-- INVALS of TR_STAT (R421). -/
def countInval (s : State) : State := { s with tr := { s.tr with stat := bump s.tr.stat 47 32 1 } }

/-- The completion of an invalidation (R406): at once when every request is performed, else later, and then `v` says where it goes. -/
def finishInval (s : State) (v : Inval) (reply : State → State) : State :=
  if quiet s v.ctx then reply (countInval s) else { s with tr := { s.tr with invals := s.tr.invals ++ [v] } }

/-- An invalidation for a command: the entries go now; the reply waits for R406. -/
def invalidateFor (s : State) (h : CmdHdr) (lo hi : Nat) : State :=
  finishInval (invalidate s (some h.context) lo hi) ⟨some h.context, lo, hi, .command h.windrow h.seq⟩ (fun s => done s h)

/-! ## Faults (R408 to R417) -/

/-- Pending-fault slot n. -/
def getFault (s : State) (n : Nat) : Option Fault1 := look none s.tr.faults n
def setFault (s : State) (n : Nat) (f : Option Fault1) : State := { s with tr := { s.tr with faults := put none s.tr.faults n f } }

/-- Access class of R411. -/
def accClass (a : AccessKind) : Bool := a != .read

/-- FAULT_ID of a slot and generation (R412). -/
def faultId (slot : Nat) (gen : BitVec 4) : W16 := BitVec.ofNat 16 (slot + 4096 * gen.toNat)

/-- The pending fault a new one chains to (R411): same context and page and class, or a pending write for a read. -/
def chainSlot (s : State) (ctx : BitVec 20) (page : Nat) (acc : AccessKind) : Option Nat :=
  (s.tr.faults.find? (fun p => match p.2 with
    | some f => f.ctx == ctx && f.page == page && (accClass f.access == accClass acc || accClass f.access)
    | none => false)).map (fun p => p.1)

/-- The fault ring is full (R414). -/
def ringFull (s : State) : Bool := s.tr.frTail - s.tr.frHead == 65536

/-- ACCESS byte of R412. -/
def accessByte (a : AccessKind) : Nat := match a with | .read => 1 | .write => 2 | .atomic => 4

/-- Write one fault's record and raise FR_TAIL (R412, R413). -/
def recordFault (s : State) (slot : Nat) (f : Fault1) : State :=
  let k := s.tr.frTail.toNat
  let at_ := s.tr.frBase.toNat + 32 * (k % 65536)
  let rq := reqKindOf f.maker
  let body := toLE 8 f.va.toNat ++ toLE 4 (f.ctx.toNat + 2 ^ 20 * rq.1) ++ toLE 2 (faultId slot f.gen).toNat
    ++ toLE 1 (accessByte f.access) ++ toLE 1 f.reason.toNat ++ toLE 4 rq.2 ++ toLE 4 f.level ++ toLE 4 0
  let phase := if (k / 65536) % 2 = 0 then 1 else 0
  let s := hostPost (hostPost s (BitVec.ofNat 64 at_) body) (BitVec.ofNat 64 (at_ + 28)) (toLE 4 phase)
  let c := getCtx s f.ctx.toNat
  let s := setCtx s f.ctx.toNat { c with faults := satAdd32 c.faults 1 }
  setFault { s with tr := { s.tr with frTail := s.tr.frTail + 1 } } slot (some { f with recorded := true })

/-- Next generation of a slot (R412). -/
def nextGen (s : State) (slot : Nat) : BitVec 4 :=
  match look none s.tr.gens slot with
  | some g => g + 1
  | none => Config.faultGen slot

/-- A miss entry of one requester. -/
def newMiss (tlb : Nat) (who : Requester) (ctx : BitVec 20) (va : Nat) (acc : AccessKind) : Miss :=
  { tlb := tlb, ctx := ctx, va := va, access := acc, waiters := [(who, acc)], stale := false, walking := false }

/-- A miss is held until its context leaves BLOCKED or an invalidation completes (R414, R418). -/
def holdMiss (s : State) (m : Miss) : State :=
  if s.tr.held.contains m then s else { s with tr := { s.tr with held := s.tr.held ++ [m] } }

/-- The pending miss of a page (R402). -/
def missOf (s : State) (ctx : BitVec 20) (va : Nat) : Option Miss := s.tr.misses.find? (fun m => m.ctx == ctx && m.va / 4096 == va / 4096)

/-- A requester joins a pending miss, or the miss enters the list. -/
def joinMiss (s : State) (m : Miss) (w : Requester × AccessKind) : State :=
  match missOf s m.ctx m.va with
  | some x =>
    if x.waiters.contains w then s
    else { s with tr := { s.tr with misses := s.tr.misses.map (fun y => if y = x then { x with waiters := x.waiters ++ [w] } else y) } }
  | none => { s with tr := { s.tr with misses := s.tr.misses ++ [m] } }

/-- A fault enters the pending table at a slot (R411 to R414): its requester parks; the record is written, or waits UNRECORDED and blocks its
context. -/
def enterFault (s : State) (n : Nat) (who : Requester) (ctx : BitVec 20) (va : Nat) (acc : AccessKind) (reason : Byte) (level : Nat) : State :=
  let g := nextGen s n
  let f : Fault1 := ⟨ctx, va / 4096, BitVec.ofNat 64 va, acc, reason, level, g, false, who, [who]⟩
  let s := setFault { s with tr := { s.tr with gens := put none s.tr.gens n (some g) } } n (some f)
  let s := parkRequester s who (faultId n g)
  let s := if profileP s then s else emit s (.pageRequest ctx (BitVec.ofNat 64 va) (faultId n g))
  if ringFull s then
    let s := setCtx s ctx.toNat { getCtx s ctx.toNat with state := .blocked }
    { s with tr := { s.tr with
      unrecorded := s.tr.unrecorded ++ [n]
      overflow := BitVec.ofNat 16 (min (s.tr.overflow.toNat + 1) 65535) } }
  else recordFault s n f

/-- A requester joins the list that a pending fault wakes (R411). -/
def chainFault (s : State) (n : Nat) (who : Requester) : State :=
  match getFault s n with
  | some f =>
    if f.waiters.contains who then s
    else parkRequester (setFault s n (some { f with waiters := f.waiters ++ [who] })) who (faultId n f.gen)
  | none => s

/-- A translation fault (R410 to R414): refused while FR_ENABLE is 0 (R419), held while an invalidation of its page is in progress (R418),
chained, or given a slot of the pending table; while none is free it waits at its walker (R411). -/
def raiseFault (s : State) (who : Requester) (ctx : BitVec 20) (va : Nat) (acc : AccessKind) (reason : Byte) (level : Nat) : Xl × State :=
  if !bitOf s.tr.cfg 11 then (.refuse rsNotPresent stFaultUnresolved, s)
  else if invalPending s ctx va then (.parked, holdMiss s (newMiss 256 who ctx va acc))
  else
    let s := setCtx s ctx.toNat { getCtx s ctx.toNat with lastAddr := BitVec.ofNat 64 va }
    match chainSlot s ctx (va / 4096) acc with
    | some n => (.parked, chainFault s n who)
    | none =>
      let free := (List.range 4096).filter (fun n => getFault s n == none)
      let k := freshFree s
      match chooseFrom free (Config.faultSlot k.1) with
      | none => (.parked, joinMiss s { newMiss 256 who ctx va acc with walking := true, stopped := some (reason, level) } (who, acc))
      | some n => (.parked, enterFault k.2 n who ctx va acc reason level)

/-- A waiter of a walk ends with a refusal (R409). -/
def refuseWaiter (s : State) (r : Requester) (ctx : BitVec 20) (va : Nat) (reason status : Byte) : State :=
  failRequester (refuseCtx s ctx va 0 reason.toNat false) r 0 status

/-- A walk stopped, for one requester that waits on it (R407, R409, R411): a read that joined the walk of a write that may not write reads again. -/
def stopWaiter (s : State) (m : Miss) (reason : Byte) (level : Nat) (w : Requester × AccessKind) : State :=
  if reason = rsWriteDenied ∧ w.2 = .read then s
  else if reason = rsNotPresent ∨ reason = rsWriteDenied then
    match raiseFault s w.1 m.ctx m.va w.2 reason level with
    | (.refuse r st, s) => refuseWaiter s w.1 m.ctx m.va r st
    | (_, s) => s
  else refuseWaiter s w.1 m.ctx m.va reason (if reason = rsTablePoison then stFaultUnresolved else stProtection)

/-- A miss whose fault waits at its walker tries to enter the pending table (R411). -/
def enterWaiting (s : State) (m : Miss) : State :=
  match m.stopped with
  | none => s
  | some (reason, level) =>
    m.waiters.foldl (fun s w => stopWaiter s m reason level w) { s with tr := { s.tr with misses := s.tr.misses.filter (fun x => x != m) } }

/-- A slot of the pending table is free: the faults that wait at their walkers enter, in order (R411). -/
def enterFaults (s : State) : State := (s.tr.misses.filter (fun m => m.stopped.isSome)).foldl enterWaiting s

/-! ## Translation -/

/-- Canonical addresses of R392. -/
def canonical (levels5 : Bool) (va : Nat) : Bool :=
  if levels5 then bits va 63 56 == 0 || bits va 63 56 == 255 else bits va 63 47 == 0 || bits va 63 47 == 2 ^ 17 - 1

/-- Levels of a context. -/
def levelsOf (c : Ctx) : Nat := if c.levels5 then 5 else 4

/-- A table that a walk reads lies in host memory. -/
def walksHost (s : State) (ctx : BitVec 20) (va : Nat) : Bool :=
  let c := getCtx s ctx.toNat
  (walkReads s va (levelsOf c) c.ptRoot.toNat).any (fun a => !inHdm s a)

/-- WALKS of TR_STAT counts a walk or Translation Request as it is issued (R421). -/
def countWalk (s : State) : State := { s with tr := { s.tr with stat := bump s.tr.stat 31 0 1 } }

/-- The leaf that a walk found: its bits are set (R398), its group is read and fills the TLBs (R400, R401). -/
def leafFill (s : State) (tlb : Option Nat) (ctx : BitVec 20) (va : Nat) (acc : AccessKind) (ea e sh : Nat) (w : Bool) : State :=
  let s := (groupReads ea sh).foldl tableRead (markPte s ea e (getCtx s ctx.toNat).adUpdate (isWrite acc))
  let t := leafEntry s ctx va ea ((readTable s ea).getD e) sh w
  let keep (es : List TlbEntry) := es.filter (fun x => !overlaps s (some ctx) va (va + 1) x)
  let s := { s with tr := { s.tr with
    shared := keep s.tr.shared
    micro := (List.range 8).foldl (fun m k => put [] m k (keep (look [] m k))) s.tr.micro } }
  tlbFill s tlb t

/-- A walk carried out whole (R395 to R401): the TLBs are filled and the access mapped, or its end is reported. One that reads host memory ends
while the port is frozen (R454). -/
def walkNow (s : State) (tlb : Option Nat) (who : Requester) (ctx : BitVec 20) (va : Nat) (acc : AccessKind) : Xl × State :=
  let c := getCtx s ctx.toNat
  if s.hl.frozen && walksHost s ctx va then (.refuse rsTablePoison stTargetLost, s)
  else
    let t := (walkReads s va (levelsOf c) c.ptRoot.toNat).foldl tableRead s
    match walk s va (isWrite acc) (levelsOf c) c.ptRoot.toNat true with
    | .stop reason level =>
      if reason = rsNotPresent ∨ reason = rsWriteDenied then raiseFault t who ctx va acc reason level
      else if reason = rsTablePoison then (.refuse reason stFaultUnresolved, t)
      else (.refuse reason stProtection, t)
    | .leaf ea e sh w => (.ok (leafDpa s (pteAttr s 5 e) (pteFrame s e) (va % 2 ^ sh)) (pteType s e), leafFill t tlb ctx va acc ea e sh w)

/-- One of the 64 walkers is free (R18, R402). -/
def walkerFree (s : State) : Bool := decide (s.tr.misses.countP (fun m => m.walking) < 64)

/-- The i-th pending miss can begin: it holds a miss entry (16 in a micro-TLB, 256 in the shared TLB, taken in order of
arrival) and a walker is free (R402). -/
def missReady (s : State) (i : Nat) : Bool :=
  match s.tr.misses[i]? with
  | some m => !m.walking && decide (i < 256) && walkerFree s
    && (m.tlb == 256 || decide ((s.tr.misses.take i).countP (fun x => x.tlb == m.tlb) < 16))
  | none => false

/-- The i-th pending miss takes a walker, which in Profile A sends a Translation Request (R399, R402) and in Profile P holds a host-read tag for the
tables it reads in host memory (R395, R437). -/
def startWalk (s : State) (i : Nat) : State :=
  if missReady s i then
    match s.tr.misses[i]? with
    | some m =>
      let s := countWalk { s with tr := { s.tr with misses := s.tr.misses.set i { m with walking := true } } }
      if !profileP s then emit s (.translationRequest m.ctx (BitVec.ofNat 64 m.va) (isWrite m.access))
      else if walksHost s m.ctx m.va then openHostReq s (.walk m.ctx (m.va / 4096)) m.ctx .nobody
      else s
    | none => s
  else s

/-- Pending misses take the walkers that are free, oldest first (R402). -/
def startWalks (s : State) : State := (List.range s.tr.misses.length).foldl startWalk s

/-- A pending miss leaves the list, and its walk no longer holds a tag. -/
def eraseMiss (s : State) (i : Nat) : State :=
  match s.tr.misses[i]? with
  | none => s
  | some m => { s with
    hl := { s.hl with hostReqs := s.hl.hostReqs.filter (fun r => r.kind != .walk m.ctx (m.va / 4096)) }
    tr := { s.tr with misses := s.tr.misses.eraseIdx i } }

/-- A pending miss has ended; its walker goes to the next (R402). -/
def dropMiss (s : State) (i : Nat) : State := startWalks (eraseMiss s i)

/-- The miss of a request that must wait: held while its context is BLOCKED (R414), else pending (R402). -/
def missWait (s : State) (tlb : Option Nat) (who : Requester) (ctx : BitVec 20) (va : Nat) (acc : AccessKind) : State :=
  let m := newMiss (tlb.getD 256) who ctx va acc
  if (getCtx s ctx.toNat).state = .blocked then holdMiss s m else startWalks (joinMiss s m (who, acc))

/-- A requester's access to a page is held (R414, R418). -/
def isHeld (s : State) (who : Requester) (ctx : BitVec 20) (va : Nat) : Bool :=
  s.tr.held.any (fun m => m.ctx == ctx && m.va / 4096 == va / 4096 && m.waiters.any (fun w => w.1 == who))

/-- The translation that the host allowed for one access only (R399). -/
def onceEntry (s : State) (who : Requester) (ctx : BitVec 20) (va : Nat) (acc : AccessKind) : Option TlbEntry :=
  (s.tr.once.find? (fun p => p.1 == who && tlbServes p.2 ctx va acc false)).map (fun p => p.2)

/-- Translate an access of n bytes at a context address (R386 to R401). `tlb` is the micro-TLB that serves the requester. -/
def translate (s : State) (tlb : Option Nat) (who : Requester) (ctx : BitVec 20) (a n : Nat) (acc : AccessKind) : Xl × State :=
  let c := getCtx s ctx.toNat
  if c.state = .unbound then (.refuse rsUnbound stProtection, s)
  else if c.segment then (segTranslate (look [] s.tr.segs c.segslot.toNat) a n acc, s)
  else if bits a 63 56 = 0xFE then
    if bits a 55 52 = 0 then (.ok (2 * 2 ^ 52 + bits a 51 0) .wb, s) else (.refuse rsNonCanonical stProtection, s)
  else if !canonical c.levels5 a then (.refuse rsNonCanonical stProtection, s)
  else
    let r := tlbLookup s tlb ctx a acc c.adUpdate
    match r.1 with
    | some e => (.ok (entryDpa e a) e.type, r.2)
    | none =>
      match onceEntry s who ctx a acc with
      | some e => (.ok (entryDpa e a) e.type, s)
      | none =>
        if isHeld s who ctx a then (.parked, s)
        else if c.state = .blocked || !profileP s || !walkerFree s || (missOf s ctx a).isSome then (.parked, missWait s tlb who ctx a acc)
        else walkNow (countWalk s) tlb who ctx a acc

/-- Context address of a plan's space 0x1 address (R397): DPA[51:0] sign-extended. -/
def planHostVa (dpa : Nat) : Nat :=
  let a := bits dpa 51 0
  if a.testBit 51 then 2 ^ 64 - 2 ^ 52 + a else a

/-- A plan's space 0x1 address is translated in page mode only (R386, R397). -/
def translatePlanHost (s : State) (tlb : Option Nat) (t : Nat) (ctx : BitVec 20) (dpa n : Nat) (acc : AccessKind) : Xl × State :=
  if (getCtx s ctx.toNat).segment then (.refuse rsSpace stProtection, s)
  else translate s tlb (.tiller t) ctx (planHostVa dpa) n acc

/-- Space of a DPA (R317). -/
def dpaSpace (d : Nat) : Nat := bits d 55 52

/-- The line of a DPA of space 0x0 of this chip, 0x1 or 0x2. -/
def dpaLine (d : Nat) : LineAddr :=
  if dpaSpace d = 0 then ⟨0, bits d 39 0 / 64⟩ else ⟨dpaSpace d, bits d 51 0 / 64⟩

/-- Whether a space 0x0 DPA names another chip (R276). -/
def isRemote (s : State) (d : Nat) : Bool := dpaSpace d == 0 && bits d 49 40 != s.boot.tallyAddr.toNat

end Sys2Proof.Machine
end

