-- ==== Sys2Proof/Machine/Granger.lean ====
section
/-!
DEFINITION. What every Granger command shares (R500 checks 5 and 6, R508, R586, R588), and the context, grant and region
commands (R385, R388, R406, R407, R306, R443, R445, R415, R513, R514).
-/
namespace Sys2Proof.Machine

/-- Checks 5 and 6 of R500: the status a failed check completes with. -/
def packetCheck (s : State) (h : CmdHdr) (priv skip6 : Bool) : Option Byte :=
  let w := getWindrow s h.windrow
  let c := getCtx s h.context.toNat
  if priv && !bitOf w.cfg 2 then some stProtection
  else if bitOf w.cfg 3 && field w.cfg 51 32 != h.context.toNat then some stProtection
  else if h.context = 0 then some stProtection
  else if !skip6 && c.state == .unbound then some stProtection
  else none

/-- A Granger command: nothing while Granger does not run (R564, R566). `rsv` says that a reserved field or code of its
parameters fails check 4; a failed check ends it with its status and no other effect (R500). -/
def command (s : State) (h : CmdHdr) (priv skip6 rsv : Bool) (body : State → State) : Host.Outcome State Fault Refusal :=
  if !grangerUp s then .next s
  else if rsv then .next (badPacket s h pcReserved)
  else match packetCheck s h priv skip6 with
    | some st => .next (complete s h st (plainDetail st) 0)
    | none => .next (body s)

/-- The first BAD_PACKET condition that holds decides the code; without one the command acts. -/
def guardCodes (s : State) (h : CmdHdr) : List (Bool × Nat) → (State → State) → State
  | [], act => act s
  | (bad, code) :: rest, act => if bad then badPacket s h code else guardCodes s h rest act

/-- PRIV of a command's Windrow. -/
def isPriv (s : State) (h : CmdHdr) : Bool := bitOf (getWindrow s h.windrow).cfg 2

/-- Ownership of a slot at check 8 (R588). -/
def slotForeign (s : State) (h : CmdHdr) (n : Nat) : Bool :=
  (getSlot s n).state != .empty && (getSlot s n).context != h.context && !isPriv s h

/-! ## CTX_BIND (R385, R390) -/

/-- Segment slots in use. -/
def usedSegSlots (s : State) : List Nat :=
  (s.tr.ctxs.filter (fun c => c.2.state != .unbound && c.2.segment)).map (fun c => c.2.segslot.toNat)

/-- Action BIND. -/
def bindCtx (s : State) (h : CmdHdr) (seg lv5 ad : Bool) : State :=
  let c := getCtx s h.context.toNat
  let base : Ctx := { state := .active, segment := seg, levels5 := lv5, adUpdate := ad }
  if !poolUp s then complete s h stTargetLost (plainDetail stTargetLost) 0
  else if c.state ≠ .unbound then badPacket s h pcState
  else if !seg then
    if !(pteDesc s 0).testBit 6 then badPacket s h pcState
    else done (setCtx s h.context.toNat base) h
  else
    let used := usedSegSlots s
    let f := freshFree s
    match chooseFrom ((List.range 65536).filter (fun n => !used.contains n)) (Config.segSlot f.1) with
    | none => badPacket s h pcState
    | some n =>
      let s := setCtx f.2 h.context.toNat { base with segslot := BitVec.ofNat 16 n }
      done { s with tr := { s.tr with segs := put [] s.tr.segs n [] } } h

/-- A command of the context is in progress on another Windrow. -/
def busyElsewhere (s : State) (h : CmdHdr) : Bool :=
  s.grg.windrows.any (fun p => p.1 != h.windrow && p.2.inprog.any (fun q => match hdrOf q.cmd with
    | some g => g.context == h.context
    | none => false))

/-- The context holds an engine-port lease. -/
def holdsLease (s : State) (ctx : BitVec 20) : Bool :=
  (List.range 16).any (fun n => match (getSheaf s n).lease with | some l => l.context == ctx | none => false)

/-- The context has a pending fault. -/
def hasFault (s : State) (ctx : BitVec 20) : Bool :=
  s.tr.faults.any (fun p => match p.2 with | some f => f.ctx == ctx | none => false)

/-- The context's plan runs. -/
def planRuns (s : State) (ctx : BitVec 20) : Bool :=
  (List.range 16).any (fun n => let x := getSlot s n; x.context == ctx && (x.state == .running || x.state == .stopping))

/-- Action UNBIND. -/
def unbindCtx (s : State) (h : CmdHdr) : State :=
  let c := getCtx s h.context.toNat
  if planRuns s h.context || busyElsewhere s h || holdsLease s h.context || hasFault s h.context then badPacket s h pcState
  else
    let s := invalidate s (some h.context) 0 (2 ^ 64)
    let s := if c.segment then { s with tr := { s.tr with segs := put [] s.tr.segs c.segslot.toNat [] } } else s
    let s := setCtx s h.context.toNat { faults := c.faults, refusals := c.refusals, lastAddr := c.lastAddr }
    finishInval s ⟨some h.context, 0, 2 ^ 64, .command h.windrow h.seq⟩ (fun s => done s h)

/-- CTX_BIND (R385, R513). -/
def execCtxBind (h : CmdHdr) (action : Byte) (mode levels5 adUpdate : Bool) (s : State) : Host.Outcome State Fault Refusal :=
  command s h true (action == 0) false (fun s =>
    if action = 0 then bindCtx s h mode levels5 adUpdate
    else if action = 1 then unbindCtx s h
    else badPacket s h pcRange)

/-- The segment entry of R388's 16 bytes. -/
def segOf (e : BitVec 128) : Seg :=
  { valid := bitOf e 112, rd := bitOf e 113, wr := bitOf e 114, type := BitVec.ofNat 2 (field e 116 115)
    base := field e 55 0, limit := field e 111 64 }

/-- SEG_SET (R388, R514): reserved parts, then ranges, then the context's mode. -/
def execSegSet (h : CmdHdr) (seg : Byte) (entry : BitVec 128) (s : State) : Host.Outcome State Fault Refusal :=
  let g := segOf entry
  command s h true false (field entry 63 56 != 0 || field entry 119 117 != 0 || field entry 127 120 != 0 || g.type == 3) (fun s =>
    let c := getCtx s h.context.toNat
    guardCodes s h
      [(decide (15 < seg.toNat), pcRange),
       (dpaSpace g.base != 0 && dpaSpace g.base != 2, pcRange),
       (g.base % 4096 != 0, pcRange),
       (decide (2 ^ 40 - 1 < bits g.base 39 0 + g.limit), pcRange),
       (dpaSpace g.base == 2 && g.type != 0, pcRange),
       (!c.segment, pcState)]
      (fun s =>
        let t := look [] s.tr.segs c.segslot.toNat
        done { s with tr := { s.tr with segs := put [] s.tr.segs c.segslot.toNat (put {} t seg.toNat g) } } h))

/-- PT_ROOT_SET (R407, R514). -/
def execPtRootSet (h : CmdHdr) (root : W64) (s : State) : Host.Outcome State Fault Refusal :=
  command s h true false (field root 11 0 != 0 || field root 63 52 != 0) (fun s =>
    let c := getCtx s h.context.toNat
    guardCodes s h [(c.segment, pcState)]
      (fun s => invalidateFor (setCtx s h.context.toNat { c with ptRoot := root }) h 0 (2 ^ 64)))

/-- TLB_INVAL (R404 to R406): LENGTH 0 names every address of the context. -/
def execTlbInval (h : CmdHdr) (base length : W64) (s : State) : Host.Outcome State Fault Refusal :=
  command s h true false false (fun s =>
    guardCodes s h [(base.toNat % 4096 != 0 || length.toNat % 4096 != 0, pcRange)]
      (fun s => if length = 0 then invalidateFor s h 0 (2 ^ 64) else invalidateFor s h base.toNat (base.toNat + length.toNat)))

/-! ## GRANT (R302, R306, R514) -/

/-- The owner entry a GRANT writes: CLASS FREE writes it whole as zero. -/
def grantEntry (ctx : BitVec 20) (entry : W32) : W32 :=
  if field entry 21 20 = 0 then 0 else BitVec.ofNat 32 (2 ^ 20 * field entry 26 20 + ctx.toNat)

/-- A new entry takes something away: OWNER or CLASS changes, or a right is cleared (R306). -/
def takesAway (old new : W32) : Bool := field old 21 0 != field new 21 0 || (field old 26 22 &&& (31 - field new 26 22)) != 0

/-- GRANT of R306: the entries, then write-back and invalidation of the granules that lost something. -/
def grantRange (s : State) (first count : Nat) (e : W32) : State :=
  let lost := (List.range count).filter (fun i => takesAway (look 0 s.mem.owner (first + i)) e)
  let s := { s with mem := { s.mem with owner := putAll 0 s.mem.owner first (List.replicate count e) } }
  if lost.isEmpty then s
  else flushWhere s (fun l => l.space == 0 && lost.contains (l.line / 32768 - first) && decide (first ≤ l.line / 32768)) true

/-- GRANT. -/
def execGrant (h : CmdHdr) (first count entry : W32) (s : State) : Host.Outcome State Fault Refusal :=
  command s h true false (field entry 19 0 != 0 || field entry 31 27 != 0 || field entry 21 20 == 3) (fun s =>
    guardCodes s h
      [(count.toNat == 0 || decide (491520 < count.toNat), pcRange),
       (decide (poolBytes s / 2 ^ 21 < first.toNat + count.toNat), pcRange)]
      (fun s => if reservedGranule s < first.toNat + count.toNat then complete s h stProtection (plainDetail stProtection) 0
        else done (grantRange s first.toNat count.toNat (grantEntry h.context entry)) h))

/-! ## Placement regions (R443, R445) -/

/-- REGION_REGISTER. -/
def execRegionRegister (h : CmdHdr) (key : W16) (wr : Bool) (base length : W64) (s : State) : Host.Outcome State Fault Refusal :=
  command s h true false false (fun s =>
    let b := base.toNat
    let n := length.toNat
    guardCodes s h
      [(b % 64 != 0 || n % 64 != 0 || decide (n < 64) || decide (2 ^ 40 < b + n), pcRange),
       (s.hl.regions.any (fun r => r.key == key) || decide (4096 ≤ s.hl.regions.length), pcState)]
      (fun s => done { s with hl := { s.hl with regions := s.hl.regions ++ [⟨key, h.context, b, n, wr⟩] } } h))

/-- REGION_REVOKE. -/
def execRegionRevoke (h : CmdHdr) (key : W16) (s : State) : Host.Outcome State Fault Refusal :=
  command s h true false false (fun s =>
    guardCodes s h [(!s.hl.regions.any (fun r => r.key == key), pcState)]
      (fun s => done { s with hl := { s.hl with regions := s.hl.regions.filter (fun r => r.key != key) } } h))

/-! ## Resolving faults (R415 to R417) -/

/-- Misses held by a context that is no longer BLOCKED, or by an invalidation that is complete, go on (R414, R417, R418). -/
def releaseHeld (s : State) : State :=
  { s with tr := { s.tr with held := s.tr.held.filter (fun m => (getCtx s m.ctx.toNat).state == .blocked || invalPending s m.ctx m.va) } }

/-- A context returns to ACTIVE when it has no UNRECORDED fault left (R414). -/
def unblock (s : State) (ctx : BitVec 20) : State :=
  let left := s.tr.unrecorded.any (fun n => match getFault s n with | some f => f.ctx == ctx | none => false)
  let c := getCtx s ctx.toNat
  if c.state = .blocked ∧ !left then releaseHeld (setCtx s ctx.toNat { c with state := .active }) else s

/-- A pending fault leaves its slot. -/
def freeFault (s : State) (slot : Nat) : State :=
  let s := setFault s slot none
  { s with tr := { s.tr with unrecorded := s.tr.unrecorded.filter (fun n => n != slot) } }

/-- A pending fault ends as under FAIL (R415, R416). -/
def failFault (s : State) (slot : Nat) (f : Fault1) : State :=
  let s := freeFault s slot
  let s := logError s clsContained srcAccess 0 f.va.toNat f.ctx.toNat f.reason.toNat
  let s := f.waiters.foldl (fun s r => failRequester s r (faultId slot f.gen) stFaultUnresolved) s
  enterFaults (unblock s f.ctx)

/-- A pending fault ends as under RETRY (R415). -/
def retryFault (s : State) (slot : Nat) (f : Fault1) : State :=
  let s := freeFault s slot
  let s := invalidate s (some f.ctx) (4096 * f.page) (4096 * (f.page + 1))
  let s := f.waiters.foldl (fun s r => resumeRequester s r (faultId slot f.gen)) s
  enterFaults (unblock s f.ctx)

/-- The invalidation of RETRY completes under R406 (R415). -/
def retryResolved (s : State) (slot : Nat) (f : Fault1) (dest : InvalFor) (reply : State → State) : State :=
  finishInval (retryFault s slot f) ⟨some f.ctx, 4096 * f.page, 4096 * (f.page + 1), dest⟩ reply

/-- The pending fault a FAULT_ID names. -/
def faultNamed (s : State) (id : W16) : Option (Nat × Fault1) :=
  let slot := field id 11 0
  match getFault s slot with
  | some f => if f.gen.toNat = field id 15 12 then some (slot, f) else none
  | none => none

/-- FAULT_RESOLVE (R415, R514). -/
def execFaultResolve (h : CmdHdr) (faultId : W16) (outcome : Byte) (s : State) : Host.Outcome State Fault Refusal :=
  command s h true false false (fun s =>
    guardCodes s h [(decide (1 < outcome.toNat), pcRange)]
      (fun s => match faultNamed s faultId with
        | none => badPacket s h pcState
        | some (slot, f) =>
          if f.ctx ≠ h.context then badPacket s h pcState
          else if outcome = 0 then retryResolved s slot f (.command h.windrow h.seq) (fun s => done s h)
          else done (failFault s slot f) h))

end Sys2Proof.Machine
end

