-- ==== Sys2Proof/Machine/Access.lean ====
section
/-!
DEFINITION. Accesses of commands, engines and units to translated lines: which path a line takes (R22, R317, R371, R372),
its check (R303, R304), remote requests (R276 to R280), and ranges judged line by line (R189, R303).
-/
namespace Sys2Proof.Machine

/-- Who makes an access: its requester for faults and remote requests, its coherence agent, the writer its streaming
detector follows, and its context. -/
structure Issuer where
  who : Requester
  agent : Nat
  writer : Nat
  ctx : BitVec 20
deriving DecidableEq, Repr

/-- A translated line; `asked` is its address as the request carried it (R382). -/
structure LineOp where
  dpa : Nat
  type : RegionType
  asked : Nat
deriving DecidableEq, Repr

/-! ## Remote requests (R276 to R280) -/

/-- The remote task of a requester. -/
def getTask (s : State) (who : Requester) : RemoteTask :=
  (s.wain.tasks.find? (fun t => t.who == who)).getD { who := who }

/-- Store a requester's task; an empty one is not kept. -/
def setTask (s : State) (t : RemoteTask) : State :=
  let rest := s.wain.tasks.filter (fun x => x.who != t.who)
  { s with wain := { s.wain with tasks := if t = { who := t.who } then rest else rest ++ [t] } }

/-- Drop a requester's task. -/
def endTask (s : State) (who : Requester) : State := setTask (dropOnce s who) { who := who }

/-- The link a remote request to a Tally address leaves on (R276). -/
def routeTo (s : State) (tally : Nat) : Option Nat := look none s.wain.routes tally

/-- The 64-byte record of R277. -/
def recordBytes (r : RemoteRec) : List Byte :=
  [r.op, r.status] ++ toLE 2 r.tag.toNat ++ toLE 2 r.src.toNat ++ toLE 2 r.dst.toNat ++ toLE 4 r.context.toNat
    ++ [BitVec.ofNat 8 r.nlines, 0, 0, 0] ++ toLE 8 r.dpa.toNat ++ toLE 8 r.firstMask.toNat ++ toLE 8 r.lastMask.toNat
    ++ List.replicate 24 0

/-- Lines of the request channel VC1 wait on a link (R268). -/
def queueVc1 (s : State) (link : Nat) (ls : List (List Byte)) : State :=
  let x := getLink s link
  setLink s link { x with tx1 := x.tx1 ++ ls }

/-- Lines of the response channel VC2 wait on a link (R268). -/
def queueVc2 (s : State) (link : Nat) (ls : List (List Byte)) : State :=
  let x := getLink s link
  setLink s link { x with tx2 := x.tx2 ++ ls }

/-- Send one remote request of one line (R276, R277): none when no tag is free, which costs time only. -/
def sendRemote (s : State) (who : Requester) (ctx : BitVec 20) (op : Byte) (dpa asked : Nat) (mask : Nat) (data : List (List Byte)) : Option State :=
  let f := freshFree s
  let free := (List.range 4096).filter (fun t => s.wain.remote.all (fun r => r.tag != t))
  match routeTo s (bits dpa 49 40), chooseFrom free (Config.remoteTag f.1) with
  | some link, some tag =>
    let r : RemoteRec :=
      { op := op, status := 0, tag := BitVec.ofNat 16 tag, src := s.boot.tallyAddr, dst := BitVec.ofNat 10 (bits dpa 49 40), context := ctx,
        nlines := 1, dpa := BitVec.ofNat 56 (dpa - dpa % 64), firstMask := BitVec.ofNat 64 mask, lastMask := BitVec.ofNat 64 mask }
    let s := queueVc1 f.2 link (recordBytes r :: data)
    some { s with wain := { s.wain with remote := s.wain.remote ++ [⟨tag, r, link, who, asked⟩] } }
  | _, _ => none

/-- Whether a request of a requester for a line is outstanding. -/
def outstanding (s : State) (who : Requester) (dpa : Nat) : Bool :=
  s.wain.remote.any (fun r => r.who == who && r.record.dpa.toNat == dpa - dpa % 64)

/-- Whether any remote request of a requester is outstanding. -/
def awaiting (s : State) (who : Requester) : Bool := s.wain.remote.any (fun r => r.who == who)

/-- A remote line already read for a requester. -/
def remoteGot (s : State) (who : Requester) (dpa : Nat) : Option Line :=
  ((getTask s who).got.find? (fun p => p.1 == dpa / 64)).map (fun p => p.2)

/-- Ask for a remote line unless it is here or on its way. -/
def wantRemote (s : State) (iss : Issuer) (o : LineOp) : State :=
  if (remoteGot s iss.who o.dpa).isSome || outstanding s iss.who o.dpa then s
  else (sendRemote s iss.who iss.ctx 0x01 o.dpa o.asked 0 []).getD s

/-- Send a remote write of one line unless it has left. -/
def putRemote (s : State) (iss : Issuer) (o : LineOp) (data : List Byte) (mask : Nat) : State :=
  let t := getTask s iss.who
  if t.sent.contains (o.dpa / 64) then s
  else match sendRemote s iss.who iss.ctx 0x02 o.dpa o.asked mask [data] with
    | some s => setTask s { getTask s iss.who with sent := t.sent ++ [o.dpa / 64] }
    | none => s

/-! ## One line -/

/-- The check a line's access meets before it is performed (R276, R297, R303, R304, R317, R361). -/
def lineCheck (s : State) (iss : Issuer) (o : LineOp) (acc : AccessKind) : Verdict :=
  if 2 < dpaSpace o.dpa then .refuse stProtection 0
  else if isRemote s o.dpa then
    if acc == .atomic || (routeTo s (bits o.dpa 49 40)).isNone then .refuse stProtection 0 else .ok
  else if o.type == .strict && acc == .atomic then .refuse stProtection 0
  else coherentCheck s iss.agent (dpaLine o.dpa) iss.ctx acc

/-- A refused access of a context (R303, R317): owner-table and space refusals count in OWNER_REFUSE. -/
def lineRefuse (s : State) (iss : Issuer) (o : LineOp) (row : Nat) : State :=
  refuseCtx s iss.ctx o.asked o.dpa row (!isRemote s o.dpa && dpaSpace o.dpa != 1)

/-- A DEVICE-STRICT host line read past every cache: the host's own memory answers (R317, R372, R435). -/
def hostStrictRead (s : State) (n : Nat) : Line × State := (hostLine s n, emit s (.d2h "RdCurr" n))

/-- A local line read: past the caches for a DEVICE-STRICT region, else coherently (R22, R317, R372); a streaming writer's fill is a
streaming one (R327). -/
def lineGet (s : State) (iss : Issuer) (o : LineOp) : Line × State :=
  let l := dpaLine o.dpa
  if o.type = .strict ∧ l.space = 0 then memReadLine s l.line
  else if o.type = .strict ∧ l.space = 1 then hostStrictRead s l.line
  else agentRead s iss.agent iss.writer l iss.ctx (if o.type = .stream || streamingWriter s iss.agent iss.writer then .streaming else .demand)

/-- A local line written under a mask (R22, R326, R372). -/
def linePut (s : State) (iss : Issuer) (o : LineOp) (data : List Byte) (mask : Nat) : State :=
  let l := dpaLine o.dpa
  if o.type = .strict ∧ l.space < 2 then backWrite s l data mask iss.ctx
  else agentWrite s iss.agent iss.writer l data mask iss.ctx (o.type == .stream)

/-- Words of a line made poisoned where the line's newest copy lies (R300, R301, R586). -/
def poisonWords (s : State) (l : LineAddr) (ws : List Nat) : State :=
  let mark (x : Line) : Line := lineOf ((List.range 8).map (fun i =>
    if ws.contains i then ((lineWord x i).1, poisonBits (lineWord x i).1) else lineWord x i))
  if ws.isEmpty then s
  else match (List.range 12).find? (fun a => (cacheFind s a l).isSome) with
    | some a => cacheModify s a l (fun w => { w with content := mark w.content })
    | none =>
      if (cacheFind s 12 l).isSome then cacheModify s 12 l (fun w => { w with content := mark w.content })
      else if l.space = 0 then { s with mem := { s.mem with ram := ramPutLine s.mem.ram l.line (mark (ramLine s.mem.ram l.line)) } }
      else if l.space = 2 then { s with cache := { s.cache with loft := ramPutLine s.cache.loft l.line (mark (ramLine s.cache.loft l.line)) } }
      else hostPutWhole s l.line (mark (hostStored s l.line))

/-- A whole line written with the poison of its words kept (R586). -/
def linePutWhole (s : State) (iss : Issuer) (o : LineOp) (x : Line) : State :=
  let s := linePut s iss o x.data (2 ^ 64 - 1)
  poisonWords s (dpaLine o.dpa) (badWords x)

/-! ## Ranges of context addresses -/

/-- How the translation and checks of a range end. -/
inductive RangeEnd where
  | all
  | stop (status : Byte)
  | parked
deriving DecidableEq, Repr

/-- Translate and check one line of a context address (R189, R508): its place, or how the task ends. -/
def resolveLine (s : State) (iss : Issuer) (tlb : Option Nat) (a : Nat) (acc : AccessKind) : Except RangeEnd LineOp × State :=
  let r := translate s tlb iss.who iss.ctx (a % 2 ^ 64) 64 acc
  match r.1 with
  | .parked => (.error .parked, r.2)
  | .refuse reason st => (.error (.stop st), refuseCtx r.2 iss.ctx (a % 2 ^ 64) 0 reason.toNat false)
  | .ok dpa ty =>
    match lineCheck r.2 iss ⟨dpa, ty, a % 2 ^ 64⟩ acc with
    | .ok => (.ok ⟨dpa, ty, a % 2 ^ 64⟩, r.2)
    | .refuse st row => (.error (.stop st), lineRefuse r.2 iss ⟨dpa, ty, a % 2 ^ 64⟩ row)

/-- Lines of a range from the lowest, up to the first that is refused or parks. -/
def resolveLines (s : State) (iss : Issuer) (acc : AccessKind) : Nat → Nat → List LineOp × RangeEnd × State
  | 0, _ => ([], .all, s)
  | n + 1, a =>
    match resolveLine s iss none a acc with
    | (.error e, s') => ([], e, s')
    | (.ok o, s') => let r := resolveLines s' iss acc n (a + 64); (o :: r.1, r.2)

end Sys2Proof.Machine
end

