-- ==== Sys2Proof/Machine/StoreBuf.lean ====
section
/-!
DEFINITION. Store buffers of engine-port groups (R366 to R370, R470): entries, the order they are performed in, and draining.
-/
namespace Sys2Proof.Machine

/-- Buffer number of a group of an attachment. -/
def sbKey (att : Nat) (group : BitVec 30) : Nat := att + 4 * group.toNat

/-- The agent of an attachment that a line goes to (R464). -/
def epAgent (s : State) (a : Nat) (l : LineAddr) : Nat :=
  if epCaches s a = 2 then 4 + 2 * a + homeSlice l.line % 2 else 4 + 2 * a

/-- Entries of a buffer, oldest first. -/
def getBuf (s : State) (k : Nat) : List SbEntry := look [] s.cache.sbufs k
def setBuf (s : State) (k : Nat) (es : List SbEntry) : State :=
  { s with cache := { s.cache with sbufs := put [] s.cache.sbufs k es } }

/-- DPA of a buffered line: in an entry, space 3 stands for remote device memory, its number being DPA / 64. -/
def entryDpaOf (s : State) (l : LineAddr) : Nat := if l.space = 3 then 64 * l.line else lineDpa s l

/-- The line an entry for a DPA names. -/
def entryLine (s : State) (dpa : Nat) : LineAddr := if isRemote s dpa then ⟨3, dpa / 64⟩ else dpaLine dpa

/-- A store of a group that could not reach its end point (R370): a later FENCE.COMPLETE of the group reports it. -/
def noteLost (s : State) (att : Nat) (g : BitVec 30) : State :=
  let x := getAtt s att
  setAtt s att { x with lost := if x.lost.contains g then x.lost else x.lost ++ [g] }

/-- The order of R367 lets entry i be performed: nothing older on its line, nothing older at all for a RELEASE, no older
DEVICE-STRICT store for a strict one. -/
def mayPerform (es : List SbEntry) (i : Nat) : Bool :=
  match es[i]? with
  | none => false
  | some e => (es.take i).all (fun o => o.line != e.line && !(e.strict && o.strict)) && (!e.release || i == 0)

/-- One entry performed (R362, R367): a remote line leaves as a WRITE, a refused one is dropped and logged. -/
def performEntry (s : State) (k : Nat) (e : SbEntry) : State :=
  let att := k % 4
  let g : BitVec 30 := BitVec.ofNat 30 (k / 4)
  let a := epAgent s att e.line
  let iss : Issuer := ⟨.engineGroup att g 0, a, a, e.ctx⟩
  let o : LineOp := ⟨entryDpaOf s e.line, if e.strict then .strict else if e.streamType then .stream else .wb, e.asked⟩
  match lineCheck s iss o .write with
  | .refuse st row =>
    let s := lineRefuse s iss o row
    if st = stTargetLost then noteLost s att g else s
  | .ok =>
    if e.line.space = 3 then (sendRemote s iss.who e.ctx 0x02 o.dpa o.asked e.mask.toNat [e.data]).getD s
    else
      let n := s.hl.hostReqs.length
      let s := linePut s iss o e.data e.mask.toNat
      { s with hl := { s.hl with hostReqs := s.hl.hostReqs.take n ++ (s.hl.hostReqs.drop n).map (fun r => { r with who := iss.who }) } }

/-- An empty buffer of a group without outstanding requests is freed (R470). -/
def freeBuf (s : State) (k : Nat) : State :=
  let x := getAtt s (k % 4)
  let g : BitVec 30 := BitVec.ofNat 30 (k / 4)
  if (getBuf s k).isEmpty && !x.outstanding.any (fun p => p.group == g) then setAtt s (k % 4) { x with groups := x.groups.filter (fun y => y != g) }
  else s

/-- A remote entry needs a free tag (R276). -/
def canSend (s : State) (e : SbEntry) : Bool := e.line.space != 3 || decide (s.wain.remote.length < 4096)

/-- Entry i of a buffer is performed where the order allows it. -/
def performAt (s : State) (k i : Nat) : State :=
  let es := getBuf s k
  match es[i]? with
  | some e => if mayPerform es i && canSend s e then freeBuf (performEntry (setBuf s k (es.eraseIdx i)) k e) k else s
  | none => s

/-- Every entry of a buffer performed, oldest first. -/
def drainBuf (s : State) (k : Nat) : State := (getBuf s k).foldl (fun s _ => performAt s k 0) s

/-- Every store buffer performed (R378). -/
def drainAll (s : State) : State := s.cache.sbufs.foldl (fun s b => drainBuf s b.1) s

/-- A store enters a buffer (R366): it merges into the youngest entry of its line when that is open, else it takes a new
entry; a full buffer performs its oldest first. -/
def pushStore (s : State) (k : Nat) (l : LineAddr) (off : Nat) (bs : List Byte) (asked : Nat) (ctx : BitVec 20) (release strict stream : Bool) : State :=
  let es := getBuf s k
  let mask := byteMask off bs.length
  let es := if release || strict then es.map (fun e => { e with closed := true }) else es
  match (List.range es.length).reverse.find? (fun i => match es[i]? with | some e => e.line == l | none => false) with
  | some i =>
    match es[i]? with
    | some e =>
      if !e.closed && !e.strict && e.ctx == ctx then
        setBuf s k (es.set i { e with data := splice e.data off bs, mask := e.mask ||| BitVec.ofNat 64 mask, streamType := stream })
      else
        let s := setBuf s k es
        let s := if 16 ≤ es.length then performAt s k 0 else s
        setBuf s k (getBuf s k ++ [⟨l, lineData off bs, BitVec.ofNat 64 mask, asked, ctx, release, strict, stream, release || strict⟩])
    | none => s
  | none =>
    let s := setBuf s k es
    let s := if 16 ≤ es.length then performAt s k 0 else s
    setBuf s k (getBuf s k ++ [⟨l, lineData off bs, BitVec.ofNat 64 mask, asked, ctx, release, strict, stream, release || strict⟩])

/-- Bytes of a load all of which lie in a buffer, the youngest store for each (R368). -/
def bufBytes (es : List SbEntry) (l : LineAddr) (off n : Nat) : Option (List Byte) :=
  (List.range n).foldr (fun i acc =>
    match acc, es.reverse.find? (fun e => e.line == l && !e.strict && bitOf e.mask (off + i)) with
    | some bs, some e => some (e.data.getD (off + i) 0 :: bs)
    | _, _ => none) (some [])

/-- A load overlaps an entry of the buffer (R368). -/
def bufOverlaps (es : List SbEntry) (l : LineAddr) (off n : Nat) : Bool :=
  es.any (fun e => e.line == l && (List.range n).any (fun i => bitOf e.mask (off + i)))

/-! ## Answers of the port (R466 to R468, R486) -/

/-- An answer: the request leaves its attachment, its credit returns, and EP_ERR counts. -/
def epAnswer (s : State) (att : Nat) (tag : BitVec 12) (status : BitVec 4) (lanes : List (Nat × BitVec 128)) (faultId : W16) (flags : Byte) : State :=
  let x := getAtt s att
  let err := if status = 3 then bump x.err 15 0 1 else if status = 2 then bump x.err 31 16 1
    else if status = 4 ∨ status = 5 ∨ status = 9 then bump x.err 63 48 1 else x.err
  let s := setAtt s att { x with outstanding := x.outstanding.filter (fun o => o.tag != tag), credits := min 64 (x.credits + 1), err := err }
  let s := emit (emit s (.epCredits att 1)) (.epResponse att tag status lanes faultId flags)
  match x.outstanding.find? (fun o => o.tag == tag) with
  | some o => freeBuf s (sbKey att o.group)
  | none => s

/-- STORE_BUFFER_PERFORM: an entry whose line and order allow it (R367). -/
def execStoreBufferPerform (issuer index : Nat) (s : State) : Host.Outcome State Fault Refusal :=
  .next (performAt s issuer index)

end Sys2Proof.Machine
end

