-- ==== Sys2Proof/Machine/Frames.lean ====
section
/-!
DEFINITION. Wain frames as they leave (R261 to R264): the message bytes, the frame check, the RS(544,514) codewords and the lanes.
-/
namespace Sys2Proof.Machine

/-! ## The message (R262 to R264) -/

/-- The 20 trailer bytes of a frame but for its CRC (R262). -/
def trailer (h : FrameHead) (vc map : Nat) : List Byte :=
  [BitVec.ofNat 8 (h.kind.toNat + 4 * vc + 16 * h.held.toNat + 32 * h.nak.toNat), h.seq, h.ack, h.cred0, h.cred1, h.cred2] ++ toLE 10 map

/-- The 80 slots: the lines in the slots that MAP sets, ascending, others zero (R262, R264). -/
def slotBytes (map : Nat) : Nat → Nat → List (List Byte) → List Byte
  | 0, _, _ => []
  | n + 1, i, ls =>
    if map.testBit i then slice (ls.headD []) 0 64 ++ slotBytes map n (i + 1) (ls.drop 1)
    else List.replicate 64 0 ++ slotBytes map n (i + 1) ls

/-- The bytes the frame check covers: the 80 slots and trailer bytes 0 to 15 (R264). -/
def checkedBytes (h : FrameHead) (vc : BitVec 2) (map : BitVec 80) (ls : List (List Byte)) : List Byte :=
  slotBytes map.toNat 80 0 ls ++ trailer h vc.toNat map.toNat

/-- The frame check (R264). -/
def frameCrc (h : FrameHead) (vc : BitVec 2) (map : BitVec 80) (ls : List (List Byte)) : W32 := crc32c (checkedBytes h vc map ls)

/-! ## Codewords and lanes (R261) -/

/-- The 4,112 symbols of ten bits, each with its first bit least significant. -/
def symbolsOf (message : List Byte) : List Nat :=
  let v := leNat message
  (List.range 4112).map (fun i => bits v (10 * i + 9) (10 * i))

/-- One place up in GF(2^10), PRESUMED modulo x^10 + x^3 + 1 as IEEE 802.3 has it (log 19). -/
def gfDouble (a : Nat) : Nat := let d := 2 * a; if d < 1024 then d else d ^^^ 0x409

/-- Product in GF(2^10). -/
def gfMul (a b : Nat) : Nat :=
  ((List.range 10).foldl (fun (p : Nat × Nat) i => (if b.testBit i then p.1 ^^^ p.2 else p.1, gfDouble p.2)) (0, a)).1

/-- A polynomial, lowest coefficient first, times x + r. -/
def timesRoot (g : List Nat) (r : Nat) : List Nat :=
  (g ++ [0]).zipWith (fun low high => gfMul low r ^^^ high) (0 :: g)

/-- The generator of RS(544,514), PRESUMED with the roots α^0 to α^29 as IEEE 802.3 has it, lowest coefficient first (log 19). -/
def rsGenerator : List Nat := ((List.range 30).foldl (fun (p : List Nat × Nat) _ => (timesRoot p.1 p.2, gfDouble p.2)) ([1], 1)).1

/-- The 30 parity symbols of 514: the remainder of the division by the generator, highest coefficient first. -/
def rsParity (data : List Nat) : List Nat :=
  let g := (rsGenerator.take 30).reverse
  data.foldl (fun reg m =>
    let f := m ^^^ reg.headD 0
    (reg.drop 1 ++ [0]).zipWith (fun r c => r ^^^ gfMul f c) g) (List.replicate 30 0)

/-- The eight codewords: codeword c holds symbols 514c to 514c + 513 and their parity. -/
def codewords (message : List Byte) : List (List Nat) :=
  (List.range 8).map (fun c =>
    let data := ((symbolsOf message).drop (514 * c)).take 514
    data ++ rsParity data)

/-- The symbols of a frame on each lane: symbol i of a codeword goes on lane i mod 8. -/
def frameLanes (message : List Byte) : List (List (BitVec 10)) :=
  let ws := codewords message
  (List.range 8).map (fun lane => ws.flatMap (fun w =>
    ((List.range 68).map (fun k => BitVec.ofNat 10 (w.getD (8 * k + lane) 0)))))

end Sys2Proof.Machine
end

