-- ==== Sys2Proof/Machine/Loft.lean ====
section
/-!
DEFINITION. LOFT_CONFIG (R337 to R341, R516, R218), engine leases of Sheaves (R20, R113, R478, R516), and MARGIN_POLICY
(R515, R550).
-/
namespace Sys2Proof.Machine

/-- A command that will complete later stays among its Windrow's commands in progress. -/
def stayInProgress (s : State) (h : CmdHdr) (c : Instr) : State :=
  let w := getWindrow s h.windrow
  if w.inprog.any (fun p => p.seq == h.seq) then s
  else setWindrow s h.windrow { w with inprog := w.inprog ++ [⟨h.seq, c, s.tick⟩] }

/-! ## Loft size (R340) -/

/-- Lines the physical ways lo to hi − 1 of every slice hold. -/
def linesInWays (s : State) (lo hi : Nat) : List LineAddr :=
  s.cache.granary.flatMap (fun e =>
    (((padWays 12 e.2).take hi).drop lo).filterMap (fun w => if w.valid then some (⟨w.space, w.line⟩ : LineAddr) else none))

/-- A copy of an agent, in its cache or on its way there, is evicted: it is offered to its home (R331, R340 step 2). -/
def evictCopy (s : State) (a : Nat) (l : LineAddr) : State :=
  match agentCopy s a l with
  | some (c, x) =>
    let w : Way := (cacheFind s a l).getD { space := l.space, line := l.line, valid := true, coh := c, content := x }
    homeOffer (agentSet s a l .invalid) a w
  | none => s

/-- A line whose Granary way becomes Loft: every Bin and engine-port copy is evicted, then the way is (R340 step 2). -/
def loseWay (s : State) (l : LineAddr) : State :=
  let s := settleLine s l
  let s := (List.range 12).foldl (fun s a => evictCopy s a l) s
  match cacheFind s 12 l with
  | some w => granaryEvict (cacheDrop s 12 l) w
  | none => s

/-- A Loft line whose way is given back: every copy is invalidated without write-back (R340 step 3). -/
def loseLoftLine (s : State) (l : LineAddr) : State :=
  let s := settleLine s l
  dirPut ((List.range 12).foldl (fun s a => agentSet s a l .invalid) s) l {}

/-- Loft lines at or beyond a size that some cache holds. -/
def loftLinesBeyond (s : State) (bytes : Nat) : List LineAddr :=
  (cachedLines s).filter (fun l => l.space == 2 && decide (bytes ≤ 64 * l.line))

/-- Contents below a size. -/
def cutRam (r : Ram) (bytes : Nat) : Ram :=
  { data := r.data.filter (fun c => decide (c.1 < bytes)), chk := r.chk.filter (fun c => decide (8 * c.1 < bytes)) }

/-- The Loft takes W ways per slice (R340): cached lines of ways that become Loft leave, lines of ways given back and granules
beyond the new size go, new lines are zero. -/
def resizeLoft (s : State) (w : Nat) : State :=
  let old := s.cache.loftWays
  let lost := if old < w then linesInWays s (16 - w) (16 - old) else []
  let s := lost.foldl loseWay (if old < w then { s with cache := { s.cache with loftWays := w } } else s)
  let bytes := 16 * 2 ^ 20 * w
  let s := (loftLinesBeyond s bytes).foldl loseLoftLine s
  { s with cache := { s.cache with
    loftWays := w
    loft := cutRam s.cache.loft bytes
    loftOwner := s.cache.loftOwner.filter (fun e => decide (e.1 < 8 * w)) } }

/-- LOFT_WAYS of the plan that runs, if any (R218). -/
def runningLoftWays (s : State) : Option Nat :=
  match runningSlot s with
  | some n => (getSlot s n).plan.map (fun p => p.loftWays)
  | none => none

/-- LOFT_CONFIG commands that are in progress but for one. -/
def otherLoftConfig (s : State) (h : CmdHdr) : Bool :=
  s.grg.windrows.any (fun p => p.2.inprog.any (fun q => isLoftConfig q.cmd && !(p.1 == h.windrow && q.seq == h.seq)))

/-- LOFT_CONFIG: RESIZE and GRANT; BUSY ends with the last such command in progress (R343). -/
def execLoftConfig (h : CmdHdr) (action ways first count : Byte) (entry : W32) (s : State) : Host.Outcome State Fault Refusal :=
  let w := ways.toNat
  let rsv := action == 1 && (field entry 19 0 != 0 || field entry 31 27 != 0 || field entry 26 24 != 0 || field entry 21 20 == 3)
  if !grangerUp s then .next s
  else command { s with cache := { s.cache with loftBusy := otherLoftConfig s h } } h true false rsv (fun s =>
    if action = 0 then
      guardCodes s h [(decide (14 < w) || w % 2 != 0, pcRange)] (fun s =>
        match runningLoftWays s with
        | some need => if w < need then complete s h stProtection (plainDetail stProtection) 0 else done (resizeLoft s w) h
        | none => done (resizeLoft s w) h)
    else if action = 1 then
      guardCodes s h [(count == 0 || decide (8 * s.cache.loftWays < first.toNat + count.toNat), pcRange)] (fun s =>
        done { s with cache := { s.cache with
          loftOwner := putAll 0 s.cache.loftOwner first.toNat (List.replicate count.toNat (grantEntry h.context entry)) } } h)
    else badPacket s h pcRange)

/-! ## Leases (R20, R113, R478) -/

/-- The clear of R113: accumulator store and both weight buffers go to zero. -/
def clearSheaf (s : State) (n : Nat) : State :=
  let x := getSheaf s n
  setSheaf s n { x with store := {}, buf0 := {}, buf1 := {}, regions := [], portRegion := none, gmLoads := 0, gmPasses := 0, portFlags := [] }

/-- A lease of a Sheaf ends (R478): its GM requests are answered LEASE_ENDED, the clear runs, and LEASE with the end bit is
sent. -/
def leaseEnd (s : State) (n : Nat) : State :=
  match (getSheaf s n).lease with
  | none => s
  | some l =>
    let open_ := (getAtt s l.att).outstanding.filter (fun o => o.sheaf == some n)
    let s := clearSheaf (open_.foldl (fun s o => epAnswer s l.att o.tag 0xA [] 0 0) s) n
    let s := setSheaf s n { getSheaf s n with lease := none }
    emit s (.epLease l.att (BitVec.ofNat 16 (2 ^ n)) false l.context)

/-- A lease of a Sheaf is taken; it begins once the clear is done. -/
def leaseTake (s : State) (n : Nat) (l : Lease) : State := setSheaf s n { getSheaf s n with lease := some l }

/-- A lease of a Sheaf begins (R478): the clear has run and LEASE with the begin bit is sent. -/
def leaseBegins (s : State) (n : Nat) : State :=
  match (getSheaf s n).lease with
  | none => s
  | some l =>
    let s := clearSheaf s n
    let s := setSheaf s n { getSheaf s n with lease := some { l with begun := true } }
    emit s (.epLease l.att (BitVec.ofNat 16 (2 ^ n)) true l.context)

/-- Sheaves of a mask. -/
def sheavesOf (mask : Nat) : List Nat := (List.range 16).filter (fun n => mask.testBit n)

/-- SHEAF_MASK of the position of the plan that runs (R196). -/
def runningMask (s : State) : Nat :=
  match runningSlot s with
  | some n =>
    match (getSlot s n).plan with
    | some p => match p.positions[(getSlot s n).position]? with | some e => e.sheafMask | none => 0
    | none => 0
  | none => 0

/-- ENGINE_LEASE: LEASE completes after the clear at its start, RELEASE after the lease has ended. -/
def execEngineLease (h : CmdHdr) (action attach : Byte) (sheaves : W16) (s : State) : Host.Outcome State Fault Refusal :=
  let a := attach.toNat
  let ns := sheavesOf sheaves.toNat
  command s h true false false (fun s =>
    guardCodes s h [(decide (1 < action.toNat) || !attPresent s a, pcRange)] (fun s =>
      if action = 0 then
        if ns.any (fun n => (runningMask s).testBit n || (getSheaf s n).lease.isSome) then complete s h stProtection (plainDetail stProtection) 0
        else if ns.isEmpty then done s h
        else stayInProgress (ns.foldl (fun s n => leaseTake s n ⟨a, h.context, false, false⟩) s) h (.engineLease h action attach sheaves)
      else
        let held (n : Nat) : Bool := match (getSheaf s n).lease with
          | some l => l.att == a && l.context == h.context && !l.byPlan
          | none => false
        if ns.all held then done (ns.foldl leaseEnd s) h else badPacket s h pcState))

/-- A LEASE command in progress all of whose Sheaves have begun. -/
def leaseReady (s : State) (c : Instr) : Option CmdHdr :=
  match c with
  | .engineLease h action attach sheaves =>
    if action = 0 ∧ (sheavesOf sheaves.toNat).all (fun n => match (getSheaf s n).lease with
        | some l => l.begun && l.att == attach.toNat && l.context == h.context
        | none => false) then some h else none
  | _ => none

/-- LEASE_BEGIN: the clear of a Sheaf's new lease has completed; the command whose Sheaves have all begun completes. -/
def execLeaseBegin (sheaf : Nat) (s : State) : Host.Outcome State Fault Refusal :=
  match (getSheaf s sheaf).lease with
  | some l =>
    if l.begun then .next s
    else
      let s := leaseBegins s sheaf
      .next (((s.grg.windrows.flatMap (fun p => p.2.inprog)).filterMap (fun p => leaseReady s p.cmd)).foldl done s)
  | none => .next s

/-! ## MARGIN_POLICY (R515, R550) -/

/-- MARGIN_POLICY: FMAX_PCT 0 selects 100; the policy holds from the next barrier. -/
def execMarginPolicy (h : CmdHdr) (ceilMv : W16) (fmin : Byte) (enable : Bool) (fmax : Byte) (s : State) : Host.Outcome State Fault Refusal :=
  let c := ceilMv.toNat
  let lo := fmin.toNat
  let hi := if fmax = 0 then 100 else fmax.toNat
  command s h true false false (fun s =>
    guardCodes s h
      [(decide (c < 650) || decide (850 < c) || decide (lo < 80) || decide (100 < lo) || decide (hi < 100) || decide (105 < hi), pcRange),
       (decide (c < s.margin.vddMv) || decide (s.rootPct < lo) || decide (hi < s.rootPct) || decide (hi < lo), pcState)]
      (fun s => done { s with margin := { s.margin with pendingPolicy := some (c, lo, hi, enable) } } h))

end Sys2Proof.Machine
end

