-- ==== Sys2Proof/Machine/Member.lean ====
section
/-!
DEFINITION. Slots losing their binding (R217), Crop membership ending and dissolving (R229), frames sent (R261 to R269), Wain
links going DOWN (R282), and remote requests that will get no response (R280, R284, R370, R525).
-/
namespace Sys2Proof.Machine

/-- A remote request completes with TARGET_LOST and is logged: a plan's as MEMBER, REPLANNED, any other as CONTAINED. -/
def loseRemote (s : State) (r : RemoteReq) : State :=
  let s := { s with wain := { s.wain with remote := s.wain.remote.erase r } }
  let isPlan : Bool := match r.who with | .tiller _ => true | _ => false
  let s := if isPlan then raiseReplanned s srcMember r.link r.record.dpa.toNat r.record.context.toNat 0 none
    else logError s clsContained srcAccess r.link r.record.dpa.toNat r.record.context.toNat 0
  match r.who with
  | .command w _ =>
    let t := getTask s r.who
    let s := setTask s { t with failed := some (t.failed.getD stTargetLost) }
    setWindrow s w { getWindrow s w with targetLost := true }
  | .engineGroup a g _ =>
    if r.record.op = 0x02 then noteLost s a g
    else let t := getTask s r.who; setTask s { t with failed := some (t.failed.getD stTargetLost) }
  | .copyEngine _ => let t := getTask s r.who; setTask s { t with failed := some (t.failed.getD stTargetLost) }
  | .tiller _ => s
  | .nobody => s

/-- Every remote request routed over a link ends (R284). -/
def loseRemoteOver (s : State) (link : Nat) : State :=
  (s.wain.remote.filter (fun r => r.link == link)).foldl loseRemote s

/-- A slot leaves its binding (R217): a completed one keeps no Seedcorn. -/
def unbindSlot (x : Slot) : Slot :=
  let y : Slot := { x with cropId := 0, table := [], provisional := false, run := none, forming := none }
  match x.state with
  | .bound | .running | .stopping | .stopped => { y with state := if x.seedValid then .held else .loaded }
  | .done => { y with state := .loaded, seedValid := false, newest := none, older := none }
  | _ => x

/-- Slots that hold a binding (R229). -/
def boundSlot (x : Slot) : Bool :=
  x.state == .bound || x.state == .running || x.state == .stopping || x.state == .stopped || x.state == .done

/-! ## Frames sent (R262, R266, R269) -/

/-- Credits a frame returns for a channel (R262, R269): at most 255. -/
def credOf (n : Nat) : Nat := min n 255

/-- A frame of this end: KIND, SEQ, ACK of the last accepted, NAK, HELD and credits (R262, R263, R266). -/
def headOf (x : WainLink) (f : SentFrame) : FrameHead :=
  { kind := match f.body with | .idle => 0 | .data _ _ => 1 | .control _ => 2
    seq := f.seq, ack := x.rxSeq, nak := x.nakDue, held := !x.rx0.isEmpty, cred0 := BitVec.ofNat 8 f.cred0, cred1 := BitVec.ofNat 8 f.cred1
    cred2 := BitVec.ofNat 8 f.cred2, decodes := true, corrected := 0 }

/-- MAP of n slots from the first. -/
def mapOf (n : Nat) : BitVec 80 := BitVec.ofNat 80 (2 ^ n - 1)

/-- Slots of a frame's body, and its VC; DESIGN CHOICE: VC is 0 in frames without lines (R262 gives it no other meaning; log 19). -/
def bodyOf (b : FrameBody) : BitVec 2 × List (List Byte) :=
  match b with
  | .control ms => (0, ms.map Config.ctrlSlot)
  | .idle => (0, [])
  | .data vc ls => (vc, ls)

/-- The frame by its kind (R263). -/
def frameOut (link : Nat) (h : FrameHead) (b : FrameBody) : Out :=
  let q := bodyOf b
  let map := mapOf q.2.length
  let crc := frameCrc h q.1 map q.2
  match b with
  | .control ms => .controlFrame link h map ms crc
  | .idle => .idleFrame link h crc
  | .data vc ls => .dataFrame link ⟨h, vc, map, ls, crc⟩

/-- The message of 5,140 bytes (R261, R262). -/
def frameMessage (h : FrameHead) (b : FrameBody) : List Byte :=
  let q := bodyOf b
  let c := checkedBytes h q.1 (mapOf q.2.length) q.2
  c ++ toLE 4 (crc32c c).toNat

/-- A frame leaves on its lanes (R261); it sets the NAK that is due, and LOCAL_HELD is its HELD (R266, R287). -/
def transmit (s : State) (link : Nat) (f : SentFrame) : State :=
  let x := getLink s link
  let h := headOf x f
  let s := setLink s link { x with nakDue := false, localHeld := h.held }
  emit (emit s (frameOut link h f.body)) (.lanes link (frameLanes (frameMessage h f.body)))

/-- A new frame is sent and kept among the last 32 (R266); it carries the credits to return (R269); HELD says that lines wait for
a RECV (R283). -/
def sendNew (s : State) (link : Nat) (body : FrameBody) (resending : Bool) : State :=
  let x := getLink s link
  let f : SentFrame := ⟨x.txSeq, credOf x.ret0, credOf x.ret1, credOf x.ret2, body⟩
  let kept := x.replay ++ [f]
  let x := { x with
    txSeq := x.txSeq + 1, ret0 := x.ret0 - f.cred0, ret1 := x.ret1 - f.cred1, ret2 := x.ret2 - f.cred2
    replay := kept.drop (kept.length - 32), resend := if resending then x.resend ++ [f] else x.resend }
  transmit (setLink s link x) link f

/-- A control message that may leave now: TIME leaves at a hyperperiod boundary (R239). -/
def ctrlReady (s : State) (m : CtrlMsg) : Bool := match m with | .time _ _ => atHyper s | _ => true

/-- A control message as it leaves: TIME carries CTB at the instant of sending (R239). -/
def stamped (s : State) (m : CtrlMsg) : CtrlMsg :=
  match m with | .time _ _ => .time s.ctb (BitVec.ofNat 2 s.ctbQuarter) | _ => m

/-- A CONTROL frame with the messages that are ready, one per slot (R263, R268). -/
def sendControl (s : State) (link : Nat) : State :=
  let x := getLink s link
  let ready := x.ctrl.filter (ctrlReady s)
  let rest := ready.drop 80 ++ x.ctrl.filter (fun m => !ctrlReady s m)
  sendNew (setLink s link { x with ctrl := rest }) link (.control ((ready.take 80).map (stamped s))) (!x.resend.isEmpty)

/-- A link goes DOWN (R282): control messages already made leave first (log 36); its error counters stay (R288), and LEAVE
frames it still owes are sent (R284). -/
def linkDown (s : State) (n : Nat) : State :=
  let x := getLink s n
  let s := if x.state = .up then (List.range (ceilDiv (x.ctrl.filter (ctrlReady s)).length 80)).foldl (fun s _ => sendControl s n) s else s
  setLink (loseRemoteOver s n) n (if x.leaveLeft = 0 then { err := x.err }
    else { err := x.err, leaveLeft := x.leaveLeft, txSeq := x.txSeq, rxSeq := x.rxSeq })

/-- Every Wain link goes DOWN. -/
def linksDown (s : State) : State := (List.range 24).foldl linkDown s

/-- An address that ENUM gave while the chip was a member is taken once membership ends (R570). -/
def takeDeferred (b : Boot) : Boot :=
  match b.tallyDeferred with
  | some v => { b with tallyAddr := v, tallyValid := true, tallyDeferred := none }
  | none => b

/-- Membership ends (R229): the Crop record, the timing tree and the routes go, the links go DOWN. -/
def endMembership (s : State) : State :=
  let s := linksDown s
  { s with crop := {}, counting := false, wain := { s.wain with routes := [] }, boot := takeDeferred s.boot }

/-- Membership ends once no slot is bound (R229). -/
def checkMembership (s : State) : State :=
  if s.crop.member && !(List.range 16).any (fun n => boundSlot (getSlot s n)) then endMembership s else s

/-- The Crop is dissolved for this chip (R229): only while no slot is RUNNING or STOPPING. -/
def dissolve (s : State) : State :=
  if (runningSlot s).isSome || !s.crop.member then s
  else checkMembership ((List.range 16).foldl (fun s n => setSlot s n (unbindSlot (getSlot s n))) s)

/-- The Tillers, units and reductions of a run are gone; every accumulator region is closed. -/
def clearRun (s : State) : State :=
  let s := { s with tillers := [], units := [], reds := [], counting := false }
  (List.range 16).foldl (fun s n => setSheaf s n { getSheaf s n with regions := [] }) s

end Sys2Proof.Machine
end

