-- ==== Sys2Proof/Machine/Flags.lean ====
section
/-!
DEFINITION. The sticky flags of arithmetic (R87) as bits of a flag byte's value.
-/
namespace Sys2Proof.Machine

/-- Invalid. -/
def fIV : Nat := 1
/-- Product-clamped. -/
def fPC : Nat := 2
/-- Accumulator overflow. -/
def fAO : Nat := 4
/-- Underflow to zero. -/
def fUZ : Nat := 8
/-- Quantization-vanished. -/
def fQV : Nat := 16
/-- NaN-produced. -/
def fNP : Nat := 32

/-- A flag when a condition holds. -/
def flagIf (b : Bool) (f : Nat) : Nat := if b then f else 0

/-- A flag byte with further flags set: once set, a flag stays (R87, R88). -/
def orFlags (b : Byte) (f : Nat) : Byte := b ||| BitVec.ofNat 8 f

end Sys2Proof.Machine
end

