-- ==== Sys2Proof/Machine/Formats.lean ====
section
/-!
DEFINITION. Element formats and schemes (R33 to R62): exact values of encodings, rounding (R137 to R139) and output
conversion (R46 to R49, R584).
-/
namespace Sys2Proof.Machine

/-- An exact value: NaN, an infinity, or (−1)^neg × m × 2^e; m = 0 is a signed zero. -/
inductive Val where
  | nan
  | inf (neg : Bool)
  | fin (neg : Bool) (m : Nat) (e : Int)
deriving DecidableEq, Repr

def fFP64 : Nat := 0x0
def fFP32 : Nat := 0x1
def fFP32R : Nat := 0x2
def fBF16 : Nat := 0x3
def fFP16 : Nat := 0x4
def fE4M3 : Nat := 0x5
def fE5M2 : Nat := 0x6
def fE3M2 : Nat := 0x7
def fE2M3 : Nat := 0x8
def fE2M1 : Nat := 0x9
def fINT32 : Nat := 0xA
def fINT16 : Nat := 0xB
def fINT8 : Nat := 0xC
def fINT4 : Nat := 0xD
def fE8M0 : Nat := 0xE

def schNone : Nat := 0
def schMX : Nat := 1
def schBale : Nat := 2

/-- Bits of an element in memory (R37, R43, R44, R45, R57). -/
def elemBits (fmt : Nat) : Nat :=
  match fmt with
  | 0 => 64 | 1 => 32 | 2 => 32 | 3 => 16 | 4 => 16 | 5 => 8 | 6 => 8 | 7 => 6 | 8 => 6 | 9 => 4
  | 10 => 32 | 11 => 16 | 12 => 8 | 13 => 4 | 14 => 8 | _ => 8

/-- Integer formats (R44). -/
def isInt (fmt : Nat) : Bool := decide (10 ≤ fmt) && decide (fmt ≤ 13)
/-- Floating formats, E8M0 among them (R131). -/
def isFloat (fmt : Nat) : Bool := decide (fmt ≤ 9) || fmt == 14

/-- Exponent bits, fraction bits, bias (R37). -/
def floatShape (fmt : Nat) : Nat × Nat × Nat :=
  match fmt with
  | 0 => (11, 52, 1023) | 1 => (8, 23, 127) | 2 => (8, 10, 127) | 3 => (8, 7, 127) | 4 => (5, 10, 15)
  | 5 => (4, 3, 7) | 6 => (5, 2, 15) | 7 => (3, 2, 3) | 8 => (2, 3, 1) | _ => (2, 1, 1)

/-- Largest finite encoding without its container's low bits (R37). -/
def maxMag (fmt : Nat) : Nat :=
  match fmt with
  | 0 => 0x7FEFFFFFFFFFFFFF | 1 => 0x7F7FFFFF | 2 => 0x3FBFF | 3 => 0x7F7F | 4 => 0x7BFF | 5 => 0x7E | 6 => 0x7B
  | 7 => 0x1F | 8 => 0x1F | _ => 0x7

/-- Canonical NaN encoding (R39), 0 where the format has none. -/
def canonNaN (fmt : Nat) : Nat :=
  match fmt with
  | 0 => 0x7FF8000000000000 | 1 => 0x7FC00000 | 2 => 0x7FC00000 | 3 => 0x7FC0 | 4 => 0x7E00 | 5 => 0x7F | 6 => 0x7E
  | 14 => 0xFF | _ => 0

/-- Formats with an infinity (R39). -/
def hasInf (fmt : Nat) : Bool := decide (fmt ≤ 4) || fmt == 6
/-- Formats with a NaN (R39, R45). -/
def hasNaN (fmt : Nat) : Bool := decide (fmt ≤ 6) || fmt == 14

/-- Combinations R35 permits for a stored tensor. -/
def schemeOk (fmt sch : Nat) : Bool :=
  if sch = 0 then decide (fmt ≤ 14)
  else if sch = 1 then [5, 6, 7, 8, 9, 12, 13].contains fmt
  else if sch = 2 then fmt == 9 || fmt == 13
  else false

/-- Elements that share one scale (R34). -/
def blockLen (sch : Nat) : Nat := if sch = 1 then 32 else if sch = 2 then 64 else 1
/-- Scale-plane bytes per block (R58). -/
def scaleBytes (sch : Nat) : Nat := if sch = 1 then 1 else if sch = 2 then 2 else 0

/-- Value of the fields of a floating encoding by R38. -/
def floatFields (F b e f : Nat) (s : Bool) : Val :=
  if e = 0 then .fin s f (1 - (b : Int) - F) else .fin s (2 ^ F + f) ((e : Int) - b - F)

/-- The value of a floating code of format fmt (R37 to R39, R43 for the FP32R container, R45). -/
def decodeFloat (fmt code : Nat) : Val :=
  if fmt = 14 then (if code % 256 = 255 then .nan else .fin false 1 ((code % 256 : Nat) - 127 : Int))
  else
    let (E, F, b) := floatShape fmt
    let c := if fmt = 2 then code >>> 13 else code
    let s := c.testBit (E + F)
    let e := bits c (E + F - 1) F
    let f := c % 2 ^ F
    if fmt = 5 then (if e = 15 ∧ f = 7 then .nan else floatFields F b e f s)
    else if hasInf fmt && e == 2 ^ E - 1 then (if f = 0 then .inf s else .nan)
    else floatFields F b e f s

/-- The value of an integer. -/
def intVal (i : Int) : Val := .fin (decide (i < 0)) i.natAbs 0

/-- The value of an unscaled element (R38, R39, R44, R45). -/
def decodeElem (fmt code : Nat) : Val :=
  if isInt fmt then intVal (signed (elemBits fmt) code) else decodeFloat fmt code

/-- Places of the implicit binary point under a scheme (R52). -/
def pointOf (fmt : Nat) : Int := if fmt = 12 then -6 else if fmt = 13 then -2 else 0

/-- A value times 2^k. -/
def scaleVal (v : Val) (k : Int) : Val :=
  match v with
  | .fin s m e => .fin s m (e + k)
  | v => v

/-- Micro-exponent offset of group g (R51). -/
def groupOffset (o : Byte) (g : Nat) : Nat := bits o.toNat (2 * g + 1) (2 * g)

/-- The element value under a scheme without its scale (R52). -/
def decodeCode (fmt sch code : Nat) : Val :=
  if sch = 0 then decodeElem fmt code else scaleVal (decodeElem fmt code) (pointOf fmt)

/-- The exact value of a scaled element: block scale x, offset byte o, place i in its block (R50 to R56). -/
def decodeScaled (fmt sch code : Nat) (x o : Byte) (i : Nat) : Val :=
  if sch = 0 then decodeElem fmt code
  else if x = 0xFF then .nan
  else
    let d : Nat := if sch = 2 then groupOffset o (i / 16) else 0
    scaleVal (decodeCode fmt sch code) ((x.toNat : Int) - 127 - d)

/-- Whether a code is a zero of either sign (R54, R155). -/
def zeroCode (fmt code : Nat) : Bool :=
  match decodeElem fmt code with
  | .fin _ 0 _ => true
  | _ => false

/-- Output rounding modes (R137). -/
def rndRNE : Nat := 0
def rndRTZ : Nat := 1
def rndSR : Nat := 2

/-- The magnitude m × 2^e in units of 2^q, rounded to an integer: to nearest even, toward zero, or by the 32 bits u
(R137, R139). -/
def roundMag (m : Nat) (e q : Int) (rnd u : Nat) : Nat :=
  if q ≤ e then m * 2 ^ (e - q).toNat
  else
    let k := (q - e).toNat
    let lo := m / 2 ^ k
    let rem := m % 2 ^ k
    let up : Bool :=
      if rnd = 1 then false
      else if rnd = 2 then decide (u < 2 ^ 32 * rem / 2 ^ k)
      else decide (2 ^ k < 2 * rem) || (2 * rem == 2 ^ k && lo % 2 == 1)
    if up then lo + 1 else lo

/-- Whether m1 × 2^e1 is below m2 × 2^e2. -/
def magLt (m1 : Nat) (e1 : Int) (m2 : Nat) (e2 : Int) : Bool :=
  let e := min e1 e2
  decide (m1 * 2 ^ (e1 - e).toNat < m2 * 2 ^ (e2 - e).toNat)

/-- Container placement of a bare encoding: FP32R fills bits [31:13] (R43). -/
def contain (fmt c : Nat) : Nat := if fmt = 2 then c <<< 13 else c

/-- The sign bit's weight in a bare encoding. -/
def signWeight (fmt : Nat) : Nat := let (E, F, _) := floatShape fmt; 2 ^ (E + F)

/-- Bare code of sign s and magnitude code c. -/
def withSign (fmt : Nat) (s : Bool) (c : Nat) : Nat := contain fmt (c + (if s then signWeight fmt else 0))

/-- Magnitude code of n × 2^q, where q is the quantum the exponent range asks for. -/
def packMag (fmt n : Nat) (q : Int) : Nat :=
  let (_, F, b) := floatShape fmt
  if n < 2 ^ F then n
  else
    let (n, q) := if n = 2 ^ (F + 1) then (2 ^ F, q + 1) else (n, q)
    (q + F + b).toNat * 2 ^ F + (n - 2 ^ F)

/-- Quantum at magnitude m × 2^e: the spacing there, never below the subnormal spacing (R40, R139). -/
def quantum (fmt m : Nat) (e : Int) : Int :=
  let (_, F, b) := floatShape fmt
  max ((log2 m : Int) + e) (1 - (b : Int)) - F

/-- Outcome of rounding a nonzero finite magnitude into a floating format, exponent range unbounded above: units,
quantum, and whether it overflows (R47). -/
def roundFloat (fmt m : Nat) (e : Int) (rnd u : Nat) : Nat × Int × Bool :=
  let q := quantum fmt m e
  let n := roundMag m e q rnd u
  let beyond := match decodeFloat fmt (contain fmt (maxMag fmt)) with
    | .fin _ mm me => if rnd = 1 then magLt mm me m e else magLt mm me n q
    | _ => false
  (n, q, beyond)

/-- Conversion into a floating format other than E8M0 (R46 to R49): code and flags. -/
def toFloat (fmt : Nat) (sat : Bool) (rnd u : Nat) (v : Val) : Nat × Nat :=
  let sat' := sat || !hasNaN fmt
  match v with
  | .nan => if hasNaN fmt then (canonNaN fmt, 0) else (0, fIV)
  | .inf s =>
    if sat' then (withSign fmt s (maxMag fmt), fAO)
    else if hasInf fmt then
      (let (E, F, _) := floatShape fmt; (withSign fmt s ((2 ^ E - 1) * 2 ^ F), 0))
    else (canonNaN fmt, fIV ||| fNP)
  | .fin s 0 _ => (withSign fmt s 0, 0)
  | .fin s m e =>
    let (n, q, beyond) := roundFloat fmt m e rnd u
    if beyond then
      if rnd = 1 || sat' then (withSign fmt s (maxMag fmt), fAO)
      else if hasInf fmt then
        (let (E, F, _) := floatShape fmt; (withSign fmt s ((2 ^ E - 1) * 2 ^ F), fAO))
      else (canonNaN fmt, fAO ||| fNP)
    else if n = 0 then (withSign fmt s 0, fUZ)
    else (withSign fmt s (packMag fmt n q), 0)

/-- Conversion into an integer format (R46 to R49): always saturating. -/
def toInt (fmt rnd u : Nat) (v : Val) : Nat × Nat :=
  let w := elemBits fmt
  let hi : Nat := 2 ^ (w - 1) - 1
  match v with
  | .nan => (0, fIV)
  | .inf s => (if s then 2 ^ (w - 1) else hi, fAO)
  | .fin s m e =>
    let n := roundMag m e 0 rnd u
    let lim := if s then hi + 1 else hi
    let beyond := if rnd = 1 then magLt lim 0 m e else decide (lim < n)
    if beyond then (if s then 2 ^ (w - 1) else hi, fAO)
    else (lowBits w (if s then -(n : Int) else n), flagIf (n == 0 && m != 0) fUZ)

/-- Conversion into E8M0 (R584). -/
def toE8M0 (sat : Bool) (rnd u : Nat) (v : Val) : Nat × Nat :=
  match v with
  | .nan => (0xFF, 0)
  | .inf false => if sat then (0xFE, fAO) else (0xFF, fIV ||| fNP)
  | .inf true => (0xFF, fIV ||| fNP)
  | .fin true _ _ => (0xFF, fIV ||| fNP)
  | .fin false 0 _ => (0xFF, fIV ||| fNP)
  | .fin false m e =>
    let k := log2 m
    let ex : Int := (k : Int) + e
    let frac := m - 2 ^ k
    let up : Bool :=
      if rnd = 1 then false
      else if rnd = 2 then decide (u < 2 ^ 32 * frac / 2 ^ k)
      else decide (2 ^ k < 2 * frac) || (2 * frac == 2 ^ k && (ex + 127) % 2 == 1)
    let nb := if up then ex + 1 else ex
    if nb > 127 then (if sat then (0xFE, fAO) else (0xFF, fAO ||| fNP))
    else if nb < -127 then (0, fUZ)
    else ((nb + 127).toNat, 0)

/-- Conversion of an exact value into any element format (R46 to R49, R584): code and flags. -/
def toElem (fmt : Nat) (sat : Bool) (rnd u : Nat) (v : Val) : Nat × Nat :=
  if fmt = 14 then toE8M0 sat rnd u v
  else if isInt fmt then toInt fmt rnd u v
  else toFloat fmt sat rnd u v

/-- Rounding into a working or accumulator format: to nearest even with R76's overflow rule. -/
def toWork (fmt : Nat) (v : Val) : Nat × Nat := toElem fmt false 0 0 v

/-! ## Packed rows (R57, R60) -/

/-- Element i of a row of w-bit elements held in bytes (R57). -/
def rowElem (row : List Byte) (w i : Nat) : Nat :=
  let lo := w * i
  (fieldLE row (lo / 8) ((w + 7) / 8 + 1) >>> (lo % 8)) % 2 ^ w

/-- Bytes of n elements of w bits (R59). -/
def rowBytes (w n : Nat) : Nat := (w * n + 7) / 8

/-- Pack element codes into bytes, first element lowest, unused bits zero (R57, R60). -/
def packElems (w : Nat) (codes : List Nat) : List Byte :=
  toLE (rowBytes w codes.length) (codes.foldr (fun c acc => acc * 2 ^ w + c % 2 ^ w) 0)

end Sys2Proof.Machine
end

