-- ==== Sys2Proof/Machine/Arith.lean ====
section
/-!
DEFINITION. Dot-product arithmetic: permitted pairs (R63, R64), products (R67 to R69), block terms (R71 to R75),
accumulator addition (R76 to R78), K-block sums (R80), the pairwise tree (R82, R83) and the sequential order (R85).
Accumulator values are codes of the accumulator format; every result carries the flags it raises (R87).
-/
namespace Sys2Proof.Machine

/-- The narrow floating class without a scheme (03). -/
def narrowFloat (fmt : Nat) : Bool := decide (2 ≤ fmt) && decide (fmt ≤ 9)

/-- Operand pairs and accumulators of R63 and R64: activation format, weight format, scheme of both, ACC. -/
def pairOk (afmt wfmt sch acc : Nat) : Bool :=
  if sch = 0 then
    (narrowFloat afmt && narrowFloat wfmt && acc == 1)
    || (afmt == 1 && wfmt == 1 && (acc == 1 || acc == 0))
    || (afmt == 0 && wfmt == 0 && acc == 0)
    || ([12, 13].contains afmt && [12, 13].contains wfmt && acc == 10)
  else if sch = 1 then
    [5, 6, 7, 8, 9, 12, 13].contains afmt && [5, 6, 7, 8, 9, 12, 13].contains wfmt && acc == 1
      && schemeOk afmt 1 && schemeOk wfmt 1
      && (afmt != 13 || [9, 13].contains wfmt) && (wfmt != 13 || [9, 13].contains afmt)
  else if sch = 2 then [9, 13].contains afmt && [9, 13].contains wfmt && acc == 1
  else false

/-- A result with its flags. -/
abbrev Flagged := Nat × Nat

/-- A finite exact value brought into the accumulator by truncation (R68). -/
def truncAcc (acc : Nat) (v : Val) : Flagged :=
  if isInt acc then ((toInt acc 1 0 v).1, 0)
  else match v with
    | .nan => (canonNaN acc, 0)
    | .inf s => ((toFloat acc false 1 0 (.inf s)).1, 0)
    | .fin s m e =>
      let r := toFloat acc false 1 0 (.fin s m e)
      (r.1, flagIf (r.2 &&& fAO != 0) fPC ||| flagIf (r.2 &&& fUZ != 0) fUZ)

/-- Exact product of two values, with the flags of R69. -/
def mulVal (a b : Val) : Val × Nat :=
  match a, b with
  | .nan, _ => (.nan, fIV)
  | _, .nan => (.nan, fIV)
  | .inf s, .inf t => (.inf (s != t), 0)
  | .inf s, .fin t m _ => if m = 0 then (.nan, fIV ||| fNP) else (.inf (s != t), 0)
  | .fin s m _, .inf t => if m = 0 then (.nan, fIV ||| fNP) else (.inf (s != t), 0)
  | .fin s m e, .fin t n f => (.fin (s != t) (m * n) (e + f), 0)

/-- An element product in the accumulator format (R67 to R69). -/
def product (acc : Nat) (a b : Val) : Flagged :=
  let p := mulVal a b
  let r := truncAcc acc p.1
  (r.1, p.2 ||| r.2)

/-- Numerator of m × 2^e over 2^base, signed. -/
def atExp (s : Bool) (m : Nat) (e base : Int) : Int :=
  let n : Int := (m * 2 ^ (e - base).toNat : Nat)
  if s then -n else n

/-- Exact sum of two values with the zero rules of R77 and the specials of R76. -/
def addVal (a b : Val) : Val × Nat :=
  match a, b with
  | .nan, _ => (.nan, 0)
  | _, .nan => (.nan, 0)
  | .inf s, .inf t => if s = t then (.inf s, 0) else (.nan, fIV ||| fNP)
  | .inf s, .fin _ _ _ => (.inf s, 0)
  | .fin _ _ _, .inf t => (.inf t, 0)
  | .fin s m e, .fin t n f =>
    if m = 0 ∧ n = 0 then (.fin (s && t) 0 0, 0)
    else
      let base := min e f
      let i := atExp s m e base + atExp t n f base
      (.fin (decide (i < 0)) i.natAbs base, 0)

/-- add() of R76 to R78 on accumulator codes. -/
def addAcc (acc : Nat) (a b : Nat) : Flagged :=
  let p := addVal (decodeElem acc a) (decodeElem acc b)
  let r := toWork acc p.1
  (r.1, p.2 ||| (r.2 &&& fAO))

/-! ## Block terms -/

/-- A scaled block of one operand: scale, offset byte, element codes (R50, R51). -/
structure Block where
  scale : Byte
  offs : Byte
  codes : List Nat
deriving DecidableEq, Repr

/-- Sum of exact products as (numerator, base exponent): every term finite. -/
def sumFin (vs : List Val) : Val :=
  vs.foldl (fun acc v => (addVal acc v).1) (.fin false 0 0)

/-- Row 6 of R73: the exact value of R71 over the elements, as a list of products with their group offsets. -/
def blockProducts (sch afmt wfmt : Nat) (a w : Block) : List Val :=
  (List.range (blockLen sch)).map (fun i =>
    let d : Nat := if sch = 2 then groupOffset a.offs (i / 16) + groupOffset w.offs (i / 16) else 0
    scaleVal (mulVal (decodeCode afmt sch (a.codes.getD i 0)) (decodeCode wfmt sch (w.codes.getD i 0))).1 (-(d : Int)))

/-- The block term of R71 to R74: nothing when its exact value is zero, else a code and flags. -/
def blockTerm (acc sch afmt wfmt : Nat) (a w : Block) : Option Flagged :=
  if a.scale = 0xFF ∨ w.scale = 0xFF then some (canonNaN acc, fIV)
  else
    let nanIn (fmt : Nat) (b : Block) := (List.range (blockLen sch)).any (fun i => decodeCode fmt sch (b.codes.getD i 0) == .nan)
    let ps := blockProducts sch afmt wfmt a w
    if nanIn afmt a || nanIn wfmt w then some (canonNaN acc, fIV)
    else if ps.contains .nan then some (canonNaN acc, fIV ||| fNP)
    else if ps.contains (.inf true) && ps.contains (.inf false) then some (canonNaN acc, fIV ||| fNP)
    else if ps.contains (.inf true) then some (truncAcc acc (.inf true))
    else if ps.contains (.inf false) then some (truncAcc acc (.inf false))
    else match sumFin ps with
      | .fin s m e =>
        if m = 0 then none
        else some (truncAcc acc (.fin s m (e + a.scale.toNat + w.scale.toNat - 254)))
      | _ => none

/-! ## K-blocks -/

/-- The running sum of a K-block: nothing until its first product or term (R80), and the flags so far. -/
structure RunSum where
  value : Option Nat := none
  flags : Nat := 0
deriving DecidableEq, Repr

/-- One more product or term enters the K-block's sum (R80). -/
def RunSum.enter (acc : Nat) (r : RunSum) (t : Flagged) : RunSum :=
  match r.value with
  | none => { value := some t.1, flags := r.flags ||| t.2 }
  | some v => let x := addAcc acc v t.1; { value := some x.1, flags := r.flags ||| t.2 ||| x.2 }

/-- The partial sum of a K-block: +0 when every term was left out (R80). -/
def RunSum.result (r : RunSum) : Flagged := (r.value.getD 0, r.flags)

/-- Unscaled K-block: activation codes against weight codes in ascending k (R80). -/
def kblockPlain (acc afmt wfmt : Nat) : List Nat → List Nat → RunSum → RunSum
  | a :: as, w :: ws, r => kblockPlain acc afmt wfmt as ws (r.enter acc (product acc (decodeElem afmt a) (decodeElem wfmt w)))
  | _, _, r => r

/-- Scaled K-block: block terms in ascending order, terms of value zero passed over (R74, R80). -/
def kblockScaled (acc sch afmt wfmt : Nat) : List Block → List Block → RunSum → RunSum
  | a :: as, w :: ws, r =>
    kblockScaled acc sch afmt wfmt as ws (match blockTerm acc sch afmt wfmt a w with | some t => r.enter acc t | none => r)
  | _, _, r => r

/-! ## The tree -/

/-- A node of R82. -/
structure Node where
  level : Nat
  index : Nat
  value : Nat
deriving DecidableEq, Repr

/-- Merging of push() (R83): the stack's top is the head of the list. -/
def pushMerge (add : Nat → Nat → Flagged) : List Node → Node → Nat → List Node × Nat
  | [], n, fl => ([n], fl)
  | a :: rest, n, fl =>
    if a.level = n.level ∧ a.index % 2 = 0 ∧ n.index = a.index + 1 then
      let x := add a.value n.value
      pushMerge add rest ⟨a.level + 1, a.index / 2, x.1⟩ (fl ||| x.2)
    else (n :: a :: rest, fl)

/-- push() of R83. -/
def pushNode (add : Nat → Nat → Flagged) (st : List Node) (n : Node) : List Node × Nat := pushMerge add st n 0

/-- finish() of R83: fold the maximal nodes from the last to the first. -/
def finishStack (add : Nat → Nat → Flagged) : List Node → Flagged
  | [] => (0, 0)
  | n :: rest => rest.foldl (fun r a => let x := add a.value r.1; (x.1, r.2 ||| x.2)) (n.value, 0)

/-- Shape of the stack after blocks lo to hi − 1 have been pushed, newest first (R109, R124): a function of the range. -/
def stackShape (lo hi : Nat) : List (Nat × Nat) :=
  let st := (List.range (hi - lo)).foldl (fun st j => (pushNode (fun _ _ => (0, 0)) st ⟨0, lo + j, 0⟩).1) []
  st.map (fun n => (n.level, n.index))

/-- A stack rebuilt from its values, newest first, and the range pushed so far. -/
def stackFrom (lo next : Nat) (vals : List Nat) : List Node :=
  ((stackShape lo next).zip vals).map (fun p => ⟨p.1.1, p.1.2, p.2⟩)

/-- First block a node covers. -/
def Node.first (n : Node) : Nat := n.index * 2 ^ n.level

/-- Sequential order of R85: the running value takes the next partial sum. -/
def seqNext (add : Nat → Nat → Flagged) (r : Option Nat) (p : Nat) : Flagged :=
  match r with
  | none => (p, 0)
  | some v => add v p

/-! ## Reduction operations (R121, R122) -/

/-- Comparison of non-NaN values: −1, 0 or 1. -/
def cmpVal (a b : Val) : Int :=
  match a, b with
  | .inf s, .inf t => if s = t then 0 else if s then -1 else 1
  | .inf s, _ => if s then -1 else 1
  | _, .inf t => if t then 1 else -1
  | .fin s m e, .fin t n f =>
    let base := min e f
    let d := atExp s m e base - atExp t n f base
    if d < 0 then -1 else if d = 0 then 0 else 1
  | _, _ => 0

/-- Sign of a value. -/
def negVal : Val → Bool
  | .fin s _ _ => s
  | .inf s => s
  | .nan => false

/-- MAX and MIN (R122) on codes of a working format. -/
def extremum (fmt : Nat) (isMax : Bool) (a b : Nat) : Flagged :=
  let x := decodeElem fmt a
  let y := decodeElem fmt b
  if x = .nan ∨ y = .nan then (canonNaN fmt, fIV)
  else
    let c := cmpVal x y
    if c = 0 then (if negVal x == isMax then b else a, 0)
    else if (c == 1) == isMax then (a, 0) else (b, 0)

/-- The operation of a reduction KIND (R120): KNODE and SUM add, MAX and MIN compare. -/
def kindOp (kind acc : Nat) (a b : Nat) : Flagged :=
  if kind = 2 then extremum acc true a b
  else if kind = 3 then extremum acc false a b
  else addAcc acc a b

/-- A leaf brought into ACC (R121). NaN converts without a flag. -/
def leafInto (acc : Nat) (v : Val) : Flagged :=
  match v with
  | .nan => (canonNaN acc, 0)
  | v => toWork acc v

end Sys2Proof.Machine
end

