-- ==== Sys2Proof/Machine/TillerIsa.lean ====
section
/-!
DEFINITION. Tiller words (R156, R159, R160, R175), address generators (R172, R173), descriptor entries (R172, R182, R184) and
which generators a sub-operation draws on (R179, R184 to R188).
-/
namespace Sys2Proof.Machine

/-- Tiller kinds of R156. -/
inductive TKind where
  | feed | thresher | crop | wain | copy
deriving DecidableEq, Repr

/-- Kind of Tiller t. -/
def tillerKind (t : Nat) : TKind :=
  if t < 16 then .feed else if t < 20 then .thresher else if t = 20 then .crop else if t < 45 then .wain else .copy

/-- OP, SUB, DT and DC of a word. -/
def opOf (w : W64) : Nat := field w 63 58
def subOf (w : W64) : Nat := field w 57 53
def dtOf (w : W64) : Nat := field w 52 47
def dcOf (w : W64) : Nat := field w 46 43
/-- AG of AGSET, AGSKIP and AGRST. -/
def agOf (w : W64) : Nat := field w 57 55

/-! ## Descriptor entries -/

/-- Fields of a stream descriptor (R172). -/
def dBase (d : List Byte) : Nat := bits (fieldLE d 0 8) 55 0
def dSbase (d : List Byte) : Nat := bits (fieldLE d 8 8) 55 0
def dFmt (d : List Byte) : Nat := fieldLE d 16 1 % 16
def dSch (d : List Byte) : Nat := fieldLE d 17 1 % 4
def dSat (d : List Byte) : Bool := (fieldLE d 18 1).testBit 0
def dRnd (d : List Byte) : Nat := bits (fieldLE d 18 1) 2 1
def dSrc (d : List Byte) : Nat := fieldLE d 19 1 % 4
def dSheaf (d : List Byte) : Nat := bits (fieldLE d 19 1) 3 2
def dTensor (d : List Byte) : Nat := fieldLE d 20 4
def dRun (d : List Byte) : Nat := fieldLE d 24 4
def dElem0 (d : List Byte) : Nat := fieldLE d 32 8
def dCount (d : List Byte) (k : Nat) : Nat := fieldLE d (40 + 16 * k) 4
def dEstride (d : List Byte) (k : Nat) : Int := signed 32 (fieldLE d (44 + 16 * k) 4)
def dSstride (d : List Byte) (k : Nat) : Int := signed 32 (fieldLE d (48 + 16 * k) 4)
def dLstride (d : List Byte) (k : Nat) : Nat := fieldLE d (52 + 16 * k) 4

/-- Fields of a region descriptor (R182). -/
def gRbase (d : List Byte) : Nat := fieldLE d 0 2
def gAcc (d : List Byte) : Nat := fieldLE d 2 1
def gDepth (d : List Byte) : Nat := fieldLE d 3 1
def gEcount (d : List Byte) : Nat := fieldLE d 4 4
def gLo (d : List Byte) : Nat := fieldLE d 8 2
def gNblk (d : List Byte) : Nat := fieldLE d 10 2 + 1
def gSigt (d : List Byte) : Nat := fieldLE d 12 1
def gSigc (d : List Byte) : Nat := fieldLE d 13 1 % 16
def gFinish (d : List Byte) : Bool := (fieldLE d 13 1).testBit 4

/-- Fields of a reduction descriptor (R184). -/
def rTensor (d : List Byte) : Nat := fieldLE d 0 4
def rElem0 (d : List Byte) : Nat := fieldLE d 4 4
def rEcount (d : List Byte) : Nat := fieldLE d 8 4
def rAcc (d : List Byte) : Nat := fieldLE d 12 1
def rKind (d : List Byte) : Nat := fieldLE d 13 1
def rDepth (d : List Byte) : Nat := fieldLE d 14 1
def rWork (d : List Byte) : Nat := bits (fieldLE d 16 8) 55 0
def rNlo (d : List Byte) : Nat := fieldLE d 24 4
def rNhi (d : List Byte) : Nat := fieldLE d 28 4

/-- Bytes of an accumulator format's entry (R108, R585). -/
def accBytes (acc : Nat) : Nat := if acc = 0 then 8 else 4

/-- KiB of the accumulator store a region takes (R107). -/
def regionKib (d : List Byte) : Nat := ceilDiv (gEcount d * gDepth d * accBytes (gAcc d)) 1024

/-! ## Address generators (R173) -/

/-- A generator freshly loaded by AGSET. -/
def agLoad (d : List Byte) : Agen := { desc := d }

/-- Count of a dimension, at least 1. -/
def agCount (g : Agen) (k : Nat) : Nat := max 1 (dCount g.desc k)

/-- Position of a dimension. -/
def agPos (g : Agen) (k : Nat) : Nat := match k with | 0 => g.p0 | 1 => g.p1 | 2 => g.p2 | _ => g.p3

/-- A base plus the strides of the positions, modulo 2^64. -/
def agSum (g : Agen) (base : Nat) (stride : Nat → Int) : Nat :=
  lowBits 64 ((base : Int) + (agPos g 0) * stride 0 + (agPos g 1) * stride 1 + (agPos g 2) * stride 2 + (agPos g 3) * stride 3)

/-- run_addr, run_saddr and run_elem of R173. -/
def runAddr (g : Agen) : Nat := agSum g (dBase g.desc) (dEstride g.desc)
def runSaddr (g : Agen) : Nat := agSum g (dSbase g.desc) (dSstride g.desc)
def runElem (g : Agen) : Nat := agSum g (dElem0 g.desc) (fun k => (dLstride g.desc k : Int))

/-- ag_step() of R173. -/
def agStep (g : Agen) : Agen :=
  if g.p0 + 1 < agCount g 0 then { g with p0 := g.p0 + 1 }
  else if g.p1 + 1 < agCount g 1 then { g with p0 := 0, p1 := g.p1 + 1 }
  else if g.p2 + 1 < agCount g 2 then { g with p0 := 0, p1 := 0, p2 := g.p2 + 1 }
  else if g.p3 + 1 < agCount g 3 then { g with p0 := 0, p1 := 0, p2 := 0, p3 := g.p3 + 1 }
  else { g with p0 := 0, p1 := 0, p2 := 0, p3 := 0 }

/-- n steps of ag_step(), as mixed-radix arithmetic (R174: AGSKIP). -/
def agSkip (g : Agen) (n : Nat) : Agen :=
  let c0 := agCount g 0
  let c1 := agCount g 1
  let c2 := agCount g 2
  let c3 := agCount g 3
  let i := g.p0 + c0 * (g.p1 + c1 * (g.p2 + c2 * g.p3)) + n
  { g with p0 := i % c0, p1 := i / c0 % c1, p2 := i / (c0 * c1) % c2, p3 := i / (c0 * c1 * c2) % c3 }

/-- The generator's run i counted from its current position. -/
def agRun (g : Agen) (i : Nat) : Agen := agSkip g i

/-! ## Sub-operations -/

/-- How a sub-operation uses a generator: runs taken, and whether it writes them. -/
structure AgUse where
  ag : Nat
  runs : Nat
  write : Bool
deriving DecidableEq, Repr

/-- lanes that LOAD's LANES code names (R179). -/
def lanesOf (code : Nat) : Nat := 2 ^ code

/-- Descriptor entry n of a Tiller. -/
def descAt (descs : List (List Byte)) (n : Nat) : List Byte := descs.getD n []

/-- Operands FUNC uses among a, b, c (R132, R185). -/
def winOperands (fn : Nat) : Nat :=
  if fn = 4 ∨ fn = 10 then 3
  else if fn = 1 ∨ fn = 2 ∨ fn = 3 ∨ fn = 5 ∨ fn = 6 ∨ fn = 9 then 2
  else 1

/-- Generators a sub-operation draws on, in the order of its fields; `run` gives the RUN of a loaded generator. -/
def subUses (k : TKind) (w : W64) (descs : List (List Byte)) (run : Nat → Nat) : List AgUse :=
  let ag := field w 42 40
  match k, subOf w with
  | .feed, 0 => [⟨ag, 256 * lanesOf (field w 15 14), false⟩]
  | .feed, 1 => [⟨ag, field w 31 16 + 1, false⟩]
  | .thresher, 0 => [⟨ag, 1, false⟩]
  | .thresher, 1 => [⟨ag, rEcount (descAt descs (field w 39 32)), false⟩]
  | .thresher, 2 => [⟨ag, 1, true⟩]
  | .thresher, 3 => [⟨ag, ceilDiv (rEcount (descAt descs (field w 39 32))) (max 1 (run ag)), true⟩]
  | .thresher, 4 =>
    let n := field w 21 0 + 1
    (([field w 33 31, field w 30 28, field w 27 25].take (winOperands (field w 42 37))).map (fun a => (⟨a, n, false⟩ : AgUse)))
      ++ [⟨field w 24 22, n, true⟩]
  | .crop, 0 => [⟨ag, field w 34 15 + 1, false⟩]
  | .crop, 1 => [⟨ag, field w 34 15 + 1, true⟩]
  | .wain, 0 => [⟨ag, field w 39 20 + 1, false⟩]
  | .wain, 1 => [⟨ag, field w 39 20 + 1, true⟩]
  | .copy, 0 => [⟨ag, field w 36 17 + 1, false⟩, ⟨field w 39 37, field w 36 17 + 1, true⟩]
  | .copy, 1 => [⟨ag, field w 35 16 + 1, false⟩]
  | .copy, 2 => [⟨ag, field w 39 20 + 1, true⟩]
  | _, _ => []

/-- SUB codes a kind defines (R179, R184, R186 to R188). -/
def subCount (k : TKind) : Nat :=
  match k with
  | .feed => 4 | .thresher => 5 | .crop => 2 | .wain => 2 | .copy => 3

/-- Unit a sub-operation of Tiller t goes to, by the model's numbering (log 24): 0 to 15 Sheaves, 16 to 19 Threshers, 20 to 23
Winnowers, 24 the Crop Thresher, 25 to 48 Wain links, 49 to 56 copy engines. -/
def unitOf (t : Nat) (w : W64) : Nat :=
  match tillerKind t with
  | .feed => t
  | .thresher => if subOf w = 4 then t + 4 else t
  | .crop => 24
  | .wain => t + 4
  | .copy => t + 4

/-- Reserved bits of an instruction word are zero (R159, R160, R179, R184, R186 to R188). -/
def wordRsvOk (k : TKind) (w : W64) : Bool :=
  let z (hi lo : Nat) : Bool := field w hi lo == 0
  match opOf w with
  | 0x00 => z 57 0
  | 0x01 => z 57 0
  | 0x02 => z 57 24
  | 0x03 => z 57 0
  | 0x04 => z 54 8
  | 0x05 => z 54 32
  | 0x06 => z 54 0
  | 0x07 => z 56 40
  | 0x08 => z 47 16
  | 0x09 => z 57 52 && z 47 16
  | 0x0A => z 57 16
  | 0x0B => z 57 0
  | 0x10 =>
    match k, subOf w with
    | .feed, 0 => z 13 0
    | .feed, 1 => z 11 0
    | .feed, 2 => z 42 40 && z 31 0
    | .feed, 3 => z 42 40 && z 31 0
    | .thresher, 0 => z 31 0
    | .thresher, 1 => z 15 0
    | .thresher, 2 => z 31 0
    | .thresher, 3 => z 31 0
    | .crop, _ => z 14 0
    | .wain, _ => z 19 0
    | .copy, 0 => z 16 0
    | .copy, 1 => z 15 0
    | .copy, 2 => z 19 0
    | _, _ => true
  | _ => true

/-- Opcodes of R159. -/
def opDefined (op : Nat) : Bool := decide (op ≤ 0x0B) || op == 0x10

/-- RSV bytes and bits of a stream entry are zero (R172). -/
def streamRsvOk (d : List Byte) : Bool :=
  bits (fieldLE d 0 8) 63 56 == 0 && bits (fieldLE d 8 8) 63 56 == 0 && fieldLE d 16 1 / 16 == 0 && fieldLE d 17 1 / 4 == 0
  && fieldLE d 18 1 / 8 == 0 && fieldLE d 19 1 / 16 == 0 && zeroAt d 28 4 && zeroAt d 104 24

/-- RSV bytes and bits of a region entry are zero (R182). -/
def regionRsvOk (d : List Byte) : Bool := fieldLE d 13 1 / 32 == 0 && zeroAt d 14 114

/-- RSV bytes and bits of a reduction entry are zero (R184). -/
def redRsvOk (d : List Byte) : Bool := zeroAt d 15 1 && bits (fieldLE d 16 8) 63 56 == 0 && zeroAt d 32 96

end Sys2Proof.Machine
end

