-- ==== Sys2Proof/Machine/PlanImage.lean ====
section
/-!
DEFINITION. The plan image (R191 to R214): its tables, the retained copy, and the checks of R221 that look at the image's
layout, tables and binding list (codes 0x01 to 0x05, 0x12, 0x14 to 0x17).
-/
namespace Sys2Proof.Machine

/-! ## Directory and tables -/

/-- OFFSET64 × 64 and COUNT of directory entry i (R195). -/
def dirOff (img : List Byte) (i : Nat) : Nat := 64 * fieldLE img (128 + 8 * i) 4
def dirCount (img : List Byte) (i : Nat) : Nat := fieldLE img (132 + 8 * i) 4

/-- Entry size of table i (R195). -/
def entrySize (i : Nat) : Nat := ([64, 16, 32, 32, 64, 32, 16, 16, 32, 16, 16] : List Nat).getD i 0

/-- The bytes of entry k of table i. -/
def tabEntry (img : List Byte) (i k : Nat) : List Byte := slice img (dirOff img i + entrySize i * k) (entrySize i)

/-- Every entry of table i. -/
def tabEntries (img : List Byte) (i : Nat) : List (List Byte) := (List.range (dirCount img i)).map (tabEntry img i)

/-- POSITION entry (R196). -/
def parsePos (e : List Byte) : PosEntry :=
  { stage := fieldLE e 0 4, tillerTab := fieldLE e 4 4, tickFirst := fieldLE e 8 4, tickCount := fieldLE e 12 4
    linkMask := fieldLE e 16 4, sheafMask := fieldLE e 20 2 }
/-- TILLER entry (R197). -/
def parseTiller (e : List Byte) : TillerEntry :=
  { prog := fieldLE e 0 4, ninstr := fieldLE e 4 2, ndesc := fieldLE e 6 2, desc := fieldLE e 8 4 }
/-- STAGE entry (R198). -/
def parseStage (e : List Byte) : StageEntry :=
  { firstLayer := fieldLE e 0 4, nlayer := fieldLE e 4 4, firstStep := fieldLE e 8 4, nsteps := fieldLE e 12 4 }
/-- STEP entry (R199). -/
def parseStep (e : List Byte) : StepEntry :=
  { seed := BitVec.ofNat 64 (fieldLE e 0 8), stage := fieldLE e 8 4, layer := fieldLE e 12 4, rowsPerPass := fieldLE e 16 4
    firstEpoch := fieldLE e 20 4, lastEpoch := fieldLE e 24 4 }
/-- TENSOR entry (R200). -/
def parseTensor (e : List Byte) : TensorEntry :=
  { tensor := fieldLE e 0 4, fmt := fieldLE e 4 1, sch := fieldLE e 5 1, outw := fieldLE e 6 1, arena := fieldLE e 8 4
    elemBase := fieldLE e 16 8, elemPitch := fieldLE e 24 8, scaleBase := fieldLE e 32 8, scalePitch := fieldLE e 40 8
    rows := fieldLE e 48 4, rowlen := fieldLE e 52 4 }
/-- ARENA entry (R202). -/
def parseArena (e : List Byte) : ArenaEntry :=
  { position := fieldLE e 0 4, kind := fieldLE e 4 1, space := fieldLE e 5 1, publish := (fieldLE e 6 1).testBit 0, size := fieldLE e 8 8 }
/-- RELOC entry (R204). -/
def parseReloc (e : List Byte) : RelocEntry :=
  { position := fieldLE e 0 2, tiller := fieldLE e 2 1, entry := fieldLE e 3 1, field := fieldLE e 4 1, mode := fieldLE e 5 1
    arena := fieldLE e 8 4 }
/-- LINK entry (R210). -/
def parseLink (e : List Byte) : LinkEntry :=
  { posA := fieldLE e 0 2, linkA := fieldLE e 2 1, posB := fieldLE e 4 2, linkB := fieldLE e 6 1, rate := fieldLE e 7 1 }
/-- XFER entry (R211). -/
def parseXfer (e : List Byte) : XferEntry :=
  { srcPos := fieldLE e 0 2, srcLink := fieldLE e 2 1, pairing := fieldLE e 3 1, seq := fieldLE e 4 4, bytes := fieldLE e 8 4
    epoch := fieldLE e 12 4, nepoch := fieldLE e 16 4, sendTick := fieldLE e 20 4, releaseTick := fieldLE e 24 4 }
/-- TICK entry (R212). -/
def parseTick (e : List Byte) : TickEntry :=
  { step := fieldLE e 0 2, tiller := fieldLE e 2 1, kind := fieldLE e 3 1, epoch := fieldLE e 4 4, nepoch := fieldLE e 8 4, tick := fieldLE e 12 4 }
/-- LEASE entry (R214). -/
def parseLease (e : List Byte) : LeaseEntry :=
  { position := fieldLE e 0 2, sheaves := fieldLE e 2 2, attach := fieldLE e 4 1, epochFirst := fieldLE e 8 4, epochLast := fieldLE e 12 4 }

/-- TILLER entry of Tiller t of position p. -/
def tillerOf (img : List Byte) (p t : Nat) : TillerEntry :=
  parseTiller (tabEntry img 1 ((parsePos (tabEntry img 0 p)).tillerTab + t))

/-- Program words of a TILLER entry. -/
def progWords (img : List Byte) (e : TillerEntry) : List W64 :=
  (List.range e.ninstr).map (fun i => BitVec.ofNat 64 (fieldLE img (64 * e.prog + 8 * i) 8))

/-- Descriptor entries of a TILLER entry. -/
def descBlocks (img : List Byte) (e : TillerEntry) : List (List Byte) :=
  (List.range e.ndesc).map (fun i => slice img (64 * e.desc + 128 * i) 128)

/-- The retained copy (R220) for one position, with the node sets its programs form. -/
def parsePlan (img : List Byte) (position : Nat) (sets : List PlanSet) : Plan :=
  { flags := BitVec.ofNat 32 (fieldLE img 12 4), imageSize := fieldLE img 16 8, npos := fieldLE img 24 4, nstep := fieldLE img 28 4
    el := fieldLE img 32 1, loftWays := fieldLE img 33 1, margin := fieldLE img 36 4, linkBudget := fieldLE img 40 4
    crc := BitVec.ofNat 32 (fieldLE img 44 4), planId := BitVec.ofNat 128 (fieldLE img 48 16)
    doneArena := fieldLE img 64 4, doneOffset := fieldLE img 72 8
    positions := (tabEntries img 0).map parsePos, tillers := (tabEntries img 1).map parseTiller
    stages := (tabEntries img 2).map parseStage, steps := (tabEntries img 3).map parseStep
    tensors := (tabEntries img 4).map parseTensor, arenas := (tabEntries img 5).map parseArena
    relocs := (tabEntries img 6).map parseReloc, links := (tabEntries img 7).map parseLink
    xfers := (tabEntries img 8).map parseXfer, ticks := (tabEntries img 9).map parseTick
    leases := (tabEntries img 10).map parseLease
    progs := (List.range 53).map (fun t => progWords img (tillerOf img position t))
    descs := (List.range 53).map (fun t => descBlocks img (tillerOf img position t)), sets := sets }

/-! ## Failures -/

/-- A failing place: position and Tiller, 63 for none (R221, R498). -/
abbrev Place := Nat × Nat

/-- The lowest failing position and its lowest failing Tiller. -/
def lowestPlace (ps : List Place) : Option Place :=
  ps.foldl (fun m p => match m with
    | none => some p
    | some q => if p.1 < q.1 ∨ (p.1 = q.1 ∧ p.2 < q.2) then some p else some q) none

/-- A failing place at a position without a Tiller, when a condition holds. -/
def failAt (bad : Bool) (p : Nat) : List Place := if bad then [(p, 63)] else []

/-! ## 0x01 HEADER, 0x02 CRC -/

/-- IMAGE_SIZE is no size an image may have (R192). -/
def sizeBad (img : List Byte) : Bool :=
  let n := fieldLE img 16 8
  n % 64 != 0 || decide (n < 256) || decide (2 ^ 32 < n)

/-- MAGIC, VERSION, HDR_SIZE and IMAGE_SIZE (R192). -/
def headerBad (img : List Byte) : Bool :=
  fieldLE img 0 8 != 0x004E414C50485759 || fieldLE img 8 2 != 0x0100 || fieldLE img 10 2 != 256 || sizeBad img

/-- The CRC of R194: bytes 44 to 47 taken as zero. -/
def crcBad (img : List Byte) : Bool :=
  crc32c (slice img 0 44 ++ [0, 0, 0, 0] ++ slice img 48 (fieldLE img 16 8 - 48)) != BitVec.ofNat 32 (fieldLE img 44 4)

/-! ## 0x03 LAYOUT -/

/-- A table's byte span. -/
def tabSpan (img : List Byte) (i : Nat) : Nat × Nat := (dirOff img i, dirCount img i * entrySize i)

/-- Two spans overlap. -/
def spansMeet (a b : Nat × Nat) : Bool := decide (0 < a.2) && decide (0 < b.2) && decide (a.1 < b.1 + b.2) && decide (b.1 < a.1 + a.2)

/-- Program and descriptor spans of every position's Tillers, with their places. -/
def blockSpans (img : List Byte) : List (Place × (Nat × Nat)) :=
  (List.range (dirCount img 0)).flatMap (fun p => (List.range 53).flatMap (fun t =>
    let e := tillerOf img p t
    [((p, t), (64 * e.prog, 8 * e.ninstr)), ((p, t), (64 * e.desc, 128 * e.ndesc))]))

/-- A position's index ranges reach beyond their tables (R196). DESIGN CHOICE: R221 lists no code for it, and the model takes 0x03
LAYOUT (log 52). -/
def posIndexBad (img : List Byte) (p : Nat) : Bool :=
  let e := parsePos (tabEntry img 0 p)
  decide (dirCount img 1 < e.tillerTab + 53) || decide (dirCount img 9 < e.tickFirst + e.tickCount)

/-- Every breach of R191 and the exact and least counts of R195 (0x03). -/
def layoutFails (img : List Byte) : List Place :=
  let size := fieldLE img 16 8
  let tabs := List.range 11
  let spans := (0, 256) :: tabs.map (tabSpan img)
  failAt (tabs.any (fun i => dirCount img i == 0 && dirOff img i != 0)) 0
  ++ failAt (dirCount img 0 != fieldLE img 24 4 || dirCount img 3 != fieldLE img 28 4 || dirCount img 1 % 53 != 0
      || dirCount img 2 == 0 || dirCount img 5 == 0 || dirCount img 9 == 0) 0
  ++ failAt (tabs.any (fun i => decide (size < (tabSpan img i).1 + (tabSpan img i).2))) 0
  ++ failAt ((List.range 12).any (fun i => (List.range i).any (fun j => spansMeet (spans.getD i (0, 0)) (spans.getD j (0, 0))))) 0
  ++ (List.range (dirCount img 0)).flatMap (fun p => failAt (posIndexBad img p) p)
  ++ ((blockSpans img).filter (fun b => decide (0 < b.2.2) && (decide (size < b.2.1 + b.2.2) || spans.any (spansMeet b.2)))).map (fun b => b.1)

/-! ## 0x04 RESERVED -/

/-- A reserved field or code in an entry of table i (R196 to R214). -/
def entryRsvBad (i : Nat) (e : List Byte) : Bool :=
  match i with
  | 0 => !zeroAt e 19 1 || !zeroAt e 22 42
  | 1 => !zeroAt e 12 4
  | 2 => !zeroAt e 16 16
  | 3 => !zeroAt e 28 4
  | 4 => decide (14 < fieldLE e 4 1) || decide (2 < fieldLE e 5 1) || decide (5 < fieldLE e 6 1) || !zeroAt e 7 1 || !zeroAt e 12 4 || !zeroAt e 56 8
  | 5 => decide (3 < fieldLE e 4 1) || decide (2 < fieldLE e 5 1) || decide (1 < fieldLE e 6 1) || !zeroAt e 7 1 || !zeroAt e 16 16
  | 6 => decide (2 < fieldLE e 4 1) || decide (2 < fieldLE e 5 1) || !zeroAt e 6 2 || !zeroAt e 12 4
  | 7 => !zeroAt e 3 1 || decide (1 < fieldLE e 7 1) || !zeroAt e 8 8
  | 8 => decide (1 < fieldLE e 3 1) || !zeroAt e 28 4
  | 9 => decide (2 < fieldLE e 3 1)
  | _ => !zeroAt e 5 3

/-- The lowest position whose range of a table, from `first` on, holds entry k. -/
def holderOf (img : List Byte) (k : Nat) (range : PosEntry → Nat × Nat) : Option (Nat × Nat) :=
  (List.range (dirCount img 0)).findSome? (fun p =>
    let r := range (parsePos (tabEntry img 0 p))
    if r.1 ≤ k ∧ k < r.1 + r.2 then some (p, k - r.1) else none)

/-- Position and Tiller that entry k of table i belongs to; position 0 when it names none, Tiller 63 when it belongs to none. -/
def entryPlace (img : List Byte) (i k : Nat) (e : List Byte) : Place :=
  match i with
  | 0 => (k, 63)
  | 1 => (holderOf img k (fun e => (e.tillerTab, 53))).getD (0, 63)
  | 4 => ((parseArena (tabEntry img 5 (parseTensor e).arena)).position, 63)
  | 5 => (fieldLE e 0 4, 63)
  | 6 => (fieldLE e 0 2, min 63 (fieldLE e 2 1))
  | 7 => (min (fieldLE e 0 2) (fieldLE e 4 2), 63)
  | 8 => (fieldLE e 0 2, 63)
  | 9 => (((holderOf img k (fun e => (e.tickFirst, e.tickCount))).map (fun p => p.1)).getD 0, min 63 (fieldLE e 2 1))
  | 10 => (fieldLE e 0 2, 63)
  | _ => (0, 63)

/-- Reserved fields of the header, the directory, the tables and the binding list (0x04). -/
def reservedFails (img : List Byte) (binds : List Nat) : List Place :=
  failAt (!zeroAt img 34 2 || !zeroAt img 68 4 || !zeroAt img 80 48 || !zeroAt img 216 40 || fieldLE img 12 4 / 4 != 0) 0
  ++ (List.range 11).flatMap (fun i => (List.range (dirCount img i)).flatMap (fun k =>
      let e := tabEntry img i k
      if entryRsvBad i e then [entryPlace img i k e] else []))
  ++ (List.range binds.length).flatMap (fun a =>
      failAt (binds.getD a 0 / 2 ^ 52 != 0) (parseArena (tabEntry img 5 a)).position)

/-! ## 0x05 LIMIT -/

/-- Upper limit of table i's COUNT (R195). -/
def countLimit (img : List Byte) (i : Nat) : Nat :=
  match i with
  | 0 => 1024 | 1 => 53 * fieldLE img 24 4 | 2 => 65536 | 3 => 65536 | 4 => 1048576 | 5 => 65536 | 6 => 2 ^ 24 | 7 => 12288
  | 8 => 2 ^ 24 | 9 => 2 ^ 24 | _ => 4096

/-- Bytes the retained copy takes (R220): the header, the tables, and the blocks of one position, shared ones once. -/
def retainedBytes (img : List Byte) (position : Nat) : Nat :=
  let blocks := ((blockSpans img).filter (fun b => b.1.1 == position)).map (fun b => b.2)
  256 + ((List.range 11).map (fun i => (tabSpan img i).2)).foldl (· + ·) 0 + (blocks.eraseDups.map (fun b => b.2)).foldl (· + ·) 0

/-- Counts, header ranges, block sizes, the retained copy and POSITION (0x05). -/
def limitFails (img : List Byte) (position : Nat) : List Place :=
  let npos := fieldLE img 24 4
  let el := fieldLE img 32 1
  failAt ((List.range 11).any (fun i => decide (countLimit img i < dirCount img i))) 0
  ++ failAt (npos == 0 || decide (1024 < npos) || fieldLE img 28 4 == 0 || decide (65536 < fieldLE img 28 4)
      || decide (el < 16) || decide (26 < el) || decide (2 ^ el ≤ fieldLE img 36 4)
      || fieldLE img 40 4 == 0 || decide (65535 < fieldLE img 40 4)) 0
  ++ ((List.range npos).flatMap (fun p => (List.range 53).map (fun t => (p, t)))).filter (fun b =>
      let e := tillerOf img b.1 b.2
      decide (4096 < e.ninstr) || decide (256 < e.ndesc))
  ++ failAt (decide (2 ^ 26 < retainedBytes img position)) position
  ++ failAt (decide (npos ≤ position)) 0x3FF

/-! ## 0x12 ARENA, 0x17 LOFT -/

/-- Bytes an arena takes: both copies of a CARRIED one (R203). -/
def arenaSpan (a : ArenaEntry) : Nat := if a.kind = 2 then 2 * a.size else a.size

/-- R202 and R203 for arena k. DESIGN CHOICE: the rules bound base + SIZE for DEVICE and LOFT only; the model fails a HOST arena that
reaches beyond the 2^52 bytes of its context address with the same code (log 52). -/
def arenaBad (npos : Nat) (arenas : List ArenaEntry) (binds : List Nat) (k : Nat) : Bool :=
  match arenas[k]? with
  | none => true
  | some a =>
    let b := binds.getD k 0
    decide (npos ≤ a.position) || (a.space == 1 && a.position != 0) || a.size % 64 != 0 || b % 64 != 0
    || (a.space == 0 && decide (2 ^ 40 < b + arenaSpan a)) || (a.space == 1 && decide (2 ^ 52 < b + arenaSpan a))
    || (List.range k).any (fun j => match arenas[j]? with
        | some c => c.space == a.space && c.position == a.position && spansMeet (b, arenaSpan a) (binds.getD j 0, arenaSpan c)
        | none => false)

/-- R204 for a RELOC entry: its target exists, MODE suits the arena's KIND, and a LOFT arena is its own position's. -/
def relocBad (img : List Byte) (arenas : List ArenaEntry) (r : RelocEntry) : Bool :=
  decide (fieldLE img 24 4 ≤ r.position) || decide (53 ≤ r.tiller) || decide ((tillerOf img r.position r.tiller).ndesc ≤ r.entry)
  || (match arenas[r.arena]? with
    | none => true
    | some a => (r.mode != 0 && a.kind != 2) || (a.space == 2 && a.position != r.position))

/-- DONE_ARENA and DONE_OFFSET (R192). -/
def doneBad (img : List Byte) (arenas : List ArenaEntry) : Bool :=
  match arenas[fieldLE img 64 4]? with
  | none => true
  | some a => a.space == 2 || fieldLE img 72 8 % 8 != 0 || decide (a.size < fieldLE img 72 8 + 8)

/-- Layouts an entry is read in: a stream by AGSET, a region by PASS, OPEN, FREE, a reduction by the Thresher. -/
inductive DescUse where
  | stream | region | reduction
deriving DecidableEq, Repr

/-- Entries a program word of a kind reads, with the layout (R160, R179, R184). -/
def wordUses (k : TKind) (w : W64) : List (Nat × DescUse) :=
  if opOf w = 4 then [(field w 7 0, .stream)]
  else if opOf w = 0x10 then
    match k with
    | .feed => if subOf w = 0 then [] else [(field w 39 32, .region)]
    | .thresher => if subOf w < 4 then [(field w 39 32, .reduction)] else []
    | _ => []
  else []

/-- Every address field that reaches memory is named by exactly one RELOC entry, an accumulator-store field by none (R204). DESIGN
CHOICE: an SBASE that no sub-operation uses (SCH NONE, or a link transfer) may have one or none (log 52). -/
def relocCountBad (relocs : List RelocEntry) (p t : Nat) (descs : List (List Byte)) (u : Nat × DescUse) : Bool :=
  let cnt (f : Nat) := (relocs.filter (fun r => r.position == p && r.tiller == t && r.entry == u.1 && r.field == f)).length
  let d := descAt descs u.1
  match u.2 with
  | .stream =>
    let moves := tillerKind t == .wain || tillerKind t == .crop
    if dSrc d = 1 then cnt 0 != 0 || cnt 1 != 0 || cnt 2 != 0
    else cnt 0 != 1 || cnt 2 != 0 || (if dSch d = 0 || moves then decide (1 < cnt 1) else cnt 1 != 1)
  | .region => cnt 0 != 0 || cnt 1 != 0 || cnt 2 != 0
  | .reduction => cnt 2 != 1 || cnt 0 != 0 || cnt 1 != 0

/-- Code 0x12. -/
def arenaFails (img : List Byte) (binds : List Nat) : List Place :=
  let npos := fieldLE img 24 4
  let arenas := (tabEntries img 5).map parseArena
  let relocs := (tabEntries img 6).map parseReloc
  (List.range arenas.length).flatMap (fun k => failAt (arenaBad npos arenas binds k) (((arenas[k]?).map (fun a => a.position)).getD 0))
  ++ (relocs.filter (relocBad img arenas)).map (fun r => (r.position, r.tiller))
  ++ failAt (doneBad img arenas) 0
  ++ (List.range npos).flatMap (fun p => (List.range 53).flatMap (fun t =>
      let e := tillerOf img p t
      let descs := descBlocks img e
      if (progWords img e).any (fun w => (wordUses (tillerKind t) w).any (relocCountBad relocs p t descs)) then [(p, t)] else []))

/-- Code 0x17. -/
def loftFails (img : List Byte) (binds : List Nat) : List Place :=
  let w := fieldLE img 33 1
  let arenas := (tabEntries img 5).map parseArena
  failAt (w % 2 != 0 || decide (14 < w)) 0
  ++ (List.range arenas.length).flatMap (fun k => match arenas[k]? with
      | some a => failAt (a.space == 2 && decide (64 * 256 * 1024 * w < binds.getD k 0 + arenaSpan a)) a.position
      | none => [])

/-! ## 0x14 LEASE, 0x15 ORDER, 0x16 TOPOLOGY -/

/-- TICK entries of a position (R196). -/
def posTicks (img : List Byte) (p : Nat) : List TickEntry :=
  let e := parsePos (tabEntry img 0 p)
  (List.range e.tickCount).map (fun i => parseTick (tabEntry img 9 (e.tickFirst + i)))

/-- Code 0x14 (R197, R214): a Sheaf outside SHEAF_MASK with a program; a lease of other Sheaves, or two of one Sheaf that
overlap. DESIGN CHOICE: an EPOCH_LAST below EPOCH_FIRST fails too; the rule does not say (log 52). -/
def leaseFails (img : List Byte) : List Place :=
  let npos := fieldLE img 24 4
  let leases := (tabEntries img 10).map parseLease
  (List.range npos).flatMap (fun p =>
    let m := (parsePos (tabEntry img 0 p)).sheafMask
    ((List.range 16).filter (fun t => !m.testBit t && (tillerOf img p t).ninstr != 0)).map (fun t => (p, t)))
  ++ (List.range leases.length).flatMap (fun i => match leases[i]? with
      | none => []
      | some l =>
        let m := (parsePos (tabEntry img 0 l.position)).sheafMask
        failAt (decide (npos ≤ l.position) || (l.sheaves &&& (2 ^ 16 - 1 - m)) != 0 || decide (3 < l.attach) || decide (l.epochLast < l.epochFirst)
          || (List.range i).any (fun j => match leases[j]? with
              | some k => k.position == l.position && (k.sheaves &&& l.sheaves) != 0
                  && decide (k.epochFirst ≤ l.epochLast) && decide (l.epochFirst ≤ k.epochLast)
              | none => false)) l.position)

/-- ORDER_V1 decides, or the COMPAT_MOLDO strap (R193). -/
def orderOf (img : List Byte) (compat : Bool) : Bool :=
  let f := fieldLE img 12 4
  if f.testBit 1 then f.testBit 0 else compat

/-- The part of code 0x15 that R193 gives. -/
def orderFails (img : List Byte) : List Place :=
  let f := fieldLE img 12 4
  failAt (!f.testBit 1 && f.testBit 0) 0

/-- Code 0x16 (R210): link ends appear once, no link joins a position to itself, and LINK_MASK is exactly the links. -/
def topologyFails (img : List Byte) : List Place :=
  let npos := fieldLE img 24 4
  let links := (tabEntries img 7).map parseLink
  let ends := links.flatMap (fun l => [(l.posA, l.linkA), (l.posB, l.linkB)])
  (links.filter (fun l => l.posA == l.posB || decide (23 < l.linkA) || decide (23 < l.linkB) || decide (npos ≤ l.posA) || decide (npos ≤ l.posB)
      || decide (1 < (ends.filter (fun e => e == (l.posA, l.linkA))).length) || decide (1 < (ends.filter (fun e => e == (l.posB, l.linkB))).length))).map
    (fun l => (min l.posA l.posB, 63))
  ++ (List.range npos).flatMap (fun p =>
      let m := (parsePos (tabEntry img 0 p)).linkMask
      failAt ((List.range 24).any (fun n => m.testBit n != ends.contains (p, n))) p)

end Sys2Proof.Machine
end

