-- ==== Sys2Proof/Machine/Winnow.lean ====
section
/-!
DEFINITION. The Winnower's functions (R131 to R136, R142 to R148), the Awn generator (R140), output writes
(R138, R139) and quantisation into MX and BALE (R150 to R155).
-/
namespace Sys2Proof.Machine

/-! ## Awn -/

/-- Round constants of R140 with their rotations. -/
def awnRounds : List (W64 × Nat) :=
  [(0x5A3C96E10F2DB487, 13), (0xC1E47B298D36F05A, 37), (0x3B97E2C46A1F5D08, 21), (0x8F0D4A6BE37529C1, 43)]

/-- awn() of R140. -/
def awn (seed : W64) (tensor : W32) (elem : W64) : W64 :=
  let c : W64 := BitVec.ofNat 64 (2 ^ 32 * tensor.toNat + tensor.toNat)
  let ab := awnRounds.foldl (fun (ab : W64 × W64) k =>
    let a := ab.1 + (ab.2 ^^^ k.1)
    let b := rotl ab.2 k.2 ^^^ a
    (rotl a 31 ^^^ (b + c), b)) (seed, elem)
  ab.1 ^^^ rotl ab.2 17

/-- The 32 bits stochastic rounding compares (R139). -/
def awnBits (seed : W64) (tensor : W32) (elem : Nat) : Nat := (awn seed tensor (BitVec.ofNat 64 elem)).toNat >>> 32

/-! ## Integer roots and the tables of R142 and R145 -/

/-- Greatest r below 2^n with r^k ≤ x, found bit by bit. -/
def rootBits (k x : Nat) : Nat → Nat → Nat
  | 0, r => r
  | n + 1, r => let r' := r + 2 ^ n; rootBits k x n (if r' ^ k ≤ x then r' else r)

/-- Nearest integer to the k-th root of a number given as x = root^k × 2^k (that is, with one extra bit). -/
def rneRoot (k x : Nat) : Nat := (rootBits k x 64 0 + 1) / 2

/-- t[i] of R142, by its definition. -/
def exp2Entry (i : Nat) : Nat := rneRoot 64 (2 ^ (64 * 32 + i))

/-- The table t of R142. -/
def exp2Table : List Nat :=
  [0x80000000, 0x8164D1F4, 0x82CD8699, 0x843A28C4, 0x85AAC368, 0x871F6197, 0x88980E81, 0x8A14D575] ++
  [0x8B95C1E4, 0x8D1ADF5B, 0x8EA4398B, 0x9031DC43, 0x91C3D374, 0x935A2B2F, 0x94F4EFA9, 0x96942D37] ++
  [0x9837F052, 0x99E04593, 0x9B8D39BA, 0x9D3ED9A7, 0x9EF53261, 0xA0B05110, 0xA2704303, 0xA43515AE] ++
  [0xA5FED6AA, 0xA7CD93B5, 0xA9A15AB5, 0xAB7A39B6, 0xAD583EEA, 0xAF3B78AD, 0xB123F582, 0xB311C413] ++
  [0xB504F334, 0xB6FD91E3, 0xB8FBAF47, 0xBAFF5AB2, 0xBD08A39F, 0xBF1799B6, 0xC12C4CCA, 0xC346CCDA] ++
  [0xC5672A11, 0xC78D74C9, 0xC9B9BD86, 0xCBEC14FF, 0xCE248C15, 0xD06333DB, 0xD2A81D92, 0xD4F35AAC] ++
  [0xD744FCCB, 0xD99D15C2, 0xDBFBB798, 0xDE60F482, 0xE0CCDEEC, 0xE33F8973, 0xE5B906E7, 0xE8396A50] ++
  [0xEAC0C6E8, 0xED4F301F, 0xEFE4B99C, 0xF281773C, 0xF5257D15, 0xF7D0DF73, 0xFA83B2DB, 0xFD3E0C0D]

/-- rt[j] of R145; the divisor is odd, so no tie arises. -/
def rcpSeed (j : Nat) : Nat := (2 * 2 ^ 24 + (257 + 2 * j)) / (2 * (257 + 2 * j))

/-- st[j] of R145: 2^16 / √c_j, with c_j = (129 + 2j) / 128 or (129 + 2(j − 64)) / 64. -/
def rsqrtSeed (j : Nat) : Nat :=
  if j < 64 then rneRoot 2 (4 * (2 ^ 39) / (129 + 2 * j)) else rneRoot 2 (4 * (2 ^ 38) / (129 + 2 * (j - 64)))

/-! ## The four functions -/

/-- exp2_core of R143: m and n. -/
def exp2Core (xq : Int) : Nat × Int :=
  let n := xq / (2 ^ 24 : Nat)
  let low := (xq % (2 ^ 24 : Nat)).toNat
  let i := low / 2 ^ 18
  let r := low % 2 ^ 18
  let q := (0x0E35846B * r) >>> 24
  let q := ((0x3D7F7BFF + q) * r) >>> 24
  let q := ((0xB17217F8 + q) * r) >>> 24
  let t := exp2Table.getD i 0
  (t + ((t * q) >>> 32), n)

/-- log2_core of R144. -/
def log2Core (m24 : Nat) (e : Int) : Int :=
  let mm := 256 * m24
  let i := ((List.range 64).reverse.find? (fun i => decide (exp2Table.getD i 0 ≤ mm))).getD 0
  let v := (2 ^ 32 * mm) / exp2Table.getD i 1 - 2 ^ 32
  let s := (0x7B1C2771 * v) >>> 32
  let s := ((0xB8AA3B29 - s) * v) >>> 32
  let s := ((0x171547653 - s) * v) >>> 32
  e * (2 ^ 32 : Nat) + (2 ^ 26 * i + s : Nat)

/-- One Newton step of R146. -/
def rcpStep (m24 y : Nat) : Nat := (y * (2 ^ 32 - ((m24 * y) >>> 23))) >>> 31
/-- rcp_core of R146. -/
def rcpCore (m24 : Nat) : Nat := rcpStep m24 (rcpStep m24 (2 ^ 15 * rcpSeed ((m24 >>> 16) % 128)))

/-- One Newton step of R147. -/
def rsqrtStep (a y : Nat) : Nat := (y * (0x180000000 - ((a * ((y * y) >>> 31)) >>> 23))) >>> 32
/-- rsqrt_core of R147: y and h. -/
def rsqrtCore (m24 : Nat) (e : Int) : Nat × Int :=
  let j := (m24 >>> 17) % 64
  let odd := e % 2 == 1
  let a := if odd then m24 * 2 else m24
  let j := if odd then j + 64 else j
  let y := 2 ^ 15 * rsqrtSeed j
  (rsqrtStep a (rsqrtStep a y), (if odd then e - 1 else e) / 2)

/-- m × 2^x normalised to m24 × 2^(e − 23), leading one at bit 23 (R144, R146, R147): m24 and e. -/
def norm24 (m : Nat) (x : Int) : Nat × Int := (m * 2 ^ (23 - log2 m), x + log2 m)

/-- floor(v × 2^24) of a finite value (R143). -/
def floor24 (s : Bool) (m : Nat) (e : Int) : Int :=
  let k := e + 24
  let n : Int := if s then -(m : Int) else m
  if 0 ≤ k then n * (2 ^ k.toNat : Nat) else n / (2 ^ (-k).toNat : Nat)

/-- A finite result in FP32 with AO and UZ (R134, R148). -/
def fp32Of (v : Val) : Val × Nat := let r := toWork fFP32 v; (decodeElem fFP32 r.1, r.2)

/-- EXP2 of an FP32 value (R143, R148). -/
def winExp2 (v : Val) : Val × Nat :=
  match v with
  | .nan => (.nan, fIV)
  | .inf false => (.inf false, 0)
  | .inf true => (.fin false 0 0, 0)
  | .fin s m e =>
    if !s && !magLt m e 128 0 && m != 0 then (.inf false, fAO)
    else if s && !magLt m e 151 0 && m != 0 then (.fin false 0 0, fUZ)
    else
      let r := exp2Core (floor24 s m e)
      fp32Of (.fin false r.1 (r.2 - 31))

/-- LOG2 of an FP32 value (R144, R148). -/
def winLog2 (v : Val) : Val × Nat :=
  match v with
  | .nan => (.nan, fIV)
  | .inf false => (.inf false, 0)
  | .inf true => (.nan, fIV ||| fNP)
  | .fin s m e =>
    if m = 0 then (.inf true, 0)
    else if s then (.nan, fIV ||| fNP)
    else
      let n := norm24 m e
      let l := log2Core n.1 n.2
      fp32Of (.fin (decide (l < 0)) l.natAbs (-32))

/-- RCP of an FP32 value (R146, R148). -/
def winRcp (v : Val) : Val × Nat :=
  match v with
  | .nan => (.nan, fIV)
  | .inf s => (.fin s 0 0, 0)
  | .fin s m e =>
    if m = 0 then (.inf s, 0)
    else let n := norm24 m e; fp32Of (.fin s (rcpCore n.1) (-31 - n.2))

/-- RSQRT of an FP32 value (R147, R148). -/
def winRsqrt (v : Val) : Val × Nat :=
  match v with
  | .nan => (.nan, fIV)
  | .inf false => (.fin false 0 0, 0)
  | .inf true => (.nan, fIV ||| fNP)
  | .fin s m e =>
    if m = 0 then (.inf s, 0)
    else if s then (.nan, fIV ||| fNP)
    else
      let n := norm24 m e
      let r := rsqrtCore n.1 n.2
      fp32Of (.fin false r.1 (-31 - r.2))

/-! ## Functions of R132 -/

/-- Operands a function uses (R132): the first of MOV, ABS, NEG and the four, two, or three. -/
def winArity (fn : Nat) : Nat :=
  if fn = 4 ∨ fn = 10 then 3
  else if fn = 1 ∨ fn = 2 ∨ fn = 3 ∨ fn = 5 ∨ fn = 6 ∨ fn = 9 then 2
  else 1

/-- The format that stands for an operand's class (R131): an integer format under a scheme decodes to a scaled value and is a narrow
floating operand. -/
def classFmt (fmt sch : Nat) : Nat := if sch ≠ 0 ∧ isInt fmt then fE4M3 else fmt

/-- The working format of R131 for operands of the listed classes. -/
def winWork (fmts : List Nat) : Nat :=
  if fmts.contains 0 then fFP64 else if fmts.all isInt then fINT32 else fFP32

/-- Operand classes and formats a function takes (R131, R132, R135, R136); quantisation takes FP32 and what widens to it. -/
def winClassOk (fn cond : Nat) (fmts : List Nat) : Bool :=
  decide (fn ≤ 0x10) && (fmts.all isInt || fmts.all isFloat)
  && (fn != 9 || decide (cond ≤ 5))
  && (!(List.contains [4, 0xB, 0xC, 0xD, 0xE, 0xF, 0x10] fn) || fmts.all isFloat)
  && (!(List.contains [0xF, 0x10] fn) || fmts.all (fun f => [1, 2, 3, 4].contains f))

/-- Lane A-cycles and latency of a function (R132); FP64 doubles the first and adds 4 to the second. -/
def winTime (fn wf : Nat) : Nat × Nat :=
  let t := match fn with
    | 0 => (1, 3) | 1 => (1, 4) | 2 => (1, 4) | 3 => (1, 4) | 4 => (1, 5) | 5 => (1, 2) | 6 => (1, 2) | 7 => (1, 2)
    | 8 => (1, 2) | 9 => (1, 2) | 10 => (1, 2) | 11 => (2, 8) | 12 => (4, 14) | 13 => (2, 10) | 14 => (3, 12)
    | 15 => (2, 40) | _ => (2, 72)
  if wf = 0 then (2 * t.1, t.2 + 4) else t

/-- A result rounded once to the working format, with AO and UZ (R133, R134, R136). -/
def winRound (wf : Nat) (r : Val × Nat) : Val × Nat :=
  match r.1 with
  | .nan => (.nan, r.2)
  | v => let x := toWork wf v; (decodeElem wf x.1, r.2 ||| x.2)

/-- Sign inverted. -/
def negate (v : Val) : Val :=
  match v with
  | .nan => .nan
  | .inf s => .inf (!s)
  | .fin s m e => .fin (!s) m e

/-- IV and NaN when an operand is NaN (R134), else the given result. -/
def nanGuard (ops : List Val) (r : Val × Nat) : Val × Nat := if ops.contains .nan then (.nan, fIV) else r

/-- Truth of a CMP condition (R135). -/
def winCond (cond : Nat) (c : Int) : Bool :=
  match cond with
  | 0 => c == 0 | 1 => c != 0 | 2 => decide (c < 0) | 3 => decide (c ≤ 0) | 4 => decide (0 < c) | _ => decide (0 ≤ c)

/-- A value rounded to FP32 as the four functions take an FP64 operand (R132). -/
def toFp32Arg (wf : Nat) (v : Val) : Val × Nat := if wf = 0 then winRound fFP32 (v, 0) else (v, 0)

/-- Apply one of the four functions after the rounding of R132. -/
def withFp32 (wf : Nat) (f : Val → Val × Nat) (v : Val) : Val × Nat :=
  let a := toFp32Arg wf v
  let r := f a.1
  (r.1, a.2 ||| r.2)

/-- Function fn on operands already in the working format (R132 to R136): the exact result value and its flags.
QMX and QBALE work on blocks and are not evaluated here. -/
def winFn (fn cond wf : Nat) (a b c : Val) : Val × Nat :=
  match fn with
  | 0x00 => (a, 0)
  | 0x01 => nanGuard [a, b] (winRound wf (addVal a b))
  | 0x02 => nanGuard [a, b] (winRound wf (addVal a (negate b)))
  | 0x03 => nanGuard [a, b] (winRound wf (mulVal a b))
  | 0x04 => nanGuard [a, b, c] (let p := mulVal a b; let q := addVal p.1 c; winRound wf (q.1, p.2 ||| q.2))
  | 0x05 => nanGuard [a, b] (if cmpVal a b = 0 then (if negVal a then b else a, 0) else if cmpVal a b = 1 then (a, 0) else (b, 0))
  | 0x06 => nanGuard [a, b] (if cmpVal a b = 0 then (if negVal a then a else b, 0) else if cmpVal a b = 1 then (b, 0) else (a, 0))
  | 0x07 => nanGuard [a] (winRound wf (if negVal a then negate a else a, 0))
  | 0x08 => nanGuard [a] (winRound wf (negate a, 0))
  | 0x09 =>
    let nan := [a, b].contains .nan
    let t := if nan then cond == 1 else winCond cond (cmpVal a b)
    (.fin false (if t then 1 else 0) 0, flagIf nan fIV)
  | 0x0A =>
    let pick := match c with
      | .nan => false
      | .inf _ => true
      | .fin _ m _ => m != 0
    (if pick then a else b, 0)
  | 0x0B => withFp32 wf winExp2 a
  | 0x0C => withFp32 wf winLog2 a
  | 0x0D => withFp32 wf winRcp a
  | 0x0E => withFp32 wf winRsqrt a
  | _ => (a, 0)

/-- An operand brought into the working format (R131): the rounding of a scaled operand raises no flag. -/
def winOperand (wf : Nat) (v : Val) : Val := (winRound wf (v, 0)).1

/-- One element: function, then the write into the output format under SAT and RND (R138). -/
def winElem (fn cond wf outFmt : Nat) (sat : Bool) (rnd u : Nat) (a b c : Val) : Flagged :=
  let r := winFn fn cond wf (winOperand wf a) (winOperand wf b) (winOperand wf c)
  let x := toElem outFmt sat rnd u r.1
  (x.1, r.2 ||| x.2)

/-! ## Quantisation (R150 to R155) -/

/-- Exponent of the element format's largest normal magnitude (R150). -/
def quantEmax (fmt : Nat) : Int :=
  match fmt with
  | 5 => 8 | 6 => 15 | 7 => 4 | 8 => 2 | 9 => 2 | _ => 0

/-- floor(log2) of the largest finite magnitude, when one is nonzero (R150). -/
def maxExp (vs : List Val) : Option Int :=
  vs.foldl (fun acc v =>
    match v with
    | .fin _ m e =>
      if m = 0 then acc
      else
        let x := (log2 m : Int) + e
        match acc with
        | none => some x
        | some y => some (max x y)
    | _ => acc) none

/-- Result of quantising one block: scale byte, offset byte, element codes, flags, vanished elements. -/
structure Quant where
  scale : Byte
  offs : Byte
  codes : List Nat
  flags : Nat
  vanished : Nat
deriving DecidableEq, Repr

/-- One element under the block's scale (R152): clamped without a flag; QV when a nonzero value gets a zero code. -/
def quantElem (fmt rnd u : Nat) (x d : Int) (v : Val) : Nat × Nat :=
  match v with
  | .fin s m e =>
    if m = 0 then (if isInt fmt then 0 else withSign fmt s 0, 0)
    else
      let r := toElem fmt true rnd u (.fin s m (e + 127 - x + d - pointOf fmt))
      (r.1, if zeroCode fmt r.1 then 1 else 0)
  | .inf s => (if s then 0xFC else 0x7C, 0)
  | .nan => (0, 0)

/-- Quantise one block of FP32 values; us holds one draw of R139 per element (R150 to R155). -/
def quantBlock (fmt sch rnd : Nat) (vs : List Val) (us : List Nat) : Quant :=
  let zeros := vs.map (fun _ => 0)
  if vs.contains .nan then ⟨0xFF, 0, zeros, fIV, 0⟩
  else if fmt ≠ 6 ∧ (vs.contains (.inf true) ∨ vs.contains (.inf false)) then ⟨0xFF, 0, zeros, fIV ||| fNP, 0⟩
  else match maxExp vs with
    | none => ⟨0, 0, vs.map (fun v => (quantElem fmt rnd 0 127 0 v).1), 0, 0⟩
    | some E =>
      let x : Int := max 0 (min 254 (E - quantEmax fmt + 127))
      let d (g : Nat) : Int :=
        if sch = 2 then match maxExp ((vs.drop (16 * g)).take 16) with
          | none => 0
          | some Eg => min 3 (E - Eg)
        else 0
      let r := (List.range vs.length).map (fun i => quantElem fmt rnd (us.getD i 0) x (d (i / 16)) (vs.getD i (.fin false 0 0)))
      let lost := (r.map (fun p => p.2)).foldl (· + ·) 0
      ⟨BitVec.ofNat 8 x.toNat,
       if sch = 2 then BitVec.ofNat 8 ((d 0).toNat + 4 * (d 1).toNat + 16 * (d 2).toNat + 64 * (d 3).toNat) else 0,
       r.map (fun p => p.1), flagIf (lost != 0) fQV, lost⟩

end Sys2Proof.Machine
end

