-- ==== Sys2Proof/Machine/PlanTrace.lean ====
section
/-!
DEFINITION. What PLAN_LOAD computes from the programs (R190): each Tiller's instruction sequence, and the checks of R221 that
follow from it (codes 0x06 to 0x0F, 0x13 and the lease and order rules that need it).
-/
namespace Sys2Proof.Machine

/-! ## Traces -/

/-- A generator as a trace keeps it: the entry it was loaded from, the epoch of the AGSET, and its positions. -/
structure TraceAg where
  entry : Nat
  epoch : Nat
  gen : Agen
deriving DecidableEq, Repr

/-- One executed instruction of a trace, with the state before it; `target` is a TWAIT's effective target (R163),
`depth` the number of open loops. -/
structure TEvent where
  pc : Nat
  word : W64
  epoch : Nat
  step : Nat
  ags : List (Option TraceAg)
  target : Nat
  depth : Nat
deriving DecidableEq, Repr

/-- Tiller state along a trace. -/
structure TraceSt where
  pc : Nat := 0
  loops : List (Nat × Nat) := []
  ags : List (Option TraceAg) := List.replicate 8 none
  step : Nat := 0
  epoch : Nat := 0
  prev : Nat := 0

/-- Generators advanced by a sub-operation (R173), one that two operands name once. -/
def advanceAll (ags : List (Option TraceAg)) (us : List AgUse) : List (Option TraceAg) :=
  (us.map (fun u => u.ag)).eraseDups.foldl (fun ags k =>
    match us.find? (fun u => u.ag == k) with
    | some u => ags.modify k (fun o => o.map (fun x => { x with gen := agSkip x.gen u.runs }))
    | none => ags) ags

/-- RUN of a loaded generator. -/
def traceRun (ags : List (Option TraceAg)) (a : Nat) : Nat :=
  match ags.getD a none with
  | some x => dRun x.gen.desc
  | none => 1

/-- The instruction sequence of a Tiller from a state (R161 to R171); it ends at HALT or at an ENDL without a loop. The program counter
has 12 bits, so that word 0 follows word 4,095 (log 49). -/
def traceFrom (k : TKind) (prog : List W64) (descs : List (List Byte)) : Nat → TraceSt → List TEvent
  | 0, _ => []
  | fuel + 1, st =>
    let w := prog.getD st.pc 0
    let target := if bitOf w 57 then st.prev + field w 39 0 else field w 39 0
    let ev : TEvent := ⟨st.pc, w, st.epoch, st.step, st.ags, target, st.loops.length⟩
    let nx := { st with pc := (st.pc + 1) % 4096 }
    match opOf w with
    | 0x00 => [ev]
    | 0x02 => ev :: traceFrom k prog descs fuel { nx with loops := (field w 23 0 + 1, nx.pc) :: st.loops }
    | 0x03 =>
      match st.loops with
      | [] => [ev]
      | (n, body) :: rest =>
        ev :: traceFrom k prog descs fuel (if 1 < n then { nx with pc := body, loops := (n - 1, body) :: rest } else { nx with loops := rest })
    | 0x04 =>
      let g : Option TraceAg := (descs[field w 7 0]?).map (fun d => ⟨field w 7 0, st.epoch, agLoad d⟩)
      ev :: traceFrom k prog descs fuel { nx with ags := st.ags.set (agOf w) g }
    | 0x05 => ev :: traceFrom k prog descs fuel { nx with ags := st.ags.modify (agOf w) (fun o => o.map (fun x => { x with gen := agSkip x.gen (field w 31 0) })) }
    | 0x06 => ev :: traceFrom k prog descs fuel { nx with ags := st.ags.modify (agOf w) (fun o => o.map (fun x => { x with gen := agLoad x.gen.desc })) }
    | 0x07 => ev :: traceFrom k prog descs fuel { nx with prev := target }
    | 0x0A => ev :: traceFrom k prog descs fuel { nx with step := field w 15 0 }
    | 0x0B => ev :: traceFrom k prog descs fuel { nx with epoch := st.epoch + 1, prev := 0 }
    | 0x10 => ev :: traceFrom k prog descs fuel { nx with ags := advanceAll st.ags (subUses k w descs (traceRun st.ags)) }
    | _ => ev :: traceFrom k prog descs fuel nx

/-- What the checks read: the image, some of its tables, and the order of the plan's sums (R85). -/
structure PlanView where
  img : List Byte
  npos : Nat
  tensors : List TensorEntry
  arenas : List ArenaEntry
  relocs : List RelocEntry
  links : List LinkEntry
  v1 : Bool

def planView (img : List Byte) (compat : Bool) : PlanView :=
  { img := img, npos := fieldLE img 24 4, tensors := (tabEntries img 4).map parseTensor
    arenas := (tabEntries img 5).map parseArena, relocs := (tabEntries img 6).map parseReloc
    links := (tabEntries img 7).map parseLink, v1 := orderOf img compat }

def viewProg (v : PlanView) (p t : Nat) : List W64 := progWords v.img (tillerOf v.img p t)
def viewDescs (v : PlanView) (p t : Nat) : List (List Byte) := descBlocks v.img (tillerOf v.img p t)

/-- The whole sequence of a Tiller. -/
def viewTrace (v : PlanView) (p t : Nat) : List TEvent := traceFrom (tillerKind t) (viewProg v p t) (viewDescs v p t) (2 ^ 200) {}

/-- Every Tiller of every position. -/
def places (v : PlanView) : List Place := (List.range v.npos).flatMap (fun p => (List.range 53).map (fun t => (p, t)))

/-- Places whose Tiller breaks a rule. -/
def placesWhere (v : PlanView) (bad : Nat → Nat → Bool) : List Place := (places v).filter (fun q => bad q.1 q.2)

/-- The RELOC entry that patches field f of a descriptor entry. -/
def relocOf (v : PlanView) (p t entry f : Nat) : Option RelocEntry :=
  v.relocs.find? (fun q => q.position == p && q.tiller == t && q.entry == entry && q.field == f)

/-- ISSUEs of a trace. -/
def issues (tr : List TEvent) : List TEvent := tr.filter (fun e => opOf e.word == 0x10)

/-! ## 0x06 DESCRIPTOR -/

/-- Roles of R35. -/
inductive Role where
  | sheaf | win | tensor
deriving DecidableEq, Repr

/-- Format and scheme of a descriptor in a role (R35). -/
def roleOk (r : Role) (fmt sch : Nat) : Bool :=
  schemeOk fmt sch && (match r with
    | .sheaf => decide (fmt ≤ 9) || fmt == 12 || fmt == 13
    | .win => true
    | .tensor => true)

/-- One run under R174: aligned run and scale addresses, whole bytes and blocks; `moves` is a link transfer (R186), `whole` a
transfer of whole 64-byte pieces. -/
def runBad (g : Agen) (moves whole : Bool) : Bool :=
  let d := g.desc
  let w := elemBits (dFmt d)
  runAddr g % 64 != 0 || (dRun d * w) % 8 != 0 || (whole && (dRun d * w) % 512 != 0)
  || (dSch d != 0 && (dRun d % blockLen (dSch d) != 0 || (!moves && runSaddr g % (if dSch d = 1 then 8 else 2) != 0)))

/-- The tensor a descriptor names, if the plan has it (R201). DESIGN CHOICE: a descriptor with SRC 0 whose TENSOR names no entry has
no entry to agree with, and PLAN_LOAD accepts it (log 52). -/
def namedTensor (v : PlanView) (d : List Byte) : Option TensorEntry := v.tensors.find? (fun t => t.tensor == dTensor d)

/-- Fields of a descriptor against its tensor's entry (R201): equal, or an E8M0 walk of its scale plane. -/
def scaleWalk (d : List Byte) (t : TensorEntry) : Bool := dFmt d == 14 && dSch d == 0 && t.sch % 4 != 0

/-- A run lies within its tensor's rows, at the logical index it claims (R201). -/
def reachBad (g : Agen) (t : TensorEntry) (moves : Bool) : Bool :=
  let d := g.desc
  let w := elemBits (dFmt d)
  let plane := scaleWalk d t
  let base := if plane then t.scaleBase else t.elemBase
  let pitch := max 1 (if plane then t.scalePitch else t.elemPitch)
  let len := if plane then t.rowlen / blockLen (t.sch % 4) * scaleBytes (t.sch % 4) else t.rowlen
  let a := runAddr g - base
  let row := a / pitch
  let col := a % pitch * 8 / w
  let s := runSaddr g - t.scaleBase
  decide (runAddr g < base) || decide (t.rows ≤ row) || (a % pitch * 8) % w != 0 || decide (len < col + dRun d)
  || runElem g != row * len + col
  || (dSch d != 0 && !moves && (decide (runSaddr g < t.scaleBase) || s / max 1 t.scalePitch != row
      || s % max 1 t.scalePitch != col / blockLen (dSch d) * scaleBytes (dSch d)))

/-- A generator as a sub-operation reads it: R36, R137, R172, R174, R201. -/
def genBad (v : PlanView) (p t : Nat) (r : Role) (store moves whole : Bool) (x : TraceAg) (runs : Nat) : Bool :=
  let d := x.gen.desc
  let astray (f : Nat) (tn : TensorEntry) : Bool := match relocOf v p t x.entry f with | some q => q.arena != tn.arena | none => false
  dRun d == 0 || decide (65536 < dRun d) || (List.range 4).any (fun k => dCount d k == 0) || dRnd d == 3
  || (if dSrc d = 1 then !store || !([0, 1, 10].contains (dFmt d)) || dSch d != 0
    else decide (1 < dSrc d) || !roleOk r (dFmt d) (dSch d)
      || (List.range runs).any (fun i => runBad (agRun x.gen i) moves whole)
      || (match namedTensor v d with
        | none => false
        | some tn =>
          (!scaleWalk d tn && (dFmt d != tn.fmt || dSch d != tn.sch || (dSat d).toNat + 2 * dRnd d != tn.outw))
          || astray 0 tn || (dSch d != 0 && !moves && astray 1 tn)
          || (List.range runs).any (fun i => reachBad (agRun x.gen i) tn moves)))

/-- A TENSOR entry against R35, R36 and R59. DESIGN CHOICE: ROWS 0 and ROWLEN 0 fail with the same code 0x06; R221 names none for
R200 (log 52). -/
def tensorBad (t : TensorEntry) : Bool :=
  !schemeOk t.fmt t.sch || t.rows == 0 || t.rowlen == 0 || t.elemBase % 64 != 0 || t.elemPitch % 64 != 0
  || t.scaleBase % 64 != 0 || t.scalePitch % 64 != 0 || decide (t.elemPitch < rowBytes (elemBits t.fmt) t.rowlen)
  || (t.sch != 0 && (t.rowlen % blockLen t.sch != 0 || decide (t.scalePitch < t.rowlen / blockLen t.sch * scaleBytes t.sch)))

/-- Loaded generators of an event by use. -/
def usesOf (k : TKind) (descs : List (List Byte)) (e : TEvent) : List (AgUse × Option TraceAg) :=
  (subUses k e.word descs (traceRun e.ags)).map (fun u => (u, e.ags.getD u.ag none))

/-- Rules of WIN (R131, R132, R135, R136, R150, R185). -/
def winBad (e : TEvent) (us : List (AgUse × Option TraceAg)) : Bool :=
  let fn := field e.word 42 37
  let ds := us.filterMap (fun u => u.2.map (fun x => (u.1.write, x.gen.desc)))
  let ops := (ds.filter (fun d => !d.1)).map (fun d => d.2)
  let res := ((ds.find? (fun d => d.1)).map (fun d => d.2)).getD []
  let want := if fn = 15 then 1 else if fn = 16 then 2 else 0
  !winClassOk fn (field e.word 36 34) (ops.map (fun d => classFmt (dFmt d) (dSch d))) || dSch res != want
  || ops.any (fun d => dRun d != 1 && dRun d != dRun res)
  || (want != 0 && dRun res % blockLen want != 0)

/-- WORK of a reduction entry does not lie in the Loft, 64-byte aligned (R184). -/
def workBad (v : PlanView) (p t entry : Nat) (red : List Byte) : Bool :=
  bits (rWork red) 55 52 != 0 || rWork red % 64 != 0
  || (match relocOf v p t entry 2 with
    | some q => match v.arenas[q.arena]? with | some a => a.space != 2 | none => false
    | none => false)

/-- A KNODE reduction names no K-block, or more than K has (R65). -/
def redLong (red : List Byte) : Bool := rKind red == 0 && (decide (rNhi red ≤ rNlo red) || decide (65536 < rNhi red))

/-- A descriptor that AGSET loads is invalid in itself (R36, R137). -/
def loadedBad (e : TEvent) (descs : List (List Byte)) : Bool :=
  let d := descAt descs (field e.word 7 0)
  opOf e.word == 4 && (!schemeOk (dFmt d) (dSch d) || dRnd d == 3)

/-- The descriptors of one ISSUE (0x06). -/
def issueDescBad (v : PlanView) (p t : Nat) (descs : List (List Byte)) (e : TEvent) : Bool :=
  let k := tillerKind t
  let us := usesOf k descs e
  let gen (r : Role) (store moves whole : Bool) : Bool :=
    us.any (fun u => match u.2 with | some x => genBad v p t r (store && !u.1.write) moves whole x u.1.runs | none => false)
  let red := descAt descs (field e.word 39 32)
  match k with
  | .feed => gen .sheaf false false false
  | .thresher =>
    if subOf e.word = 4 then gen .win true false false || winBad e us
    else gen .tensor (subOf e.word == 0) false false || workBad v p t (field e.word 39 32) red || redLong red
      || (subOf e.word == 3 && us.any (fun u => match u.2 with | some x => dSch x.gen.desc != 0 | none => false))
      || (subOf e.word == 1 && us.any (fun u => match u.2 with | some x => isInt (classFmt (dFmt x.gen.desc) (dSch x.gen.desc)) != (rAcc red == 10) | none => false))
  | .crop => gen .tensor false true true
  | .wain => gen .tensor false true true
  | .copy => gen .tensor false false true
      || (subOf e.word == 0 && (match us.filterMap (fun u => u.2.map (fun x => (dFmt x.gen.desc, dSch x.gen.desc))) with
        | [a, b] => a != b
        | _ => false))

/-- LOADs and PASSes of a Feed Tiller's trace, the k-th with the k-th (R180). -/
def loadPass (tr : List TEvent) : List (TEvent × TEvent) :=
  ((issues tr).filter (fun e => subOf e.word == 0)).zip ((issues tr).filter (fun e => subOf e.word == 1))

/-- Descriptor of a generator an event names at [42:40]. -/
def evDesc (e : TEvent) : List Byte := match e.ags.getD (field e.word 42 40) none with | some x => x.gen.desc | none => []

/-- Operand pair of a LOAD and its PASS (R63 to R65). -/
def pairBad (descs : List (List Byte)) (q : TEvent × TEvent) : Bool :=
  let a := evDesc q.2
  let w := evDesc q.1
  let g := descAt descs (field q.2.word 39 32)
  let len := field q.1.word 23 16 + 1
  dSch a != dSch w || !pairOk (dFmt a) (dFmt w) (dSch a) (gAcc g) || len % blockLen (dSch a) != 0

/-- Lanes of a format (R93). -/
def fmtLanes (fmt : Nat) : Nat := if fmt ≤ 4 then 1 else if fmt = 5 ∨ fmt = 6 ∨ fmt = 12 then 2 else 4

/-- Regions of a Tiller reach at most 65,536 K-blocks (R65). -/
def regionLong (descs : List (List Byte)) (e : TEvent) : Bool :=
  let g := descAt descs (field e.word 39 32)
  subOf e.word == 2 && decide (65536 < gLo g + gNblk g)

/-- Code 0x06. -/
def descriptorFails (v : PlanView) : List Place :=
  (v.tensors.filter tensorBad).map (fun t => (((v.arenas[t.arena]?).map (fun a => a.position)).getD 0, 63))
  ++ placesWhere v (fun p t =>
    let descs := viewDescs v p t
    let tr := viewTrace v p t
    (issues tr).any (issueDescBad v p t descs) || tr.any (fun e => loadedBad e descs)
    || (tillerKind t == .feed && ((loadPass tr).any (pairBad descs) || (issues tr).any (regionLong descs))))

/-! ## 0x04 RESERVED in descriptor entries -/

/-- An entry a program reads has a nonzero RSV field in its layout, or a reserved KIND (R120, R172, R182, R184). -/
def descRsvFails (v : PlanView) : List Place :=
  placesWhere v (fun p t =>
    let descs := viewDescs v p t
    (viewProg v p t).any (fun w => (wordUses (tillerKind t) w).any (fun u =>
      decide (u.1 < descs.length) && (match u.2 with
        | .stream => !streamRsvOk (descAt descs u.1)
        | .region => !regionRsvOk (descAt descs u.1)
        | .reduction => !redRsvOk (descAt descs u.1) || decide (3 < rKind (descAt descs u.1))))))

/-! ## 0x07 INSTRUCTION, 0x08 LOOP, 0x09 TWAIT -/

/-- A word on its own (R159, R160, R168, R175, R179, R187, R188). -/
def wordBad (nstep t : Nat) (descs : List (List Byte)) (w : W64) : Bool :=
  let k := tillerKind t
  let op := opOf w
  !opDefined op || !wordRsvOk k w || (wordUses k w).any (fun u => decide (descs.length ≤ u.1))
  || ((op == 8 || op == 9) && field w 15 0 == 0) || (op == 8 && decide (52 < field w 57 52))
  || (op == 10 && decide (nstep ≤ field w 15 0))
  || (op == 0x10 && (decide (subCount k ≤ subOf w) || (decide (52 < dtOf w) && dtOf w != 63)
      || (k == .feed && subOf w == 0 && field w 15 14 == 3) || (k == .crop && decide (23 < field w 39 35))
      || (k == .copy && subOf w == 1 && decide (1 < field w 39 38))))

/-- A generator named while not loaded (R175). -/
def unloaded (k : TKind) (descs : List (List Byte)) (e : TEvent) : Bool :=
  match opOf e.word with
  | 0x05 => (e.ags.getD (agOf e.word) none).isNone
  | 0x06 => (e.ags.getD (agOf e.word) none).isNone
  | 0x10 => (usesOf k descs e).any (fun u => u.2.isNone)
  | _ => false

/-- R181: the run length of a LOAD's generator is the tile's L. -/
def loadBad (e : TEvent) : Bool := subOf e.word == 0 && dRun (evDesc e) != field e.word 23 16 + 1

/-- R179 and R181: lanes of the pair, run length of the PASS's generator equal to the tile's L. -/
def tileBad (q : TEvent × TEvent) : Bool :=
  let len := field q.1.word 23 16 + 1
  dRun (evDesc q.2) != len
  || lanesOf (field q.1.word 15 14) != min (fmtLanes (dFmt (evDesc q.1))) (fmtLanes (dFmt (evDesc q.2)))

/-- Code 0x07. -/
def instructionFails (v : PlanView) : List Place :=
  placesWhere v (fun p t =>
    let descs := viewDescs v p t
    let tr := viewTrace v p t
    (viewProg v p t).any (wordBad (fieldLE v.img 28 4) t descs) || tr.any (unloaded (tillerKind t) descs)
    || (tillerKind t == .feed && ((issues tr).any loadBad || (loadPass tr).any tileBad)))

/-- Nesting of a program: the depth after it, nothing when a loop is nested too deep or an ENDL has no LOOP (R162). -/
def loopDepth (prog : List W64) : Option Nat :=
  prog.foldl (fun d w => match d with
    | none => none
    | some n => match opOf w with
      | 0x02 => if n < 8 then some (n + 1) else none
      | 0x03 => if n = 0 then none else some (n - 1)
      | _ => some n) (some 0)

/-- Code 0x08: nesting (R162), and a HALT that is reached inside an open loop (R171). -/
def loopFails (v : PlanView) : List Place :=
  placesWhere v (fun p t => loopDepth (viewProg v p t) != some 0 || (viewTrace v p t).any (fun e => opOf e.word == 0 && e.depth != 0))

/-- Code 0x09 (R163). -/
def twaitFails (v : PlanView) : List Place :=
  placesWhere v (fun p t => (viewTrace v p t).any (fun e => opOf e.word == 7 && decide (2 ^ fieldLE v.img 32 1 ≤ e.target)))

/-! ## Items of an epoch -/

/-- Accessed bytes: arena, RELOC mode, place and direction; accumulator stores stand as arenas of their own. -/
structure Acc where
  arena : Nat
  mode : Nat
  lo : Nat
  len : Nat
  write : Bool
deriving DecidableEq, Repr

/-- A SIG, WAITS or ISSUE of one epoch: what it touches, the additions it makes, what it subtracts. -/
structure Item where
  pos : Nat
  tiller : Nat
  ord : Nat
  word : W64
  unit : Option Nat
  accs : List Acc
  sigs : List (Nat × Nat × Nat)
  wait : Option (Nat × Nat)
deriving DecidableEq, Repr

/-- The arena number that stands for Sheaf n's store at position p. -/
def storeArena (p n : Nat) : Nat := 2 ^ 32 + 16 * p + n

/-- Regions that a Feed Tiller opens in an epoch. -/
def regionsIn (v : PlanView) (p f ep : Nat) : List (List Byte) :=
  ((issues (viewTrace v p f)).filter (fun e => e.epoch == ep && subOf e.word == 2)).map (fun e => descAt (viewDescs v p f) (field e.word 39 32))

/-- Bytes of the store that a region takes. -/
def regionSpan (g : List Byte) : Nat × Nat := (1024 * gRbase g, gEcount g * gDepth g * accBytes (gAcc g))

/-- Where a run begins: arena, RELOC mode and offset (R204). -/
def runPlace (v : PlanView) (p t : Nat) (x : TraceAg) (g : Agen) : Option (Nat × Nat × Nat) :=
  if dSrc g.desc = 1 then none else (relocOf v p t x.entry 0).map (fun q => (q.arena, q.mode, runAddr g))

/-- Accesses of one run of n elements: bytes of memory, or the final values of a region (R585). -/
def runAccs (v : PlanView) (p t ep : Nat) (moves write : Bool) (x : TraceAg) (g : Agen) (n : Nat) : List Acc :=
  let d := x.gen.desc
  if dSrc d = 1 then
    let f := 4 * (t - 16) + dSheaf d
    let w := accBytes (dFmt d)
    let a := runAddr g * w
    let depth := (((regionsIn v p f ep).find? (fun r => spansMeet (regionSpan r) (a, w))).map gDepth).getD 1
    [⟨storeArena p f, 0, a, ((n - 1) * depth + 1) * w, write⟩]
  else
    (match relocOf v p t x.entry 0 with
      | some q => [⟨q.arena, q.mode, runAddr g, rowBytes (elemBits (dFmt d)) n, write⟩]
      | none => [])
    ++ (if dSch d = 0 ∨ moves then [] else match relocOf v p t x.entry 1 with
      | some q => [⟨q.arena, q.mode, runSaddr g, n / blockLen (dSch d) * scaleBytes (dSch d), write⟩]
      | none => [])

/-- Accesses of a generator's runs. -/
def genAccs (v : PlanView) (p t ep : Nat) (moves : Bool) (u : AgUse) (x : TraceAg) : List Acc :=
  (List.range u.runs).flatMap (fun i => runAccs v p t ep moves u.write x (agRun x.gen i) (dRun x.gen.desc))

/-! ## Node sets and reductions -/

/-- Entries on each element's stack after lo to next − 1 have been pushed: one running value under ORDER_V1 (R85, R109). -/
def stackCount (v1 : Bool) (lo next : Nat) : Nat := if v1 then (if lo < next then 1 else 0) else (stackShape lo next).length

/-- Bytes of a node set (R124), without its padding. -/
def setBytes (v1 : Bool) (red : List Byte) (lo hi : Nat) : Nat := 32 + stackCount (v1 && rKind red == 0) lo hi * rEcount red * accBytes (rAcc red)

/-- The generator an event names at [42:40]. -/
def evAg (e : TEvent) : Option TraceAg := e.ags.getD (field e.word 42 40) none

/-- Node sets that the programs write by NSEND, with their epochs (R184). -/
def sentSets (v : PlanView) : List (Nat × PlanSet) :=
  (places v).flatMap (fun q => if tillerKind q.2 != .thresher then [] else
    (issues (viewTrace v q.1 q.2)).filterMap (fun e => if subOf e.word != 2 then none else
      let red := descAt (viewDescs v q.1 q.2) (field e.word 39 32)
      (evAg e).bind (fun x => (runPlace v q.1 q.2 x x.gen).map (fun a => (e.epoch, ⟨a.1, a.2.1, a.2.2, rNlo red, rNhi red⟩)))))

/-- 64-byte pieces of a sub-operation's runs, in order: epoch and place. -/
def piecesOf (v : PlanView) (p t : Nat) (e : TEvent) (ag runs : Nat) : List (Nat × Nat × Nat × Nat) :=
  match e.ags.getD ag none with
  | none => []
  | some x => (List.range runs).flatMap (fun i =>
      let g := agRun x.gen i
      match runPlace v p t x g with
      | some a => (List.range (rowBytes (elemBits (dFmt g.desc)) (dRun g.desc) / 64)).map (fun k => (e.epoch, a.1, a.2.1, a.2.2 + 64 * k))
      | none => [])

/-- Pieces of the transfers of one end of a link in order (R186, R187). -/
def endPieces (v : PlanView) (p link : Nat) (crop recv : Bool) : List (Nat × Nat × Nat × Nat) :=
  let t := if crop then 20 else 21 + link
  ((issues (viewTrace v p t)).filter (fun e => (subOf e.word == 1) == recv && (!crop || field e.word 39 35 == link))).flatMap (fun e =>
    piecesOf v p t e (field e.word 42 40) (if crop then field e.word 34 15 + 1 else field e.word 39 20 + 1))

/-- Where 64-byte pieces are moved from and to: over a link, or by COPY. -/
def pieceMoves (v : PlanView) : List ((Nat × Nat × Nat × Nat) × (Nat × Nat × Nat × Nat)) :=
  v.links.flatMap (fun l => [false, true].flatMap (fun crop =>
    (endPieces v l.posA l.linkA crop false).zip (endPieces v l.posB l.linkB crop true)
    ++ (endPieces v l.posB l.linkB crop false).zip (endPieces v l.posA l.linkA crop true)))
  ++ (places v).flatMap (fun q => if tillerKind q.2 != .copy then [] else
    ((issues (viewTrace v q.1 q.2)).filter (fun e => subOf e.word == 0)).flatMap (fun e =>
      (piecesOf v q.1 q.2 e (field e.word 42 40) (field e.word 36 17 + 1)).zip (piecesOf v q.1 q.2 e (field e.word 39 37) (field e.word 36 17 + 1))))

/-- Sets that lie somewhere, with those that n moves carry on: the header's piece decides; an OUT copy is the next epoch's IN copy
(R206). -/
def growSets (moves : List ((Nat × Nat × Nat × Nat) × (Nat × Nat × Nat × Nat))) : Nat → List (Nat × PlanSet) → List (Nat × PlanSet)
  | 0, xs => xs
  | n + 1, xs => growSets moves n (xs ++ (xs.flatMap (fun x =>
      (moves.filter (fun m => m.1 == (x.1, x.2.arena, x.2.mode, x.2.offset))).map (fun m =>
        (m.2.1, { x.2 with arena := m.2.2.1, mode := m.2.2.2.1, offset := m.2.2.2.2 }))
      ++ (if x.2.mode = 2 then [(x.1 + 1, { x.2 with mode := 1 })] else []))).filter (fun x => !xs.contains x)).eraseDups

/-- Every node set that the programs form, with the epoch in which it lies at its place. -/
def setsOf (v : PlanView) : List (Nat × PlanSet) :=
  let moves := pieceMoves v
  growSets moves (moves.length + 1) (sentSets v)

/-- The node sets of a plan, for its retained copy. -/
def planSets (v : PlanView) : List PlanSet := ((setsOf v).map (fun x => x.2)).eraseDups

/-- The ranges that the set of an NPUSH or the leaves of an LPUSH may have, as the programs give them (R184): leaves by LO and RUN, a
store region by its entry, a set in memory by what lies at its place in the epoch. -/
def pushRanges (v : PlanView) (p t : Nat) (e : TEvent) : List (Nat × Nat) :=
  match evAg e with
  | none => []
  | some x =>
    let d := x.gen.desc
    if subOf e.word = 1 then [(field e.word 31 16, field e.word 31 16 + dRun d)]
    else if dSrc d = 1 then
      ((regionsIn v p (4 * (t - 16) + dSheaf d) e.epoch).filter (fun g =>
        !gFinish g && 1024 * gRbase g == runAddr x.gen * accBytes (dFmt d))).map (fun g => (gLo g, gLo g + gNblk g))
    else match runPlace v p t x x.gen with
      | none => []
      | some a => ((setsOf v).filter (fun q => q.1 == e.epoch && q.2.arena == a.1 && q.2.mode == a.2.1 && q.2.offset == a.2.2)).map (fun q => (q.2.lo, q.2.hi))

/-- An NPUSH takes a set in memory at a place that no program of the plan fills: the Thresher judges its range when it reads it. -/
def foreignSet (v : PlanView) (p t : Nat) (e : TEvent) : Bool :=
  subOf e.word == 0 && (match evAg e with
    | none => false
    | some x => dSrc x.gen.desc != 1 && (match runPlace v p t x x.gen with
      | none => false
      | some a => (setsOf v).all (fun q => !(q.2.arena == a.1 && q.2.mode == a.2.1 && q.2.offset == a.2.2))))

/-- Walk of one reduction: the K-block or leaf expected next, and whether it is exactly that one or, after a set whose range no program
gives, that one or a later one (log 52); nothing once a rule breaks. -/
def redStep (v : PlanView) (p t : Nat) (red : List Byte) (n : Nat) (acc : Option (Nat × Bool)) (e : TEvent) : Option (Nat × Bool) :=
  match acc with
  | none => none
  | some (k, exact_) =>
    if opOf e.word ≠ 0x10 ∨ 4 ≤ subOf e.word ∨ field e.word 39 32 ≠ n then acc
    else if subOf e.word ≤ 1 then
      if foreignSet v p t e then (if k < rNhi red then some (k + 1, false) else none)
      else ((pushRanges v p t e).find? (fun r => (if exact_ then r.1 == k else decide (k ≤ r.1)) && decide (r.1 < r.2) && decide (r.2 ≤ rNhi red))).map
        (fun r => (r.2, true))
    else if k = rNhi red ∨ (!exact_ ∧ k ≤ rNhi red) then some (rNlo red, true) else none

/-- Accesses of the first entries of every element's stack of a reduction. -/
def stackAccs (v : PlanView) (p t entry : Nat) (red : List Byte) (n : Nat) (write : Bool) : List Acc :=
  match relocOf v p t entry 2 with
  | none => []
  | some q => if n = 0 then [] else
      let w := accBytes (rAcc red)
      (List.range (rEcount red)).map (fun e => ⟨q.arena, q.mode, rWork red + e * rDepth red * w, min n (rDepth red) * w, write⟩)

/-- Accesses of a Thresher sub-operation: its stacks before and after, the set it reads or writes, leaves, results (R184). -/
def redAccs (v : PlanView) (p t : Nat) (descs : List (List Byte)) (tr : List TEvent) (i : Nat) (e : TEvent) : List Acc :=
  let n := field e.word 39 32
  let red := descAt descs n
  let v1 := v.v1 && rKind red == 0
  let before := (tr.take i).foldl (redStep v p t red n) (some (rNlo red, true))
  let after := redStep v p t red n before e
  let stack (k : Option (Nat × Bool)) (write : Bool) : List Acc :=
    let q := k.getD (rNlo red, true)
    stackAccs v p t n red (if q.2 then stackCount v1 (rNlo red) q.1 else rDepth red) write
  let gen : List Acc := match evAg e with
    | none => []
    | some x =>
      let d := x.gen.desc
      let mem (len : Nat) (write : Bool) : List Acc := match runPlace v p t x x.gen with | some a => [⟨a.1, a.2.1, a.2.2, len, write⟩] | none => []
      match subOf e.word with
      | 0 =>
        if dSrc d = 1 then
          let f := 4 * (t - 16) + dSheaf d
          ((regionsIn v p f e.epoch).filter (fun g => 1024 * gRbase g == runAddr x.gen * accBytes (dFmt d))).map (fun g =>
            ⟨storeArena p f, 0, (regionSpan g).1, (regionSpan g).2, false⟩)
        else mem (match before, after with
          | some (a, true), some (b, true) => setBytes v.v1 red a b
          | _, _ => dRun d) false
      | 1 => genAccs v p t e.epoch false ⟨0, rEcount red, false⟩ x
      | 2 => mem (roundUp (setBytes v.v1 red (rNlo red) (rNhi red)) 64) true
      | _ =>
        let run := max 1 (dRun d)
        (List.range (ceilDiv (rEcount red) run)).flatMap (fun i =>
          runAccs v p t e.epoch false true x (agRun x.gen i) (min run (rEcount red - i * run)))
  stack before false ++ (if subOf e.word ≤ 1 then stack after true else []) ++ gen

/-- K-block pushes a Feed Tiller has made into a region entry since its OPEN, before event number i. -/
def pushesBefore (tr : List TEvent) (i entry : Nat) : Nat :=
  (tr.take i).foldl (fun n e =>
    if opOf e.word = 0x10 ∧ field e.word 39 32 = entry then
      (if subOf e.word = 2 then 0 else if subOf e.word = 1 then n + 1 else n)
    else n) 0

/-- KNODE reductions from K-block 0 that a Rick's Thresher Tiller drives in an epoch, whose pushes reach K-block lo: their entries (R86,
log 28). -/
def chainEntries (v : PlanView) (p t ep : Nat) (g : List Byte) : List Nat :=
  let tr := viewTrace v p t
  let descs := viewDescs v p t
  (((issues tr).filter (fun e => e.epoch == ep && decide (subOf e.word < 2))).map (fun e => field e.word 39 32)).eraseDups.filter (fun n =>
    let red := descAt descs n
    rKind red == 0 && rNlo red == 0 && rAcc red == gAcc g && rEcount red == gEcount g
    && (List.range tr.length).any (fun i => (tr.take i).foldl (redStep v p t red n) (some (0, true)) == some (gLo g, true)))

/-- A chained OPEN reads the running values of the earlier K-blocks (R86). -/
def chainAccs (v : PlanView) (p t ep : Nat) (g : List Byte) : List Acc :=
  let th := 16 + t / 4
  if v.v1 ∧ gLo g ≠ 0 ∧ gNblk g ≠ 1 then (chainEntries v p th ep g).flatMap (fun n => stackAccs v p th n (descAt (viewDescs v p th) n) 1 false) else []

/-- The item of event number i of a trace. -/
def itemOf (v : PlanView) (p t : Nat) (descs : List (List Byte)) (tr : List TEvent) (i : Nat) (e : TEvent) : Option Item :=
  let k := tillerKind t
  let moves := k == .wain || k == .crop
  match opOf e.word with
  | 0x08 => some ⟨p, t, i, e.word, none, [], [(field e.word 57 52, field e.word 51 48, field e.word 15 0)], none⟩
  | 0x09 => some ⟨p, t, i, e.word, none, [], [], some (field e.word 51 48, field e.word 15 0)⟩
  | 0x10 =>
    let g := descAt descs (field e.word 39 32)
    let isPass := k == .feed && subOf e.word == 1
    let mem :=
      if k = .thresher ∧ subOf e.word < 4 then redAccs v p t descs tr i e
      else (usesOf k descs e).flatMap (fun u => match u.2 with | some x => genAccs v p t e.epoch moves u.1 x | none => [])
    let store :=
      if isPass then [(⟨storeArena p t, 0, (regionSpan g).1, (regionSpan g).2, true⟩ : Acc)]
      else if k = .feed ∧ subOf e.word = 2 then chainAccs v p t e.epoch g
      else []
    let last := isPass && pushesBefore tr i (field e.word 39 32) + 1 == gNblk g
    let sigs := (if dtOf e.word = 63 then [] else [(dtOf e.word, dcOf e.word, 1)])
      ++ (if last && gSigt g != 63 then [(gSigt g, gSigc g, 1)] else [])
    some ⟨p, t, i, e.word, some (unitOf t e.word), mem ++ store, sigs, none⟩
  | _ => none

/-- Items of an epoch, of every Tiller of every position. -/
def epochItems (v : PlanView) (ep : Nat) : List Item :=
  (places v).flatMap (fun q =>
    let tr := viewTrace v q.1 q.2
    let descs := viewDescs v q.1 q.2
    (List.range tr.length).filterMap (fun i => match tr[i]? with
      | some e => if e.epoch = ep then itemOf v q.1 q.2 descs tr i e else none
      | none => none))

/-- Number of epochs any trace enters. -/
def epochCount (v : PlanView) : Nat :=
  (places v).foldl (fun n q => (viewTrace v q.1 q.2).foldl (fun n e => max n (e.epoch + 1)) n) 0

/-- Some Tiller enters the barrier that closes an epoch. What follows the last EBAR up to HALT, with no sub-operation in it,
is no epoch of R207 (DEDUCED from the chapter's programs, log 34). -/
def closedEpoch (v : PlanView) (ep : Nat) : Bool :=
  (places v).any (fun q => (viewTrace v q.1 q.2).any (fun e => e.epoch == ep && opOf e.word == 0x0B))

/-! ## 0x0A COUNTER (R167) -/

/-- Additions to a counter in an epoch. -/
def additions (items : List Item) (p t c : Nat) : Nat :=
  items.foldl (fun n i => if i.pos = p then i.sigs.foldl (fun n s => if s.1 = t ∧ s.2.1 = c then n + s.2.2 else n) n else n) 0

/-- Subtractions from a counter in an epoch. -/
def subtractions (items : List Item) (p t c : Nat) : Nat :=
  items.foldl (fun n i => if i.pos = p ∧ i.tiller = t then (match i.wait with | some (k, a) => if k = c then n + a else n | none => n) else n) 0

/-- Code 0x0A: at most 65,535 additions in an epoch, and balance at every EBAR. -/
def counterFails (v : PlanView) : List Place :=
  (List.range (epochCount v)).flatMap (fun ep =>
    let items := epochItems v ep
    let closed := closedEpoch v ep
    placesWhere v (fun p t => (List.range 16).any (fun c =>
      let n := additions items p t c
      decide (65535 < n) || (closed && n != subtractions items p t c))))

/-! ## 0x0B DEPENDENCY (R178, R205, R376) -/

/-- Order known without signals: an instruction before a later item of its Tiller, or two sub-operations of one unit. -/
def programOrder (a b : Item) : Bool :=
  a.pos == b.pos && decide (a.ord < b.ord) &&
  ((a.tiller == b.tiller && a.unit.isNone) || (a.tiller == b.tiller && a.unit.isSome && a.unit == b.unit))

/-- WAITS w cannot pass before a has signalled: what else may be added to its counter, other than by a and what follows a
in known order, stays below what w and the WAITS before it need (R165, R178; log 27). -/
def guards (items : List Item) (a w : Item) : Bool :=
  match w.wait with
  | none => false
  | some (c, _) =>
    a.pos == w.pos && a.sigs.any (fun s => s.1 == w.tiller && s.2.1 == c) &&
    (let need := subtractions (items.filter (fun i => decide (i.ord ≤ w.ord))) w.pos w.tiller c
     let other := additions (items.filter (fun i => i != a && !programOrder a i)) w.pos w.tiller c
     decide (other < need))

/-- The n-th SEND of a link end pairs with the n-th RECV of the other (R186, R187). -/
def pairedItems (links : List LinkEntry) (items : List Item) (a b : Item) : Bool :=
  let ka := tillerKind a.tiller
  let link (i : Item) : Nat := if tillerKind i.tiller == .crop then field i.word 39 35 else i.tiller - 21
  let nth (i : Item) : Nat := (items.filter (fun j => j.pos == i.pos && j.tiller == i.tiller && j.unit.isSome && decide (j.ord < i.ord)
    && subOf j.word == subOf i.word && link j == link i)).length
  (ka == .wain || ka == .crop) && tillerKind b.tiller == ka && a.unit.isSome && b.unit.isSome && subOf a.word == 0 && subOf b.word == 1
  && nth a == nth b
  && links.any (fun l => (l.posA == a.pos && l.linkA == link a && l.posB == b.pos && l.linkB == link b)
      || (l.posB == a.pos && l.linkB == link a && l.posA == b.pos && l.linkA == link b))

/-- One step of the order that signals, programs and transfers give. -/
def ordered1 (links : List LinkEntry) (items : List Item) (a b : Item) : Bool :=
  programOrder a b || guards items a b || pairedItems links items a b

/-- Items reached from a set in n steps. -/
def reach (links : List LinkEntry) (items : List Item) : Nat → List Item → List Item
  | 0, xs => xs
  | n + 1, xs => reach links items n (items.filter (fun b => xs.contains b || xs.any (fun a => ordered1 links items a b)))

/-- a is ordered before b. -/
def orderedItems (links : List LinkEntry) (items : List Item) (a b : Item) : Bool := (reach links items items.length [a]).contains b && a != b

/-- Two accesses touch a byte in common. -/
def accsMeet (a b : Acc) : Bool := a.arena == b.arena && a.mode == b.mode && spansMeet (a.lo, a.len) (b.lo, b.len)

/-- Arena rules of one access (R205, R376): no write to CONST, no read of OUTPUT, other chips' memory only as R376 allows. -/
def accKindBad (v : PlanView) (items : List Item) (i : Item) (a : Acc) : Bool :=
  match v.arenas[a.arena]? with
  | none => false
  | some ar =>
    (a.write && ar.kind == 0) || (!a.write && ar.kind == 3)
    || (ar.position != i.pos && ar.space == 0 && (if a.write then
          ar.kind != 3 || items.any (fun j => j.pos == ar.position && j.accs.any (fun b => b.write && b.arena == a.arena))
        else ar.kind != 0))

/-- Every byte a SCRATCH read touches was written earlier in the epoch by something it is ordered after (R205). -/
def scratchBad (v : PlanView) (links : List LinkEntry) (items : List Item) (i : Item) (a : Acc) : Bool :=
  match v.arenas[a.arena]? with
  | none => false
  | some ar => !a.write && ar.kind == 1 && (List.range a.len).any (fun k =>
      !items.any (fun j => orderedItems links items j i && j.accs.any (fun b => b.write && b.arena == a.arena && b.mode == a.mode
        && decide (b.lo ≤ a.lo + k) && decide (a.lo + k < b.lo + b.len))))

/-- Code 0x0B: the arena rules, and what one sub-operation writes and another reads without an order that signals, a program or a
transfer gives them. -/
def dependencyFails (v : PlanView) : List Place :=
  let links := v.links
  (List.range (epochCount v)).flatMap (fun ep =>
    let items := epochItems v ep
    (items.filter (fun i => i.accs.any (fun a => accKindBad v items i a || scratchBad v links items i a
      || items.any (fun j => j != i && (j.pos != i.pos || j.unit != i.unit)
          && j.accs.any (fun b => a.write != b.write && accsMeet a b)
          && !orderedItems links items i j && !orderedItems links items j i)))).map (fun i => (i.pos, i.tiller)))

/-! ## 0x0C ACCUMULATOR (R84, R107, R112, R169, R182) -/

/-- depth_needed() of R108: the greatest height of the stack while lo to hi − 1 are pushed. -/
def depthNeeded (lo hi : Nat) : Nat :=
  ((List.range (hi - lo)).foldl (fun (acc : List Node × Nat) j =>
    let st := (pushNode (fun _ _ => (0, 0)) acc.1 ⟨0, lo + j, 0⟩).1
    (st, max acc.2 st.length)) ([], 0)).2

/-- Fields of a region entry. -/
def regionBad (g : List Byte) : Bool :=
  !([0, 1, 10].contains (gAcc g)) || gDepth g == 0 || decide (16 < gDepth g) || gEcount g == 0 || decide (2 ^ 20 < gEcount g)
  || (decide (52 < gSigt g) && gSigt g != 63) || (gFinish g && gLo g != 0) || decide (4096 < gRbase g + regionKib g)
  || decide (gDepth g < depthNeeded (gLo g) (gLo g + gNblk g))

/-- Walk of the claims of a Feed Tiller: open regions with their pushes, nothing once a rule breaks. A K-block of fewer than 256 elements
is the last of its dot product (R79), so it is the last of its region. -/
def claimStep (descs : List (List Byte)) (loads : List TEvent) (acc : Option (List (Nat × Nat) × Nat)) (e : TEvent) :
    Option (List (Nat × Nat) × Nat) :=
  match acc with
  | none => none
  | some (live, passes) =>
    let n := field e.word 39 32
    let g := descAt descs n
    if opOf e.word = 0x0B then (if live.isEmpty then acc else none)
    else if opOf e.word ≠ 0x10 then acc
    else match subOf e.word with
      | 1 =>
        match live.find? (fun r => r.1 == n), loads[passes]? with
        | some r, some ld =>
          if field ld.word 39 24 = gLo g + r.2 ∧ r.2 < gNblk g ∧ (field ld.word 23 16 = 255 ∨ r.2 + 1 = gNblk g) then some (live.map (fun x => if x = r then (n, r.2 + 1) else x), passes + 1)
          else none
        | _, _ => none
      | 2 =>
        let meet (m : Nat) : Bool := let h := descAt descs m; spansMeet (gRbase g, regionKib g) (gRbase h, regionKib h)
        if regionBad g || live.any (fun r => meet r.1) then none else some ((n, 0) :: live, passes)
      | 3 => if live.any (fun r => r.1 == n) then some (live.filter (fun r => r.1 != n), passes) else none
      | _ => acc

/-- A region with FINISH 1 is handed to the Thresher as a part of a longer dot product (R182). The image states no length of a dot
product: that a range from 0 is all of it is DEDUCED from the region being in no reduction (log 53). -/
def finishBad (v : PlanView) (p t : Nat) (e : TEvent) : Bool :=
  let g := descAt (viewDescs v p t) (field e.word 39 32)
  let th := 16 + t / 4
  subOf e.word == 2 && gFinish g && (issues (viewTrace v p th)).any (fun n => subOf n.word == 0 && n.epoch == e.epoch
    && (match evAg n with
      | some x => dSrc x.gen.desc == 1 && 4 * (th - 16) + dSheaf x.gen.desc == t && 1024 * gRbase g == runAddr x.gen * accBytes (dFmt x.gen.desc)
          && (pushRanges v p th n).isEmpty
      | none => false))

/-- Code 0x0C, but for R111, which needs the schedule. -/
def accumulatorFails (v : PlanView) : List Place :=
  placesWhere v (fun p t =>
    let tr := viewTrace v p t
    tillerKind t == .feed && ((tr.foldl (claimStep (viewDescs v p t) ((issues tr).filter (fun e => subOf e.word == 0))) (some ([], 0))).isNone
      || (issues tr).any (finishBad v p t)))

/-! ## 0x0D REDUCTION (R127, R184) -/

/-- Code 0x0D. DESIGN CHOICE: ECOUNT outside the 1 to 65,536 of R124, a leaf range outside the 1 to 65,536 of R121 and an accumulator
format outside R124 fail with the same code; a set in memory that no program of the plan forms may have any range that goes on (log 52). -/
def reductionFails (v : PlanView) : List Place :=
  placesWhere v (fun p t => tillerKind t == .thresher &&
    (let descs := viewDescs v p t
     let tr := viewTrace v p t
     let reds := ((issues tr).filter (fun e => decide (subOf e.word < 4))).map (fun e => field e.word 39 32)
     reds.eraseDups.any (fun n =>
       let red := descAt descs n
       (tr.foldl (redStep v p t red n) (some (rNlo red, true))).isNone
       || decide (16 < depthNeeded (rNlo red) (rNhi red)) || rEcount red == 0 || decide (65536 < rEcount red)
       || decide (rNhi red ≤ rNlo red) || decide (65536 < rNhi red)
       || !([0, 1, 10].contains (rAcc red)))))

/-! ## 0x0E PAIRING (R180, R183, R186, R187) -/

/-- LOADs lead PASSes by at most 2 and never trail them (R180). -/
def leadBad (tr : List TEvent) : Bool :=
  ((issues tr).foldl (fun (acc : Option (Nat × Nat)) e => match acc with
    | none => none
    | some (l, q) =>
      if subOf e.word = 0 then (if l + 1 ≤ q + 2 then some (l + 1, q) else none)
      else if subOf e.word = 1 then (if q + 1 ≤ l then some (l, q + 1) else none)
      else acc) (some (0, 0))).isNone

/-- Shared PASSes of a Feed Tiller under a mask: rows, and run addresses in order, each by arena, mode and offset. -/
def sharedPasses (v : PlanView) (p t mask : Nat) : List (Nat × List (Option (Nat × Nat × Nat))) :=
  ((issues (viewTrace v p t)).filter (fun e => subOf e.word == 1 && field e.word 15 12 == mask)).map (fun e =>
    (field e.word 31 16, match evAg e with
      | some x => (List.range (field e.word 31 16 + 1)).map (fun i => runPlace v p t x (agRun x.gen i))
      | none => []))

/-- Bytes a link sub-operation moves. -/
def movedBytes (e : TEvent) (runs : Nat) : Nat := runs * rowBytes (elemBits (dFmt (evDesc e))) (dRun (evDesc e))

/-- Transfers of one end in order: bytes and epoch. -/
def endTransfers (v : PlanView) (p link : Nat) (crop recv : Bool) : List (Nat × Nat) :=
  let t := if crop then 20 else 21 + link
  let tr := viewTrace v p t
  ((issues tr).filter (fun e => (subOf e.word == 1) == recv && (!crop || field e.word 39 35 == link))).map (fun e =>
    (movedBytes e (if crop then field e.word 34 15 + 1 else field e.word 39 20 + 1), e.epoch))

/-- Code 0x0E. -/
def pairingFails (v : PlanView) : List Place :=
  let links := v.links
  placesWhere v (fun p t => tillerKind t == .feed &&
    (let tr := viewTrace v p t
     leadBad tr || (issues tr).any (fun e =>
       let m := field e.word 15 12
       subOf e.word == 1 && m != 0 && (!m.testBit (t % 4) || (List.range 4).any (fun i => m.testBit i
         && sharedPasses v p (t - t % 4 + i) m != sharedPasses v p t m)))))
  ++ links.flatMap (fun l => [false, true].flatMap (fun crop =>
      let bad (pa la pb lb : Nat) : Bool := endTransfers v pa la crop false != endTransfers v pb lb crop true
      (if bad l.posA l.linkA l.posB l.linkB || bad l.posB l.linkB l.posA l.linkA then
        [(min l.posA l.posB, if crop then 20 else 21 + (if l.posA ≤ l.posB then l.linkA else l.linkB))] else [])))

/-! ## 0x0F TRANSFER (R211) -/

/-- The transfers the XFER entries state for one end, pairing and epoch: ordinal and bytes. -/
def xferAt (xs : List XferEntry) (p link pairing ep : Nat) : List (Nat × Nat) :=
  (xs.filter (fun x => x.srcPos == p && x.srcLink == link && x.pairing == pairing && decide (x.epoch ≤ ep) && decide (ep < x.epoch + x.nepoch))).map
    (fun x => (x.seq, x.bytes))

/-- Code 0x0F, but for SEND_TICK, which needs the schedule: the bound on RELEASE_TICK, and XFER entries that are not the programs'
sends, in any epoch. -/
def transferFails (v : PlanView) : List Place :=
  let links := v.links
  let xs := (tabEntries v.img 8).map parseXfer
  let budget := fieldLE v.img 40 4
  let epochs := epochCount v
  let rate (p l : Nat) : Option Nat := (links.find? (fun k => (k.posA == p && k.linkA == l) || (k.posB == p && k.linkB == l))).map (fun k => k.rate)
  (xs.filter (fun x => x.bytes % 64 != 0 || x.nepoch == 0 || decide (epochs < x.epoch + x.nepoch) || (match rate x.srcPos x.srcLink with
    | none => true
    | some r => decide (x.releaseTick < x.sendTick + ceilDiv x.bytes (if r = 1 then 100 else 200) + budget)))).map (fun x => (x.srcPos, 63))
  ++ (List.range v.npos).flatMap (fun p => (List.range 24).flatMap (fun l => [0, 1].flatMap (fun pr =>
      let sent := endTransfers v p l (pr == 1) false
      let bad (ep : Nat) : Bool :=
        let mine := (sent.filter (fun s => s.2 == ep)).map (fun s => s.1)
        let want := (List.range mine.length).zip mine
        let got := xferAt xs p l pr ep
        got.length != want.length || !want.all (fun w => got.contains w)
      if (List.range epochs).any bad then [(p, if pr = 1 then 20 else 21 + l)] else [])))

/-! ## 0x13 CARRIED (R207) -/

/-- A generator loaded before the epoch of its use from an entry that reaches a CARRIED arena. -/
def staleCarried (v : PlanView) (p t : Nat) (descs : List (List Byte)) (e : TEvent) : Bool :=
  opOf e.word == 0x10 && (usesOf (tillerKind t) descs e).any (fun u => match u.2 with
    | some x => x.epoch != e.epoch && v.relocs.any (fun q => q.position == p && q.tiller == t && q.entry == x.entry && q.mode != 0)
    | none => false)

/-- The bytes of CARRIED arena n that an epoch writes in its OUT copy are all of them. -/
def outCovered (items : List Item) (n size : Nat) : Bool :=
  (List.range size).all (fun b => items.any (fun i => i.accs.any (fun a =>
    a.write && a.arena == n && a.mode == 2 && decide (a.lo ≤ b) && decide (b < a.lo + a.len))))

/-- Byte b of an arena lies within a tensor of the TENSOR table. -/
def inTensor (v : PlanView) (n b : Nat) : Bool :=
  v.tensors.any (fun t => t.arena == n && (
    (List.range t.rows).any (fun r => decide (t.elemBase + r * t.elemPitch ≤ b) && decide (b < t.elemBase + r * t.elemPitch + rowBytes (elemBits t.fmt) t.rowlen))
    || (t.sch != 0 && (List.range t.rows).any (fun r => decide (t.scaleBase + r * t.scalePitch ≤ b)
        && decide (b < t.scaleBase + r * t.scalePitch + t.rowlen / blockLen t.sch * scaleBytes t.sch)))))

/-- Code 0x13. -/
def carriedFails (v : PlanView) : List Place :=
  let carried := (List.range v.arenas.length).filter (fun n => ((v.arenas[n]?).map (fun a => a.kind)) == some 2)
  (v.relocs.filter (fun r => r.mode == 0 && carried.contains r.arena)).map (fun r => (r.position, r.tiller))
  ++ placesWhere v (fun p t => (viewTrace v p t).any (staleCarried v p t (viewDescs v p t)))
  ++ (List.range (epochCount v)).flatMap (fun ep =>
      let items := epochItems v ep
      (items.filter (fun i => i.accs.any (fun a => a.write && a.mode == 1))).map (fun i => (i.pos, i.tiller))
      ++ if items.isEmpty && !closedEpoch v ep then [] else carried.flatMap (fun n => match v.arenas[n]? with
        | some a => failAt (!outCovered items n a.size) a.position
        | none => []))
  ++ carried.flatMap (fun n => match v.arenas[n]? with
      | some a => failAt ((List.range a.size).any (fun b => !inTensor v n b)) a.position
      | none => [])

/-! ## The rest of 0x14 and 0x15 -/

/-- A leased Sheaf's Feed Tiller issues in the lease's epochs (R214). -/
def leaseIssueFails (v : PlanView) : List Place :=
  let leases := (tabEntries v.img 10).map parseLease
  placesWhere v (fun p t => tillerKind t == .feed && (issues (viewTrace v p t)).any (fun e =>
    leases.any (fun l => l.position == p && l.sheaves.testBit t && decide (l.epochFirst ≤ e.epoch) && decide (e.epoch ≤ l.epochLast))))

/-- Under ORDER_V1 (R86, log 28) a later range of several K-blocks must find the running value of the earlier ones in a reduction of
its Rick, and no reduction may sum several K-blocks that do not start at 0. -/
def chainFails (v : PlanView) : List Place :=
  if v.v1 then
    placesWhere v (fun p t => (issues (viewTrace v p t)).any (fun e =>
      let d := descAt (viewDescs v p t) (field e.word 39 32)
      match tillerKind t with
      | .feed => subOf e.word == 2 && gLo d != 0 && gNblk d != 1 && (chainEntries v p (16 + t / 4) e.epoch d).isEmpty
      | .thresher => decide (subOf e.word < 4) && rKind d == 0 && rNlo d != 0 && decide (rNlo d + 1 < rNhi d)
      | _ => false))
  else []

end Sys2Proof.Machine
end

