-- ==== Sys2Proof/Machine/Tick.lean ====
section
/-!
DEFINITION. The passing of one A-cycle.
-/
namespace Sys2Proof.Machine

/-- Visible additions of the last A-cycle join the signal counters (R166); a carry beyond 65,535 is a
SIGNAL error of class REPLAYED. -/
def foldSignals (s : State) (n : Nat) (t : Tiller) : State :=
  if t.incoming.isEmpty then s
  else
    let sums := (List.range 16).map (fun k => look 0 t.sc k + look 0 t.incoming k)
    let s := setTiller s n { t with sc := putAll 0 t.sc 0 (sums.map (fun v => v % 65536)), incoming := [] }
    if sums.any (fun v => decide (65535 < v)) then
      raiseReplayed s srcSignal n (((List.range 16).find? (fun k => decide (65535 < sums.getD k 0))).getD 0) 0 0
    else s

/-- One A-cycle, six root cycles and what stretches it, lasts 100 / p ns at a root of p % and a stretch of 0 (R7, R8, R239). -/
def wallStep (s : State) : Nat := (6 + s.stretch) * (100 * wallUnit / s.rootPct / 6)

/-- One A-cycle (R7, R25, R239, R248; log 5): the clocks count while they run; in D3hot they are gated (R448). -/
def clockTick (s : State) : State :=
  if alive s && !s.hl.gated then
    let s := (List.range 53).foldl (fun s n => foldSignals s n (getTiller s n)) s
    { s with tick := s.tick + 1, wall := s.wall + wallStep s, ctb := s.ctb + 6 + BitVec.ofNat 64 s.stretch, stretch := 0, globalTick := if s.counting then s.globalTick + 1 else s.globalTick }
  else s

end Sys2Proof.Machine
end

