-- ==== Sys2Proof/Machine/Tiller.lean ====
section
/-!
DEFINITION. Tiller instructions (R159 to R171, R175, R176): each row executes the word at a Tiller's program counter.
-/
namespace Sys2Proof.Machine

/-! ## The stores (R158) -/

/-- Check bytes of the sixteen words of a descriptor entry. -/
def descCheck (d : List Byte) : List Byte := (List.range 16).map (fun i => BitVec.ofNat 8 (checkBits (fieldLE d (8 * i) 8)))

/-- A Tiller's stores filled with a program and a descriptor table, every word with its check bits. -/
def fillStores (t : Tiller) (prog : List W64) (descs : List (List Byte)) : Tiller :=
  { t with prog := prog, progChk := prog.map (fun w => BitVec.ofNat 8 (checkBits w.toNat)), descs := descs, descChk := descs.map descCheck }

/-- The program word at the program counter as stored; beyond the program the store holds HALT (R159). -/
def progStored (t : Tiller) : Nat × Nat := ((t.prog.getD t.pc 0).toNat, (t.progChk.getD t.pc 0).toNat)

/-- The word at a Tiller's program counter as it is read. -/
def tillerWord (t : Tiller) : W64 := BitVec.ofNat 64 (eccData (progStored t))

/-- The words of descriptor entry k as stored. -/
def descStored (t : Tiller) (k : Nat) : List (Nat × Nat) :=
  let d := descAt t.descs k
  let c := t.descChk.getD k []
  (List.range 16).map (fun i => (fieldLE d (8 * i) 8, fieldLE c i 1))

/-- Descriptor entry k as it is read. -/
def tillerDesc (t : Tiller) (k : Nat) : List Byte := (descStored t k).flatMap (fun x => toLE 8 (eccData x))

/-- Tiller t reads these stored words: each one corrected is logged (R158). -/
def storeNote (s : State) (t : Nat) (ws : List (Nat × Nat)) : State :=
  (ws.filter eccFixed).foldl (fun s x => logError s clsCorrected srcTillerStore t 0 0 (syndrome x)) s

/-- Tiller t reads these stored words and goes on, unless one is uncorrectable: an error of class REPLAYED (R158). -/
def readStore (s : State) (t : Nat) (ws : List (Nat × Nat)) (k : State → State) : State :=
  if ws.any eccBad then raiseReplayed s srcTillerStore t 0 0 0 else k (storeNote s t ws)

/-- Tiller t executes an instruction of opcode op in this A-cycle (R161). -/
def atOp (s : State) (n op : Nat) : Bool :=
  let t := getTiller s n
  decide (n < 53) && alive s && !s.hl.gated && t.mode == .run && decide (t.nextTick ≤ s.tick) && opOf (tillerWord t) == op

/-- The program counter after the current instruction: 12 bits, so that behind word 4,095 it is 0 (R157; log 49). -/
def pcNext (t : Tiller) : Nat := (t.pc + 1) % 4096

/-- A Tiller goes on behind its current instruction in the next A-cycle. -/
def advance (s : State) (t : Tiller) : Tiller := { t with pc := pcNext t, mode := .run, nextTick := s.tick + 1 }

/-- Additions to a signal counter, visible to WAITS from the next A-cycle (R165, R166). -/
def signalAdd (s : State) (n c amount : Nat) : State :=
  let t := getTiller s n
  if n < 53 then setTiller s n { t with incoming := put 0 t.incoming c (look 0 t.incoming c + amount) } else s

/-- A sub-operation issued by Tiller n is not yet complete (R169, R171). -/
def issuedPending (s : State) (n : Nat) : Bool :=
  s.units.any (fun u => u.2.queue.any (fun o => o.tiller == n) || u.2.begun.any (fun b => b.op.tiller == n))

/-- Tiller t executes the instruction at its program counter, once its word is read (R158, R161). -/
def tillerExec (s : State) (t op : Nat) (k : State → State) : Host.Outcome State Fault Refusal :=
  .next (if atOp s t op then readStore s t [progStored (getTiller s t)] k else s)

/-- HALT (R171): it waits for the Tiller's sub-operations. -/
def execHalt (t : Nat) (s : State) : Host.Outcome State Fault Refusal :=
  if issuedPending s t then .next s else tillerExec s t 0x00 (fun s => setTiller s t { getTiller s t with mode := .halted })

/-- NOP (R161). -/
def execTillerNop (t : Nat) (s : State) : Host.Outcome State Fault Refusal :=
  tillerExec s t 0x01 (fun s => setTiller s t (advance s (getTiller s t)))

/-- LOOP (R162): the count and the body's start go onto the stack. -/
def execLoop (t : Nat) (s : State) : Host.Outcome State Fault Refusal :=
  let x := getTiller s t
  tillerExec s t 0x02 (fun s => setTiller s t { advance s x with loops := (field (tillerWord x) 23 0 + 1, pcNext x) :: x.loops })

/-- A Tiller after ENDL (R162): back to the body start, or behind the loop. -/
def endlStep (s : State) (x : Tiller) : Tiller :=
  match x.loops with
  | [] => advance s x
  | (n, body) :: rest =>
    if 1 < n then { advance s x with pc := body, loops := (n - 1, body) :: rest } else { advance s x with loops := rest }

/-- ENDL. -/
def execEndl (t : Nat) (s : State) : Host.Outcome State Fault Refusal :=
  tillerExec s t 0x03 (fun s => setTiller s t (endlStep s (getTiller s t)))

/-- Address generator k of a Tiller. -/
def getAg (t : Tiller) (k : Nat) : Option Agen := look none t.ags k
def setAg (t : Tiller) (k : Nat) (g : Option Agen) : Tiller := { t with ags := put none t.ags k g }

/-- AGSET (R172): the descriptor is loaded and all positions are zero. -/
def execAgset (t : Nat) (s : State) : Host.Outcome State Fault Refusal :=
  let x := getTiller s t
  let w := tillerWord x
  tillerExec s t 0x04 (fun s => readStore s t (descStored x (field w 7 0)) (fun s =>
    setTiller s t (setAg (advance s x) (agOf w) (some (agLoad (tillerDesc x (field w 7 0)))))))

/-- AGSKIP (R173, R174): N steps without touching data. -/
def execAgskip (t : Nat) (s : State) : Host.Outcome State Fault Refusal :=
  let x := getTiller s t
  let w := tillerWord x
  tillerExec s t 0x05 (fun s => setTiller s t (setAg (advance s x) (agOf w) ((getAg x (agOf w)).map (fun g => agSkip g (field w 31 0)))))

/-- AGRST (R174): positions to zero, the descriptor kept. -/
def execAgrst (t : Nat) (s : State) : Host.Outcome State Fault Refusal :=
  let x := getTiller s t
  let w := tillerWord x
  tillerExec s t 0x06 (fun s => setTiller s t (setAg (advance s x) (agOf w) ((getAg x (agOf w)).map (fun g => agLoad g.desc))))

/-- Effective target of a TWAIT (R163). -/
def twaitTarget (x : Tiller) : Nat :=
  let w := tillerWord x
  if bitOf w 57 then x.prevTarget + field w 39 0 else field w 39 0

/-- TWAIT (R163, R164): before its target it waits; at or behind it the lateness joins the slip counter. -/
def execTwait (t : Nat) (s : State) : Host.Outcome State Fault Refusal :=
  let x := getTiller s t
  let target := twaitTarget x
  let e := epochTick s
  tillerExec s t 0x07 (fun s =>
    if e < target then setTiller s t { x with mode := .waitTick target, prevTarget := target }
    else setTiller s t { advance s x with prevTarget := target, slip := satAdd32 x.slip (e + 1 - target) })

/-- TWAIT_EXPIRY: the target is reached and the next instruction executes in this A-cycle (R163). -/
def execTwaitExpiry (t : Nat) (s : State) : Host.Outcome State Fault Refusal :=
  let x := getTiller s t
  match x.mode with
  | .waitTick target =>
    if target ≤ epochTick s then .next (setTiller s t { x with mode := .run, pc := pcNext x, nextTick := s.tick }) else .next s
  | _ => .next s

/-- SIG (R165). -/
def execSig (t : Nat) (s : State) : Host.Outcome State Fault Refusal :=
  let x := getTiller s t
  let w := tillerWord x
  tillerExec s t 0x08 (fun s => signalAdd (setTiller s t (advance s x)) (field w 57 52) (field w 51 48) (field w 15 0))

/-- The counter a WAITS names, as it stood at the start of the A-cycle, is at least AMOUNT. -/
def waitsReady (x : Tiller) : Bool :=
  let w := tillerWord x
  decide (field w 15 0 ≤ look 0 x.sc (field w 51 48))

/-- A Tiller whose WAITS passes (R165). -/
def waitsTake (s : State) (x : Tiller) : Tiller :=
  let w := tillerWord x
  let c := field w 51 48
  { advance s x with sc := put 0 x.sc c (look 0 x.sc c - field w 15 0) }

/-- WAITS (R165, R166): it subtracts and passes, or waits. -/
def execWaits (t : Nat) (s : State) : Host.Outcome State Fault Refusal :=
  let x := getTiller s t
  tillerExec s t 0x09 (fun s => setTiller s t (if waitsReady x then waitsTake s x else { x with mode := .waitSignal }))

/-- WAITS_PASS: a waiting WAITS finds its counter high enough. -/
def execWaitsPass (t : Nat) (s : State) : Host.Outcome State Fault Refusal :=
  let x := getTiller s t
  if x.mode = .waitSignal && waitsReady x then .next (setTiller s t (waitsTake s x)) else .next s

/-- STEP (R168). -/
def execStep (t : Nat) (s : State) : Host.Outcome State Fault Refusal :=
  let x := getTiller s t
  tillerExec s t 0x0A (fun s => setTiller s t { advance s x with step := field (tillerWord x) 15 0 })

/-- EBAR (R169): it waits for the Tiller's sub-operations, then stands in the barrier until BARRIER_RELEASE. -/
def execEbar (t : Nat) (s : State) : Host.Outcome State Fault Refusal :=
  if issuedPending s t then .next s else tillerExec s t 0x0B (fun s => setTiller s t { getTiller s t with mode := .barrier })

/-! ## ISSUE (R175, R176) -/

/-- Unit u has a queue entry to give in this A-cycle: an entry freed by a begin counts from the next. -/
def queueRoom (s : State) (u : Nat) : Bool :=
  let q := getUnit s u
  decide (q.queue.length + (if s.tick < q.lastBegin then q.freed else 0) < 4)

/-- RUN of a Tiller's loaded generator. -/
def loadedRun (x : Tiller) (k : Nat) : Nat := match getAg x k with | some g => dRun g.desc | none => 1

/-- Generators the current ISSUE draws on. -/
def issueUses (n : Nat) (x : Tiller) : List AgUse :=
  subUses (tillerKind n) (tillerWord x) ((List.range x.descs.length).map (tillerDesc x)) (loadedRun x)

/-- Stored words the current ISSUE reads beside its own: a reduction's entry, which counts its runs (R184). -/
def issueReads (n : Nat) (x : Tiller) : List (Nat × Nat) :=
  if tillerKind n = .thresher ∧ subOf (tillerWord x) < 4 then descStored x (field (tillerWord x) 39 32) else []

/-- Each named generator advanced past the runs it gives; one named twice gives both operands the same runs. -/
def advanceAgs (x : Tiller) (us : List AgUse) : Tiller :=
  (us.map (fun u => u.ag)).eraseDups.foldl (fun x k =>
    match us.find? (fun u => u.ag == k) with
    | some u => setAg x k ((getAg x k).map (fun g => agSkip g u.runs))
    | none => x) x

/-- The sub-operation enters its unit's queue with the generators and the step index of its ISSUE (R168, R173, R176). -/
def issueNow (s : State) (n : Nat) : State :=
  let x := getTiller s n
  let w := tillerWord x
  let us := issueUses n x
  let op : SubOp := { tiller := n, word := w, step := x.step, issued := s.tick
                      ags := us.map (fun u => (getAg x u.ag).getD (agLoad [])) }
  let u := unitOf n w
  let q := getUnit s u
  setTiller (setUnit s u { q with queue := q.queue ++ [op] }) n (advanceAgs (advance s x) us)

/-- ISSUE: it waits while the queue is full. -/
def execIssue (t : Nat) (s : State) : Host.Outcome State Fault Refusal :=
  let x := getTiller s t
  tillerExec s t 0x10 (fun s => readStore s t (issueReads t x) (fun s =>
    if queueRoom s (unitOf t (tillerWord x)) then issueNow s t else setTiller s t { x with mode := .waitQueue }))

/-- QUEUE_ENTRY: a waiting ISSUE enters the queue. -/
def execQueueEntry (t : Nat) (s : State) : Host.Outcome State Fault Refusal :=
  let x := getTiller s t
  if x.mode = .waitQueue && queueRoom s (unitOf t (tillerWord x)) then .next (issueNow s t) else .next s

end Sys2Proof.Machine
end

