-- ==== Sys2Proof/Machine/PlanAccess.lean ====
section
/-!
DEFINITION. What the plan's sub-operations share (R176, R177, R189): begin and completion, reads and writes of runs with their
checks, poison (R301), flags and vanish counters (R87, R88, R155).
-/
namespace Sys2Proof.Machine

/-! ## Relocation -/

/-- Whether MODE selects copy B of a CARRIED arena in an epoch: IN in odd ones, OUT in even ones (R206). -/
def copyB (mode epoch : Nat) : Bool := (mode == 1 && epoch % 2 == 1) || (mode == 2 && epoch % 2 == 0)

/-- Offset of arena k's selected copy in its space (R203). -/
def arenaBase (x : Slot) (a : ArenaEntry) (k mode epoch : Nat) : Nat :=
  bits (x.binds.getD k 0) 51 0 + (if a.kind = 2 ∧ copyB mode epoch then a.size else 0)

/-- The address that replaces an offset in arena k (R204). -/
def arenaAddr (x : Slot) (p : Plan) (k mode epoch off : Nat) : Nat :=
  match p.arenas[k]? with
  | none => off
  | some a =>
    let o := arenaBase x a k mode epoch + off
    if a.space = 0 then 2 ^ 40 * x.table.getD a.position 0 + o
    else if a.space = 1 then 2 ^ 52 + o % 2 ^ 52
    else 2 * 2 ^ 52 + o

/-- Byte offset of the field a RELOC entry patches: BASE, SBASE, WORK. -/
def relocOffset (f : Nat) : Nat := if f = 0 then 0 else if f = 1 then 8 else 16

/-! ## Units -/

/-- The Bin a unit goes through (R19, R345): its Rick's; a Wain link's by link number / 6, the Crop Thresher's is Bin 0 (log 24). -/
def unitBin (u : Nat) : Nat :=
  if u < 16 then u / 4 else if u < 20 then u - 16 else if u < 24 then u - 20 else if u = 24 then 0 else (u - 25) / 6 % 4

/-- The issuer a unit's accesses have: a Bin, or a copy engine (R345); its writer number is the unit's. -/
def unitIssuer (s : State) (u t : Nat) : Issuer :=
  let ctx := match runningSlot s with | some n => (getSlot s n).context | none => 0
  if 49 ≤ u then ⟨.tiller t, 12 + (u - 49), u, ctx⟩ else ⟨.tiller t, unitBin u, u, ctx⟩

/-- The micro-TLB of a unit: its Rick's; copy engines use the shared one. -/
def unitTlb (u : Nat) : Option Nat := if u < 24 then some (unitBin u) else none

/-! ## Begin and completion -/

/-- The sub-operation at the head of unit u's queue, if it is of this kind and SUB code and may begin: two A-cycles after its
ISSUE, its Tiller not halted by Granger, the unit no longer occupied, the clocks running (R176). -/
def headOp (s : State) (u : Nat) (k : TKind) (sub : Nat) : Option SubOp :=
  match (getUnit s u).queue with
  | [] => none
  | o :: _ =>
    if alive s && !s.hl.gated && tillerKind o.tiller == k && subOf o.word == sub && decide (o.issued + 2 ≤ s.tick) && decide ((getUnit s u).freeTick ≤ s.tick)
        && (getTiller s o.tiller).mode != .idle then some o else none

/-- It begins: it leaves the queue, and its entry can be used from the next A-cycle. -/
def beginOp (s : State) (u : Nat) (o : SubOp) (done : Option Nat) (earliest : Nat) : State :=
  let q := getUnit s u
  setUnit s u { queue := q.queue.drop 1, begun := q.begun ++ [⟨o, done, earliest, 0⟩], lastBegin := s.tick + 1
                freed := if q.lastBegin = s.tick + 1 then q.freed + 1 else 1, freeTick := q.freeTick }

/-- It begins and its last effect falls at a known tick. -/
def beginDone (s : State) (u : Nat) (o : SubOp) (done : Nat) : State := beginOp s u o (some done) done

/-- The unit is occupied until a tick. -/
def occupy (s : State) (u tick : Nat) : State := setUnit s u { getUnit s u with freeTick := tick }

/-- Change a unit's begun sub-operation. -/
def setBegun (s : State) (u : Nat) (b b' : Begun) : State :=
  let q := getUnit s u
  setUnit s u { q with begun := q.begun.map (fun x => if x = b then b' else x) }

/-! ## Flags -/

/-- Flags and vanished elements of a step join what this member gathers for the epoch (R88, R155). -/
def noteStep (s : State) (step : Nat) (flags vanish : Nat) : State :=
  let r := look ({} : StepRec) s.crop.acc step
  let r := { r with flags := orFlags r.flags flags, vanish := satAdd32 r.vanish vanish }
  { s with crop := { s.crop with acc := put {} s.crop.acc step r } }

/-! ## Lines -/

/-- A line of a plan address: translated in space 0x1 (R397), checked (R189). -/
def planLine (s : State) (iss : Issuer) (tlb : Option Nat) (dpa : Nat) (acc : AccessKind) : Except RangeEnd LineOp × State :=
  let check (s : State) (o : LineOp) : Except RangeEnd LineOp × State :=
    match lineCheck s iss o acc with
    | .ok => (.ok o, s)
    | .refuse st row => (.error (.stop st), lineRefuse s iss o row)
  if dpaSpace dpa = 1 then
    let t := match iss.who with | .tiller t => t | _ => 63
    let r := translatePlanHost s tlb t iss.ctx dpa 64 acc
    match r.1 with
    | .ok d ty => check r.2 ⟨d, ty, planHostVa dpa⟩
    | .refuse reason st => (.error (.stop st), refuseCtx r.2 iss.ctx (planHostVa dpa) 0 reason.toNat false)
    | .parked => (.error .parked, r.2)
  else check s ⟨dpa, .wb, dpa⟩

/-- Plan lines up to the first that is refused or parks. -/
def planLines (s : State) (iss : Issuer) (tlb : Option Nat) (acc : AccessKind) : List Nat → List LineOp × RangeEnd × State
  | [] => ([], .all, s)
  | d :: rest =>
    match planLine s iss tlb d acc with
    | (.error e, s') => ([], e, s')
    | (.ok o, s') => let r := planLines s' iss tlb acc rest; (o :: r.1, r.2)

/-- Line addresses of byte ranges, each once, in order. -/
def rangeDpas (rs : List (Nat × Nat)) : List Nat :=
  (rs.flatMap (fun r => (List.range (ceilDiv (r.1 % 64 + r.2) 64)).map (fun i => 64 * (r.1 / 64 + i)))).eraseDups

/-- How a refused or parked access leaves the run: a refusal fails the plan's context (R189, R587). -/
def planStops (s : State) (e : RangeEnd) : State :=
  match e with
  | .stop st => planContained s st
  | _ => s

/-- Host requests opened since a state belong to the Tiller. -/
def claimTiller (before : State) (t : Nat) (s : State) : State :=
  let n := before.hl.hostReqs.length
  { s with hl := { s.hl with hostReqs := s.hl.hostReqs.take n ++ (s.hl.hostReqs.drop n).map (fun r => { r with who := .tiller t }) } }

/-! ## Reads -/

/-- Lines read, by their address. -/
abbrev LineMap := List (Nat × Line)

/-- The line at an address. -/
def mapLine (m : LineMap) (dpa : Nat) : Line :=
  match m.find? (fun p => p.1 == 64 * (dpa / 64)) with
  | some p => p.2
  | none => zeroLine

/-- n bytes at an address. -/
def mapBytes (m : LineMap) (dpa n : Nat) : List Byte :=
  slice (((List.range (ceilDiv (dpa % 64 + n) 64)).map (fun i => (mapLine m (64 * (dpa / 64 + i))).data)).flatten) (dpa % 64) n

/-- Address of the first uncorrectable word that a range uses. -/
def mapPoison (m : LineMap) (rs : List (Nat × Nat)) : Option Nat :=
  rs.findSome? (fun r => ((List.range (ceilDiv (r.1 % 8 + r.2) 8)).map (fun i => 8 * (r.1 / 8 + i))).find? (fun a =>
    (badWords (mapLine m a)).contains (a % 64 / 8)))

/-- What a sub-operation's reads bring: nothing yet (parked, remote lines on their way, refused), or the lines. -/
def planRead (s : State) (u : Nat) (o : SubOp) (source : Nat) (rs : List (Nat × Nat)) : Option LineMap × State :=
  let iss := unitIssuer s u o.tiller
  let ds := rangeDpas rs
  let r := planLines s iss (unitTlb u) .read ds
  match r.2.1 with
  | .all =>
    let s := r.2.2
    let missing := r.1.filter (fun x => isRemote s x.dpa && (remoteGot s iss.who x.dpa).isNone)
    if !missing.isEmpty then (none, missing.foldl (fun s x => wantRemote s iss x) s)
    else
      let g := (ds.zip r.1).foldl (fun (acc : LineMap × State) p =>
        let x : Line × State := if isRemote acc.2 p.2.dpa then ((remoteGot acc.2 iss.who p.2.dpa).getD poisonLine, acc.2) else lineGet acc.2 iss p.2
        (acc.1 ++ [(p.1, x.1)], x.2)) ([], s)
      let s := claimTiller s o.tiller g.2
      match mapPoison g.1 rs with
      | some a => (none, raiseReplayed s source u a iss.ctx.toNat 0)
      | none => (some g.1, s)
  | e => (none, planStops r.2.2 e)

/-! ## Writes -/

/-- The part of a line that byte runs cover: data and mask, later runs over earlier ones. -/
def lineCover (ws : List (Nat × List Byte)) (dpa : Nat) : List Byte × Nat :=
  ws.foldl (fun (acc : List Byte × Nat) w =>
    let lo := max w.1 dpa
    let hi := min (w.1 + w.2.length) (dpa + 64)
    if hi ≤ lo then acc
    else (splice acc.1 (lo - dpa) (slice w.2 (lo - w.1) (hi - lo)), acc.2 ||| byteMask (lo - dpa) (hi - lo))) (List.replicate 64 0, 0)

/-- Write byte runs in ascending order of their listing: nothing yet (parked, or remote lines still to be sent), or the state
after; stores before a refused one are performed, remote ones sent (R303, R378). -/
def planWrite (s : State) (u : Nat) (o : SubOp) (ws : List (Nat × List Byte)) : Option State × State :=
  let iss := unitIssuer s u o.tiller
  let ds := rangeDpas (ws.map (fun w => (w.1, w.2.length)))
  let r := planLines s iss (unitTlb u) .write ds
  let pairs := ds.zip r.1
  let put (s : State) : State := claimTiller s o.tiller (pairs.foldl (fun s p =>
    if isRemote s p.2.dpa then s else let c := lineCover ws p.1; linePut s iss p.2 c.1 c.2) s)
  let send (s : State) : State := pairs.foldl (fun s p =>
    if isRemote s p.2.dpa then let c := lineCover ws p.1; putRemote s iss p.2 c.1 c.2 else s) s
  match r.2.1 with
  | .parked => (none, r.2.2)
  | .stop st => (none, planContained (put (send r.2.2)) st)
  | .all =>
    let s := send r.2.2
    if pairs.any (fun p => isRemote s p.2.dpa && !(getTask s iss.who).sent.contains (p.2.dpa / 64)) then (none, s)
    else (some (put s), s)

/-- Read, compute and write as one sub-operation: it begins when both sides go through. `f` gives the runs to write and the
flags and vanished elements; `times` the tick of its last effect and the tick until which it occupies its unit; `fin` what else it
changes. -/
def planOp (s : State) (u : Nat) (o : SubOp) (source : Nat) (rs : List (Nat × Nat))
    (f : LineMap → List (Nat × List Byte) × Nat × Nat) (times : State → Nat × Nat) (fin : LineMap → State → State) : State :=
  match planRead s u o source rs with
  | (none, s) => s
  | (some m, s) =>
    let w := f m
    match planWrite s u o w.1 with
    | (none, s) => s
    | (some s, _) =>
      let s := endTask s (.tiller o.tiller)
      fin m (occupy (beginDone (noteStep s o.step w.2.1 w.2.2) u o (times s).1) u (times s).2)

/-! ## Runs -/

/-- Byte range of a run's elements (R57, R173). -/
def runRange (g : Agen) : Nat × Nat := (runAddr g % 2 ^ 56, rowBytes (elemBits (dFmt g.desc)) (dRun g.desc))

/-- Byte range of a run's scales (R58, R173). -/
def runScales (g : Agen) : List (Nat × Nat) :=
  if dSch g.desc = 0 then [] else [(runSaddr g % 2 ^ 56, dRun g.desc / blockLen (dSch g.desc) * scaleBytes (dSch g.desc))]

/-- The generator a sub-operation drew as its k-th. -/
def opAg (o : SubOp) (k : Nat) : Agen := o.ags.getD k (agLoad [])

/-- Element codes of a run. -/
def runCodes (m : LineMap) (g : Agen) : List Nat :=
  let w := elemBits (dFmt g.desc)
  let r := runRange g
  let bs := mapBytes m r.1 r.2
  (List.range (dRun g.desc)).map (rowElem bs w)

/-- Scale and offset bytes of a run's block b. -/
def runScale (m : LineMap) (g : Agen) (b : Nat) : Byte × Byte :=
  let a := runSaddr g % 2 ^ 56 + b * scaleBytes (dSch g.desc)
  ((mapBytes m a 1).getD 0 0, if dSch g.desc = 2 then (mapBytes m (a + 1) 1).getD 0 0 else 0)

/-- Values of a run's elements (R56). -/
def runVals (m : LineMap) (g : Agen) : List Val :=
  let cs := runCodes m g
  let d := g.desc
  (List.range cs.length).map (fun i =>
    let b := i / blockLen (dSch d)
    let x := if dSch d = 0 then (0, 0) else runScale m g b
    decodeScaled (dFmt d) (dSch d) (cs.getD i 0) x.1 x.2 (i % blockLen (dSch d)))

/-- The blocks of a run (R50, R51). -/
def runBlocks (m : LineMap) (g : Agen) : List Block :=
  let cs := runCodes m g
  let n := blockLen (dSch g.desc)
  (List.range (dRun g.desc / n)).map (fun b => let x := runScale m g b; ⟨x.1, x.2, (cs.drop (n * b)).take n⟩)

/-- SR_SEED of a plan step (R141, R199). -/
def stepSeed (s : State) (step : Nat) : W64 :=
  match runningSlot s with
  | some n => match (getSlot s n).plan with
    | some p => match p.steps[step]? with | some e => e.seed | none => 0
    | none => 0
  | none => 0

/-- The draw of R139 for an element, where the rounding is stochastic. -/
def srDraw (s : State) (step : Nat) (d : List Byte) (elem : Nat) : Nat :=
  if dRnd d = rndSR then awnBits (stepSeed s step) (BitVec.ofNat 32 (dTensor d)) elem else 0

/-- Compatibility order of the plan that runs (R85). -/
def runOrder (s : State) : Bool := match runningSlot s with | some n => (getSlot s n).orderV1 | none => false

end Sys2Proof.Machine
end

