-- ==== Sys2Proof/Machine/SheafOps.lean ====
section
/-!
DEFINITION. Sheaves: weight tiles, passes, accumulator regions (R92 to R117, R179 to R182, R585).
-/
namespace Sys2Proof.Machine

/-! ## Tiles -/

/-- A-cycles of a step for a format (R93, R94). -/
def stepCycles (fmt : Nat) : Nat := if fmt = 0 then 16 else if fmt = 1 then 4 else if fmt = 2 then 2 else 1

/-- Weight and scale bytes of one cell column (R93, R94). -/
def columnBytes (fmt sch lanes : Nat) : Nat := 256 * lanes * (if fmt = 2 then 32 else elemBits fmt) / 8 + (if sch = 0 then 0 else 8 * lanes)

/-- One weight row of a tile, from the run that holds it (R96). -/
def weightRow (codes : List Nat) (blocks : List Block) : WeightRow :=
  ⟨codes, blocks.map (fun b => b.scale), blocks.map (fun b => b.offs)⟩

/-- The blocks of a weight row. -/
def rowBlocks (sch : Nat) (r : WeightRow) : List Block :=
  let n := blockLen sch
  (List.range (r.codes.length / n)).map (fun b => ⟨r.scales.getD b 0, r.offsets.getD b 0, (r.codes.drop (n * b)).take n⟩)

/-- The weight row of output column n; a buffer that no LOAD has filled holds zeros (R113; log 15). -/
def tileRow (t : Tile) (n : Nat) : WeightRow := t.rows.getD n ⟨List.replicate t.len 0, [], []⟩

/-- The weight registers of the 256 cells of column c: lane l's weight in the bits from 8 l up (R95). -/
def columnRegs (t : Tile) (c : Nat) : List Nat :=
  (List.range t.lanes).foldl (fun vs l => vs.zipWith (fun v x => v + 2 ^ (8 * l) * x) ((tileRow t (c + 256 * l)).codes ++ List.replicate 256 0))
    (List.replicate 256 0)

/-- The parity bits of the weight registers of column c (R114). -/
def columnParity (t : Tile) (c : Nat) : List Bool := (columnRegs t c).map oddOnes

/-- The parity bits of a tile's weight registers, column by column (R114). -/
def tileParity (t : Tile) : List (List Bool) := (List.range 256).map (columnParity t)

/-- No weight register has a parity error (R114); the registers of a buffer that no LOAD has filled hold 0 with a parity bit of 0. -/
def tileSound (t : Tile) : Bool :=
  (List.range 256).all (fun c => t.parity.getD c (List.replicate 256 false) == columnParity t c)

/-- The tick at which the last column of a tile is loaded (R104). -/
def tileLast (t : Tile) : Nat :=
  let b := columnBytes t.fmt t.sch t.lanes
  max (t.begun + ceilDiv (256 * b) 512 - 1) (t.freed + 255 * t.freedStep + ceilDiv b 512 - 1)

/-- The first tick at which a pass with steps of a A-cycles may start on a tile (R104): column c is loaded before the first row reaches it,
and the pass starts at least R + R_min steps after the pass that used the buffer. -/
def tileReady (t : Tile) (a : Nat) : Nat :=
  let b := columnBytes t.fmt t.sch t.lanes
  max (t.freed + t.freedStep) (max (t.begun + ceilDiv b 512) (max (t.begun + ceilDiv (256 * b) 512 - 255 * a)
    (t.freed + 255 * t.freedStep + ceilDiv b 512 - 255 * a)))

/-- The buffer that the k-th tile uses, and when its columns are free (R103, R180). -/
def bufOf (sh : Sheaf) (k : Nat) : Tile := if k % 2 = 1 then sh.buf1 else sh.buf0
def bufFree (sh : Sheaf) (k : Nat) : Nat × Nat := if k % 2 = 1 then (sh.freeAt1, sh.freeStep1) else (sh.freeAt0, sh.freeStep0)

/-- The k-th tile begins to load now (R104): one tile at a time, no column before it is free. -/
def fillBuf (sh : Sheaf) (k now : Nat) (t : Tile) : Sheaf :=
  let f := bufFree sh k
  let t := { t with parity := tileParity t, begun := max now (max sh.fillFree f.1), freed := f.1, freedStep := f.2 }
  let sh := { sh with fillFree := tileLast t + 1 }
  if k % 2 = 1 then { sh with buf1 := t } else { sh with buf0 := t }

/-- LOAD: buffer k mod 2 takes the tile of the k-th LOAD (R179, R180). -/
def execLoadTile (sheaf : Nat) (s : State) : Host.Outcome State Fault Refusal :=
  match headOp s sheaf .feed 0 with
  | none => .next s
  | some o =>
    let g := opAg o 0
    let lanes := lanesOf (field o.word 15 14)
    let runs := (List.range (256 * lanes)).map (agRun g)
    let rs := runs.flatMap (fun r => runRange r :: runScales r)
    match planRead s sheaf o srcPoisonUse rs with
    | (none, s) => .next s
    | (some m, s) =>
      let s := endTask s (.tiller o.tiller)
      let sh := getSheaf s sheaf
      let d := g.desc
      let rows := (List.range (256 * lanes)).map (fun n =>
        let r := agRun g ((n % 256) * lanes + n / 256)
        weightRow (runCodes m r) (if dSch d = 0 then [] else runBlocks m r))
      let sh := fillBuf sh sh.loads s.tick { fmt := dFmt d, sch := dSch d, lanes := lanes, kblk := field o.word 39 24
                                             len := field o.word 23 16 + 1, rows := rows }
      .next (setSheaf (beginDone s sheaf o (tileLast (bufOf sh sh.loads))) sheaf { sh with loads := sh.loads + 1 })

/-! ## Regions -/

/-- Byte address of entry j of the stack of element e (R585). -/
def entryAddr (r : Region) (e j : Nat) : Nat := 1024 * r.rbase + (e * r.depth + j) * accBytes r.acc

/-- An entry of the store as it is read: its word corrected (R106, R114). -/
def storeEntry (st : Ram) (addr acc : Nat) : Nat :=
  eccData (ramWord st (addr / 8)) / 2 ^ (8 * (addr % 8)) % 2 ^ (8 * accBytes acc)

/-- An entry of the store written, with the check bits of its word. -/
def putEntry (st : Ram) (addr acc v : Nat) : Ram :=
  let n := accBytes acc
  let x := ramWord st (addr / 8)
  ramPutWord st (addr / 8) (mergeWord x (2 ^ (8 * (addr % 8)) * (v % 2 ^ (8 * n))) (2 ^ (addr % 8) * (2 ^ n - 1)))

/-- The words that entries at some addresses lie in, each once. -/
def storeWords (st : Ram) (addrs : List Nat) : List (Nat × Nat) := ((addrs.map (fun a => a / 8)).eraseDups).map (ramWord st)

/-- Words of Sheaf n's store are read: each one corrected is logged (R114). -/
def entryNote (s : State) (n : Nat) (ws : List (Nat × Nat)) : State :=
  (ws.filter eccFixed).foldl (fun s x => logError s clsCorrected srcAccStore n 0 0 (syndrome x)) s

/-- Sheaf n's store is read at some addresses (R114): every word corrected is logged; an uncorrectable one raises an error of class
REPLAYED and nothing else happens. -/
def readEntries (s : State) (n : Nat) (addrs : List Nat) (k : State → State) : State :=
  let ws := storeWords (getSheaf s n).store addrs
  if ws.any eccBad then raiseReplayed s srcAccStore n 0 0 0 else k (entryNote s n ws)

/-- Entries on each element's stack of a region now; a chained one starts with its running value (R86). -/
def regionCount (v1 : Bool) (r : Region) : Nat := if v1 && r.chained then 1 else stackCount v1 r.lo (r.lo + r.pushes)

/-- Stack of element e, bottom first. -/
def stackVals (st : Ram) (r : Region) (v1 : Bool) (e : Nat) : List Nat :=
  (List.range (regionCount v1 r)).map (fun j => storeEntry st (entryAddr r e j) r.acc)

/-- Addresses of every entry of a region's stacks. -/
def regionEntries (v1 : Bool) (r : Region) : List Nat :=
  (List.range r.ecount).flatMap (fun e => (List.range (regionCount v1 r)).map (entryAddr r e))

/-- Addresses of the entries that the next push merges with, which are the ones it reads. -/
def pushReads (v1 : Bool) (r : Region) : List Nat :=
  let n := regionCount v1 r
  let left := if v1 then 0 else (stackShape r.lo (r.lo + r.pushes + 1)).length - 1
  (List.range r.ecount).flatMap (fun e => (List.range (n - left)).map (fun j => entryAddr r e (left + j)))

/-- The stack after one node is pushed, bottom first, with the flags raised (R83, R85). -/
def pushVals (v1 : Bool) (op : Nat → Nat → Flagged) (lo next : Nat) (vals : List Nat) (n : Node) : List Nat × Nat :=
  if v1 then let x := seqNext op vals.head? n.value; ([x.1], x.2)
  else let p := pushNode op (stackFrom lo next vals.reverse) n; (p.1.reverse.map (fun k => k.value), p.2)

/-- The new top of an element's stack is written. -/
def putTop (st : Ram) (r : Region) (e : Nat) (vals : List Nat) : Ram :=
  putEntry st (entryAddr r e (vals.length - 1)) r.acc (vals.getLast?.getD 0)

/-- Push one value per element into a region (R97, R109, R585). -/
def pushRegion (st : Ram) (r : Region) (v1 : Bool) (val : Nat → Flagged) : Ram × Nat :=
  (List.range r.ecount).foldl (fun (acc : Ram × Nat) e =>
    let x := val e
    let next := r.lo + r.pushes
    let p := pushVals v1 (addAcc r.acc) r.lo next (stackVals acc.1 r v1 e) ⟨0, next, x.1⟩
    (putTop acc.1 r e p.1, acc.2 ||| x.2 ||| p.2)) (st, 0)

/-- finish() on every element: the final values stand at entry 0 (R83, R110). -/
def finishRegion (st : Ram) (r : Region) (v1 : Bool) : Ram × Nat :=
  (List.range r.ecount).foldl (fun (acc : Ram × Nat) e =>
    let next := r.lo + r.pushes
    let x := finishStack (addAcc r.acc) (stackFrom r.lo next (stackVals acc.1 r v1 e).reverse)
    if v1 then acc else (putEntry acc.1 (entryAddr r e 0) r.acc x.1, acc.2 ||| x.2)) (st, 0)

/-- One output of a pass: the K-block's sum for an activation row and a weight row (R80, R97 to R99). -/
def passNode (acc afmt : Nat) (codes : List Nat) (blocks : List Block) (t : Tile) (n : Nat) : Flagged :=
  let w := tileRow t n
  (if t.sch = 0 then kblockPlain acc afmt t.fmt codes w.codes {} else kblockScaled acc t.sch afmt t.fmt blocks (rowBlocks t.sch w) {}).result

/-- The region a descriptor entry claims (R182). -/
def regionFrom (d : List Byte) (step : Nat) : Region :=
  { rbase := gRbase d, acc := gAcc d, depth := gDepth d, ecount := gEcount d, lo := gLo d, nblk := gNblk d, sigt := gSigt d
    sigc := gSigc d, finish := gFinish d, pushes := 0, finished := false, flags := 0, step := step, voids := [] }

/-- Replace a region of a Sheaf by its new state. -/
def setRegion (sh : Sheaf) (r : Region) : Sheaf := { sh with regions := sh.regions.map (fun x => if x.rbase = r.rbase then r else x) }

/-- The region entry a feed sub-operation names. -/
def opRegion (s : State) (o : SubOp) : List Byte := tillerDesc (getTiller s o.tiller) (field o.word 39 32)

/-- The descriptor entry at [39:32] of a sub-operation is read from its Tiller's table (R158). -/
def readOpEntry (s : State) (o : SubOp) (k : State → State) : State :=
  readStore s o.tiller (descStored (getTiller s o.tiller) (field o.word 39 32)) k

/-! ## Stacks in the Loft (R184) -/

/-- Address of entry j of element e of a reduction's stacks in the Loft (R184). -/
def workAddr (r : Reduction) (e j : Nat) : Nat := r.work + (e * r.depth + j) * accBytes r.acc

/-- Entries in use: what push() leaves after the range so far (R109, R124). -/
def redCount (r : Reduction) (v1 : Bool) : Nat := stackCount v1 r.nlo r.next

/-- Byte ranges of the stacks in use: at most DEPTH entries to an element (R184). -/
def workRanges (r : Reduction) (v1 : Bool) : List (Nat × Nat) :=
  let n := min (redCount r v1) r.depth
  if n = 0 then [] else (List.range r.ecount).map (fun e => (workAddr r e 0, n * accBytes r.acc))

/-- Stack of element e, bottom first. An entry beyond DEPTH has no place in WORK and reads as a free value (log 33). -/
def workVals (m : LineMap) (r : Reduction) (v1 : Bool) (e : Nat) : List Nat :=
  (List.range (redCount r v1)).map (fun j =>
    if j < r.depth then leNat (mapBytes m (workAddr r e j) (accBytes r.acc))
    else Config.workSpill e j % 2 ^ (8 * accBytes r.acc))

/-! ## OPEN, FREE -/

/-- A later range of several K-blocks is chained under ORDER_V1 (R86); one block is a partial sum of R85. -/
def isChained (v1 : Bool) (r : Region) : Bool := v1 && r.lo != 0 && r.nblk != 1

/-- The reduction of the Sheaf's Rick that holds the running values up to a region's first K-block (log 28). -/
def chainFrom (s : State) (sheaf : Nat) (r : Region) : Option Reduction :=
  s.reds.find? (fun q => q.rick == sheaf / 4 && q.kind == 0 && q.next == r.lo && q.acc == r.acc && q.ecount == r.ecount)

/-- The store with every element's stack started from its running value. -/
def chainStore (st : Ram) (r : Region) (m : LineMap) (q : Reduction) : Ram :=
  (List.range r.ecount).foldl (fun st e => putEntry st (entryAddr r e 0) r.acc ((workVals m q true e).headD 0)) st

/-- OPEN: the region is claimed and its push counter is zero (R179, R107); a chained one takes its running values from the Thresher
(R86). -/
def execOpenRegion (sheaf : Nat) (s : State) : Host.Outcome State Fault Refusal :=
  match headOp s sheaf .feed 2 with
  | none => .next s
  | some o => .next (readOpEntry s o (fun s =>
    let r := regionFrom (opRegion s o) o.step
    if !isChained (runOrder s) r then
      let sh := getSheaf s sheaf
      setSheaf (beginDone s sheaf o s.tick) sheaf { sh with regions := sh.regions ++ [r] }
    else match chainFrom s sheaf r with
      | none => s
      | some q =>
        match planRead s sheaf o srcNodeSet (workRanges q true) with
        | (none, s) => s
        | (some m, s) =>
          let s := endTask s (.tiller o.tiller)
          let sh := getSheaf s sheaf
          setSheaf (beginDone s sheaf o s.tick) sheaf
            { sh with store := chainStore sh.store r m q, regions := sh.regions ++ [{ r with chained := true }] }))

/-- FREE: the region's claim ends (R179). -/
def execFreeRegion (sheaf : Nat) (s : State) : Host.Outcome State Fault Refusal :=
  match headOp s sheaf .feed 3 with
  | none => .next s
  | some o => .next (readOpEntry s o (fun s =>
    let sh := getSheaf s sheaf
    let base := gRbase (opRegion s o)
    setSheaf (beginDone s sheaf o s.tick) sheaf { sh with regions := sh.regions.filter (fun r => r.rbase != base) }))

/-! ## PASS -/

/-- The last write of a pass of n rows that starts now (R102), without holds. -/
def passSpan (a n : Nat) : Nat := (n + 510) * a + a - 1

/-- A hold of k A-cycles freezes the cells of a Sheaf (R117): what is still draining, PASSes of the plan and of the engine port, ends
later, and the columns it frees are free later. -/
def freezeSheaf (s : State) (n k : Nat) : State :=
  let now := s.tick
  let late (t : Nat) : Nat := if now < t then t + k else t
  let u := getUnit s n
  let s := setUnit s n { u with begun := u.begun.map (fun b => if subOf b.op.word = 1 then { b with doneTick := b.doneTick.map late } else b) }
  let x (a : Attach) : Attach := { a with outstanding := a.outstanding.map (fun o =>
    if o.sheaf = some n ∧ o.pass then { o with due := o.due.map late } else o) }
  let s := { s with ep := { s.ep with atts := s.ep.atts.map (fun a => (a.1, x a.2)) } }
  let sh := getSheaf s n
  let g (r : Region) : Region := { r with passEnd := late r.passEnd }
  setSheaf s n { sh with
    freeAt0 := late sh.freeAt0, freeAt1 := late sh.freeAt1, regions := sh.regions.map g, portRegion := sh.portRegion.map g
    buf0 := { sh.buf0 with freed := late sh.buf0.freed }, buf1 := { sh.buf1 with freed := late sh.buf1.freed } }

/-- Ticks of a pass that has started: its input port, its buffer, and the steps of its columns (R102, R104). -/
def passTimes (sh : Sheaf) (k now a n hold : Nat) : Sheaf :=
  let free := now + (n + 255) * a + hold
  let sh := { sh with portFree := now + n * a + hold }
  if k % 2 = 1 then { sh with freeAt1 := free, freeStep1 := a } else { sh with freeAt0 := free, freeStep0 := a }

/-- The PASSes that begin together with the one at the head of a Sheaf's queue: alone, or with those of the Sheaves in its SHARE mask once
each has a PASS of that mask and row count at its head (R183). -/
def passOps (s : State) (sheaf : Nat) : Option (List (Nat × SubOp)) :=
  match headOp s sheaf .feed 1 with
  | none => none
  | some o =>
    let mask := field o.word 15 12
    if mask = 0 then some [(sheaf, o)]
    else
      let ns := ((List.range 4).filter (fun i => mask.testBit i)).map (fun i => 4 * (sheaf / 4) + i)
      let ps := ns.filterMap (fun n => (headOp s n .feed 1).map (fun p => (n, p)))
      if ps.length = ns.length ∧ ps.all (fun p => field p.2.word 31 12 == field o.word 31 12) then some ps else none

/-- Runs of a PASS, one to a row. -/
def passRuns (o : SubOp) : List Agen := (List.range (field o.word 31 16 + 1)).map (agRun (opAg o 0))

/-- The open region a PASS names. -/
def passTarget (s : State) (p : Nat × SubOp) : Option Region :=
  (getSheaf s p.1).regions.find? (fun r => r.rbase == gRbase (opRegion s p.2))

/-- A-cycles of a pass's step: the longer of its operands' (R94). -/
def pairStep (afmt wfmt : Nat) : Nat := max (stepCycles afmt) (stepCycles wfmt)

/-- A PASS may begin: its region is open, its tile's LOAD has been made, the input port is free and its first row may enter (R104, R180). -/
def passMay (s : State) (p : Nat × SubOp) : Bool :=
  let sh := getSheaf s p.1
  let t := bufOf sh sh.passes
  (passTarget s p).isSome && decide (sh.passes < sh.loads) && decide (sh.portFree ≤ s.tick)
    && decide (tileReady t (pairStep (dFmt (opAg p.2 0).desc) t.fmt) ≤ s.tick)

/-- A-cycles for which the entry of a pass's first row was held for a column not yet loaded (R104, R117). -/
def passWait (s : State) (p : Nat × SubOp) : Nat :=
  let sh := getSheaf s p.1
  let t := bufOf sh sh.passes
  min s.tick (tileReady t (pairStep (dFmt (opAg p.2 0).desc) t.fmt)) - max sh.portFree (p.2.issued + 2)

/-- One Sheaf's part of a PASS: every element of the region takes one node (R97, R102, R585). -/
def runPass (m : LineMap) (hold : Nat) (s : State) (p : Nat × SubOp) : State :=
  match passTarget s p with
  | none => s
  | some r =>
    let o := p.2
    let sh := getSheaf s p.1
    let t := bufOf sh sh.passes
    let g := opAg o 0
    let n := field o.word 31 16 + 1
    let width := 256 * t.lanes
    let val (e : Nat) : Flagged :=
      if e / width < n then
        let x := agRun g (e / width)
        passNode r.acc (dFmt g.desc) (runCodes m x) (if t.sch = 0 then [] else runBlocks m x) t (e % width)
      else (0, 0)
    let q := pushRegion sh.store r (runOrder s) val
    let a := pairStep (dFmt g.desc) t.fmt
    let done := s.tick + passSpan a n + hold
    let w := passWait s p
    let s := freezeSheaf s p.1 hold
    let sh := getSheaf s p.1
    let r' := { r with pushes := r.pushes + 1, flags := orFlags r.flags q.2, step := o.step, passEnd := done }
    let sh := setRegion { sh with store := q.1, passes := sh.passes + 1, hold := satAdd32 sh.hold (hold + w) } r'
    setSheaf (noteStep (beginDone s p.1 o done) o.step q.2 0) p.1 (passTimes sh (sh.passes - 1) s.tick a n hold)

/-- Entries that a PASS reads. -/
def passReads (s : State) (p : Nat × SubOp) : List Nat := ((passTarget s p).map (pushReads (runOrder s))).getD []

/-- The checks of R114 and R158 for every Sheaf of a PASS, before it begins. -/
def passChecked : List (Nat × SubOp) → State → (State → State) → State
  | [], s, k => k s
  | p :: rest, s, k => readOpEntry s p.2 (fun s =>
    let sh := getSheaf s p.1
    if !tileSound (bufOf sh sh.passes) then raiseReplayed s srcAccStore p.1 0 0 0
    else readEntries s p.1 (passReads s p) (fun s => passChecked rest s k))

/-- PASS: rows stream through the oldest tile (R97, R102, R179, R180). A shared one begins in every Sheaf of its mask in the same step,
each line read once, one hold for all; unlike run addresses are an error of class REPLAYED (R116, R183). -/
def execPassRows (sheaf : Nat) (s : State) : Host.Outcome State Fault Refusal :=
  match passOps s sheaf with
  | none => .next s
  | some ps =>
    if !ps.all (passMay s) then .next s
    else
      let at_ (p : Nat × SubOp) : List Nat := (passRuns p.2).map runAddr
      match ps with
      | [] => .next s
      | p :: _ =>
        if ps.any (fun q => at_ q != at_ p) then .next (raiseReplayed s srcSignal sheaf 0 (unitIssuer s sheaf p.2.tiller).ctx.toNat 0)
        else
          match planRead s sheaf p.2 srcPoisonUse (ps.flatMap (fun q => (passRuns q.2).flatMap (fun x => runRange x :: runScales x))) with
          | (none, s) => .next s
          | (some m, s) => .next (passChecked ps s (fun s =>
              let f := freshFree (endTask s (.tiller p.2.tiller))
              ps.foldl (runPass m (Config.passHold f.1)) f.2))

/-! ## The end of a region -/

/-- A-cycles finish() takes (R110): 256 four-byte or 128 eight-byte elements per A-cycle and level; a stack of n entries takes n − 1
levels, and hand-off entries take none (log 51). -/
def finishTime (r : Region) (v1 : Bool) : Nat :=
  if r.finish then (regionCount v1 r - 1) * ceilDiv r.ecount (if r.acc = 0 then 128 else 256) else 0

/-- REGION_FINISH: a region whose range is complete is finished, or its hand-off entries are offered, and SIGT is signalled one A-cycle
after the last push or the last level (R110, R182; log 51). -/
def execRegionFinish (sheaf rbase : Nat) (s : State) : Host.Outcome State Fault Refusal :=
  match (getSheaf s sheaf).regions.find? (fun r => r.rbase == rbase) with
  | none => .next s
  | some r =>
    if r.finished || r.pushes != r.nblk || decide (s.tick < r.passEnd + finishTime r (runOrder s) + 1) then .next s
    else .next (readEntries s sheaf (if r.finish then regionEntries (runOrder s) r else []) (fun s =>
      let sh := getSheaf s sheaf
      let p : Ram × Nat := if r.finish then finishRegion sh.store r (runOrder s) else (sh.store, 0)
      let sh := setRegion { sh with store := p.1 } { r with finished := true, flags := orFlags r.flags p.2 }
      let s := noteStep (setSheaf s sheaf sh) r.step p.2 0
      if r.sigt = 63 then s else signalAdd s r.sigt r.sigc 1))

end Sys2Proof.Machine
end

