-- ==== Sys2Proof/Machine/ThresherOps.lean ====
section
/-!
DEFINITION. The Thresher (R120 to R130, R184) and the Winnower (R131 to R155, R185) as their sub-operations drive them.
-/
namespace Sys2Proof.Machine

/-! ## Reductions -/

/-- The reduction a descriptor entry names, empty (R184). -/
def reductionFrom (rick red : Nat) (d : List Byte) : Reduction :=
  { rick := rick, red := red, tensor := rTensor d, elem0 := rElem0 d, ecount := rEcount d, acc := rAcc d, kind := rKind d
    depth := rDepth d, work := rWork d, nlo := rNlo d, nhi := rNhi d, next := rNlo d, flags := 0 }

/-- The reduction a Thresher sub-operation names: in progress, or empty. -/
def opReduction (s : State) (o : SubOp) : Reduction :=
  let rick := o.tiller - 16
  let red := field o.word 39 32
  match s.reds.find? (fun r => r.rick == rick && r.red == red) with
  | some r => r
  | none => reductionFrom rick red (tillerDesc (getTiller s o.tiller) red)

/-- Store a reduction's progress. -/
def setReduction (s : State) (r : Reduction) : State :=
  { s with reds := s.reds.filter (fun x => !(x.rick == r.rick && x.red == r.red)) ++ [r] }

/-- NSEND and RFIN empty a reduction. -/
def dropReduction (s : State) (r : Reduction) : State :=
  { s with reds := s.reds.filter (fun x => !(x.rick == r.rick && x.red == r.red)) }

/-- KNODE under ORDER_V1 keeps one running value (R85, R86). -/
def redV1 (s : State) (r : Reduction) : Bool := runOrder s && r.kind == 0

/-- Push the nodes of a set, in ascending order, onto one element's stack that covers NLO to next − 1. -/
def pushNodes (v1 : Bool) (op : Nat → Nat → Flagged) (nlo next : Nat) (vals : List Nat) (ns : List Node) : List Nat × Nat :=
  if v1 then ns.foldl (fun (acc : List Nat × Nat) n => let x := seqNext op acc.1.head? n.value; ([x.1], acc.2 ||| x.2)) (vals, 0)
  else
    let st := ns.foldl (fun (acc : List Node × Nat) n => let p := pushNode op acc.1 n; (p.1, acc.2 ||| p.2)) (stackFrom nlo next vals.reverse, 0)
    (st.1.reverse.map (fun k => k.value), st.2)

/-- Every element's stack after a push, and the flags; values that stand for the whole range so far replace the stacks (R86). -/
def pushAll (m : LineMap) (r : Reduction) (v1 whole : Bool) (sets : Nat → List Node) : List (List Nat) × Nat :=
  let xs := (List.range r.ecount).map (fun e =>
    pushNodes v1 (kindOp r.kind r.acc) r.nlo r.next (if whole then [] else workVals m r v1 e) (sets e))
  (xs.map (fun x => x.1), xs.foldl (fun f x => f ||| x.2) 0)

/-- The stack writes of a push: the first DEPTH entries of each element. -/
def stackWrites (r : Reduction) (vals : List (List Nat)) : List (Nat × List Byte) :=
  (List.range vals.length).map (fun e => (workAddr r e 0, ((vals.getD e []).take r.depth).flatMap (toLE (accBytes r.acc))))

/-- Tick of the last effect of a Thresher sub-operation of so many combinations that begins now, until which it occupies the unit: at most
256 of four bytes or 128 of eight bytes in an A-cycle (R123). -/
def combTimes (acc count : Nat) (s : State) : Nat × Nat :=
  let t := s.tick + ceilDiv count (if acc = 0 then 128 else 256)
  (t, t)

/-- Carry out a push of one set up to hi: FLAGS and the flags of its combinations join the reduction's (R128). -/
def pushSet (s : State) (u : Nat) (o : SubOp) (r : Reduction) (whole : Bool) (rs : List (Nat × Nat)) (hi count : Nat)
    (sets : LineMap → (Nat → List Node) × Nat) : State :=
  let v1 := redV1 s r
  planOp s u o srcNodeSet (rs ++ (if whole then [] else workRanges r v1))
    (fun m => let q := sets m; let p := pushAll m r v1 whole q.1; (stackWrites r p.1, q.2 ||| p.2, 0))
    (combTimes r.acc count)
    (fun m s => let q := sets m; let p := pushAll m r v1 whole q.1; setReduction s { r with next := hi, flags := orFlags r.flags (q.2 ||| p.2) })

/-! ## Node sets -/

/-- The header of a node set (R124). -/
structure SetHead where
  tensor : Nat
  lo : Nat
  hi : Nat
  elem0 : Nat
  ecount : Nat
  acc : Nat
  kind : Nat
  flags : Nat
deriving DecidableEq, Repr

/-- Header from its 32 bytes. -/
def parseHead (b : List Byte) : SetHead :=
  ⟨fieldLE b 0 4, fieldLE b 4 4, fieldLE b 8 4, fieldLE b 12 4, fieldLE b 16 4, fieldLE b 20 1, fieldLE b 21 1, fieldLE b 22 1⟩

/-- The 32 bytes of a header. -/
def headBytes (h : SetHead) : List Byte :=
  toLE 4 h.tensor ++ toLE 4 h.lo ++ toLE 4 h.hi ++ toLE 4 h.elem0 ++ toLE 4 h.ecount ++ toLE 1 h.acc ++ toLE 1 h.kind
    ++ toLE 1 h.flags ++ List.replicate 9 0

/-- A set is the one its reduction takes at this turn, given the ends that the plan's set may have, any where the plan gives none (R126,
R127). -/
def headOk (r : Reduction) (ends : Option (List Nat)) (h : SetHead) : Bool :=
  h.tensor == r.tensor && h.lo == r.next && decide (h.lo < h.hi) && decide (h.hi ≤ r.nhi)
  && (match ends with | none => true | some es => es.contains h.hi) && h.elem0 == r.elem0
  && h.ecount == r.ecount && h.acc == r.acc && h.kind == r.kind

/-- The ends of the sets from lo on that the plan's programs place at an address in the current epoch (R127; log 53); none at a place
where no program leaves a set (log 52). -/
def plannedEnds (s : State) (addr lo : Nat) : Option (List Nat) :=
  match runningSlot s with
  | none => none
  | some n =>
    let x := getSlot s n
    match x.plan with
    | none => none
    | some p =>
      let here := p.sets.filter (fun q => arenaAddr x p q.arena q.mode x.epoch.toNat q.offset == addr)
      if here.isEmpty then none else some ((here.filter (fun q => q.lo == lo)).map (fun q => q.hi))

/-- Nodes of one element of a set, bottom first, from its values. -/
def setNodes (v1 : Bool) (lo hi : Nat) (vals : List Nat) : List Node :=
  if v1 then vals.map (fun v => ⟨0, lo, v⟩) else (stackFrom lo hi vals.reverse).reverse

/-- A set that does not fit its turn is discarded, and the run replays (R127). -/
def setMismatch (s : State) (u : Nat) (o : SubOp) (addr : Nat) : State :=
  raiseReplayed (beginDone s u o s.tick) srcNodeSet (u - 16) addr (unitIssuer s u o.tiller).ctx.toNat 0

/-- NPUSH of a set in memory. -/
def npushMemory (s : State) (u : Nat) (o : SubOp) (r : Reduction) : State :=
  let a := runAddr (opAg o 0) % 2 ^ 56
  let v1 := redV1 s r
  match planRead s u o srcNodeSet [(a, 32)] with
  | (none, s) => s
  | (some m, s) =>
    let h := parseHead (mapBytes m a 32)
    if !headOk r (plannedEnds s a r.next) h then setMismatch s u o a
    else
      let n := stackCount v1 h.lo h.hi
      let w := accBytes r.acc
      pushSet s u o r false [(a, 32 + n * w * h.ecount)] h.hi (n * h.ecount) (fun m =>
        (fun e => setNodes v1 h.lo h.hi ((List.range n).map (fun j => leNat (mapBytes m (a + 32 + (e * n + j) * w) w))), h.flags % 64))

/-- NPUSH of the hand-off entries of a store region, with the header the region implies. The values of a chained region stand for every
K-block up to its last (R86). -/
def npushStore (s : State) (u : Nat) (o : SubOp) (r : Reduction) : State :=
  let g := opAg o 0
  let v1 := redV1 s r
  let sh := getSheaf s (4 * (u - 16) + dSheaf g.desc)
  match sh.regions.find? (fun x => 1024 * x.rbase == runAddr g * accBytes x.acc && x.finished && !x.finish) with
  | none => setMismatch s u o 0
  | some x =>
    let h : SetHead := ⟨r.tensor, x.lo, x.lo + x.nblk, r.elem0, x.ecount, x.acc, 0, x.flags.toNat⟩
    if !headOk r (some [h.hi]) h then setMismatch s u o 0
    else readEntries s (4 * (u - 16) + dSheaf g.desc) (regionEntries v1 x) (fun s =>
      pushSet s u o r (v1 && x.chained) [] h.hi (regionCount v1 x * h.ecount)
        (fun _ => (fun e => setNodes v1 h.lo h.hi (stackVals sh.store x v1 e), h.flags)))

/-- NPUSH (R126 to R128, R184). -/
def execNpush (rick : Nat) (s : State) : Host.Outcome State Fault Refusal :=
  match headOp s (16 + rick) .thresher 0 with
  | none => .next s
  | some o => .next (readOpEntry s o (fun s =>
    let r := opReduction s o
    if dSrc (opAg o 0).desc = 1 then npushStore s (16 + rick) o r else npushMemory s (16 + rick) o r))

/-- LPUSH: run e holds the leaves LO onward of element ELEM0 + e (R121, R184). -/
def execLpush (rick : Nat) (s : State) : Host.Outcome State Fault Refusal :=
  match headOp s (16 + rick) .thresher 1 with
  | none => .next s
  | some o => .next (readOpEntry s o (fun s =>
    let r := opReduction s o
    let g := opAg o 0
    let lo := field o.word 31 16
    let n := dRun g.desc
    let rs := (List.range r.ecount).flatMap (fun e => let x := agRun g e; runRange x :: runScales x)
    let leaves (m : LineMap) (e : Nat) : List Flagged := (runVals m (agRun g e)).map (leafInto r.acc)
    pushSet s (16 + rick) o r false rs (lo + n) (r.ecount * n) (fun m =>
      (fun e => let ls := leaves m e; (List.range ls.length).map (fun i => ⟨0, lo + i, (ls.getD i (0, 0)).1⟩),
       (List.range r.ecount).foldl (fun f e => (leaves m e).foldl (fun f x => f ||| x.2) f) 0))))

/-- Bytes rounded up with zeros to whole 64-byte pieces. -/
def pad64 (bs : List Byte) : List Byte := bs ++ List.replicate (roundUp bs.length 64 - bs.length) 0

/-- NSEND: the stacks as a node set at the run address; the reduction is emptied (R124, R184). -/
def execNsend (rick : Nat) (s : State) : Host.Outcome State Fault Refusal :=
  match headOp s (16 + rick) .thresher 2 with
  | none => .next s
  | some o => .next (readOpEntry s o (fun s =>
    let r := opReduction s o
    let v1 := redV1 s r
    let h : SetHead := ⟨r.tensor, r.nlo, r.nhi, r.elem0, r.ecount, r.acc, r.kind, r.flags.toNat⟩
    planOp s (16 + rick) o srcNodeSet (workRanges r v1)
      (fun m => ([(runAddr (opAg o 0) % 2 ^ 56, pad64 (headBytes h
        ++ (List.range r.ecount).flatMap (fun e => (workVals m r v1 e).flatMap (toLE (accBytes r.acc)))))], 0, 0))
      (combTimes r.acc (redCount r v1 * r.ecount))
      (fun _ s => dropReduction s r)))

/-- Result of one element of a reduction, with the flags of finish() (R83, R128). -/
def finishElem (m : LineMap) (r : Reduction) (v1 : Bool) (e : Nat) : Flagged :=
  let vals := workVals m r v1 e
  if v1 then (vals.headD 0, 0) else finishStack (kindOp r.kind r.acc) (stackFrom r.nlo r.next vals.reverse)

/-- One run of RFIN's results, converted under the generator (R138, R184): its bytes and flags. -/
def finishRun (s : State) (o : SubOp) (m : LineMap) (r : Reduction) (v1 : Bool) (g : Agen) (first n : Nat) : List Byte × Nat :=
  let d := g.desc
  let xs := (List.range n).map (fun i =>
    let f := finishElem m r v1 (first + i)
    let q := toElem (dFmt d) (dSat d) (dRnd d) (srDraw s o.step d (runElem g + i)) (decodeElem r.acc f.1)
    (q.1, f.2 ||| q.2))
  (packElems (elemBits (dFmt d)) (xs.map (fun x => x.1)), xs.foldl (fun f x => f ||| x.2) 0)

/-- RFIN (R184): RUN elements to a run, the last one shorter. -/
def execRfin (rick : Nat) (s : State) : Host.Outcome State Fault Refusal :=
  match headOp s (16 + rick) .thresher 3 with
  | none => .next s
  | some o => .next (readOpEntry s o (fun s =>
    let r := opReduction s o
    let v1 := redV1 s r
    let g := opAg o 0
    let n := max 1 (dRun g.desc)
    let runs := List.range (ceilDiv r.ecount n)
    let out (m : LineMap) := runs.map (fun i => finishRun s o m r v1 (agRun g i) (i * n) (min n (r.ecount - i * n)))
    planOp s (16 + rick) o srcNodeSet (workRanges r v1)
      (fun m => (runs.map (fun i => (runAddr (agRun g i) % 2 ^ 56, ((out m).getD i ([], 0)).1)),
        r.flags.toNat ||| (out m).foldl (fun f x => f ||| x.2) 0, 0))
      (combTimes r.acc ((redCount r v1 - 1) * r.ecount))
      (fun _ s => dropReduction s r)))

/-! ## Winnower -/

/-- Entries between the final values of consecutive elements of a region in a Sheaf's store: its depth (R585). -/
def entryStride (sh : Sheaf) (acc entry : Nat) : Nat :=
  let a := entry * accBytes acc
  match sh.regions.find? (fun r => decide (1024 * r.rbase ≤ a) && decide (a < 1024 * r.rbase + r.ecount * r.depth * accBytes r.acc)) with
  | some r => r.depth
  | none => 1

/-- Addresses of the entries of a run that reads a Sheaf's store. -/
def operandEntries (sh : Sheaf) (g : Agen) : List Nat :=
  let k := entryStride sh (dFmt g.desc) (runAddr g)
  (List.range (dRun g.desc)).map (fun i => (runAddr g + i * k) * accBytes (dFmt g.desc))

/-- Values of an operand's run: memory, or final values of a store region (R172, R585). -/
def operandVals (s : State) (rick : Nat) (m : LineMap) (g : Agen) : List Val :=
  let d := g.desc
  if dSrc d = 1 then
    let sh := getSheaf s (4 * rick + dSheaf d)
    (operandEntries sh g).map (fun a => decodeElem (dFmt d) (storeEntry sh.store a (dFmt d)))
  else runVals m g

/-- Store entries that a WIN's operands read, with their Sheaves. -/
def winEntries (s : State) (rick : Nat) (o : SubOp) : List (Nat × List Nat) :=
  ((List.range (winOperands (field o.word 42 37))).filter (fun k => dSrc (opAg o k).desc == 1)).map (fun k =>
    let n := 4 * rick + dSheaf (opAg o k).desc
    (n, (List.range (field o.word 21 0 + 1)).flatMap (fun i => operandEntries (getSheaf s n) (agRun (opAg o k) i))))

/-- Entries of several stores read one store after another (R114). -/
def readStores : List (Nat × List Nat) → State → (State → State) → State
  | [], s, k => k s
  | p :: rest, s, k => readEntries s p.1 p.2 (fun s => readStores rest s k)

/-- The working format of a WIN (R131). -/
def winFormat (o : SubOp) : Nat :=
  winWork ((List.range (winOperands (field o.word 42 37))).map (fun k => classFmt (dFmt (opAg o k).desc) (dSch (opAg o k).desc)))

/-- What one run of WIN writes: runs of bytes, flags, vanished elements. -/
structure WinRun where
  writes : List (Nat × List Byte)
  flags : Nat
  vanish : Nat

/-- One run of a function other than quantisation (R131 to R139). -/
def winPlain (s : State) (o : SubOp) (fn cond wf : Nat) (ops : List (List Val)) (g : Agen) : WinRun :=
  let d := g.desc
  let pick (k i : Nat) : Val := let vs := ops.getD k []; if vs.length = 1 then vs.getD 0 .nan else vs.getD i (.fin false 0 0)
  let xs := (List.range (dRun d)).map (fun i =>
    winElem fn cond wf (dFmt d) (dSat d) (dRnd d) (srDraw s o.step d (runElem g + i)) (pick 0 i) (pick 1 i) (pick 2 i))
  ⟨[(runAddr g % 2 ^ 56, packElems (elemBits (dFmt d)) (xs.map (fun x => x.1)))], xs.foldl (fun f x => f ||| x.2) 0, 0⟩

/-- One run of QMX or QBALE (R150 to R155): elements and scales by separate stores. -/
def winQuant (s : State) (o : SubOp) (wf : Nat) (ops : List (List Val)) (g : Agen) : WinRun :=
  let d := g.desc
  let n := blockLen (dSch d)
  let vs0 := ops.getD 0 []
  let pick (i : Nat) : Val := winOperand wf (if vs0.length = 1 then vs0.getD 0 .nan else vs0.getD i (.fin false 0 0))
  let qs := (List.range (dRun d / n)).map (fun b =>
    quantBlock (dFmt d) (dSch d) (dRnd d) ((List.range n).map (fun i => pick (n * b + i)))
      ((List.range n).map (fun i => srDraw s o.step d (runElem g + n * b + i))))
  ⟨[(runAddr g % 2 ^ 56, packElems (elemBits (dFmt d)) (qs.flatMap (fun q => q.codes))),
    (runSaddr g % 2 ^ 56, qs.flatMap (fun q => if dSch d = 2 then [q.scale, q.offs] else [q.scale]))],
   qs.foldl (fun f q => f ||| q.flags) 0, qs.foldl (fun v q => v + q.vanished) 0⟩

/-- Every run of a WIN. -/
def winRuns (s : State) (rick : Nat) (o : SubOp) (m : LineMap) : List WinRun :=
  let fn := field o.word 42 37
  let arity := winOperands fn
  let wf := winFormat o
  (List.range (field o.word 21 0 + 1)).map (fun i =>
    let ops := (List.range arity).map (fun k => operandVals s rick m (agRun (opAg o k) i))
    let g := agRun (opAg o arity) i
    if fn = 0x0F ∨ fn = 0x10 then winQuant s o wf ops g else winPlain s o fn (field o.word 36 34) wf ops g)

/-- WIN (R132, R185). -/
def execWin (rick : Nat) (s : State) : Host.Outcome State Fault Refusal :=
  match headOp s (20 + rick) .thresher 4 with
  | none => .next s
  | some o =>
    let fn := field o.word 42 37
    let arity := winOperands fn
    let n := field o.word 21 0 + 1
    let rs := (List.range arity).flatMap (fun k =>
      if dSrc (opAg o k).desc = 1 then [] else (List.range n).flatMap (fun i => let x := agRun (opAg o k) i; runRange x :: runScales x))
    let t := winTime fn (winFormat o)
    let beats := n * ceilDiv (dRun (opAg o arity).desc) 4096
    .next (readStores (winEntries s rick o) s (fun s => planOp s (20 + rick) o srcPoisonUse rs
      (fun m => let ws := winRuns s rick o m
        (ws.flatMap (fun w => w.writes), ws.foldl (fun f w => f ||| w.flags) 0, ws.foldl (fun v w => v + w.vanish) 0))
      (fun s => (s.tick + (beats - 1) * t.1 + t.2, s.tick + beats * t.1))
      (fun _ s => s)))

end Sys2Proof.Machine
end

