-- ==== Sys2Proof/Machine/MoveOps.lean ====
section
/-!
DEFINITION. Wain, Crop Thresher and Copy Tiller sub-operations (R186 to R188, R272, R273) and completion (R177).
-/
namespace Sys2Proof.Machine

/-! ## Transfers out -/

/-- Lines of a transfer's runs, in run order: the element plane only (R186). -/
def moveLines (g : Agen) (runs : Nat) : List Nat :=
  (List.range runs).flatMap (fun i =>
    let r := runRange (agRun g i)
    (List.range (r.2 / 64)).map (fun k => r.1 + 64 * k))

/-- Bytes per A-cycle of a link (R211, R267). -/
def linkRate (x : WainLink) : Nat := if x.rate then 100 else 200

/-- The end of a link that the plan joins to this chip's link (R210): position and link. -/
def peerEnd (p : Plan) (pos link : Nat) : Option (Nat × Nat) :=
  p.links.findSome? (fun l =>
    if l.posA = pos ∧ l.linkA = link then some (l.posB, l.linkB)
    else if l.posB = pos ∧ l.linkB = link then some (l.posA, l.linkA) else none)

/-- A transfer takes its place behind those planned to begin before it. -/
def placeXfer (e : XferEntry) (l : List XferEntry) : List XferEntry :=
  l.takeWhile (fun k => decide (k.sendTick < e.sendTick)) ++ [e] ++ l.dropWhile (fun k => decide (k.sendTick < e.sendTick))

/-- The transfers of both pairings that a link end sends in the current epoch, in the order of their SEND_TICKs (R187, R211; log 54). -/
def linkXfers (x : Slot) (p : Plan) (pos link : Nat) : List XferEntry :=
  (p.xfers.filter (fun e => e.srcPos == pos && e.srcLink == link && decide (e.epoch ≤ x.epoch.toNat)
    && decide (x.epoch.toNat < e.epoch + e.nepoch))).foldr placeXfer []

/-- Whether the pairing's transfer is the next of a link end that has moved n; none where the plan states no further one. -/
def turnIs (s : State) (link n : Nat) (sending crop : Bool) : Option Bool := do
  let k ← runningSlot s
  let x := getSlot s k
  let p ← x.plan
  let (q, l) ← if sending then some (x.position, link) else peerEnd p x.position link
  let e ← (linkXfers x p q l)[n]?
  pure ((e.pairing == 1) == crop)

/-- A transfer of a pairing may begin on a link: one at a time, in the planned order; beyond it the pairings take turns
(R187; log 54). -/
def sendTurn (s : State) (link : Nat) (crop otherWaits : Bool) : Bool :=
  let x := getLink s link
  x.tx0.isEmpty && (turnIs s link x.sentSeq true crop).getD (!(otherWaits && x.lastXsend == crop))

/-- A transfer begins: its lines wait for the frames of VC0, corrected; poison never leaves (R265, R272). -/
def sendRuns (s : State) (u : Nat) (o : SubOp) (link runs : Nat) (crop : Bool) : State :=
  let ds := moveLines (opAg o 0) runs
  match planRead s u o srcWainXfer (ds.map (fun d => (d, 64))) with
  | (none, s) => s
  | (some m, s) =>
    let s := endTask s (.tiller o.tiller)
    let x := getLink s link
    let s := setLink s link { x with tx0 := x.tx0 ++ ds.map (fun d => (mapLine m d).data), lastXsend := crop, sentSeq := x.sentSeq + 1 }
    beginOp s u o none (s.tick + ceilDiv (64 * ds.length) (linkRate x) - 1)

/-- An XSEND for this link may begin. -/
def xsendFor (s : State) (link : Nat) : Bool :=
  match headOp s 24 .crop 0 with
  | some o => field o.word 39 35 == link
  | none => false

/-- SEND: one transfer at a time, taking turns with XSEND (R186, R187, R272). -/
def execSend (link : Nat) (s : State) : Host.Outcome State Fault Refusal :=
  match headOp s (25 + link) .wain 0 with
  | none => .next s
  | some o =>
    if !sendTurn s link false (xsendFor s link) then .next s
    else .next (sendRuns s (25 + link) o link (field o.word 39 20 + 1) false)

/-- XSEND: node sets from the Loft (R187). -/
def execXsend (s : State) : Host.Outcome State Fault Refusal :=
  match headOp s 24 .crop 0 with
  | none => .next s
  | some o =>
    let link := field o.word 39 35
    if !sendTurn s link true (headOp s (25 + link) .wain 0).isSome then .next s
    else .next (sendRuns s 24 o link (field o.word 34 15 + 1) true)

/-- A transfer's last line has left the source buffer: its SEND or XSEND has its last effect now (R186). -/
def sendDone (s : State) (link : Nat) : State :=
  let mine (b : Begun) (crop : Bool) : Bool :=
    b.doneTick.isNone && subOf b.op.word == 0 && (!crop || field b.op.word 39 35 == link)
  let finish (s : State) (u : Nat) (crop : Bool) : State :=
    match (getUnit s u).begun.find? (fun b => mine b crop) with
    | some b => setBegun s u b { b with doneTick := some (max s.tick b.earliest) }
    | none => s
  finish (finish s (25 + link) false) 24 true

/-! ## Transfers in -/

/-- RELEASE_TICK of the transfer of this ordinal and pairing received on a link in the current epoch (R211, R273). -/
def releaseTick (s : State) (link : Nat) (crop : Bool) (seq : Nat) : Option Nat := do
  let n ← runningSlot s
  let x := getSlot s n
  let p ← x.plan
  let (q, l) ← peerEnd p x.position link
  let e ← p.xfers.find? (fun e => e.srcPos == q && e.srcLink == l && (e.pairing == 1) == crop && e.seq == seq
    && decide (e.epoch ≤ x.epoch.toNat) && decide (x.epoch.toNat < e.epoch + e.nepoch))
  pure e.releaseTick

/-- The receive of a link that takes arriving lines: the first begun that still lacks some. -/
def openReceive (s : State) (u link : Nat) (crop : Bool) : Option Begun :=
  (getUnit s u).begun.find? (fun b => b.doneTick.isNone && subOf b.op.word == 1 && (!crop || field b.op.word 39 35 == link))

/-- The last write is accepted: the completion signal falls at max(T_R, t_last + 1), at t_last + 1
for a transfer without an XFER entry (R273). -/
def receiveDone (s : State) (u link : Nat) (crop : Bool) (b : Begun) : State :=
  let x := getLink s link
  let tr := releaseTick s link crop (if crop then x.xrecvSeq else x.recvSeq)
  let e := epochTick s + 1
  let x := if crop then { x with xrecvSeq := x.xrecvSeq + 1 } else { x with recvSeq := x.recvSeq + 1 }
  let x := if decide (tr.getD e < e) then { x with err := bump x.err 63 56 1 } else x
  setBegun (setLink s link x) u b { b with doneTick := some (s.epochStart + max (tr.getD e) e) }

/-- Arrived lines of VC0 are written at the next places of the receive, each returning its credit (R269, R272). -/
def placeLines : Nat → State → Nat → Nat → Bool → Begun → List Nat → State
  | 0, s, _, _, _, _, _ => s
  | fuel + 1, s, u, link, crop, b, ds =>
    let x := getLink s link
    match x.rx0, ds.drop b.placed with
    | line :: rest, d :: more =>
      match planWrite s u b.op [(d, line)] with
      | (some s, _) =>
        let s := endTask s (.tiller b.op.tiller)
        let b' := { b with placed := b.placed + 1 }
        let s := setLink (setBegun s u b b') link { getLink s link with rx0 := rest, ret0 := x.ret0 + 1 }
        if more.isEmpty then receiveDone s u link crop b' else placeLines fuel s u link crop b' ds
      | (none, s) => s
    | _, _ => s

/-- Runs of a receive. -/
def receiveRuns (o : SubOp) (crop : Bool) : Nat := (if crop then field o.word 34 15 else field o.word 39 20) + 1

/-- The arrived lines of a link belong to a pairing: the planned order says which transfer is the next; beyond it they are those of the
only receive begun, or of the one under way (R187, R272; log 54). -/
def receiveTurn (s : State) (link : Nat) (crop : Bool) : Bool :=
  let x := getLink s link
  let other := openReceive s (if crop then 25 + link else 24) link (!crop)
  (turnIs s link (x.recvSeq + x.xrecvSeq) false crop).getD (match other with | some b => b.placed == 0 | none => true)

/-- Write what has arrived for the open receive of a pairing, when its transfer is the one that arrives (R187, R272). -/
def receiveLines (s : State) (u link : Nat) (crop : Bool) : State :=
  match openReceive s u link crop with
  | some b =>
    if receiveTurn s link crop then placeLines (getLink s link).rx0.length s u link crop b (moveLines (opAg b.op 0) (receiveRuns b.op crop)) else s
  | none => s

/-- RECV: it begins, and lines of its transfer are written as they arrive (R186, R272, R273). -/
def execRecv (link : Nat) (s : State) : Host.Outcome State Fault Refusal :=
  let u := 25 + link
  let s := match headOp s u .wain 1 with
    | some o => beginOp s u o none s.tick
    | none => s
  .next (receiveLines s u link false)

/-- XRECV: node sets into the Loft (R187). -/
def execXrecv (s : State) : Host.Outcome State Fault Refusal :=
  let s := match headOp s 24 .crop 1 with
    | some o => beginOp s 24 o none s.tick
    | none => s
  match (getUnit s 24).begun.find? (fun b => b.doneTick.isNone && subOf b.op.word == 1) with
  | some b => .next (receiveLines s 24 (field b.op.word 39 35) true)
  | none => .next s

/-! ## Copy engines -/

/-- Byte ranges of a run and, under a scheme, of its scales (R188). -/
def bothPlanes (g : Agen) : List (Nat × Nat) := runRange g :: runScales g

/-- COPY: each run of src to the run of dst, both planes (R188). DESIGN CHOICE: where the generators differ in RUN, the bytes of the
source run are written from the destination run's address on (log 52). -/
def execTillerCopy (engine : Nat) (s : State) : Host.Outcome State Fault Refusal :=
  let u := 49 + engine
  match headOp s u .copy 0 with
  | none => .next s
  | some o =>
    let runs := List.range (field o.word 36 17 + 1)
    let src := runs.flatMap (fun i => bothPlanes (agRun (opAg o 0) i))
    let dst := runs.flatMap (fun i => bothPlanes (agRun (opAg o 1) i))
    .next (planOp s u o srcPoisonUse src
      (fun m => ((src.zip dst).map (fun p => (p.2.1, mapBytes m p.1.1 p.1.2)), 0, 0)) (fun s => (s.tick, s.tick)) (fun _ s => s))

/-- A line is brought into the Granary, or into a Bin (R188, R327); poison stays in the line and raises no error (R323). -/
def prefetchPlan (s : State) (iss : Issuer) (bin : Option Nat) (o : LineOp) : State :=
  let l := dpaLine o.dpa
  if isRemote s o.dpa || o.type == .strict then s
  else match bin with
    | some r => (agentRead s r iss.writer l iss.ctx .pref).2
    | none => if l.space == 2 || (cacheFind s 12 l).isSome then s else (homeFetch (makeRoom (settleLine (checkHome s l) l) 12 l) l .pref false).2

/-- PREF (R188). DESIGN CHOICE: the lines of a run are those of its element plane; R188 names both planes for COPY and ZERO only
(log 52). -/
def execPref (engine : Nat) (s : State) : Host.Outcome State Fault Refusal :=
  let u := 49 + engine
  match headOp s u .copy 1 with
  | none => .next s
  | some o =>
    let iss := unitIssuer s u o.tiller
    let ds := rangeDpas ((List.range (field o.word 35 16 + 1)).map (fun i => runRange (agRun (opAg o 0) i)))
    let r := planLines s iss none .read ds
    match r.2.1 with
    | .all =>
      let bin := if field o.word 39 38 = 1 then some (field o.word 37 36) else none
      let s := r.1.foldl (fun s x => prefetchPlan s iss bin x) r.2.2
      .next (beginDone s u o s.tick)
    | e => .next (planStops r.2.2 e)

/-- ZERO: zero bytes over both planes (R188). -/
def execZero (engine : Nat) (s : State) : Host.Outcome State Fault Refusal :=
  let u := 49 + engine
  match headOp s u .copy 2 with
  | none => .next s
  | some o =>
    let dst := (List.range (field o.word 39 20 + 1)).flatMap (fun i => bothPlanes (agRun (opAg o 0) i))
    .next (planOp s u o srcPoisonUse [] (fun _ => (dst.map (fun r => (r.1, List.replicate r.2 0)), 0, 0)) (fun s => (s.tick, s.tick)) (fun _ s => s))

/-! ## Completion -/

/-- The last effect of a begun sub-operation is complete: its tick has come and its remote and host writes are performed
(R177, R362). -/
def isDone (s : State) (b : Begun) : Bool :=
  (match b.doneTick with | some d => decide (d ≤ s.tick) | none => false)
  && !awaiting s (.tiller b.op.tiller) && !s.hl.hostReqs.any (fun r => r.who == .tiller b.op.tiller)

/-- SUBOP_COMPLETION: a sub-operation of a unit completes and adds 1 to the counter its ISSUE names (R177). -/
def execSubopCompletion (unit : Nat) (s : State) : Host.Outcome State Fault Refusal :=
  let q := getUnit s unit
  match q.begun.find? (isDone s) with
  | none => .next s
  | some b =>
    let s := setUnit s unit { q with begun := q.begun.erase b }
    .next (if dtOf b.op.word = 63 then s else signalAdd s (dtOf b.op.word) (dcOf b.op.word) 1)

end Sys2Proof.Machine
end

