-- ==== Sys2Proof/Machine/PlanSched.lean ====
section
/-!
DEFINITION. The schedule that PLAN_LOAD computes (R212): every Tiller of every member stepped tick by tick with no hold, no late signal
and no miss, its transfers released as the XFER entries say; the checks of R221 that rest on it (R111, R211 to R213); the verdict.
-/
namespace Sys2Proof.Machine

/-! ## One A-cycle without holds -/

/-- What the schedule notes of a Tiller: the ISSUE and the last effect of a sub-operation of a step, an EBAR that enters the barrier, a
HALT. -/
inductive Mark where
  | subop (step issued done : Nat)
  | barrier (tick : Nat)
  | halt (tick : Nat)
deriving DecidableEq, Repr

/-- A transfer that the schedule begins: link, whether Crop Thresher, epoch tick. -/
structure SendMark where
  link : Nat
  crop : Bool
  tick : Nat
deriving DecidableEq, Repr

/-- One position under the schedule: its Tillers, units and Sheaves in a state of the machine that holds nothing else; each link's tick
at which it is free again and whether its last transfer was an XSEND; receives begun in the epoch; what has been noted in the epoch. -/
structure Ideal where
  s : State
  links : Tbl (Nat × Bool) := []
  recvs : Tbl Nat := []
  marks : List (Nat × Mark) := []
  sends : List SendMark := []
  early : List Nat := []
deriving DecidableEq, Repr

/-- The next state of a row, the state itself where it gives none. -/
def rowState (s : State) (o : Host.Outcome State Fault Refusal) : State := match o with | .next t => t | _ => s

/-- A Tiller in one A-cycle: what it waits for, then the instruction at its program counter (R161 to R166). -/
def idealTiller (s : State) (t : Nat) : State :=
  let s := rowState s (execTwaitExpiry t s)
  let s := rowState s (execWaitsPass t s)
  let s := rowState s (execQueueEntry t s)
  rowState s (match opOf (tillerWord (getTiller s t)) with
    | 0x00 => execHalt t s
    | 0x01 => execTillerNop t s
    | 0x02 => execLoop t s
    | 0x03 => execEndl t s
    | 0x04 => execAgset t s
    | 0x05 => execAgskip t s
    | 0x06 => execAgrst t s
    | 0x07 => execTwait t s
    | 0x08 => execSig t s
    | 0x09 => execWaits t s
    | 0x0A => execStep t s
    | 0x0B => execEbar t s
    | 0x10 => execIssue t s
    | _ => .next s)

/-- The Tiller's turn, with the barrier or HALT it reaches. -/
def idealTurn (x : Ideal) (t : Nat) : Ideal :=
  let m := (getTiller x.s t).mode
  let s := idealTiller x.s t
  let n := (getTiller s t).mode
  let e := epochTick s
  { x with s := s, marks := if n = m then x.marks else if n = .barrier then x.marks ++ [(t, .barrier e)] else if n = .halted then x.marks ++ [(t, .halt e)] else x.marks }

/-- A sub-operation begins with its last effect at a known tick. -/
def idealBegin (x : Ideal) (u : Nat) (o : SubOp) (done : Nat) : Ideal := { x with s := beginDone x.s u o done }

/-- A sub-operation whose duration the spec does not state takes a free number of A-cycles (log 25), and its unit is occupied so long. -/
def idealOpen (x : Ideal) (u : Nat) (o : SubOp) : Ideal :=
  let d := x.s.tick + Config.subTicks u o.word ((o.ags.map (fun g => runElem g))).sum
  { x with s := occupy (beginDone x.s u o d) u d }

/-- A store region that an operand reads is not yet available (R110, R111). -/
def readsEarly (s : State) (rick : Nat) (g : Agen) : Bool :=
  let w := accBytes (dFmt g.desc)
  dSrc g.desc == 1 && (getSheaf s (4 * rick + dSheaf g.desc)).regions.any (fun r =>
    !r.finished && spansMeet (1024 * r.rbase, r.ecount * r.depth * accBytes r.acc) (runAddr g * w, w))

/-- Early reads of a Thresher Tiller's sub-operation are noted. -/
def noteEarly (x : Ideal) (rick : Nat) (o : SubOp) : Ideal :=
  if o.ags.any (readsEarly x.s rick) then { x with early := x.early ++ [o.tiller] } else x

/-- One Sheaf's part of a PASS: its times and its push count. -/
def idealPass (s : State) (p : Nat × SubOp) : State :=
  match passTarget s p with
  | none => s
  | some r =>
    let sh := getSheaf s p.1
    let a := pairStep (dFmt (opAg p.2 0).desc) (bufOf sh sh.passes).fmt
    let n := field p.2.word 31 16 + 1
    let done := s.tick + passSpan a n
    let sh := setRegion { sh with passes := sh.passes + 1 } { r with pushes := r.pushes + 1, passEnd := done }
    setSheaf (beginDone s p.1 p.2 done) p.1 (passTimes sh (sh.passes - 1) s.tick a n 0)

/-- The head of a Sheaf's queue begins when it may (R102, R104, R179, R180, R183). -/
def idealSheaf (x : Ideal) (n : Nat) : Ideal :=
  let s := x.s
  match headOp s n .feed 0, headOp s n .feed 2, headOp s n .feed 3 with
  | some o, _, _ =>
    let sh := getSheaf s n
    let d := (opAg o 0).desc
    let sh := fillBuf sh sh.loads s.tick { fmt := dFmt d, sch := dSch d, lanes := lanesOf (field o.word 15 14), kblk := field o.word 39 24
                                           len := field o.word 23 16 + 1 }
    { x with s := setSheaf (beginDone s n o (tileLast (bufOf sh sh.loads))) n { sh with loads := sh.loads + 1 } }
  | _, some o, _ =>
    let sh := getSheaf s n
    { x with s := setSheaf (beginDone s n o s.tick) n { sh with regions := sh.regions ++ [regionFrom (opRegion s o) o.step] } }
  | _, _, some o =>
    let sh := getSheaf s n
    let base := gRbase (opRegion s o)
    { x with s := setSheaf (beginDone s n o s.tick) n { sh with regions := sh.regions.filter (fun r => r.rbase != base) } }
  | _, _, _ =>
    match passOps s n with
    | some ps => if ps.all (passMay s) then { x with s := ps.foldl idealPass s } else x
    | none => x

/-- The head of a Thresher's or a Winnower's queue (R132, R184, R185). -/
def idealThresher (x : Ideal) (rick : Nat) : Ideal :=
  match (List.range 4).findSome? (fun k => headOp x.s (16 + rick) .thresher k) with
  | some o => idealOpen (if subOf o.word = 0 then noteEarly x rick o else x) (16 + rick) o
  | none => x
def idealWinnower (x : Ideal) (rick : Nat) : Ideal :=
  let u := 20 + rick
  match headOp x.s u .thresher 4 with
  | none => x
  | some o =>
    let fn := field o.word 42 37
    let beats := (field o.word 21 0 + 1) * ceilDiv (dRun (opAg o (winOperands fn)).desc) 4096
    let t := winTime fn (winFormat o)
    let x := noteEarly x rick o
    { x with s := occupy (beginDone x.s u o (x.s.tick + (beats - 1) * t.1 + t.2)) u (x.s.tick + beats * t.1) }

/-- A transfer begins on a free link, in turn with the other pairing (R186, R187, R211). -/
def idealSend (v : PlanView) (p : Nat) (x : Ideal) (u link runs : Nat) (crop : Bool) (o : SubOp) : Ideal :=
  let l := look (0, false) x.links link
  let other := if crop then (headOp x.s (25 + link) .wain 0).isSome else xsendFor x.s link
  if x.s.tick < l.1 ∨ (other ∧ l.2 = crop) then x
  else
    let rate := if v.links.any (fun k => k.rate == 1 && ((k.posA == p && k.linkA == link) || (k.posB == p && k.linkB == link))) then 100 else 200
    let t := ceilDiv (64 * (moveLines (opAg o 0) runs).length) rate
    { x with s := beginDone x.s u o (x.s.tick + t - 1), links := put (0, false) x.links link (x.s.tick + t, crop)
             sends := x.sends ++ [⟨link, crop, epochTick x.s⟩] }

/-- RELEASE_TICK that the XFER entries give the transfer of this ordinal and pairing received on a link (R211). -/
def plannedRelease (v : PlanView) (p link : Nat) (crop : Bool) (epoch seq : Nat) : Option Nat := do
  let (q, l) ← v.links.findSome? (fun k =>
    if k.posA = p ∧ k.linkA = link then some (k.posB, k.linkB)
    else if k.posB = p ∧ k.linkB = link then some (k.posA, k.linkA) else none)
  let e ← ((tabEntries v.img 8).map parseXfer).find? (fun e => e.srcPos == q && e.srcLink == l && (e.pairing == 1) == crop && e.seq == seq
    && decide (e.epoch ≤ epoch) && decide (epoch < e.epoch + e.nepoch))
  pure e.releaseTick

/-- A receive begins; its data are there at the release (R273). -/
def idealRecv (v : PlanView) (p epoch : Nat) (x : Ideal) (u link : Nat) (crop : Bool) (o : SubOp) : Ideal :=
  let k := 2 * link + crop.toNat
  let seq := look 0 x.recvs k
  let r := (plannedRelease v p link crop epoch seq).getD 0
  { x with s := beginDone x.s u o (x.s.epochStart + max r (epochTick x.s + 1)), recvs := put 0 x.recvs k (seq + 1) }

/-- The head of a link's or of the Crop Thresher's queue. -/
def idealLink (v : PlanView) (p epoch : Nat) (x : Ideal) (link : Nat) : Ideal :=
  match headOp x.s (25 + link) .wain 0, headOp x.s (25 + link) .wain 1 with
  | some o, _ => idealSend v p x (25 + link) link (field o.word 39 20 + 1) false o
  | _, some o => idealRecv v p epoch x (25 + link) link false o
  | _, _ => x
def idealCrop (v : PlanView) (p epoch : Nat) (x : Ideal) : Ideal :=
  match headOp x.s 24 .crop 0, headOp x.s 24 .crop 1 with
  | some o, _ => idealSend v p x 24 (field o.word 39 35) (field o.word 34 15 + 1) true o
  | _, some o => idealRecv v p epoch x 24 (field o.word 39 35) true o
  | _, _ => x

/-- The head of a copy engine's queue. -/
def idealCopy (x : Ideal) (engine : Nat) : Ideal :=
  match (List.range 3).findSome? (fun k => headOp x.s (49 + engine) .copy k) with
  | some o => idealOpen x (49 + engine) o
  | none => x

/-- Regions of a Sheaf whose values or hand-off entries become available now (R110). -/
def idealFinish (v1 : Bool) (s : State) (n : Nat) : State :=
  (getSheaf s n).regions.foldl (fun s r =>
    if r.finished || r.pushes != r.nblk || decide (s.tick < r.passEnd + finishTime r v1 + 1) then s
    else
      let s := setSheaf s n (setRegion (getSheaf s n) { r with finished := true })
      if r.sigt = 63 then s else signalAdd s r.sigt r.sigc 1) s

/-- A unit's sub-operations whose last effect falls now complete and signal (R177). -/
def idealDone (x : Ideal) (u : Nat) : Ideal :=
  let q := getUnit x.s u
  let fin (b : Begun) : Bool := match b.doneTick with | some d => decide (d ≤ x.s.tick) | none => false
  let s := setUnit x.s u { q with begun := q.begun.filter (fun b => !fin b) }
  let bs := q.begun.filter fin
  let e (t : Nat) : Nat := t - x.s.epochStart
  { x with
    s := bs.foldl (fun s b => if dtOf b.op.word = 63 then s else signalAdd s (dtOf b.op.word) (dcOf b.op.word) 1) s
    marks := x.marks ++ bs.map (fun b => (b.op.tiller, .subop b.op.step (e b.op.issued) (e x.s.tick))) }

/-- One A-cycle of a position: Tillers, begins, ends of regions, completions; what completes now is seen in the next (R166). -/
def idealTick (v : PlanView) (p epoch : Nat) (x : Ideal) : Ideal :=
  let x := (List.range 53).foldl idealTurn x
  let x := (List.range 16).foldl idealSheaf x
  let x := (List.range 4).foldl idealThresher x
  let x := (List.range 4).foldl idealWinnower x
  let x := idealCrop v p epoch ((List.range 24).foldl (idealLink v p epoch) x)
  let x := (List.range 8).foldl idealCopy x
  let x := { x with s := (List.range 16).foldl (idealFinish v.v1) x.s }
  let x := (List.range 57).foldl idealDone x
  { x with s := clockTick x.s }

/-! ## Epochs -/

/-- The tick at which a Tiller acts next, when nothing reaches it from outside: none for one that waits for a signal or stands in a
barrier. -/
def tillerDue (s : State) (x : Tiller) : Option Nat :=
  match x.mode with
  | .run => some x.nextTick
  | .waitTick g => some (s.epochStart + g)
  | .waitSignal => if waitsReady x then some 0 else none
  | .waitQueue => some 0
  | .barrier | .halted | .idle => none

/-- Nothing stands in a queue, no signal is on its way and no complete region waits: all that is left to happen has a known tick. -/
def idealStill (s : State) : Bool :=
  s.units.all (fun q => q.2.queue.isEmpty) && s.tillers.all (fun t => t.2.incoming.isEmpty)
    && s.sheaves.all (fun h => h.2.regions.all (fun r => r.finished || r.pushes != r.nblk))

/-- A-cycles in which nothing happens are passed over at once: the tick of the next event, or the epoch's end. -/
def idealSkip (stop : Nat) (x : Ideal) : Ideal :=
  if idealStill x.s then
    let due := x.s.tillers.filterMap (fun t => tillerDue x.s t.2) ++ x.s.units.flatMap (fun q => q.2.begun.filterMap (fun b => b.doneTick))
    { x with s := { x.s with tick := max x.s.tick (due.foldl min stop) } }
  else x

/-- The A-cycles of an epoch up to a tick. -/
def idealTicks (v : PlanView) (p epoch stop : Nat) : Nat → Ideal → Ideal
  | 0, x => x
  | n + 1, x =>
    let x := idealSkip stop x
    if x.s.tick < stop then idealTicks v p epoch stop n (idealTick v p epoch x) else x

/-- The epoch barrier releases: Tillers in it go on behind their EBAR at epoch tick 0 (R169). -/
def idealRelease (x : Ideal) : Ideal :=
  let s := { x.s with epochStart := x.s.tick }
  let s := (List.range 53).foldl (fun s t =>
    let y := getTiller s t
    if y.mode = .barrier then setTiller s t { y with pc := pcNext y, mode := .run, prevTarget := 0, nextTick := s.tick } else s) s
  { s := s, links := x.links }

/-- A position before its first epoch: every Tiller at address 0 (R157). -/
def idealStart (v : PlanView) (p : Nat) : Ideal :=
  let s := { State.reset with boot := { State.reset.boot with perstLow := false } }
  { s := (List.range 53).foldl (fun s t => setTiller s t (fillStores { mode := .run } (viewProg v p t) (viewDescs v p t))) s }

/-- The epochs of a position, each at its end: 2^EL ticks and the next one. -/
def idealEpochs (v : PlanView) (p : Nat) : Nat → Nat → Ideal → List Ideal
  | 0, _, _ => []
  | n + 1, epoch, x =>
    let span := 2 ^ fieldLE v.img 32 1 + 1
    let y := idealTicks v p epoch (x.s.epochStart + span) span x
    y :: idealEpochs v p n (epoch + 1) (idealRelease y)

/-- The schedule of a position, epoch by epoch. -/
def scheduleOf (v : PlanView) (p : Nat) : List Ideal := idealEpochs v p (epochCount v) 0 (idealStart v p)

/-- Every epoch of every position: position, epoch, and what the epoch leaves. -/
def schedules (v : PlanView) : List (Nat × Nat × Ideal) :=
  (List.range v.npos).flatMap (fun p => let xs := scheduleOf v p; (List.range xs.length).filterMap (fun e => (xs[e]?).map (fun x => (p, e, x))))

/-! ## 0x0C (R111), 0x0F and 0x10 (R211, R212), 0x11 (R213) -/

/-- Reads before the tick of R110. -/
def earlyFails (sc : List (Nat × Nat × Ideal)) : List Place := sc.flatMap (fun x => x.2.2.early.map (fun t => (x.1, t)))

/-- The transfers that begin on each end of a link do so at the SEND_TICK of their XFER entries. -/
def sendFails (v : PlanView) (sc : List (Nat × Nat × Ideal)) : List Place :=
  let xs := (tabEntries v.img 8).map parseXfer
  sc.flatMap (fun x => (List.range 24).flatMap (fun l => [false, true].flatMap (fun crop =>
    let mine := x.2.2.sends.filter (fun m => m.link == l && m.crop == crop)
    let want (e : XferEntry) : Bool := e.srcPos == x.1 && e.srcLink == l && (e.pairing == 1) == crop && decide (e.epoch ≤ x.2.1) && decide (x.2.1 < e.epoch + e.nepoch)
    if (xs.filter want).all (fun e => ((mine[e.seq]?).map (fun m => m.tick)) == some e.sendTick) then []
    else [(x.1, if crop then 20 else 21 + l)])))

/-- The entries that the schedule of one epoch gives a Tiller: kind, step and tick; the step of a BARRIER entry is open and stands as 0. -/
def scheduledTicks (x : Ideal) (t : Nat) : List (Nat × Nat × Nat) :=
  let ms := (x.marks.filter (fun m => m.1 == t)).map (fun m => m.2)
  let ops := ms.filterMap (fun m => match m with | .subop s i d => some (s, i, d) | _ => none)
  let steps := (ops.map (fun o => o.1)).eraseDups
  steps.flatMap (fun s =>
    let mine := ops.filter (fun o => o.1 == s)
    [(0, s, mine.foldl (fun n o => min n o.2.1) (2 ^ 64)), (1, s, mine.foldl (fun n o => max n o.2.2) 0)])
  ++ ms.filterMap (fun m => match m with | .barrier e => some (2, 0, e) | _ => none)

/-- Code 0x10: an entry that names no step or Tiller or holds in an epoch no program enters, or that differs from the schedule (R212).
DEDUCED: every entry has to match; no rule says that every event has an entry (log 25). -/
def tickFails (v : PlanView) (sc : List (Nat × Nat × Ideal)) : List Place :=
  let epochs := epochCount v
  (List.range v.npos).flatMap (fun p =>
    ((posTicks v.img p).filter (fun t => decide (52 < t.tiller) || (t.kind != 2 && decide (fieldLE v.img 28 4 ≤ t.step)) || t.nepoch == 0
      || decide (epochs < t.epoch + t.nepoch))).map (fun t => (p, min t.tiller 63)))
  ++ sc.flatMap (fun x => ((posTicks v.img x.1).filter (fun e => decide (e.epoch ≤ x.2.1) && decide (x.2.1 < e.epoch + e.nepoch)
      && !(scheduledTicks x.2.2 e.tiller).contains (e.kind, if e.kind = 2 then 0 else e.step, e.tick))).map (fun e => (x.1, min e.tiller 63)))

/-- Code 0x11: a Tiller that has neither entered the barrier nor halted by 2^EL − MARGIN (R213). -/
def marginFails (v : PlanView) (sc : List (Nat × Nat × Ideal)) : List Place :=
  let top := 2 ^ fieldLE v.img 32 1 - fieldLE v.img 36 4
  sc.flatMap (fun x => ((List.range 53).filter (fun t =>
    let y := getTiller x.2.2.s t
    let late := x.2.2.marks.any (fun m => m.1 == t && (match m.2 with | .barrier e => decide (top < e) | .halt e => decide (top < e) | _ => false))
    late || !(y.mode == .barrier || y.mode == .halted))).map (fun t => (x.1, t)))

/-! ## The verdict -/

/-- The first check of a list that fails, with its place. -/
def firstFail (checks : List (Nat × (Unit → List Place))) : Option (Nat × Place) :=
  checks.findSome? (fun c => (lowestPlace (c.2 ())).map (fun q => (c.1, q)))

/-- The checks of R221 in code order, up to those that need the schedule. -/
def planChecks (img : List Byte) (binds : List Nat) (position : Nat) (v : PlanView) : List (Nat × (Unit → List Place)) :=
  [(0x01, fun _ => failAt (headerBad img) 0), (0x02, fun _ => failAt (crcBad img) 0), (0x03, fun _ => layoutFails img),
   (0x04, fun _ => reservedFails img binds ++ descRsvFails v), (0x05, fun _ => limitFails img position), (0x06, fun _ => descriptorFails v),
   (0x07, fun _ => instructionFails v), (0x08, fun _ => loopFails v), (0x09, fun _ => twaitFails v), (0x0A, fun _ => counterFails v),
   (0x0B, fun _ => dependencyFails v)]

/-- The checks of R221 from the schedule on, in code order. -/
def scheduleChecks (img : List Byte) (binds : List Nat) (v : PlanView) (sc : List (Nat × Nat × Ideal)) : List (Nat × (Unit → List Place)) :=
  [(0x0C, fun _ => accumulatorFails v ++ earlyFails sc), (0x0D, fun _ => reductionFails v), (0x0E, fun _ => pairingFails v),
   (0x0F, fun _ => transferFails v ++ sendFails v sc), (0x10, fun _ => tickFails v sc), (0x11, fun _ => marginFails v sc),
   (0x12, fun _ => arenaFails img binds), (0x13, fun _ => carriedFails v), (0x14, fun _ => leaseFails img ++ leaseIssueFails v),
   (0x15, fun _ => orderFails img ++ chainFails v), (0x16, fun _ => topologyFails img), (0x17, fun _ => loftFails img binds)]

/-- The lowest code that fails, with its lowest place (R221). -/
def validatePlan (img : List Byte) (binds : List Nat) (position : Nat) (compat : Bool) : Option (Nat × Place) :=
  let v := planView img compat
  match firstFail (planChecks img binds position v) with
  | some f => some f
  | none => firstFail (scheduleChecks img binds v (schedules v))

end Sys2Proof.Machine
end

