-- ==== Sys2Proof/Machine/PlanLoad.lean ====
section
/-!
DEFINITION. Device memory read for a command (R303, R508, R586), and PLAN_LOAD (R217, R220 to R223, R516, R588).
-/
namespace Sys2Proof.Machine

/-- The first granule of a local range that R303 refuses a context: reply status, row and offset. -/
def judgeRange (s : State) (off n : Nat) (ctx : BitVec 20) (acc : AccessKind) : Option (Byte × Nat × Nat) :=
  let first := off / 2 ^ 21
  let cnt := if n = 0 then 0 else (off + n - 1) / 2 ^ 21 + 1 - first
  (List.range cnt).findSome? (fun i =>
    let a := max off (2 ^ 21 * (first + i))
    match ownerCheck s a ctx acc false with
    | .ok => none
    | .refuse st row => some (st, row, a))

/-- What reading a parameter of form DO gives: its bytes, a refusal with the row's status, or an uncorrectable word. -/
inductive DoRead where
  | bytes (bs : List Byte)
  | refused (status : Byte)
  | poison
deriving DecidableEq, Repr

/-- n bytes at a device offset, checked under R303 with a context; a refusal is counted and logged, and so is poison. -/
def readDevice (s : State) (off n : Nat) (ctx : BitVec 20) : DoRead × State :=
  match judgeRange s off n ctx .read with
  | some (st, row, a) => (.refused st, refuseCtx s ctx (localDpa s a) (localDpa s a) row true)
  | none =>
    let r := homeReadBytes s 21 0 off n ctx
    match r.2.1 with
    | none => (.bytes r.1, r.2.2)
    | some l =>
      let x := readCur s 21 (devLine (64 * l)) ctx false
      (.poison, logPoison r.2.2 (poisonWhere s (devLine (64 * l))) (devLine (64 * l)) x.1 ctx.toNat)

/-- The access an arena's KIND allows (R222): a read for CONST, a write for OUTPUT, both for the others. -/
def arenaAccess (kind : Nat) : AccessKind := if kind = 0 then .read else if kind = 3 then .write else .atomic

/-- The first granule of the position's local DEVICE arenas that R303 refuses (R222): the status of the refusing row. -/
def judgeArenas (s : State) (img : List Byte) (binds : List Nat) (position : Nat) (ctx : BitVec 20) : Option Byte :=
  (((tabEntries img 5).map parseArena).zip binds).findSome? (fun p =>
    if p.1.position = position ∧ p.1.space = 0 then
      (judgeRange s (bits p.2 51 0) (arenaSpan p.1) ctx (arenaAccess p.1.kind)).map (fun r => r.1)
    else none)

/-- How PLAN_LOAD ends: refused or poisoned with the slot unchanged, failed validation, or a valid image and binding list. -/
inductive LoadEnd where
  | status (st : Byte)
  | invalid (code : Nat) (place : Place)
  | valid (img : List Byte) (binds : List Nat)
deriving DecidableEq, Repr

/-- A read that did not bring its bytes ends PLAN_LOAD (R222): PROTECTION, or FAULT_UNRESOLVED. -/
def loadStatus (r : DoRead) : Byte := match r with | .poison => stFaultUnresolved | _ => stProtection

/-- The image and the binding list read, judged and validated (R220 to R222). An image whose IMAGE_SIZE is none has no extent to read,
and fails at once. -/
def loadImage (s : State) (ctx : BitVec 20) (image bindList position : Nat) : LoadEnd × State :=
  match readDevice s image 256 ctx with
  | (.bytes hdr, s) =>
    if sizeBad hdr then (.invalid 0x01 (0, 63), s)
    else match readDevice s image (fieldLE hdr 16 8) ctx with
      | (.bytes img, s) =>
        match readDevice s bindList (8 * min (dirCount img 5) (countLimit img 5)) ctx with
        | (.bytes bl, s) =>
          let binds := (List.range (min (dirCount img 5) (countLimit img 5))).map (fun i => fieldLE bl (8 * i) 8)
          match judgeArenas s img binds position ctx with
          | some st => (.status st, s)
          | none =>
            match validatePlan img binds position (bitOf s.boot.straps 1) with
            | some (code, place) => (.invalid code place, s)
            | none => (.valid img binds, s)
        | (r, s) => (.status (loadStatus r), s)
      | (r, s) => (.status (loadStatus r), s)
  | (r, s) => (.status (loadStatus r), s)

/-- The slot a valid plan leaves (R217, R220, R588). -/
def loadedSlot (s : State) (ctx : BitVec 20) (position : Nat) (img : List Byte) (binds : List Nat) : Slot :=
  { state := .loaded, context := ctx, position := position, plan := some (parsePlan img position (planSets (planView img (bitOf s.boot.straps 1)))), binds := binds
    bindCrc := crc32c (binds.flatMap (toLE 8)), orderV1 := orderOf img (bitOf s.boot.straps 1) }

/-- PLAN_LOAD. -/
def execPlanLoad (h : CmdHdr) (slot : Byte) (position : W16) (image bindList : W64) (s : State) : Host.Outcome State Fault Refusal :=
  let n := slot.toNat
  command s h false false false (fun s =>
    guardCodes s h [(decide (15 < n) || image.toNat % 64 != 0, pcRange)] (fun s =>
      if slotForeign s h n then complete s h stProtection (plainDetail stProtection) 0
      else
        let st := (getSlot s n).state
        guardCodes s h [(!(st == .empty || st == .loaded || st == .done || st == .failed), pcState)] (fun s =>
          match loadImage s h.context image.toNat bindList.toNat position.toNat with
          | (.status st, s) => complete s h st (plainDetail st) 0
          | (.invalid code place, s) =>
            complete (checkMembership (setSlot s n {})) h stBadPacket (detailOf 1 code place.2 place.1) 0
          | (.valid img binds, s) =>
            done (checkMembership (setSlot s n (loadedSlot s h.context position.toNat img binds))) h)))

end Sys2Proof.Machine
end

