-- ==== Sys2Proof/Machine/Formation.lean ====
section
/-!
DEFINITION. Forming a Crop (R229 to R239, R244): CROP_FORM, CROP_JOIN, the identities and probes of links, the checks of R231,
the timing tree, provisional binding, abort and timeouts (log 29).
-/
namespace Sys2Proof.Machine

/-- One copy of a delivered control message is taken from a link's inbox. -/
def takeFrom (s : State) (link : Nat) (m : CtrlMsg) : State :=
  let x := getLink s link
  if x.inbox.contains m then setLink s link { x with inbox := x.inbox.erase m } else s

/-- One copy of a delivered control message is taken from whichever link holds it. -/
def takeMsg (s : State) (m : CtrlMsg) : State :=
  match (List.range 24).find? (fun n => (getLink s n).inbox.contains m) with
  | some n => takeFrom s n m
  | none => s

/-- A control message to several links. -/
def sendAll (s : State) (links : List Nat) (m : CtrlMsg) : State := links.foldl (fun s n => sendCtrl s n m) s

/-- A formation code in a reply's DETAIL (R498). -/
def formDetail (code position : Nat) : W32 := detailOf 2 code 63 position

def getForming (s : State) : Forming := s.crop.forming
def setForming (s : State) (f : Forming) : State := { s with crop := { s.crop with forming := f } }

/-! ## The timing tree (R238, R244) -/

/-- A member in the tree: Tally address, depth, and its parent with the parent's link to it. -/
structure TreeNode where
  tally : Nat
  depth : Nat
  parent : Nat
  link : Nat
deriving DecidableEq, Repr

/-- The join message of a Tally address. -/
def joinOf (js : List JoinMsg) (tally : Nat) : Option JoinMsg := js.find? (fun j => j.tally == tally)

/-- The least number of a list. -/
def least (l : List Nat) : Option Nat :=
  l.foldl (fun m n => match m with | none => some n | some k => some (min k n)) none

/-- The lowest link by which a member reaches another. -/
def lowestLink (js : List JoinMsg) (a b : Nat) : Option Nat :=
  match joinOf js a with
  | some j => least ((j.peers.filter (fun p => p.tally == b)).map (fun p => p.link))
  | none => none

/-- The members one hop beyond a level join the tree: the parent is the nearest with the lowest Tally address. -/
def growLevel (js : List JoinMsg) (tree : List TreeNode) (d : Nat) : List TreeNode :=
  let level := tree.filter (fun n => n.depth == d)
  let rest := js.filter (fun j => tree.all (fun n => n.tally != j.tally))
  tree ++ rest.filterMap (fun j =>
    match least ((level.filter (fun n => (lowestLink js n.tally j.tally).isSome)).map (fun n => n.tally)) with
    | some p => (lowestLink js p j.tally).map (fun l => ⟨j.tally, d + 1, p, l⟩)
    | none => none)

/-- The breadth-first tree from the root. -/
def treeOf (js : List JoinMsg) (root : Nat) : List TreeNode :=
  (List.range js.length).foldl (growLevel js) [⟨root, 0, root, 0⟩]

def treeNode (tree : List TreeNode) (tally : Nat) : Option TreeNode := tree.find? (fun n => n.tally == tally)

/-- The recorded round trip of the link from a parent to its child, as the lower Tally address has it (R235). -/
def hopRt (js : List JoinMsg) (n : TreeNode) : Nat :=
  let from_ (a : Nat) (p : PeerLink → Bool) : Nat := match joinOf js a with
    | some j => ((j.peers.find? p).map (fun x => x.rt)).getD 0
    | none => 0
  if n.parent < n.tally then from_ n.parent (fun p => p.tally == n.tally && p.link == n.link)
  else from_ n.tally (fun p => p.tally == n.parent && p.peer == n.link)

/-- Path figure (R244): for each hop its one-way latency in ticks, rounded up, and 16 ticks. -/
def pathFigure (js : List JoinMsg) (tree : List TreeNode) : Nat → Nat → Nat
  | 0, _ => 0
  | fuel + 1, tally =>
    match treeNode tree tally with
    | some n => if n.depth = 0 then 0 else ceilDiv (hopRt js n) 24 + 16 + pathFigure js tree fuel n.parent
    | none => 0

/-- Depth of the tree (R238). -/
def treeDepth (tree : List TreeNode) : Nat := tree.foldl (fun m n => max m n.depth) 0

/-- L_UP and L_DOWN: the greatest path figure (R244). -/
def treeFigure (js : List JoinMsg) (tree : List TreeNode) : Nat :=
  tree.foldl (fun m n => max m (pathFigure js tree tree.length n.tally)) 0

/-- A member and its ancestors. -/
def lineage (tree : List TreeNode) : Nat → Nat → List TreeNode
  | 0, _ => []
  | fuel + 1, tally =>
    match treeNode tree tally with
    | some n => if n.depth = 0 then [n] else n :: lineage tree fuel n.parent
    | none => []

/-- This member's link towards its parent. -/
def parentLinkOf (js : List JoinMsg) (n : TreeNode) : Nat :=
  match joinOf js n.tally with
  | some j => ((j.peers.find? (fun p => p.tally == n.parent && p.peer == n.link)).map (fun p => p.link)).getD 0xFF
  | none => 0xFF

/-- The link of a route (R276): the lowest that joins this chip to the target, else along the tree. -/
def routeLink (js : List JoinMsg) (tree : List TreeNode) (own target : Nat) : Option Nat :=
  match lowestLink js own target with
  | some l => some l
  | none =>
    match (lineage tree tree.length target).find? (fun n => n.depth != 0 && n.parent == own) with
    | some n => some n.link
    | none => (treeNode tree own).map (parentLinkOf js)

/-! ## A member's own checks (R231) -/

/-- Tally address of this chip. -/
def ownTally (s : State) : Nat := s.boot.tallyAddr.toNat

/-- The plan of the slot being formed. -/
def formingPlan (s : State) : Option Plan := (getSlot s (getForming s).slot).plan

/-- LINK table ends at a position: own link, and the position, link and rate it must reach. -/
def ownEnds (p : Plan) (pos : Nat) : List (Nat × Nat × Nat × Nat) :=
  p.links.filterMap (fun l =>
    if l.posA = pos then some (l.linkA, l.posB, l.linkB, l.rate)
    else if l.posB = pos then some (l.linkB, l.posA, l.linkA, l.rate) else none)

/-- Members a chip already shares its Crop with: the binding table of a slot bound to it. -/
def cropTable (s : State) : List Nat :=
  match (List.range 16).find? (fun n => boundSlot (getSlot s n)) with
  | some n => (getSlot s n).table
  | none => []

/-- Codes 0x02 to 0x04 (R231): the slot's state, the count and the table, the own entry; 0 when all pass. -/
def localCode (s : State) (x : Slot) (nmember : Nat) (table : List Nat) (further : Bool) : Nat :=
  let npos := match x.plan with | some p => p.npos | none => 0
  let known := cropTable s
  if x.state != .loaded && x.state != .held then 2
  else if nmember != npos || table.any (fun t => decide (1023 < t)) || table.eraseDups.length != table.length
      || (further && !(known.length == table.length && table.all (fun t => known.contains t))) then 3
  else if table.getD x.position 0xFFFF != ownTally s then 4
  else 0

/-- CABLING (R210): a link of the table is not up to the stated end. -/
def cablingBad (s : State) (p : Plan) (pos : Nat) (table : List Nat) : Bool :=
  (ownEnds p pos).any (fun e =>
    let x := getLink s e.1
    !memberLink s e.1 || x.peerTally.toNat != table.getD e.2.1 0xFFFF || x.peerLink.toNat != e.2.2.1)

/-- Spread of the 16 samples (R235). -/
def spreadBad (x : WainLink) : Bool :=
  x.rtSamples.any (fun a => x.rtSamples.any (fun b => decide (b + 2 < a)))

/-- RT limit of R271, judged in ns at the current root. -/
def tripBad (s : State) (x : WainLink) : Bool :=
  decide ((if x.rate then 60672 else 54528) * s.rootPct < 1000 * x.rt)

/-- The links of the LINK table have trained or failed, every identity is known, every member link is measured (R234, R235). -/
def linksKnown (s : State) : Bool :=
  let x := getSlot s (getForming s).slot
  let ends : List Nat := match x.plan with | some p => (ownEnds p x.position).map (fun e => e.1) | none => []
  (List.range 24).all (fun n =>
    let k := getLink s n
    !(k.state == .training && ends.contains n) && (k.state != .up || k.peerIdent.isSome)
      && (!memberLink s n || decide (16 ≤ k.rtSamples.length)))

/-- The lowest failing code of this member's own checks (R231); before its links are known, of those that need no link. -/
def ownCode (s : State) : Nat :=
  let f := getForming s
  let x := getSlot s f.slot
  let ls := memberLinks s
  if f.code != 0 then f.code
  else match x.plan with
    | none => 2
    | some p =>
      if !f.further && !linksKnown s then 0
      else if cablingBad s p x.position f.table then 7
      else if f.further then 0
      else if ls.any (fun n => spreadBad (getLink s n)) then 8
      else if ls.any (fun n => tripBad s (getLink s n)) then 9
      else 0

/-- No link still trains (R282). -/
def linksClosed (s : State) : Bool := (List.range 24).all (fun n => (getLink s n).state != .training)

/-- What this member presents (R223, R231, R234). -/
def ownJoin (s : State) : JoinMsg :=
  let f := getForming s
  let x := getSlot s f.slot
  { position := x.position, tally := ownTally s, isRoot := f.isRoot, code := ownCode s
    planId := match x.plan with | some p => p.planId | none => 0
    imageCrc := match x.plan with | some p => p.crc | none => 0
    bindCrc := x.bindCrc, orderV1 := x.orderV1, nmember := f.nmember, table := f.table
    round := (((joinOf f.joins (ownTally s)).map (fun j => j.round)).getD 0) + 1, known := f.further || linksKnown s
    closed := f.further || (linksClosed s && linksKnown s), moldo := false
    peers := if !f.further && !linksKnown s then [] else (memberLinks s).map (fun n => let k := getLink s n; ⟨n, k.peerTally.toNat, k.peerLink.toNat, k.rt⟩) }

/-- IDENT of this member on a link (R234). -/
def ownIdent (s : State) (link : Nat) : IdentMsg :=
  let f := getForming s
  let x := getSlot s f.slot
  { tally := s.boot.tallyAddr, cropId := s.crop.cropId, position := x.position
    planId := match x.plan with | some p => p.planId | none => 0
    imageCrc := match x.plan with | some p => p.crc | none => 0
    bindCrc := x.bindCrc, orderV1 := x.orderV1, link := link }

/-! ## The checks between members -/

/-- Every member of the own binding table has reported, as many as it has entries; no chip answers to an address above 1,023. -/
def allJoined (f : Forming) : Bool :=
  let t := f.table.filter (fun a => decide (a ≤ 1023))
  t.all (fun a => f.joins.any (fun j => j.tally == a)) && decide (t.length ≤ f.joins.length)

/-- Every member known here has its links known. -/
def allKnown (f : Forming) : Bool := f.joins.all (fun j => j.known)

/-- A Moldo member keeps R256: the fixed order V1, every link of its at RATE 1, a leaf of the tree. -/
def moldoOk (p : Plan) (tree : List TreeNode) (j : JoinMsg) : Bool :=
  let ends := ownEnds p j.position
  bitOf p.flags 0 && bitOf p.flags 1 && ends.all (fun e => e.2.2.2 == 1) && j.peers.all (fun q => ends.any (fun e => e.1 == q.link))
    && tree.all (fun n => n.depth == 0 || n.parent != j.tally)

/-- Codes and positions that fail: those of the members, the comparisons with the root's, the tree (R231). -/
def formFails (s : State) : List (Nat × Nat) :=
  let f := getForming s
  let js := f.joins
  let own := js.filter (fun j => j.code != 0)
  match js.find? (fun j => j.isRoot) with
  | none => own.map (fun j => (j.code, j.position))
  | some r =>
    let tree := treeOf js r.tally
    own.map (fun j => (j.code, j.position))
    ++ (js.filter (fun j => j.nmember != r.nmember || j.table != r.table)).map (fun j => (3, j.position))
    ++ (js.filter (fun j => j.planId != r.planId || j.imageCrc != r.imageCrc || j.bindCrc != r.bindCrc)).map (fun j => (5, j.position))
    ++ (js.filter (fun j => j.orderV1 != r.orderV1)).map (fun j => (6, j.position))
    ++ (if f.further then [] else (js.filter (fun j => match treeNode tree j.tally with
          | some n => decide (16 < n.depth)
          | none => true)).map (fun j => (10, j.position)))
    ++ (match formingPlan s with
        | some p => (js.filter (fun j => j.moldo && !moldoOk p tree j)).map (fun j => (11, j.position))
        | none => [])

/-- The lowest failing code, and the lowest position that fails with it; while a member has not joined or its links are not known,
only the checks that do not look at the tree. -/
def formVerdict (s : State) : Option (Nat × Nat) :=
  let fs := if allJoined (getForming s) && allKnown (getForming s) then formFails s else (formFails s).filter (fun p => decide (p.1 < 10))
  match least (fs.map (fun p => p.1)) with
  | some c => (least ((fs.filter (fun p => p.1 == c)).map (fun p => p.2))).map (fun q => (c, q))
  | none => none

/-! ## Ending a formation -/

/-- The command of a formation completes and nothing is being formed any more. -/
def replyForming (s : State) (st : Byte) (detail : W32) : State :=
  let f := getForming s
  let s := setForming s {}
  match f.req with
  | some r => completeSeq s r.windrow r.seq r.irq st detail 0
  | none => s

/-- A formation ends without a binding (R231 to R233): the slot returns to its state before. -/
def endForming (s : State) (st : Byte) (detail : W32) : State :=
  let f := getForming s
  if !f.active then s
  else
    let x := getSlot s f.slot
    let x := { x with forming := none }
    let y : Slot := if x.provisional then { x with state := x.before, provisional := false, cropId := 0, table := [] } else x
    let s := replyForming (setSlot s f.slot y) st detail
    if s.crop.member then checkMembership s else { s with crop := {} }

/-- How ABORT's code ends a command: a failed check, or a timeout (R231, R232). -/
def abortStatus (code position : Nat) : Byte × W32 :=
  if code = 0 then (stCropLost, formDetail 0 position) else (stBadPacket, formDetail code position)

/-- The root refuses the formation: ABORT to every member it reaches, and its own command ends. -/
def rootAbort (s : State) (code position : Nat) : State :=
  let f := getForming s
  let s := sendAll s (trainedLinks s) (.abort f.cropId (BitVec.ofNat 8 code) position true)
  let a := abortStatus code position
  endForming s a.1 a.2

/-- The lowest position whose member has not joined, 0x3FF for none (R232). -/
def lowestAbsent (f : Forming) : Nat :=
  ((List.range f.table.length).find? (fun p => f.joins.all (fun j => j.tally != f.table.getD p 0xFFFF))).getD 0x3FF

/-! ## Binding (R233) -/

/-- Ticks of the one-way latency of a round trip at 105 % of nominal (R237). -/
def lateTicks (s : State) (rt : Nat) : Nat := ceilDiv (105 * rt * 100) (2400 * s.rootPct)

/-- How far round trips exceed LINK_BUDGET, of those that do (R237). -/
def lateExcess (s : State) (p : Plan) (rts : List Nat) : List Nat :=
  (rts.map (fun rt => lateTicks s rt - p.linkBudget)).filter (fun n => n != 0)

/-- Excesses of the links of the table that end at a position. -/
def ownLate (s : State) (p : Plan) (pos : Nat) : List Nat := lateExcess s p ((ownEnds p pos).map (fun e => (getLink s e.1).rt))

/-- The round trip of a link of the table as one of its ends reports it. -/
def reportedRt (js : List JoinMsg) (table : List Nat) (l : LinkEntry) : Nat :=
  let at_ (pos link : Nat) : Option Nat :=
    (joinOf js (table.getD pos 0xFFFF)).bind (fun j => (j.peers.find? (fun q => q.link == link)).map (fun q => q.rt))
  ((at_ l.posA l.linkA).orElse (fun _ => at_ l.posB l.linkB)).getD 0

/-- Excesses of the links of the table that end elsewhere. -/
def farExcess (s : State) (p : Plan) (pos : Nat) (js : List JoinMsg) (table : List Nat) : List Nat :=
  lateExcess s p ((p.links.filter (fun l => l.posA != pos && l.posB != pos)).map (reportedRt js table))

/-- LATE_LINKS and WORST_EXCESS from the excesses of every link of the table (R237, R253). -/
def recordLate (c : Crop) (far own : List Nat) : Crop :=
  let all := far ++ own
  { c with farLate := far, lateLinks := BitVec.ofNat 32 all.length, worstExcess := BitVec.ofNat 32 (all.foldl max 0) }

/-- The Crop record and the routes once the tree is known (R238, R244, R253, R276). -/
def joinTree (s : State) : State :=
  let f := getForming s
  let js := f.joins
  match js.find? (fun j => j.isRoot) with
  | none => s
  | some r =>
    let tree := treeOf js r.tally
    let own := ownTally s
    let l := BitVec.ofNat 32 (treeFigure js tree)
    let x := getSlot s f.slot
    let routes := tree.foldl (fun (t : Tbl (Option Nat)) n =>
      if n.tally = own then t else put none t n.tally (routeLink js tree own n.tally)) []
    match treeNode tree own with
    | none => s
    | some n =>
      let c := match x.plan with
        | some p => recordLate s.crop (farExcess s p x.position js f.table) (ownLate s p x.position)
        | none => s.crop
      { s with
        wain := { s.wain with routes := routes }
        crop := { c with
          rootTally := BitVec.ofNat 16 r.tally, nmember := BitVec.ofNat 16 f.nmember, depth := BitVec.ofNat 8 (treeDepth tree)
          myDepth := BitVec.ofNat 8 n.depth, parentLink := if n.depth = 0 then 0xFF else BitVec.ofNat 8 (parentLinkOf js n)
          lUp := l, lDown := l
          children := (tree.filter (fun k => k.depth != 0 && k.parent == own)).map (fun k => k.link) } }

/-- The samples of a measurement that is over are dropped; RT stays (R235). -/
def dropSamples (s : State) : State := (List.range 24).foldl (fun s n => setLink s n { getLink s n with rtSamples := [] }) s

/-- The slot is bound provisionally and the chip is a member (R229, R233). -/
def bindForming (s : State) : State :=
  let f := getForming s
  let x := getSlot s f.slot
  let s := setSlot s f.slot { x with state := .bound, before := x.state, provisional := true, cropId := f.cropId, table := f.table }
  { s with crop := { s.crop with member := true, cropId := f.cropId } }

/-- The command completes with DONE and the binding is final (R233). -/
def confirmForming (s : State) (startTo : Nat) : State :=
  let f := getForming s
  let s := setSlot s f.slot { getSlot s f.slot with provisional := false, forming := none }
  replyForming { s with crop := { s.crop with startTo := startTo } } stDone 0

/-- W of R244. -/
def workAllowance (p : Plan) (turns : Bool) : Nat := 256 + ceilDiv p.nstep 4 + (if turns then 4096 else 0)

/-- CROP_FORM reports L_UP, L_DOWN and W (R245). DESIGN CHOICE: as an output of its own, since neither its reply nor the Crop record has a
place for W (log 29). -/
def reportFigures (s : State) : State :=
  match formingPlan s with
  | some p => emit s (.cropFigures s.crop.lUp.toNat s.crop.lDown.toNat (workAllowance p false))
  | none => s

/-- The root completes once every other member has reported (R233). -/
def rootComplete (s : State) : State :=
  let f := getForming s
  if f.active && f.isRoot && f.aligned && decide (f.nmember ≤ f.bound.length + 1) then
    confirmForming (reportFigures (sendAll s s.crop.children (.bindNotice f.startTo))) f.startTo
  else s

/-- A member that has bound reports to the root; the root looks whether it can complete. -/
def reportBound (s : State) : State :=
  let f := getForming s
  if f.isRoot then rootComplete s
  else sendCtrl s s.crop.parentLink.toNat (.bindReport (.bound (getSlot s f.slot).position))

/-- Root cycles, 0 to 11, by which an A-cycle is stretched so that the hyperperiod boundaries of a chip whose CTB stands at q quarters of a
root cycle on one of them fall nearest to CTB multiples of 12; a tie takes the smaller stretch (R239). -/
def stretchFor (q : Nat) : Nat := let r := q % 48; if r ≤ 2 then 0 else (49 - r) / 4

/-- CTB is set to q quarters of a root cycle (R239). DEDUCED: this happens at a hyperperiod boundary of the chip, and the next A-cycle is
the one that is stretched (log 29). -/
def alignCtb (s : State) (q : Nat) : State :=
  { s with ctb := BitVec.ofNat 64 (q / 4), ctbQuarter := q % 4, stretch := stretchFor q }

/-- TIME joins the queues of the links to the children; it carries CTB when it leaves (R239). -/
def sendTime (s : State) : State := sendAll s s.crop.children (.time s.ctb (BitVec.ofNat 2 s.ctbQuarter))

/-- Aligned with CTB at q quarters: TIME goes to the children, the slot binds, the binding is reported (R233, R239). -/
def alignForming (s : State) (q : Nat) : State :=
  let f := getForming s
  if f.further then reportBound (bindForming (setForming s { f with aligned := true }))
  else
    let s := joinTree (setForming (alignCtb s q) { f with aligned := true })
    let s := sendAll s s.crop.children (.bindReport (.settled f.joins))
    reportBound (bindForming (sendTime (dropSamples s)))

/-- The root decides (R231): a failed check ends the formation once no link of a member that has joined still trains; at once, when
every member has joined, for a check that needs no link, and for one that needs no tree when their links are known. Without a failed
check the formation goes on when every member has joined and its links are known. Members of a Crop that binds a further slot bind
when no check fails (R229). -/
def judgeForming (s : State) : State :=
  let f := getForming s
  let closed := f.joins.all (fun j => j.closed)
  if !f.active || f.aligned || (joinOf f.joins (ownTally s)).isNone then s
  else match formVerdict s with
    | some (code, pos) =>
      if f.isRoot && (closed || (allJoined f && (decide (code < 7) || (allKnown f && decide (code < 10))))) then rootAbort s code pos else s
    | none => if allJoined f && allKnown f && (f.isRoot || f.further) then alignForming s 0 else s

/-- A member's check results join those known here: the later round counts. -/
def keepJoin (js : List JoinMsg) (j : JoinMsg) : List JoinMsg := js.filter (fun k => k.tally != j.tally) ++ [j]

/-- What a member has said before is all it has to say. -/
def sameJoin (js : List JoinMsg) (j : JoinMsg) : Bool :=
  match joinOf js j.tally with
  | some k => { k with round := 0 } == { j with round := 0 }
  | none => false

/-- This member's own checks are told to every member (R231), again whenever a further link has trained or failed (log 29). -/
def reportChecks (s : State) : State :=
  let f := getForming s
  let j := ownJoin s
  if !f.active || f.aligned || f.settled || sameJoin f.joins j then judgeForming s
  else
    let s := setForming s { f with joins := keepJoin f.joins j }
    judgeForming (sendAll s (memberLinks s) (.bindReport (.checks j)))

/-! ## CROP_FORM and CROP_JOIN (R230, R515, R516) -/

/-- RATE of a link in a plan's LINK table at a position (R258). -/
def tableRate (p : Option Plan) (pos n : Nat) : Bool :=
  match p with
  | some p => (ownEnds p pos).any (fun e => e.1 == n && e.2.2.2 == 1)
  | none => false

/-- Formation begins: every link trains (R282). -/
def trainLinks (s : State) (x : Slot) : State :=
  (List.range 24).foldl (fun s n =>
    let s := loseRemoteOver s n
    setLink s n { state := .training, rate := tableRate x.plan x.position n, err := (getLink s n).err }) s

/-- The chip is in another Crop, or forms one (R229, R231). -/
def otherCrop (s : State) (cropId : W32) : Bool :=
  ((getForming s).active && (getForming s).cropId != cropId) || (s.crop.member && s.crop.cropId != cropId)

/-- A further slot is formed away from the root (R229). -/
def formedAway (s : State) (isRoot : Bool) : Bool := s.crop.member && isRoot && s.crop.parentLink != 0xFF

/-- Formation starts at this member. -/
def startForming (s : State) (h : CmdHdr) (c : Instr) (isRoot : Bool) (slot nmember : Nat) (cropId : W32) (table : List Nat) (startTo : Nat) : State :=
  let x := getSlot s slot
  let further := s.crop.member
  let req : RunReq := ⟨h.windrow, h.seq, h.context, h.irq, startOf s h.windrow h.seq⟩
  let f : Forming := { active := true, isRoot := isRoot, further := further, slot := slot, cropId := cropId, nmember := nmember
                       table := table, startTo := startTo, code := localCode s x nmember table further, req := some req }
  let s := stayInProgress (setSlot s slot { x with forming := some req }) h c
  if further then reportChecks (setForming s f)
  else reportChecks (trainLinks { s with crop := { cropId := cropId, forming := f }, wain := { s.wain with routes := [] } } x)

/-- CROP_FORM and CROP_JOIN up to the start of formation; a chip without a Tally address answers STATE (R570). A chip in another Crop says
so to the members it reaches, and the root refuses the formation (R231). DESIGN CHOICE: while another slot of the same Crop is being
formed, the command stays in progress and goes on with its row after that (log 29). -/
def formCommand (s : State) (h : CmdHdr) (c : Instr) (isRoot : Bool) (slot nmember : Nat) (cropId : W32) (table timeouts : List Nat) : State :=
  let pos := (getSlot s slot).position
  guardCodes s h [(decide (15 < slot) || nmember == 0 || decide (1024 < nmember) || timeouts.any (fun t => decide (60000 < t)), pcRange)] (fun s =>
    if !s.boot.tallyValid then badPacket s h pcState
    else if otherCrop s cropId then complete (sendAll s (trainedLinks s) (.abort cropId 1 pos false)) h stBadPacket (formDetail 1 pos) 0
    else if (getForming s).active then stayInProgress s h c
    else if formedAway s isRoot then complete s h stBadPacket (formDetail 1 pos) 0
    else match readDevice s (table.getD 0 0) (2 * nmember) h.context with
      | (.refused st, s) => complete s h st (plainDetail st) 0
      | (.poison, s) => complete s h stFaultUnresolved (plainDetail stFaultUnresolved) 0
      | (.bytes bs, s) =>
        let start := timeouts.getD 1 0
        startForming s h c isRoot slot nmember cropId ((List.range nmember).map (fun i => fieldLE bs (2 * i) 2)) (if start = 0 then 10000 else start))

/-- CROP_FORM: this chip becomes the Crop root. -/
def execCropForm (h : CmdHdr) (slot : Byte) (nmember : W16) (cropId : W32) (table : W64) (formTo startTo : W32) (s : State) :
    Host.Outcome State Fault Refusal :=
  command s h true false false (fun s =>
    if (getWindrow s h.windrow).inprog.any (fun p => p.seq == h.seq) && (getForming s).req.any (fun r => r.windrow == h.windrow && r.seq == h.seq) then s
    else formCommand s h (.cropForm h slot nmember cropId table formTo startTo) true slot.toNat nmember.toNat cropId [table.toNat]
      [formTo.toNat, startTo.toNat])

/-- CROP_JOIN: this chip joins. -/
def execCropJoin (h : CmdHdr) (slot : Byte) (nmember : W16) (cropId : W32) (table : W64) (joinTo : W32) (s : State) :
    Host.Outcome State Fault Refusal :=
  command s h true false false (fun s =>
    if (getWindrow s h.windrow).inprog.any (fun p => p.seq == h.seq) && (getForming s).req.any (fun r => r.windrow == h.windrow && r.seq == h.seq) then s
    else formCommand s h (.cropJoin h slot nmember cropId table joinTo) false slot.toNat nmember.toNat cropId [table.toNat] [joinTo.toNat])

/-! ## Messages of formation -/

/-- A link has trained (R282): it is UP, and this member's identity and what it has heard of the others' checks go out. -/
def linkUp (s : State) (link : Nat) : State :=
  let s := setLink s link { getLink s link with state := .up }
  let s := if (getForming s).active then sendCtrl s link (.ident (ownIdent s link)) else s
  reportChecks ((getForming s).joins.foldl (fun s j => sendCtrl s link (.bindReport (.checks j))) s)

/-- IDENT (R234): the peer's identity is kept; in a formation the lower Tally address sends 16 PROBE frames (R235). -/
def execIdent (link : Nat) (m : IdentMsg) (s : State) : Host.Outcome State Fault Refusal :=
  let s := takeFrom s link (.ident m)
  let x := getLink s link
  if x.state != .up then .next s
  else
    let s := setLink s link { x with peerIdent := some m, peerLink := BitVec.ofNat 5 m.link, peerTally := m.tally }
    let f := getForming s
    let probes := f.active && !f.further && m.cropId == s.crop.cropId && decide (ownTally s < m.tally.toNat)
    let s := if probes then (List.range 16).foldl (fun s i => sendCtrl s link (.probe false i)) s else s
    .next (if f.active then reportChecks s else s)

/-- LATE_LINKS and WORST_EXCESS follow a new round trip of a member (R237, R242). -/
def refreshLate (s : State) : State :=
  match runningSlot s with
  | some n =>
    let x := getSlot s n
    match x.plan with
    | some p => if s.crop.member then { s with crop := recordLate s.crop s.crop.farLate (ownLate s p x.position) } else s
    | none => s
  | none => s

/-- One round trip is recorded: the peer's turnaround of 96 root cycles is subtracted; the 16th gives RT (R235). -/
def recordTrip (s : State) (link roundTrip : Nat) : State :=
  let x := getLink s link
  let v := x.rtSamples ++ [roundTrip - 192]
  if 16 ≤ x.rtSamples.length then s
  else refreshLate (setLink s link { x with rtSamples := v, rt := if v.length = 16 then v.sum / 16 else x.rt })

/-- BIND_REPORT: a member's checks, passed on to every other link once; those the root has settled on; or a binding, passed on
towards the root. -/
def execBindReport (link : Nat) (m : BindMsg) (s : State) : Host.Outcome State Fault Refusal :=
  let s := takeFrom s link (.bindReport m)
  let f := getForming s
  match m with
  | .checks j =>
    if !f.active || f.aligned || f.settled || !memberLink s link || f.joins.any (fun k => k.tally == j.tally && decide (j.round ≤ k.round)) then .next s
    else
      let s := setForming s { f with joins := keepJoin f.joins j }
      .next (judgeForming (sendAll s ((memberLinks s).filter (fun n => n != link)) (.bindReport m)))
  | .settled js => .next (if f.active && !f.isRoot && !f.aligned && memberLink s link then setForming s { f with joins := js, settled := true } else s)
  | .bound pos =>
    if s.crop.parentLink = 0xFF then
      if f.active && f.isRoot && !f.bound.contains pos then .next (rootComplete (setForming s { f with bound := f.bound ++ [pos] })) else .next s
    else if s.crop.member then .next (sendCtrl s s.crop.parentLink.toNat (.bindReport m)) else .next s

/-- BIND_NOTICE: formation is complete; it is passed on and CROP_JOIN completes with DONE (R230, R233). -/
def execBindNotice (startTo : Nat) (s : State) : Host.Outcome State Fault Refusal :=
  let s := takeMsg s (.bindNotice startTo)
  let f := getForming s
  if f.active && !f.isRoot && f.aligned then .next (confirmForming (sendAll s s.crop.children (.bindNotice startTo)) startTo) else .next s

/-- ABORT (R231, R232): the root's ends the formation and is passed on; a member's is passed on, and the root on receiving it refuses the
formation with its code, or aborts as on its timeout. -/
def execAbort (link : Nat) (cropId : W32) (code : Byte) (position : Nat) (fromRoot : Bool) (s : State) : Host.Outcome State Fault Refusal :=
  let s := takeFrom s link (.abort cropId code position fromRoot)
  let f := getForming s
  let others := (trainedLinks s).filter (fun n => n != link)
  let a := abortStatus code.toNat position
  if !f.active || f.cropId != cropId then .next s
  else if fromRoot then
    if f.isRoot then .next s
    else .next (endForming (sendAll s others (.abort cropId code position true)) a.1 a.2)
  else if f.isRoot then .next (if code = 0 then rootAbort s 0 (lowestAbsent f) else rootAbort s code.toNat position)
  else if f.aborting then .next s
  else
    let s := sendAll (setForming s { f with aborting := true }) others (.abort cropId code position false)
    .next (if f.joins.any (fun j => j.isRoot) then s else endForming s a.1 a.2)

/-- FORM_TIMEOUT at the root before every member has joined (R232). -/
def execFormTimeout (s : State) : Host.Outcome State Fault Refusal :=
  let f := getForming s
  if f.active && f.isRoot && !f.aligned && !allJoined f then .next (rootAbort s 0 (lowestAbsent f)) else .next s

/-- JOIN_TIMEOUT at a member that has not reported its binding (R232, R233): ABORT leaves on every trained link; a member that
knows of no root ends here, else it awaits the root's ABORT. -/
def execJoinTimeout (s : State) : Host.Outcome State Fault Refusal :=
  let f := getForming s
  if !f.active || f.isRoot || f.aligned || f.aborting then .next s
  else
    let s := sendAll (setForming s { f with aborting := true }) (trainedLinks s) (.abort f.cropId 0 0x3FF false)
    .next (if f.joins.any (fun j => j.isRoot) then s else endForming s stCropLost (formDetail 0 0x3FF))

end Sys2Proof.Machine
end

