-- ==== Sys2Proof/Machine/RunOps.lean ====
section
/-!
DEFINITION. What runs of a plan are made of: relocation (R203, R204, R206, R208), Seedcorn records (R170, R208, R209), plan leases
(R215), margin requests (R545 to R549), entering the start barrier, and the end of a run (R224, R496, R498, R516, R544).
-/
namespace Sys2Proof.Machine

/-! ## Relocation -/

/-- One descriptor entry with an address field replaced. -/
def patchEntry (x : Slot) (p : Plan) (epoch : Nat) (r : RelocEntry) (d : List Byte) : List Byte :=
  let o := relocOffset r.field
  splice d o (toLE 8 (arenaAddr x p r.arena r.mode epoch (bits (fieldLE d o 8) 55 0)))

/-- The descriptor tables of the position's Tillers in an epoch (R204, R208). -/
def patchDescs (x : Slot) (p : Plan) (epoch : Nat) : List (List (List Byte)) :=
  (p.relocs.filter (fun r => r.position == x.position)).foldl
    (fun ds r => ds.modify r.tiller (fun es => es.modify r.entry (patchEntry x p epoch r))) p.descs

/-- A word of a descriptor entry rewritten with its check bits (R158). -/
def putDescWord (t : Tiller) (entry i : Nat) (v : Nat) : Tiller :=
  { t with descs := t.descs.modify entry (fun d => splice d (8 * i) (toLE 8 v))
           descChk := t.descChk.modify entry (fun c => c.set i (BitVec.ofNat 8 (checkBits (v % 2 ^ 64)))) }

/-- Tiller n's MODE IN and OUT fields rewritten to the copies of an epoch (R208). -/
def turnDescs (x : Slot) (p : Plan) (epoch n : Nat) (t : Tiller) : Tiller :=
  (p.relocs.filter (fun r => r.position == x.position && r.tiller == n && r.mode != 0)).foldl (fun t r =>
    let o := relocOffset r.field
    putDescWord t r.entry (o / 8) (arenaAddr x p r.arena r.mode epoch (bits (fieldLE (descAt (p.descs.getD n []) r.entry) o 8) 55 0))) t

/-! ## Seedcorn records -/

/-- A Tiller's record (R170): where it goes on after the barrier. -/
def tillerRecOf (t : Tiller) : TillerRec :=
  { pc := if t.mode = .barrier then pcNext t else t.pc, loops := t.loops, ags := t.ags, step := t.step
    mode := if t.mode = .halted then .halted else .run }

/-- A Tiller of a run that starts from a record, or, without one, at address 0 (R157, R227). -/
def tillerFrom (s : State) (prog : List W64) (descs : List (List Byte)) (slip : W32) (r : Option TillerRec) : Tiller :=
  match r with
  | some r => fillStores { pc := r.pc, loops := r.loops, ags := r.ags, step := r.step, mode := r.mode, slip := slip, nextTick := s.tick } prog descs
  | none => fillStores { mode := .run, slip := slip, nextTick := s.tick } prog descs

/-- Every Tiller from a list of records, with stores reloaded from the retained copy (R158, R220). The slip counters start from 0 with a
run, and with a resume; a replay keeps them (R157; log 50). -/
def restoreTillers (s : State) (x : Slot) (p : Plan) (epoch : Nat) (recs : List TillerRec) (keepSlip : Bool) : State :=
  let ds := patchDescs x p epoch
  (List.range 53).foldl (fun s t =>
    setTiller s t (tillerFrom s (p.progs.getD t []) (ds.getD t []) (if keepSlip then (getTiller s t).slip else 0) recs[t]?)) s

/-- LOAD and PASS counts of each Sheaf (log 23). -/
def sheafCounts (s : State) : List (Nat × Nat) := (List.range 16).map (fun n => let x := getSheaf s n; (x.loads, x.passes))

/-- Sheaves at the start of a run or a replay: counts from the record, nothing in flight. -/
def restoreSheaves (s : State) (counts : List (Nat × Nat)) (keepHold : Bool) : State :=
  (List.range 16).foldl (fun s n =>
    let x := getSheaf s n
    let c := counts.getD n (0, 0)
    setSheaf s n { x with loads := c.1, passes := c.2, regions := [], freeAt0 := 0, freeAt1 := 0, freeStep0 := 0, freeStep1 := 0, portFree := 0, fillFree := 0
                          hold := if keepHold then x.hold else 0 }) s

/-- The counters COUNTERS_READ returns, as gathered at a barrier (R91, R518). -/
def snapCounters (s : State) (epoch : W64) : Counters :=
  { epoch := epoch, tick := s.globalTick, slips := (List.range 53).map (fun t => (getTiller s t).slip)
    holds := (List.range 16).map (fun n => (getSheaf s n).hold) }

/-- Step records with what a barrier gathered (R88, R155, R209). -/
def gatherSteps (steps : List StepRec) (gather : List StepGather) (last : Option W32) : List StepRec :=
  let add (r : StepRec) (g : StepGather) : StepRec :=
    { r with flags := r.flags ||| g.flags, vanish := satAdd32 r.vanish g.vanish.toNat }
  let steps := gather.foldl (fun st g => st.modify g.step (fun r => add r g)) steps
  match last with
  | some e => steps.map (fun r => { r with epochLast := e })
  | none => steps

/-- The Seedcorn record of a barrier is written and valid (R208, R209, R247 steps 1 and 2); what it replaced is kept until the release. -/
def writeRecord (x : Slot) (seed : SeedRec) (c : Counters) : Slot :=
  { x with newest := some seed, older := x.newest, seedValid := true, steps := seed.steps, counters := c
           pend := some ⟨x.newest, x.older, x.seedValid, x.steps, x.counters⟩ }

/-- A barrier that does not release leaves the record before it as the last valid one (R251). -/
def dropRecord (x : Slot) : Slot :=
  match x.pend with
  | some r => { x with newest := r.newest, older := r.older, seedValid := r.seedValid, steps := r.steps, counters := r.counters, pend := none }
  | none => x

/-- A slot as COUNTERS_READ shows it: what the last completed barrier gathered (R91). -/
def shownRecord (x : Slot) : Slot :=
  match x.pend with
  | some r => { x with steps := r.steps, counters := r.counters }
  | none => x

/-- Gathered flags and counters of two members combine by OR and saturating addition (R243). -/
def mergeGather (a b : List StepGather) : List StepGather :=
  b.foldl (fun l g =>
    if l.any (fun k => k.step == g.step) then
      l.map (fun k => if k.step = g.step then { k with flags := k.flags ||| g.flags, vanish := satAdd32 k.vanish g.vanish.toNat } else k)
    else l ++ [g]) a

/-- What this member gathered in the epoch. -/
def ownGather (s : State) : List StepGather := s.crop.acc.map (fun p => ⟨p.1, p.2.flags, p.2.vanish⟩)

/-! ## Plan leases (R215) -/

/-- LEASE entries of the slot's position that hold in an epoch. -/
def leasesIn (x : Slot) (p : Plan) (epoch : Nat) : List LeaseEntry :=
  p.leases.filter (fun l => l.position == x.position && decide (l.epochFirst ≤ epoch) && decide (epoch ≤ l.epochLast))

/-- Sheaves under a plan lease now. -/
def planLeased (s : State) : List Nat :=
  (List.range 16).filter (fun n => match (getSheaf s n).lease with | some l => l.byPlan | none => false)

/-- Every plan lease ends (R215). -/
def endPlanLeases (s : State) : State := (planLeased s).foldl leaseEnd s

/-- Sheaves the leases of an epoch name, with their attachments. -/
def leaseSheaves (x : Slot) (p : Plan) (epoch : Nat) : List (Nat × Nat) :=
  (leasesIn x p epoch).flatMap (fun l => (sheavesOf l.sheaves).map (fun n => (n, l.attach)))

/-- A LEASE entry that holds in an epoch holds in the one before as well. -/
def heldBefore (l : LeaseEntry) (from_ : Option Nat) : Bool :=
  match from_ with
  | some e => decide (l.epochFirst ≤ e) && decide (e ≤ l.epochLast)
  | none => false

/-- Leases that the barrier from one epoch into another ends and begins: a lease goes on where one entry holds in both epochs, and a
lease begins under the plan's context. -/
def turnLeases (s : State) (x : Slot) (p : Plan) (from_ : Option Nat) (epoch : Nat) : State :=
  let goesOn (n : Nat) : Bool := (leasesIn x p epoch).any (fun l => (sheavesOf l.sheaves).contains n && heldBefore l from_)
  let s := ((planLeased s).filter (fun n => !goesOn n)).foldl leaseEnd s
  (leaseSheaves x p epoch).foldl (fun s w => if (getSheaf s w.1).lease.isSome then s else leaseTake s w.1 ⟨w.2, x.context, true, false⟩) s

/-- Whether the barrier into an epoch turns a lease on any member (R244). -/
def leaseTurns (p : Plan) (epoch : Nat) (from_ : Option Nat) : Bool :=
  p.leases.any (fun l =>
    heldBefore l (some epoch) != heldBefore l from_)

/-- Plan leases taken and not yet begun begin by the release. -/
def beginPlanLeases (s : State) : State :=
  (planLeased s).foldl (fun s n => match (getSheaf s n).lease with | some l => if l.begun then s else leaseBegins s n | none => s) s

/-! ## Ripeness at a barrier (R545 to R549) -/

/-- The chip's slack: the least epoch minimum of its 104 monitors; an unread one stands at 65,535 (log 16). -/
def chipSlack (s : State) : Nat := (List.range 104).foldl (fun m k => min m (look 65535 s.margin.slack k)) 65535

/-- A waiting policy holds from this barrier (R550). -/
def takePolicy (s : State) : State :=
  match s.margin.pendingPolicy with
  | some (c, lo, hi, en) => { s with margin := { s.margin with vddCeil := c, fmin := lo, fmax := hi, enable := en, pendingPolicy := none } }
  | none => s

/-- Request code of R546; a CRITICAL reading counts as slack below 25 ps whatever the policy (R547). -/
def marginRequest (s : State) : Nat :=
  let m := s.margin
  let low := decide (chipSlack s < 25)
  let ceil := m.atCeiling || decide (m.vddCeil ≤ m.vddMv)
  if !m.enable && !m.critical then 0
  else if low || m.critical then
    if ceil && decide (s.rootPct ≤ m.fmin) then 4
    else if ceil then 2
    else if 16 ≤ m.epochsSinceStep then 1
    else 0
  else if 4096 ≤ m.relaxRun.toNat then 3
  else 0

/-- RELAX_RUN at the end of an epoch. -/
def countRelax (s : State) : State :=
  { s with margin := { s.margin with relaxRun := if chipSlack s < 60 then 0 else satAdd32 s.margin.relaxRun 1 } }

/-- The request is formed: the policy that holds, the code reported, and the VDD_A step the member will take itself (R546, R549). -/
def formRequest (s : State) (closes : Bool) : State :=
  let s := takePolicy s
  let s := if closes then countRelax s else s
  let q := marginRequest s
  let m := s.margin
  let down := q == 3 && decide (m.fmax ≤ s.rootPct) && decide (m.vddBoot + 5 ≤ m.vddMv) && decide (16 ≤ m.epochsSinceStep)
  { s with margin := { m with lastReq := q, stepWanted := if q = 1 then some true else if down then some false else none } }

/-- VID of a voltage (R562). -/
def vidOf (mv : Nat) : Nat := (mv - 650) / 5

/-- VID takes the code of VDD_A while VID_ACK is high, and VID_STB is pulsed (R562). -/
def driveVid (s : State) : State :=
  let v := vidOf s.margin.vddMv
  if s.margin.vidAckHigh && s.boot.fwRunning && s.margin.vid != v then
    emit { s with margin := { s.margin with vid := v, vidAckHigh := false } } (.vid v)
  else s

/-- The member takes its VDD_A step of 5 mV: VID follows at once, or when VID_ACK is high again (R549, R562). -/
def stepVdd (s : State) : State :=
  let m := s.margin
  match m.stepWanted with
  | none => s
  | some up =>
    let v := if up then min m.vddCeil (m.vddMv + 5) else m.vddMv - 5
    if v = m.vddMv ∨ v < 650 ∨ 850 < v then { s with margin := { m with stepWanted := none } }
    else driveVid { s with margin := { m with vddMv := v, vsteps := satAdd32 m.vsteps 1, epochsSinceStep := 0, stepWanted := none } }

/-- At a release: the member's own step, and the minima of the new epoch start over (R545, R549). -/
def marginRelease (s : State) (opens : Bool) : State :=
  let m := s.margin
  let s := { s with margin := { m with slack := [], critical := false, epochsSinceStep := if opens then m.epochsSinceStep + 1 else m.epochsSinceStep } }
  stepVdd s

/-! ## Beginning a run -/

/-- Local DEVICE arenas of a kind: offset and length (R376, R225). -/
def localArenas (x : Slot) (p : Plan) (pick : ArenaEntry → Bool) : List (Nat × Nat) :=
  ((List.range p.arenas.length).zip p.arenas).filterMap (fun k =>
    if k.2.position = x.position ∧ k.2.space = 0 ∧ pick k.2 then some (bits (x.binds.getD k.1 0) 51 0, arenaSpan k.2) else none)

/-- Arenas written back, and with `inval` invalidated (R374). -/
def flushArenas (s : State) (rs : List (Nat × Nat)) (inval : Bool) : State :=
  flushWhere s (fun l => rs.any (fun r => inRange r.1 r.2 l)) inval

/-- The run's request as its command gives it. -/
def runReqOf (s : State) (h : CmdHdr) : RunReq := ⟨h.windrow, h.seq, h.context, h.irq, startOf s h.windrow h.seq⟩

/-- A slot enters the start barrier (R224, R227, R376): CONST arenas are written back and invalidated, the Tillers wait. -/
def enterStart (s : State) (h : CmdHdr) (c : Instr) (n : Nat) (p : Plan) (x : Slot) : State :=
  let s := flushArenas s (localArenas x p (fun a => a.kind == 0)) true
  let s := restoreSheaves (clearRun s) ((x.newest.map (fun r => r.counts)).getD []) false
  let s := setSlot s n { x with state := .running, run := some (runReqOf s h), pend := none, isolated := false, twoEpochs := false }
  let s := { s with crop := { s.crop with
    phase := .start, startBarrier := true, replayBarrier := false, selfArrive := none, stopAgreed := false, stops := [], ending := none, acc := []
    completions := [], stage := 0, replaySeen := [], reports := [], settled := true, realigned := false, waitTime := none } }
  stayInProgress { s with err := { s.err with replaying := false, restarts := 0, reported := [] } } h c

/-! ## The end of a run -/

/-- OR of every step's flag byte (R516). -/
def runFlags (x : Slot) : Byte := x.steps.foldl (fun f r => f ||| r.flags) 0

/-- DONE, DONE_REPLAYED or DONE_REPLANNED (R544). -/
def runStatus (x : Slot) : Byte := if x.replans ≠ 0 then stReplanned else if x.replays ≠ 0 then stReplayed else stDone

/-- TIME of a reply that carries both counts (R496). -/
def countsTime (x : Slot) : W32 := BitVec.ofNat 32 (min x.replays 65535 + 65536 * min x.replans 65535)

/-- The reply of a PLAN_RUN or PLAN_RESUME, written when its run ends. -/
def replyRun (s : State) (x : Slot) (st : Byte) (detail : W32) : State :=
  match x.run with
  | none => s
  | some r =>
    let counts := st == stReplayed || st == stReplanned
    finishReply s r.windrow
      { seq := r.seq, detail := detail, time := if counts then countsTime x else replyTime s r.start, status := st, flags := runFlags x
        info := if counts then 1 else 0, signal := r.irq || bitOf (getWindrow s r.windrow).cfg 5 }

/-- A run ends: its reply and those of waiting PLAN_STOPs, its leases, Tillers and barrier state; the slot takes its new state. -/
def endRun (s : State) (n : Nat) (y : Slot) (st : Byte) (detail : W32) : State :=
  let s := replyRun s y st detail
  let s := setSlot s n { y with run := none, pend := none, lastStatus := st }
  let s := s.crop.stops.foldl (fun s q => done s q.1) s
  let s := clearRun (endPlanLeases s)
  let s := { s with
    err := { s.err with replaying := false, restarts := 0, reported := [] }
    crop := { s.crop with
      phase := .none, startBarrier := false, replayBarrier := false, arrived := [], selfArrive := none, stopAgreed := false, stops := [], ending := none, acc := []
      completions := [], stage := 0, replaySeen := [], reports := [], settled := true, realigned := false, waitTime := none } }
  checkMembership s

/-- DETAIL of a run that ended before completion (R516). -/
def endDetail (cause suspect : Nat) : W32 := BitVec.ofNat 32 (1 + 2 ^ 8 * cause + 2 ^ 16 * suspect)

/-- A plan's sub-operation waits on a translation or a fault (R252, R410). -/
def planWaits (s : State) : Bool :=
  let tiller (r : Requester) : Bool := match r with | .tiller _ => true | _ => false
  (s.tr.misses ++ s.tr.held).any (fun m => m.waiters.any (fun w => tiller w.1))
  || s.tr.faults.any (fun p => match p.2 with | some f => f.waiters.any tiller | none => false)

/-- No access of the run is on its way, or parked (R243, R252, R362, R410, R531 step 4). -/
def runQuiet (s : State) : Bool :=
  let ctx := match runningSlot s with | some n => (getSlot s n).context | none => 0
  (List.range 53).all (fun t => !awaiting s (.tiller t))
  && s.hl.hostReqs.all (fun r => !(isAccess r.kind && r.context == ctx))
  && !planWaits s

/-- Every parked plan requester fails without waiting for its fault (R416); a fault that no other requester waits on leaves the table. -/
def failParkedPlan (s : State) : State :=
  let other (r : Requester) : Bool := match r with | .tiller _ => false | _ => true
  let held := (s.tr.held.map (fun m => { m with waiters := m.waiters.filter (fun w => other w.1) })).filter (fun m => !m.waiters.isEmpty)
  let s := { s with tr := { s.tr with held := held } }
  enterFaults (s.tr.faults.foldl (fun s p => match p.2 with
    | none => s
    | some f =>
      if f.waiters.all other then s
      else if f.waiters.any other then setFault s p.1 (some { f with waiters := f.waiters.filter other })
      else unblock (freeFault s p.1) f.ctx) s)

end Sys2Proof.Machine
end

