-- ==== Sys2Proof/Machine/Barrier.lean ====
section
/-!
DEFINITION. Barriers and the decisions of the Crop root (R239, R241 to R252, R530 to R536, R548, R587).
-/
namespace Sys2Proof.Machine

/-- This chip is the Crop root. -/
def isCropRoot (s : State) : Bool := s.crop.member && s.crop.parentLink == 0xFF

/-- The run of this chip: slot number, slot and plan. -/
def runOf (s : State) : Option (Nat × Slot × Plan) :=
  match runningSlot s with
  | some n => ((getSlot s n).plan).map (fun p => (n, getSlot s n, p))
  | none => none

/-! ## Discarding and ending -/

/-- Plan transfers of an attempt that is discarded: lines waiting to leave and lines that arrived, whose credits return. -/
def discardTransfers (s : State) : State :=
  (List.range 24).foldl (fun s n =>
    let x := getLink s n
    setLink s n { x with tx0 := [], rx0 := [], ret0 := x.ret0 + x.rx0.length }) s

/-- Sub-operations and reductions of a discarded attempt go; the accesses on their way are awaited. -/
def discardWork (s : State) : State :=
  let s := discardTransfers { s with units := [], reds := [] }
  (List.range 16).foldl (fun s n => setSheaf s n { getSheaf s n with regions := [] }) s

/-- A slot that ends FAILED: it holds no binding; its Seedcorn is kept or goes (R216, R217). -/
def failSlot (x : Slot) (keep : Bool) : Slot :=
  let y : Slot := { x with state := .failed, cropId := 0, table := [], provisional := false }
  if keep then y else { y with seedValid := false, newest := none, older := none }

/-- The run ends once no access of it is on its way (R226, R531 step 4, R535, R536, R587). -/
def finishEnding (s : State) : State :=
  match s.crop.ending, runningSlot s with
  | some e, some n =>
    let x := getSlot s n
    if !runQuiet s then s
    else match e with
      | .isolated => endRun s n { failSlot x true with replans := x.replans + 1 } stDone (endDetail 2 0x3FF)
      | .decided (.replan _ suspect) =>
        endRun s n { failSlot x true with replans := x.replans + 1 } stDone (endDetail 1 (suspect.getD 0x3FF))
      | .decided (.failure st pos) => endRun s n (failSlot x false) st (BitVec.ofNat 32 (pos % 1024 * 2 ^ 16))
      | .decided _ =>
        let y : Slot := match x.newest with
          | some r => { x with state := .stopped, epoch := r.epoch, steps := r.steps }
          | none => { x with state := .stopped }
        endRun s n y stDone (endDetail 0 0x3FF)
  | _, _ => s

/-- A run's slot as its end begins: what an unreleased barrier wrote goes, and under a stop the slot is STOPPING (R217). -/
def endingSlot (x : Slot) (e : RunEnding) : Slot :=
  let x := dropRecord x
  match e with | .decided (.stop _ _ _) => { x with state := .stopping } | _ => x

/-- Plan leases end at once under a re-plan (R215). -/
def endingLeases (s : State) (e : RunEnding) : State :=
  match e with | .decided (.replan _ _) => endPlanLeases s | _ => s

/-- A stop of mode NOW does not wait for faults (R416). -/
def endingFaults (s : State) (e : RunEnding) : State :=
  match e with | .decided (.stop true _ _) => failParkedPlan s | _ => s

/-- The Tillers halt, the attempt is discarded, and the run ends when its accesses have. -/
def beginEnding (s : State) (e : RunEnding) : State :=
  match runningSlot s with
  | none => s
  | some n =>
    if s.crop.ending.isSome then s
    else
      let s := endingFaults (endingLeases (discardWork (haltTillers s)) e) e
      let s := setSlot s n (endingSlot (getSlot s n) e)
      finishEnding { s with crop := { s.crop with ending := some e } }

/-! ## Re-measurement and re-alignment (R242, R247 step 5) -/

/-- Links whose probes this member sends: the lower Tally address (R235). -/
def probeLinks (s : State) : List Nat :=
  (memberLinks s).filter (fun n => decide (ownTally s < (getLink s n).peerTally.toNat))

/-- 16 PROBE frames on each of them. -/
def startProbes (s : State) : State :=
  (probeLinks s).foldl (fun s n =>
    (List.range 16).foldl (fun s i => sendCtrl s n (.probe false i)) (setLink s n { getLink s n with rtSamples := [] })) s

/-- Every round trip this member measures, and that of the link to its parent, is complete. -/
def measured (s : State) : Bool :=
  let full (n : Nat) : Bool := decide (16 ≤ (getLink s n).rtSamples.length)
  (probeLinks s).all full && (isCropRoot s || full s.crop.parentLink.toNat)

/-- This member is aligned again, and TIME goes on to its children (R242). -/
def aligned (s : State) : State :=
  sendTime { s with crop := { s.crop with realigned := true, waitTime := none, remeasures := satAdd32 s.crop.remeasures 1 } }

/-- Re-alignment once the member is settled and measured: the root keeps its CTB, another takes that of the TIME it has received, as it
stood then and with the new round trip, and what has passed since (R239, R242). -/
def realign (s : State) : State :=
  let c := s.crop
  if !(c.phase == .resettle && c.settled && !c.realigned && measured s) then s
  else if isCropRoot s then aligned s
  else match c.waitTime with
    | some (t, own) =>
      let q := t + (getLink s c.parentLink.toNat).rt
      aligned { alignCtb s (q + (ctbQuarters s - own)) with stretch := stretchFor q }
    | none => s

/-- A root change or a re-alignment begins inside a barrier; ROOT_SETTLED ends the change. -/
def startSettle (s : State) (pct : Nat) : State :=
  let same := pct == s.rootPct
  let s := { s with crop := { s.crop with
    phase := .resettle, selfArrive := none, arrived := [], nextRootPct := pct, settled := same, realigned := false
    waitTime := none, drift := false } }
  if same then realign (startProbes s) else s

/-- A root change in a barrier that does not release (R246): the next barrier re-aligns. -/
def applyRoot (s : State) (pct : Nat) : State :=
  if pct = s.rootPct then s
  else { s with rootPct := pct, margin := { s.margin with fsteps := satAdd32 s.margin.fsteps 1 }, crop := { s.crop with drift := true } }

/-- ROOT_SETTLED: the root runs at its new frequency (R28, R29). -/
def execRootSettled (s : State) : Host.Outcome State Fault Refusal :=
  let c := s.crop
  if c.phase = .resettle && !c.settled then
    let s := { s with rootPct := c.nextRootPct, margin := { s.margin with fsteps := satAdd32 s.margin.fsteps 1 }, crop := { c with settled := true } }
    .next (realign (startProbes s))
  else .next s

/-- PROBE received (R235): a probe is returned at once and its round trip recorded at both ends; index 0 begins a measurement. -/
def execProbe (link : Nat) (echo : Bool) (index roundTrip : Nat) (s : State) : Host.Outcome State Fault Refusal :=
  let s := takeFrom s link (.probe echo index)
  let x := getLink s link
  if x.state != .up then .next s
  else
    let s := if echo then s else emit s (.probeEcho link index)
    let s := if index = 0 && !echo then setLink s link { getLink s link with rtSamples := [] } else s
    let s := recordTrip s link roundTrip
    .next (realign (if (getForming s).active then reportChecks s else s))

/-- TIME from the parent: at formation it aligns and binds; in a barrier it re-aligns, once this member is settled and measured (R239,
R242). A child's CTB becomes C plus the one-way latency, RT / 4 root cycles. -/
def execTime (link : Nat) (at_ : CropTime) (s : State) : Host.Outcome State Fault Refusal :=
  let s := takeFrom s link (.time at_.ctb at_.quarter)
  let f := getForming s
  let t := 4 * at_.ctb.toNat + at_.quarter.toNat
  let c := s.crop
  if f.active && !f.isRoot && !f.further && !f.aligned && f.settled then
    if (joinTree s).crop.parentLink.toNat = link then .next (alignForming s (t + (getLink s link).rt)) else .next s
  else if c.phase = .resettle && !c.realigned && c.parentLink.toNat == link then
    .next (realign { s with crop := { c with waitTime := some (t, ctbQuarters s) } })
  else .next s

/-- DRIFT_CHECK (R241): a departure of one half root cycle or more counts and asks for a re-measurement. -/
def execDriftCheck (link departure : Nat) (s : State) : Host.Outcome State Fault Refusal :=
  if memberLink s link && decide (1 ≤ departure) then
    .next { s with crop := { s.crop with driftEvents := satAdd32 s.crop.driftEvents 1, drift := true } }
  else .next s

/-! ## What a DECIDE does at a member -/

/-- The release tick is named; one that has passed leaves the record invalid (R534). -/
def namedTick (s : State) (n : Nat) (t : W64) (replay : Bool) : State :=
  if t.toNat < cropTick s then
    let s := setSlot s n { dropRecord (getSlot s n) with isolated := true, twoEpochs := true }
    raiseReplanned { s with crop := { s.crop with phase := .none } } srcMember 0 0 (getSlot s n).context.toNat 0
      (some (getSlot s n).position)
  else { s with crop := { s.crop with release := t, phase := if replay then .replayDecided else .decided } }

/-- RELEASE (R247 steps 1 to 5): step records, the Seedcorn record, the relocations of the new epoch, leases; then the tick, or the
second round. -/
def onRelease (s : State) (n : Nat) (x : Slot) (p : Plan) (t epoch : W64) (pct : Nat) (settle : Bool) (gather : List StepGather) : State :=
  let c := s.crop
  if c.phase = .resettle && !settle && c.settled && c.realigned then namedTick s n t false
  else if c.selfArrive.isNone || !(c.phase == .start || c.phase == .epoch) then s
  else
    let steps := gatherSteps x.steps gather (if c.startBarrier then none else some (BitVec.ofNat 32 x.epoch.toNat))
    let recs := if c.startBarrier then (x.newest.map (fun r => r.tillers)).getD []
      else (List.range 53).map (fun t => tillerRecOf (getTiller s t))
    let seed : SeedRec := { epoch := epoch, tillers := recs, counts := sheafCounts s, steps := steps }
    let s := setSlot s n (writeRecord x seed (snapCounters s epoch))
    let s := if c.startBarrier then s
      else (List.range 53).foldl (fun s t => setTiller s t (turnDescs x p epoch.toNat t (getTiller s t))) s
    let s := turnLeases s x p (if c.startBarrier then none else some x.epoch.toNat) epoch.toNat
    let s := { s with crop := { s.crop with nextEpoch := epoch, nextRootPct := pct } }
    if settle then startSettle s pct else namedTick s n t false

/-- The first DECIDE REPLAY (R531 step 4, R533): Tillers halt, the attempt is discarded, leases end. -/
def onReplay (s : State) (n : Nat) (x : Slot) : State :=
  let s := dropSamples (endPlanLeases (discardWork (haltTillers s)))
  let s := setSlot s n { dropRecord x with replays := x.replays + 1 }
  let b := s.err
  { s with
    err := { b with restarts := if b.replaying then min 3 (b.restarts + 1) else 0, replaying := true }
    crop := { s.crop with
      phase := .replayDrain, replayBarrier := true, selfArrive := none, arrived := [], acc := [], completions := [], stage := 0
      settled := true, realigned := false, waitTime := none } }

/-- The later DECIDEs of a replay (R531 step 5): a second round, or the tick; leases of the restored epoch come back (R215). -/
def onReplayTick (s : State) (n : Nat) (x : Slot) (p : Plan) (tick : Option W64) (pct : Nat) : State :=
  let c := s.crop
  let ready := (c.phase == .replayDrain && c.selfArrive.isSome) || (c.phase == .resettle && c.replayBarrier)
  if !ready then s
  else match tick with
    | none => startSettle s pct
    | some t =>
      let e := match x.newest with | some r => r.epoch | none => x.epoch
      namedTick (turnLeases s x p none e.toNat) n t true

/-- STOP at a barrier (R226, R246): the barrier does not release, and its state is the Seedcorn. -/
def onStop (s : State) (n : Nat) (x : Slot) (pct : Nat) (gather : List StepGather) : State :=
  let c := s.crop
  if c.selfArrive.isNone || !(c.phase == .start || c.phase == .epoch) then s
  else
    let epoch := if c.startBarrier then x.epoch else x.epoch + 1
    let steps := gatherSteps x.steps gather (if c.startBarrier then none else some (BitVec.ofNat 32 x.epoch.toNat))
    let recs := if c.startBarrier then (x.newest.map (fun r => r.tillers)).getD []
      else (List.range 53).map (fun t => tillerRecOf (getTiller s t))
    let seed : SeedRec := { epoch := epoch, tillers := recs, counts := sheafCounts s, steps := steps }
    endRun (applyRoot s pct) n { x with
      state := .stopped, seedValid := true, newest := some seed, older := x.newest, steps := steps, epoch := epoch
      counters := snapCounters s epoch } stDone (endDetail 0 0x3FF)

/-- DECIDE with the abandonment of a start barrier (R248, R498). -/
def onAbandon (s : State) (pos : Option Nat) : State :=
  let s := { s with crop := { s.crop with attempts := s.crop.attempts + 1, arrived := [] } }
  match runningSlot s with
  | some n =>
    if s.crop.startBarrier && s.crop.phase == .start then
      endRun s n (failSlot (getSlot s n) false) stCropLost (formDetail 0x0C (pos.getD 0x3FF))
    else s
  | none => s

/-! ## Completion (R225, R249) -/

/-- A member's completion report leaves towards the root, or is the root's own. -/
def reportCompletion (s : State) (pos : Nat) (flag : Bool) : State :=
  let s := { s with crop := { s.crop with completions := s.crop.completions ++ [(pos, flag)] } }
  if isCropRoot s then s else sendCtrl s (upLink s) (.completion pos flag)

/-- The position that writes the completion flag: the holder of DONE_ARENA, 0 for a HOST arena. -/
def flagHolder (p : Plan) : Nat := match p.arenas[p.doneArena]? with | some a => a.position | none => 0

/-- The release write of the flag: the run's SEQ as 64 bits (R225); nothing while its address waits. -/
def writeFlag (s : State) (x : Slot) (p : Plan) : State :=
  let seq := match x.run with | some r => r.seq.toNat | none => 0
  let addr := arenaAddr x p p.doneArena 0 x.epoch.toNat p.doneOffset
  let finish (s : State) : State := reportCompletion s x.position true
  if dpaSpace addr = 0 then
    let o := bits addr 39 0
    let s := homeWriteBytes s 21 0 o (toLE 8 seq) x.context
    finish (flushLine s (devLine o) false)
  else
    let iss : Issuer := ⟨.tiller 63, 21, 21, x.context⟩
    let r := planLine s iss none addr .write
    match r.1 with
    | .ok o => finish (linePut r.2 iss o (slice (List.replicate (o.dpa % 64) 0 ++ toLE 8 seq) 0 64) (byteMask (o.dpa % 64) 8))
    | .error e => planStops r.2 e

/-- DECIDE COMPLETE (R249): publish arenas are written back; the flag is written; the reply is. -/
def onComplete (s : State) (n : Nat) (x : Slot) (p : Plan) (stage pct : Nat) (gather : List StepGather) : State :=
  let c := s.crop
  if stage = 1 then
    if c.selfArrive.isNone || c.phase != .epoch then s
    else
      let steps := gatherSteps x.steps gather (some (BitVec.ofNat 32 x.epoch.toNat))
      let s := setSlot s n { x with steps := steps, counters := snapCounters s x.epoch }
      let s := applyRoot { s with crop := { s.crop with phase := .complete, stage := 1 } } pct
      reportCompletion (flushArenas s (localArenas x p (fun a => a.publish)) false) x.position false
  else if c.phase != .complete then s
  else if stage = 2 then
    let s := { s with crop := { s.crop with stage := 2 } }
    if flagHolder p = x.position ∧ !c.completions.contains (x.position, true) then writeFlag s x p else s
  else endRun s n { x with state := .done } (runStatus x) 0

/-! ## DECIDE -/

/-- What a member does on a DECIDE. -/
def applyDecide (s : State) (m : DecideMsg) : State :=
  match m with
  | .abandon pos => onAbandon s pos
  | _ =>
    match runOf s with
    | none => s
    | some (n, x, p) =>
      if s.crop.ending.isSome then s
      else match m with
        | .release t e pct settle g => onRelease s n x p t e pct settle g
        | .replay none _ false => onReplay s n x
        | .replay tick pct _ => onReplayTick s n x p tick pct
        | .replan _ _ => beginEnding (markPreempted s) (.decided m)
        | .stop true _ _ => beginEnding s (.decided m)
        | .stop false pct g => onStop s n x pct g
        | .complete stage pct g => onComplete s n x p stage pct g
        | .failure _ _ => beginEnding (markPreempted s) (.decided m)
        | .abandon _ => s

/-- The root decides: DECIDE goes down the tree, and the root acts on it too. -/
def decide_ (s : State) (m : DecideMsg) : State := applyDecide (sendAll s s.crop.children (.decide m)) m

/-- A DECIDE at a member: passed on and acted on; one whose run still drains, or whose flag still waits, is carried on. -/
def takeDecide (s : State) (m : DecideMsg) : State :=
  let s := takeMsg s (.decide m)
  if s.crop.ending = some (.decided m) then finishEnding s
  else if isCropRoot s then
    match m, runOf s with
    | .complete 2 pct g, some (n, x, p) => if s.crop.stage = 2 then onComplete s n x p 2 pct g else s
    | _, _ => s
  else if s.crop.member then decide_ s m else s

/-! ## The root's decisions (R244 to R246, R548) -/

/-- A tick rounded up to an even one. -/
def evenUp (t : Nat) : Nat := t + t % 2

/-- The release tick (R245): from now, and for an epoch barrier no earlier than 2^EL after the last release. -/
def releaseTickAt (s : State) (p : Plan) (closes turns : Bool) : W64 :=
  let a := cropTick s + s.crop.lDown.toNat + workAllowance p turns
  BitVec.ofNat 64 (evenUp (if closes then max (s.crop.lastRelease.toNat + 2 ^ p.el) a else a))

/-- ARRIVE of a member combined with one from below (R243). -/
def combineArrive (a b : ArriveMsg) : ArriveMsg :=
  { a with
    halted := a.halted && b.halted, refusedAt := if a.refusedAt.isSome then a.refusedAt else b.refusedAt
    stop := if a.stop = some true ∨ b.stop = some true then some true else if a.stop.isSome then a.stop else b.stop
    gather := mergeGather a.gather b.gather, margin := a.margin ++ b.margin, maxFmin := max a.maxFmin b.maxFmin
    minFmax := min a.minFmax b.minFmax, drift := a.drift || b.drift }

/-- Children's ARRIVEs of a kind. -/
def heldArrives (s : State) (k : ArriveKind) : List ArriveMsg :=
  (s.crop.arrived.filter (fun p => s.crop.children.contains p.1 && p.2.kind == k)).map (fun p => p.2)

/-- Every child has arrived. -/
def childrenHere (s : State) (k : ArriveKind) : Bool :=
  s.crop.children.all (fun l => s.crop.arrived.any (fun p => p.1 == l && p.2.kind == k))

/-- Root percentage after the combined requests, one step at most (R548). -/
def nextRoot (s : State) (m : ArriveMsg) : Nat :=
  let top := min m.minFmax 105
  if m.margin.any (fun r => r.code == 2) then (if m.maxFmin < s.rootPct then s.rootPct - 1 else s.rootPct)
  else if m.margin.all (fun r => r.code == 3) && !m.margin.isEmpty && decide (s.rootPct < top) then s.rootPct + 1
  else s.rootPct

/-- The lowest position that reports EXHAUSTED. -/
def exhaustedAt (m : ArriveMsg) : Option Nat := least ((m.margin.filter (fun r => r.code == 4)).map (fun r => r.position))

/-- The decision at a start or epoch barrier: the first row of R246 whose cause is held. -/
def decideBarrier (s : State) (x : Slot) (p : Plan) (m : ArriveMsg) : State :=
  let c := s.crop
  let pct := nextRoot s m
  let e := if c.startBarrier then x.epoch else x.epoch + 1
  if m.stop = some true then decide_ s (.stop true s.rootPct [])
  else if c.stopAgreed || m.stop.isSome then decide_ s (.stop false pct m.gather)
  else if m.halted then decide_ s (.complete 1 pct m.gather)
  else
    let settle := pct != s.rootPct || m.drift
    let turns := leaseTurns p e.toNat (if c.startBarrier then none else some x.epoch.toNat)
    let t := if settle then 0 else releaseTickAt s p (!c.startBarrier) turns
    decide_ s (.release t e pct settle m.gather)

/-- The decision once every member of a replay has drained (R531 step 5). -/
def decideReplayTick (s : State) (x : Slot) (p : Plan) (m : ArriveMsg) : State :=
  let pct := nextRoot s m
  let e := match x.newest with | some r => r.epoch | none => x.epoch
  if pct != s.rootPct || m.drift then decide_ s (.replay none pct true)
  else decide_ s (.replay (some (releaseTickAt s p false (leaseTurns p e.toNat none))) pct false)

/-- The tick named afresh from the second round (R247 step 5). -/
def decideSecond (s : State) (x : Slot) (p : Plan) : State :=
  let c := s.crop
  if c.replayBarrier then
    let e := match x.newest with | some r => r.epoch | none => x.epoch
    decide_ s (.replay (some (releaseTickAt s p false (leaseTurns p e.toNat none))) s.rootPct false)
  else
    let turns := leaseTurns p c.nextEpoch.toNat (if c.startBarrier then none else some x.epoch.toNat)
    decide_ s (.release (releaseTickAt s p (!c.startBarrier) turns) c.nextEpoch s.rootPct false [])

/-- Margin exhausted (R548): a REPLANNED error of SOURCE RIPENESS, and REPLAN. -/
def decideExhausted (s : State) (x : Slot) (pos : Nat) : State :=
  decide_ (logError s clsReplanned srcRipeness 0 0 x.context.toNat (chipSlack s)) (.replan x.epoch (some pos))

/-- The root decides when it and every child have arrived and no report waits to be taken up. -/
def rootTry (s : State) : State :=
  match s.crop.selfArrive, runOf s with
  | some own, some (_, x, p) =>
    if !isCropRoot s || s.crop.ending.isSome || !s.crop.reports.isEmpty || !childrenHere s own.kind then s
    else
      let m := (heldArrives s own.kind).foldl combineArrive own
      match exhaustedAt m, own.kind with
      | some pos, .start | some pos, .epoch | some pos, .replay => decideExhausted s x pos
      | none, .start | none, .epoch => if s.crop.phase == .start || s.crop.phase == .epoch then decideBarrier s x p m else s
      | none, .replay => if s.crop.phase == .replayDrain then decideReplayTick s x p m else s
      | _, .second => if s.crop.phase == .resettle then decideSecond s x p else s
  | _, _ => s

/-! ## ARRIVE -/

/-- The ARRIVE this member may send now. -/
def arriveKind (s : State) : Option ArriveKind :=
  let c := s.crop
  if (runningSlot s).isNone || c.selfArrive.isSome || c.ending.isSome then none
  else match c.phase with
    | .start => some .start
    | .none => if !c.startBarrier && tillersArrived s && runQuiet s && (surplusLinks s).isEmpty then some .epoch else none
    | .replayDrain => if runQuiet s then some .replay else none
    | .resettle => if c.settled && c.realigned && measured s then some .second else none
    | _ => none

/-- This member's own ARRIVE. -/
def ownArrive (s : State) (x : Slot) (k : ArriveKind) : ArriveMsg :=
  let stops := s.crop.stops
  { kind := k
    barrier := if k = .start then BitVec.ofNat 64 s.crop.attempts else x.epoch
    halted := k == .epoch && (List.range 53).all (fun t => (getTiller s t).mode == .halted)
    refusedAt := none
    stop := if stops.isEmpty then none else some (stops.any (fun q => q.2))
    gather := if k = .epoch then ownGather s else []
    margin := if k = .second then [] else [⟨x.position, BitVec.ofNat 3 s.margin.lastReq⟩]
    maxFmin := s.margin.fmin, minFmax := s.margin.fmax, drift := s.crop.drift && k != .second }

/-- SEND_ARRIVE (R243): up the tree combined with the children's, or, at the root, its own. Surplus lines are an error instead (R275). -/
def execSendArrive (s : State) : Host.Outcome State Fault Refusal :=
  match arriveKind s, runOf s with
  | some k, some (_, x, _) =>
    let root := isCropRoot s
    if !root && !childrenHere s k then .next s
    else
      let s := if k = .second then s else formRequest s (k == .epoch)
      let own := ownArrive s x k
      let s := { s with crop := { s.crop with selfArrive := some own, phase := if k = .epoch then .epoch else s.crop.phase } }
      .next (if root then rootTry s else sendCtrl s (upLink s) (.arrive ((heldArrives s k).foldl combineArrive own)))
  | _, _ => .next ((surplusLinks s).foldl dropSurplus s)

/-- An ARRIVE that belongs to a round already given up. -/
def staleArrive (s : State) (m : ArriveMsg) : Bool :=
  match m.kind with
  | .start => m.barrier.toNat != s.crop.attempts
  | .epoch => s.crop.phase == .replayDrain || s.crop.phase == .replayDecided
  | .replay => s.crop.phase != .replayDrain
  | .second => s.crop.phase != .resettle

/-- ARRIVE from a child (R219, R243): a refusal goes on to the root at once, which abandons the start barrier. -/
def execArrive (link : Nat) (m : ArriveMsg) (s : State) : Host.Outcome State Fault Refusal :=
  let s := takeFrom s link (.arrive m)
  if !s.crop.children.contains link || staleArrive s m then .next s
  else match m.refusedAt with
    | some p => .next (if isCropRoot s then decide_ s (.abandon (some p)) else sendCtrl s (upLink s) (.arrive m))
    | none =>
      .next (rootTry { s with crop := { s.crop with arrived := s.crop.arrived.filter (fun p => p.1 != link) ++ [(link, m)] } })

/-! ## STOP (R250, R251, R531, R533, R535, R587) -/

/-- The position with the most reports in the replay, the lowest among equals (R533). -/
def mostReports (seen : List (Nat × Nat)) : Option Nat :=
  (seen.foldl (fun (m : Option (Nat × Nat)) q => match m with
    | none => some q
    | some b => if b.2 < q.2 ∨ (b.2 = q.2 ∧ q.1 < b.1) then some q else some b) none).map (fun q => q.1)

/-- One more report of a position. -/
def countReport (seen : List (Nat × Nat)) (pos : Nat) : List (Nat × Nat) :=
  if seen.any (fun q => q.1 == pos) then seen.map (fun q => if q.1 = pos then (q.1, q.2 + 1) else q) else seen ++ [(pos, 1)]

/-- A replay report at the root: a replay, its restart, or the escalation of R533. -/
def agreeReplay (s : State) (x : Slot) (pos : Nat) : State :=
  let seen := if s.err.replaying then countReport s.crop.replaySeen pos else [(pos, 1)]
  let s := { s with crop := { s.crop with replaySeen := seen } }
  if s.err.replaying && s.err.restarts == 3 then
    let e := errRecord s clsReplanned srcEscalation 0 0 x.context.toNat 0
    decide_ (logRecord s { e with flags := e.flags ||| 2 }) (.replan x.epoch (mostReports seen))
  else decide_ s (.replay none s.rootPct false)

/-- What the root makes of a STOP message. -/
def rootStop (s : State) (m : StopMsg) : State :=
  match m with
  | .startTimeout pos => if (runningSlot s).isNone || (s.crop.startBarrier && s.crop.phase == .start) then decide_ s (.abandon (some pos)) else s
  | _ =>
    match runOf s with
    | none => s
    | some (n, x, _) =>
      if s.crop.ending.isSome then s
      else match m with
        | .planStop true => if s.crop.phase = .complete then s else decide_ s (.stop true s.rootPct [])
        | .planStop false =>
          if s.crop.phase = .complete then s
          else { setSlot s n { x with state := .stopping } with crop := { s.crop with stopAgreed := true } }
        | .replay pos => agreeReplay s x pos
        | .replanned _ suspect _ => decide_ s (.replan x.epoch suspect)
        | .failure pos st => decide_ s (.failure st pos)
        | .startTimeout _ => s

/-- STOP reaches the root, or passes on towards it. -/
def execStop (m : StopMsg) (s : State) : Host.Outcome State Fault Refusal :=
  let s := takeMsg s (.stop m)
  if isCropRoot s then
    .next (rootTry (rootStop { s with crop := { s.crop with reports := s.crop.reports.erase m } } m))
  else .next (if s.crop.member then sendCtrl s (upLink s) (.stop m) else s)

/-- START_TIMEOUT (R248). -/
def execStartTimeout (s : State) : Host.Outcome State Fault Refusal :=
  match runningSlot s with
  | some n =>
    if !(s.crop.startBarrier && s.crop.phase == .start) then .next s
    else if isCropRoot s then .next (decide_ s (.abandon none))
    else .next (reportToRoot s (.startTimeout (getSlot s n).position))
  | none => .next s

/-! ## The DECIDE rows -/

/-- DECIDE_RELEASE. -/
def execDecideRelease (tick epoch : W64) (rootPct : Nat) (settle : Bool) (gather : List StepGather) (s : State) : Host.Outcome State Fault Refusal :=
  .next (takeDecide s (.release tick epoch rootPct settle gather))
/-- DECIDE_REPLAY. -/
def execDecideReplay (tick : Option W64) (rootPct : Nat) (settle : Bool) (s : State) : Host.Outcome State Fault Refusal :=
  .next (takeDecide s (.replay tick rootPct settle))
/-- DECIDE_REPLAN. -/
def execDecideReplan (epoch : W64) (suspect : Option Nat) (s : State) : Host.Outcome State Fault Refusal :=
  .next (takeDecide s (.replan epoch suspect))
/-- DECIDE_STOP. -/
def execDecideStop (now : Bool) (rootPct : Nat) (gather : List StepGather) (s : State) : Host.Outcome State Fault Refusal :=
  .next (takeDecide s (.stop now rootPct gather))
/-- DECIDE_COMPLETE. -/
def execDecideComplete (stage rootPct : Nat) (gather : List StepGather) (s : State) : Host.Outcome State Fault Refusal :=
  .next (takeDecide s (.complete stage rootPct gather))
/-- DECIDE_ABANDON. -/
def execDecideAbandon (position : Option Nat) (s : State) : Host.Outcome State Fault Refusal :=
  .next (takeDecide s (.abandon position))
/-- DECIDE_FAILURE. -/
def execDecideFailure (status : Byte) (position : Nat) (s : State) : Host.Outcome State Fault Refusal :=
  .next (takeDecide s (.failure status position))

/-- The root moves to the next phase of a completion when the reports it needs are in (R249). -/
def rootCompletion (s : State) : State :=
  let c := s.crop
  if !isCropRoot s || c.phase != .complete then s
  else if c.stage = 1 && decide (c.nmember.toNat ≤ ((c.completions.filter (fun q => !q.2)).map (fun q => q.1)).eraseDups.length) then
    decide_ s (.complete 2 s.rootPct [])
  else if c.stage = 2 && c.completions.any (fun q => q.2) then decide_ s (.complete 3 s.rootPct [])
  else s

/-- COMPLETION_REPORT: a member's report at the root (the root's own needs no message), or on its way. -/
def execCompletionReport (position : Nat) (flagDone : Bool) (s : State) : Host.Outcome State Fault Refusal :=
  let s := takeMsg s (.completion position flagDone)
  let c := s.crop
  if isCropRoot s then
    if c.phase = .complete && !c.completions.contains (position, flagDone) then
      .next (rootCompletion { s with crop := { c with completions := c.completions ++ [(position, flagDone)] } })
    else .next (rootCompletion s)
  else .next (if c.member then sendCtrl s (upLink s) (.completion position flagDone) else s)

/-! ## Release (R208, R247, R530 to R533) -/

/-- The transfers of each link count from 0 in the new epoch (R211). -/
def restartLinks (s : State) : State :=
  (List.range 24).foldl (fun s n => setLink s n { getLink s n with sentSeq := 0, recvSeq := 0, xrecvSeq := 0 }) s

/-- A Tiller waiting at its EBAR goes on behind it at epoch tick 0 (R169). -/
def tillerRelease (s : State) (t : Tiller) : Tiller :=
  if t.mode = .barrier then { t with pc := pcNext t, mode := .run, prevTarget := 0, nextTick := s.tick } else t

/-- Barrier state after a release. -/
def barrierOver (s : State) (startRelease : Bool) : State :=
  let c := s.crop
  let s := { s with
    epochStart := s.tick
    crop := { c with
      phase := .none, startBarrier := false, replayBarrier := false, arrived := [], selfArrive := none, lastRelease := c.release, acc := []
      settled := true, realigned := false, waitTime := none, startCtb := if startRelease then s.ctb else c.startCtb } }
  restartLinks <| dropSamples (if startRelease then { s with globalTick := 0, counting := true } else s)

/-- A start or epoch barrier releases: the record stands, the epoch begins. -/
def commitRelease (s : State) (n : Nat) (x : Slot) (p : Plan) : State :=
  match x.newest with
  | none => s
  | some r =>
    let start := s.crop.startBarrier
    let x := { x with epoch := r.epoch, pend := none }
    let s := barrierOver (setSlot s n x) start
    let s := if start then restoreTillers s x p r.epoch.toNat r.tillers false
      else (List.range 53).foldl (fun s t => setTiller s t (tillerRelease s (getTiller s t))) s
    let s := { s with err := { s.err with replaying := false, restarts := 0, reported := [] }, crop := { s.crop with replaySeen := [] } }
    marginRelease (beginPlanLeases s) (!start)

/-- A replay releases: the newest record is restored into epoch tick 0 of its epoch (R90, R170, R531 step 6). -/
def commitReplay (s : State) (n : Nat) (x : Slot) (p : Plan) : State :=
  let start := s.crop.startBarrier
  let r := x.newest.getD { epoch := x.epoch, tillers := [], counts := [], steps := x.steps }
  let x := { x with epoch := r.epoch, steps := r.steps, pend := none }
  let s := barrierOver (setSlot (discardWork s) n x) start
  let s := restoreSheaves (restoreTillers s x p r.epoch.toNat r.tillers true) r.counts true
  marginRelease (beginPlanLeases s) false

/-- BARRIER_RELEASE: the edge at which the Crop tick equals T (R245). -/
def execBarrierRelease (s : State) : Host.Outcome State Fault Refusal :=
  let c := s.crop
  if !alive s || c.ending.isSome || cropTick s ≠ c.release.toNat then .next s
  else match c.phase, runOf s with
    | .decided, some (n, x, p) => .next (commitRelease s n x p)
    | .replayDecided, some (n, x, p) => .next (commitReplay s n x p)
    | _, _ => .next s

/-! ## Losing the root (R229, R233, R536) -/

/-- The chip is isolated: it holds two epochs when it has arrived for the barrier into the next (R536). -/
def isolateRun (s : State) (n : Nat) : State :=
  let x := getSlot s n
  let two := s.crop.selfArrive.isSome && !s.crop.startBarrier && !s.crop.replayBarrier
  let s := logError (markPreempted s) clsReplanned srcMember 0 0 x.context.toNat 0
  beginEnding (setSlot s n { x with isolated := true, twoEpochs := x.twoEpochs || two }) .isolated

/-- ROOT_ROUTE_LOSS: no route to the root for LOSS_MS. -/
def execRootRouteLoss (s : State) : Host.Outcome State Fault Refusal :=
  if !s.crop.member && !(getForming s).active || isCropRoot s then .next s
  else if s.crop.ending = some .isolated then .next (finishEnding s)
  else
    let s := endForming s stCropLost (formDetail 0 0x3FF)
    match runningSlot s with
    | some n => .next (isolateRun s n)
    | none => .next (dissolve s)

end Sys2Proof.Machine
end

