-- ==== Sys2Proof/Machine/ConfigSpace.lean ====
section
/-!
DEFINITION. Configuration space as the host reads it (R427, R428): the values the spec gives, in the places PCI Express and CXL give their
fields (PRESUMED, log 9); a bit to which the spec gives no value is free.
-/
namespace Sys2Proof.Machine

/-- A field of configuration space: its byte offset (a multiple of 4), lowest bit, width and value. -/
structure CfgField where
  off : Nat
  lo : Nat
  width : Nat
  value : Nat
deriving DecidableEq, Repr

/-- The header (R427). -/
def cfgHeader (s : State) : List CfgField :=
  [⟨0x00, 0, 16, 0x1D8A⟩, ⟨0x00, 16, 16, 0x5940⟩, ⟨0x08, 0, 8, 0x10⟩, ⟨0x08, 8, 24, 0x120000⟩, ⟨0x0C, 16, 8, 0⟩,
   ⟨0x10, 0, 32, field s.hl.bar0 31 0 + 4⟩, ⟨0x14, 0, 32, field s.hl.bar0 63 32⟩,
   ⟨0x18, 0, 32, field s.hl.bar2 31 0 + 12⟩, ⟨0x1C, 0, 32, field s.hl.bar2 63 32⟩,
   ⟨0x20, 0, 32, field s.hl.bar4 31 0 + 4⟩, ⟨0x24, 0, 32, field s.hl.bar4 63 32⟩,
   ⟨0x2C, 0, 16, s.boot.subsysVid.toNat⟩, ⟨0x2C, 16, 16, s.boot.subsysId.toNat⟩, ⟨0x30, 0, 32, 0⟩, ⟨0x34, 0, 8, 0x40⟩, ⟨0x3C, 8, 8, 0⟩]

/-- The capabilities of R428: offset and identifier. -/
def capList : List (Nat × Nat) := [(0x40, 0x01), (0x50, 0x05), (0x70, 0x10), (0xB0, 0x11)]

/-- The extended capabilities of R428: offset, identifier, and whether Profile A alone has it. -/
def extCapList : List (Nat × Nat × Bool) :=
  [(0x100, 0x0001, false), (0x150, 0x0003, false), (0x160, 0x000F, false), (0x170, 0x001B, false), (0x180, 0x0013, false),
   (0x1A0, 0x001F, false), (0x1B0, 0x0025, false), (0x1C0, 0x0019, true), (0x200, 0x0026, true), (0x240, 0x002A, true),
   (0x280, 0x0031, true), (0x2C0, 0x0027, true), (0x310, 0x0023, false), (0x350, 0x0023, false), (0x360, 0x0023, false),
   (0x380, 0x0023, false), (0x3B0, 0x0023, false)]

/-- The capabilities of the profile in use: in Profile P the pointers skip the entries of Profile A. -/
def extCaps (s : State) : List (Nat × Nat × Bool) := extCapList.filter (fun c => !(profileP s && c.2.2))

/-- The identifier and the next pointer of each capability; the last names none. -/
def capFields (s : State) : List CfgField :=
  (capList.zip (capList.tail.map (fun c => c.1) ++ [0])).flatMap (fun c => [⟨c.1.1, 0, 8, c.1.2⟩, ⟨c.1.1, 8, 8, c.2⟩])
  ++ ((extCaps s).zip ((extCaps s).tail.map (fun c => c.1) ++ [0])).flatMap (fun c => [⟨c.1.1, 0, 16, c.1.2.1⟩, ⟨c.1.1, 20, 12, c.2⟩])

/-- The function appears as a Root Complex Integrated Endpoint under CXL 1.1 (R426, R428). -/
def portType (s : State) : Nat := if s.hl.cxlActive && s.hl.cxlVer == 1 then 9 else 0

/-- Power Management, MSI, PCI Express and MSI-X (R428). -/
def capValues (s : State) : List CfgField :=
  [⟨0x40, 16, 3, 3⟩, ⟨0x40, 25, 2, 0⟩, ⟨0x40, 27, 4, 9⟩,
   ⟨0x44, 0, 2, if s.hl.d3hot then 3 else 0⟩, ⟨0x44, 3, 1, 1⟩, ⟨0x44, 8, 1, (bitOf s.hl.pmcsr 8).toNat⟩, ⟨0x44, 15, 1, (bitOf s.hl.pmcsr 15).toNat⟩,
   ⟨0x50, 16, 16, s.hl.msiControl.toNat⟩, ⟨0x60, 0, 32, s.hl.msiMask.toNat⟩,
   ⟨0x70, 20, 4, portType s⟩, ⟨0x74, 0, 3, 2⟩, ⟨0x74, 28, 1, 1⟩, ⟨0x94, 0, 4, 15⟩, ⟨0x94, 4, 1, 0⟩, ⟨0x98, 0, 4, field s.hl.devCtl2 3 0⟩,
   ⟨0xB0, 16, 16, s.hl.msixControl.toNat⟩, ⟨0xB4, 0, 32, 0x10000⟩, ⟨0xB8, 0, 32, 0x18000⟩]

/-- The extended capabilities' values (R428): AER, serial number, ATS, PASID, Page Request, PTM, Data Link Feature, and the DVSECs. -/
def extCapValues (s : State) : List CfgField :=
  [⟨0x100, 16, 4, 2⟩, ⟨0x104, 0, 32, s.hl.aerStatus.toNat⟩, ⟨0x10C, 0, 32, s.hl.aerSeverity.toNat⟩,
   ⟨0x154, 0, 32, field s.boot.serial 31 0⟩, ⟨0x158, 0, 32, field s.boot.serial 63 32⟩,
   ⟨0x164, 0, 5, 0⟩, ⟨0x164, 5, 1, 1⟩, ⟨0x174, 1, 2, 0⟩, ⟨0x174, 8, 5, 20⟩, ⟨0x184, 31, 1, 1⟩, ⟨0x188, 0, 32, 4096⟩,
   ⟨0x1A4, 0, 3, 1⟩, ⟨0x1A8, 0, 1, (bitOf s.hl.ptmControl 0).toNat⟩, ⟨0x1B4, 0, 1, 1⟩,
   ⟨0x314, 0, 16, 0x1E98⟩, ⟨0x318, 0, 16, 0x0000⟩, ⟨0x318, 16, 3, 7⟩, ⟨0x318, 19, 1, 0⟩, ⟨0x318, 20, 2, 1⟩, ⟨0x318, 22, 1, 1⟩, ⟨0x318, 23, 1, 0⟩,
   ⟨0x318, 30, 1, 1⟩, ⟨0x32C, 1, 1, s.boot.memoryActive.toNat⟩,
   ⟨0x354, 0, 16, 0x1E98⟩, ⟨0x358, 0, 16, 0x0005⟩, ⟨0x364, 0, 16, 0x1E98⟩, ⟨0x368, 0, 16, 0x0007⟩, ⟨0x368, 16, 3, 7⟩,
   ⟨0x384, 0, 16, 0x1E98⟩, ⟨0x388, 0, 16, 0x0008⟩, ⟨0x38C, 0, 3, 0⟩, ⟨0x38C, 8, 8, 1⟩, ⟨0x38C, 16, 16, 0⟩,
   ⟨0x3B4, 0, 16, 0x1D8A⟩, ⟨0x3B8, 0, 16, 0x0001⟩]

/-- Every field of configuration space with a value of the spec. -/
def cfgFields (s : State) : List CfgField := cfgHeader s ++ capFields s ++ capValues s ++ extCapValues s

/-- A word of configuration space: the fields that the spec gives laid over free bits. -/
def cfgWord (s : State) (off : Nat) : W32 :=
  ((cfgFields s).filter (fun f => f.off == off)).foldl (fun v f => setField v (f.lo + f.width - 1) f.lo f.value) (Config.cfgRead off s.freeCtr)

/-- The bytes of a configuration read of 1, 2 or 4 bytes at its alignment. -/
def cfgBytes (s : State) (off n : Nat) : List Byte := slice (toLE 4 (cfgWord s (off - off % 4)).toNat) (off % 4) n

end Sys2Proof.Machine
end

