-- ==== Sys2Proof/Machine/Translation.lean ====
section
/-!
DEFINITION. Translation events (R395 to R402), the fault ring (R413 to R417), address translation service traffic
(R399, R404, R441) and writes of TR_CFG and FR_HEAD (R417 to R420).
-/
namespace Sys2Proof.Machine

/-- TLB_MISS (R402, R414): the miss joins a pending one or opens an entry; in Profile A a Translation Request leaves. -/
def execTlbMiss (req : Requester) (ctx : BitVec 20) (va : W64) (acc : AccessKind) (s : State) : Host.Outcome State Fault Refusal :=
  let c := getCtx s ctx.toNat
  if c.state = .unbound || c.segment || bits va.toNat 63 56 == 0xFE || !canonical c.levels5 va.toNat then .next s
  else .next (missWait s none req ctx va.toNat acc)

/-- The end of a walk for every requester that waits on it (R395, R407, R409, R411): the TLBs are filled, or each requester faults or is refused.
A walk that reads host memory ends with TARGET_LOST while the port is frozen (R454). -/
def walkEnd (s : State) (m : Miss) : State :=
  let c := getCtx s m.ctx.toNat
  if s.hl.frozen && walksHost s m.ctx m.va then m.waiters.foldl (fun s w => refuseWaiter s w.1 m.ctx m.va rsTablePoison stTargetLost) s
  else
    let t := (walkReads s m.va (levelsOf c) c.ptRoot.toNat).foldl tableRead s
    match walk s m.va (isWrite m.access) (levelsOf c) c.ptRoot.toNat true with
    | .stop reason level => m.waiters.foldl (fun s w => stopWaiter s m reason level w) t
    | .leaf ea e sh w => leafFill t (if m.tlb = 256 then none else some m.tlb) m.ctx m.va m.access ea e sh w

/-- A stale walk fills nothing and starts again, which in Profile A is another Translation Request (R407). -/
def restartWalk (s : State) (miss : Nat) (m : Miss) : State :=
  let s := countWalk { s with tr := { s.tr with
    misses := s.tr.misses.set miss { m with stale := false }
    stat := bump s.tr.stat 63 48 1 } }
  if profileP s then s else emit s (.translationRequest m.ctx (BitVec.ofNat 64 m.va) (isWrite m.access))

/-- WALK_COMPLETE (R395, R407): a stale walk fills nothing and restarts; another fills a TLB entry, faults or refuses. -/
def execWalkComplete (miss : Nat) (s : State) : Host.Outcome State Fault Refusal :=
  match s.tr.misses[miss]? with
  | none => .next s
  | some m =>
    if !profileP s || !m.walking || m.stopped.isSome then .next s
    else if m.stale then .next (restartWalk s miss m)
    else .next (startWalks (walkEnd (eraseMiss s miss) m))

/-- A TLB entry from a Translation Completion (R396 rules 2 and 3, R401): at most 64 pages, aligned around the miss. -/
def atsEntry (s : State) (m : Miss) (r : TransResult) : TlbEntry :=
  let page := m.va / 4096
  let n := max 1 r.pages
  let first := page - page % n
  let lo := if n ≤ 64 then first else page - page % 64
  let dpa := leafDpa s false (r.addr.toNat + 4096 * (lo - first)) 0
  { ctx := m.ctx, va := 4096 * lo, shift := 12, pages := min n 64, dpa := dpa, type := .wb, write := r.write, dirty := true }

/-- The translation of the page missed, which the host allowed for the accesses that wait and no others (R399). -/
def onceFill (s : State) (m : Miss) (r : TransResult) : State :=
  let e := { atsEntry s m { r with pages := 1, addr := BitVec.ofNat 64 (r.addr.toNat + 4096 * (m.va / 4096 % max 1 r.pages)) } with pages := 1 }
  { s with tr := { s.tr with once := s.tr.once ++ m.waiters.map (fun w => (w.1, e)) } }

/-- The host's answer for the requesters of a miss (R399, R409): its permissions fault, or its address is mapped. -/
def answerMiss (s : State) (m : Miss) (r : TransResult) : State :=
  if !r.read && !r.write then m.waiters.foldl (fun s w => stopWaiter s m rsNotPresent 0 w) s
  else if isWrite m.access && !r.write then m.waiters.foldl (fun s w => stopWaiter s m rsWriteDenied 0 w) s
  else if r.cacheable then tlbFill s (if m.tlb = 256 then none else some m.tlb) (atsEntry s m r)
  else onceFill s m r

/-- TRANSLATION_COMPLETION (R399): the host's answer takes the place of the walk. -/
def execTranslationCompletion (miss : Nat) (r : TransResult) (s : State) : Host.Outcome State Fault Refusal :=
  match s.tr.misses[miss]? with
  | none => .next s
  | some m =>
    if profileP s || !m.walking || m.stopped.isSome then .next s
    else if m.stale then .next (restartWalk s miss m)
    else .next (startWalks (answerMiss (eraseMiss s miss) m r))

/-- INVALIDATION_REQUEST of the host (R404, R405, R441): a range of 2^size pages, one context or every page-mode one. -/
def execInvalidationRequest (itag : BitVec 5) (pasid : Option (BitVec 20)) (addr : W64) (size : Nat) (s : State) : Host.Outcome State Fault Refusal :=
  let n := 2 ^ (12 + size)
  let lo := addr.toNat - addr.toNat % n
  let s := invalidate s pasid lo (lo + n)
  .next { s with tr := { s.tr with invals := s.tr.invals ++ [⟨pasid, lo, lo + n, .ats itag⟩] } }

/-- INVALIDATION_COMPLETE (R406): once every request of the contexts has been performed. -/
def execInvalidationComplete (index : Nat) (s : State) : Host.Outcome State Fault Refusal :=
  match s.tr.invals[index]? with
  | none => .next s
  | some v =>
    if !quiet s v.ctx then .next s
    else
      let s := releaseHeld (countInval { s with tr := { s.tr with invals := s.tr.invals.eraseIdx index } })
      match v.dest with
      | .ats t => .next (emit s (.invalCompletion t))
      | .command w q => .next (completeSeq s w q false stDone 0 0)
      | .internal => .next s

/-- PAGE_RESPONSE of the host in Profile A (R399, R415): the first resolution decides. -/
def execPageResponse (faultId : W16) (success : Bool) (s : State) : Host.Outcome State Fault Refusal :=
  if profileP s then .next s
  else match faultNamed s faultId with
    | none => .next s
    | some (slot, f) => .next (if success then retryResolved s slot f .internal id else failFault s slot f)

/-- FAULT_RING_SIGNAL (R413): TR_CFG.FR_VECTOR at most once per µs, a wall-clock time (R8), while FR_TAIL differs from FR_HEAD. -/
def execFaultRingSignal (s : State) : Host.Outcome State Fault Refusal :=
  let due : Bool := match s.tr.lastSignal with | none => true | some t => decide (1000 * wallUnit + t ≤ s.wall)
  if s.tr.frTail ≠ s.tr.frHead ∧ due then
    let t := signalVector s (field s.tr.cfg 10 0)
    .next { t with tr := { t.tr with lastSignal := some s.wall } }
  else .next s

/-- FAULT_TIMEOUT (R416): a recorded fault unresolved for TR_CFG.FAULT_TO_MS ends as under FAIL. -/
def execFaultTimeout (slot : Nat) (s : State) : Host.Outcome State Fault Refusal :=
  match getFault s slot with
  | some f => .next (if f.recorded then failFault s slot f else s)
  | none => .next s

/-- UNRECORDED faults are written in the order of their detection while the ring has room (R414). -/
def writeUnrecorded : Nat → State → State
  | 0, s => s
  | n + 1, s =>
    match s.tr.unrecorded with
    | [] => s
    | k :: rest =>
      if ringFull s then s
      else
        let s := { s with tr := { s.tr with unrecorded := rest } }
        match getFault s k with
        | some f => writeUnrecorded n (unblock (recordFault s k f) f.ctx)
        | none => writeUnrecorded n s

/-- A write of FR_HEAD (R414, R420); one that would pass FR_TAIL is ignored. -/
def writeFrHead (s : State) (v : W32) : State :=
  if (s.tr.frTail - s.tr.frHead).toNat < (v - s.tr.frHead).toNat then s
  else
    let s := { s with tr := { s.tr with frHead := v } }
    writeUnrecorded s.tr.unrecorded.length s

/-- Every UNRECORDED fault ends, every BLOCKED context returns to ACTIVE (R417). -/
def stopRecording (s : State) : State :=
  let s := s.tr.unrecorded.foldl (fun s n => match getFault s n with
    | some f =>
      let c := getCtx s f.ctx.toNat
      failFault (setCtx s f.ctx.toNat { c with faults := satAdd32 c.faults 1 }) n f
    | none => s) s
  let s := s.tr.ctxs.foldl (fun s p => if p.2.state = .blocked then setCtx s p.1 { getCtx s p.1 with state := .active } else s) s
  releaseHeld s

/-- A write of TR_CFG (R417, R419): FAULT_TO_MS 0 leaves its field unchanged; FR_ENABLE falling stops recording. -/
def writeTrCfg (s : State) (v : W32) : State :=
  let old := s.tr.cfg
  let timeout := if field v 31 16 = 0 then field old 31 16 else field v 31 16
  let cfg := setField (setField (setField old 10 0 (field v 10 0)) 11 11 (field v 11 11)) 31 16 timeout
  let s := { s with tr := { s.tr with cfg := cfg } }
  if bitOf old 11 && !bitOf v 11 then stopRecording s else s

/-- FR_HEAD_WRITE. -/
def execFrHeadWrite (value : W32) (s : State) : Host.Outcome State Fault Refusal := .next (if hostUp s then writeFrHead s value else s)

/-- FR_ENABLE_CLEAR: a write of TR_CFG with FR_ENABLE 0. -/
def execFrEnableClear (value : W32) (s : State) : Host.Outcome State Fault Refusal :=
  .next (if hostUp s && !bitOf value 11 then writeTrCfg s value else s)

/-- FR_ENABLE_SET: a write of TR_CFG with FR_ENABLE 1; recording resumes at FR_TAIL. -/
def execFrEnableSet (value : W32) (s : State) : Host.Outcome State Fault Refusal :=
  .next (if hostUp s && bitOf value 11 then writeTrCfg s value else s)

end Sys2Proof.Machine
end

