-- ==== Sys2Proof/Machine/Regs.lean ====
section
/-!
DEFINITION. BAR0 (R575 to R583): the registers' values, the effect of writes under their access codes (R9 to R13), reads
that clear (R12), one-sample halves (R15), and what an access that breaks R14 does.
-/
namespace Sys2Proof.Machine

/-! ## Composed registers -/

/-- A number built from (value, lowest bit) fields. -/
def compose (fs : List (Nat × Nat)) : Nat := fs.foldl (fun n f => n + 2 ^ f.2 * f.1) 0

/-- BOOT_STATUS (R574). -/
def bootStatus (s : State) : Nat :=
  let b := s.boot
  compose [(b.step.toNat, 0), (b.fail.toNat, 4), (b.poolAbsent.toNat, 8), (b.strapRsv.toNat, 9), (b.tallyConflict.toNat, 10),
    (b.copyB.toNat, 11), (b.tallyAddr.toNat, 12), (b.tallyValid.toNat, 22), (b.alert.toNat, 23)]

/-- HL_STATUS (R458). -/
def hlStatus (s : State) : Nat :=
  let h := s.hl
  compose [((profileP s).toNat, 0), (h.linkUp.toNat, 1), (h.cxlActive.toNat, 2), (h.cxlVer.toNat, 3), (h.flit256.toNat, 5),
    (h.rate.toNat, 6), (h.width.toNat, 14), (h.modules.toNat, 21), (h.frozen.toNat, 24), (if h.d3hot then 3 else 0, 25)]

/-- FR_STAT (R420): OVERFLOW and the pending faults. -/
def frStat (s : State) : Nat := compose [(s.tr.overflow.toNat, 0), (s.tr.faults.length, 16)]

/-- MEM_POOL (R313). -/
def memPool (s : State) : Nat := compose [(s.mem.poolGib.toNat, 0), (s.mem.mixed.toNat, 11), (s.mem.rsvGran.toNat, 16)]

/-- MEM_PORT_STATUS n (R314, R583). -/
def memPortStatus (s : State) (n : Nat) : Nat :=
  let p := getPort s n
  compose [(p.kind.toNat, 0), (p.up.toNat, 2), (p.hot.toNat, 3), (p.capGib.toNat, 8), (p.rate.toNat, 16)]

/-- Code of a link state (R281). -/
def linkStateCode (x : LinkState) : Nat :=
  match x with
  | .down => 0 | .training => 1 | .up => 2 | .recovery => 3 | .lost => 4

/-- WAIN_LINK_STATUS n (R287): a DOWN link's peer fields hold zero (R583). -/
def wainLinkStatus (s : State) (n : Nat) : Nat :=
  let x := getLink s n
  let up := x.state != .down
  compose [(linkStateCode x.state, 0), (x.rate.toNat, 3), (x.peerHeld.toNat, 4), (x.localHeld.toNat, 5),
    (if up then x.peerLink.toNat else 0, 8), (if up then x.peerTally.toNat else 0, 16)]

/-- Sheaves leased to attachment a whose LEASE has been sent, bit s for Sheaf s (R478). -/
def leasedMask (s : State) (a : Nat) : Nat :=
  compose ((List.range 16).map (fun n => ((match (getSheaf s n).lease with
    | some l => l.att == a && l.begun
    | none => false).toNat, n)))

/-- EP_STATUS n (R484, R583). -/
def epStatus (s : State) (a : Nat) : Nat :=
  if !attPresent s a then 0
  else compose [(1, 0), ((bitOf s.boot.straps (8 + a)).toNat, 1), (epCaches s a, 2), (leasedMask s a, 8),
    ((getAtt s a).groups.length, 24)]

/-- ERR_STAT (R553). -/
def errStat (s : State) : Nat :=
  compose [(s.err.firstValid.toNat, 0), (s.err.nextValid.toNat, 1), (min s.err.restarts 3, 2), (s.err.replaying.toNat, 4)]

/-- The 32 bytes of an error record (R526). -/
def recBytes (e : ErrRec) : List Byte :=
  toLE 8 e.tick.toNat ++ toLE 4 e.epoch.toNat ++ [e.cls, e.source] ++ toLE 2 e.inst.toNat ++ toLE 8 e.address.toNat
    ++ toLE 4 (e.context.toNat + 2 ^ 20 * e.position.toNat) ++ toLE 2 e.detail.toNat ++ [e.slot, e.flags]

/-- Bytes of a record, zero when there is none. -/
def recOrZero (e : Option ErrRec) : List Byte := match e with | some x => recBytes x | none => List.replicate 32 0

/-- Reply ring size of a Windrow (R487). -/
def ringSize (w : Windrow) : Nat := 2 ^ field w.cfg 12 8

/-- The reply ring is full (R505). -/
def replyFull (w : Windrow) : Bool := (w.replyTail - w.replyHead).toNat == ringSize w

/-- No unread packet that will be read, no command in progress, no held reply (R501, R506). -/
def windrowIdle (w : Windrow) : Bool :=
  (!bitOf w.cfg 0 || w.head == w.tail) && w.accepted.isEmpty && w.inprog.isEmpty && w.replies.isEmpty

/-- GRG_WINDROW_STATUS (R521). -/
def windrowStatus (w : Windrow) : Nat :=
  compose [(w.resident.toNat, 0), (w.halted.toNat, 1), (w.faultHeld.toNat, 2), ((!w.replies.isEmpty && replyFull w).toNat, 3),
    ((windrowIdle w).toNat, 4), (min w.inprog.length 8, 5)]

/-! ## Reads -/

/-- 64-bit registers at their offsets (R579, R581). -/
def reg64 (s : State) (off : Nat) : Option Nat :=
  if off = 0x20010 then some s.boot.serial.toNat
  else if off = 0x21010 then some s.hl.hatchBase.toNat
  else if off = 0x21018 then some s.hl.err.toNat
  else if off = 0x21020 then some s.hl.placeLog.toNat
  else if off = 0x21028 then some s.hl.ptmHost.toNat
  else if off = 0x21030 then some s.hl.ptmTick.toNat
  else if off = 0x22000 then some s.grg.err.toNat
  else if off = 0x23008 then some s.tr.frBase.toNat
  else if off = 0x23020 then some s.tr.stat.toNat
  else if off = 0x23028 then some s.tr.desc0.toNat
  else if off = 0x23030 then some s.tr.desc1.toNat
  else if off = 0x24008 then some s.cache.err.toNat
  else if off = 0x24018 then some s.cache.cohStat.toNat
  else if 0x25200 ≤ off ∧ off < 0x25200 + 20 * 8 then some (look 0 s.mem.err ((off % 0x100) / 8)).toNat
  else if 0x26200 ≤ off ∧ off < 0x26200 + 24 * 8 then some (getLink s ((off % 0x100) / 8)).err.toNat
  else if 0x27040 ≤ off ∧ off < 0x27040 + 4 * 8 then
    (let a := (off % 0x20) / 8; some (if attPresent s a then (getAtt s a).arriveBase.toNat else 0))
  else if 0x27080 ≤ off ∧ off < 0x27080 + 4 * 8 then
    (let a := (off % 0x20) / 8; some (if attPresent s a then (getAtt s a).err.toNat else 0))
  else if off = 0x28008 then some s.err.count.toNat
  else if 0x28040 ≤ off ∧ off < 0x28060 then some (fieldLE (recOrZero s.err.first) (off % 0x20) 8)
  else if 0x28060 ≤ off ∧ off < 0x28080 then some (fieldLE (recOrZero s.err.next) (off % 0x20) 8)
  else none

/-- 32-bit registers at their offsets (R579, R581); an offset no table assigns reads zero (R576). -/
def reg32 (s : State) (off : Nat) : Nat :=
  if off = 0x20000 then 0x30345759
  else if off = 0x20004 then 0x10
  else if off = 0x20008 then s.boot.fwVersion.toNat
  else if off = 0x2000C then bootStatus s
  else if off = 0x20018 then s.boot.straps.toNat
  else if off = 0x21000 then s.hl.cfg.toNat
  else if off = 0x21004 then hlStatus s
  else if off = 0x21008 then s.hl.contain.toNat
  else if off = 0x23000 then s.tr.cfg.toNat
  else if off = 0x23010 then s.tr.frHead.toNat
  else if off = 0x23014 then s.tr.frTail.toNat
  else if off = 0x23018 then frStat s
  else if off = 0x24000 then s.cache.cfg.toNat
  else if off = 0x24004 then compose [(s.cache.loftWays, 0), (s.cache.loftBusy.toNat, 4)]
  else if off = 0x24010 then s.cache.cohCfg.toNat
  else if off = 0x25000 then memPool s
  else if off = 0x25004 then s.mem.gleanCfg.toNat
  else if off = 0x25008 then s.mem.gleanStatus.toNat
  else if off = 0x2500C then s.mem.ownerRefuse.toNat
  else if 0x25100 ≤ off ∧ off < 0x25100 + 20 * 4 then memPortStatus s ((off % 0x100) / 4)
  else if off = 0x26000 then s.wain.cfg.toNat
  else if 0x26100 ≤ off ∧ off < 0x26100 + 24 * 4 then wainLinkStatus s ((off % 0x100) / 4)
  else if 0x27000 ≤ off ∧ off < 0x27000 + 4 * 4 then epStatus s ((off % 0x10) / 4)
  else if off = 0x28000 then errStat s
  else 0

/-- One 64-byte block of Windrow registers, word k (R581). -/
def windrowWord (w : Windrow) (k : Nat) : Nat :=
  match k with
  | 0 => field w.cfg 31 0 | 1 => field w.cfg 63 32
  | 2 => field w.base 31 0 | 3 => field w.base 63 32
  | 4 => field w.replyBase 31 0 | 5 => field w.replyBase 63 32
  | 6 => w.replyHead.toNat | 7 => w.replyTail.toNat | 8 => w.head.toNat | 9 => windrowStatus w
  | _ => 0

/-- One word of the MSI-X table (R578). -/
def msixWord (s : State) (k : Nat) : Nat :=
  let e := look ({} : MsixEntry) s.hl.msixTable (k / 4)
  match k % 4 with
  | 0 => field e.addr 31 0 | 1 => field e.addr 63 32 | 2 => e.data.toNat | _ => e.masked.toNat

/-- One word of the pending bits. -/
def pbaWord (s : State) (k : Nat) : Nat :=
  compose ((List.range 32).map (fun i => ((s.hl.pba.contains (32 * k + i)).toNat, i)))

/-- One word of the component block (R577): the HDM decoder where its layout puts it, free elsewhere among the
CXL.cache and CXL.mem registers (log 9). -/
def componentWord (s : State) (off : Nat) : Nat :=
  if off < 0x1000 ∨ 0x2000 ≤ off then 0
  else
    let d := 0x1000 + Config.hdmOffset
    if off = d + 0x10 then field s.hl.hdmBase 31 0
    else if off = d + 0x14 then field s.hl.hdmBase 63 32
    else if off = d + 0x18 then poolBytes s % 2 ^ 32
    else if off = d + 0x1C then poolBytes s / 2 ^ 32
    else if off = d + 0x20 then s.hl.hdmControl.toNat
    else (Config.componentRead off s.freeCtr).toNat % 2 ^ 32

/-- BAR0 serves more than the identification block (R580). -/
def bar0Open (s : State) : Bool := grangerUp s && s.boot.step != 15

/-- The 32-bit word of BAR0 at an offset that is a multiple of 4 (R575 to R583). -/
def regWord (s : State) (off : Nat) : Nat :=
  if !bar0Open s && !(decide (0x20000 ≤ off) && decide (off < 0x20100)) then 0
  else if off < 0x10000 then componentWord s off
  else if off < 0x18000 then msixWord s ((off % 0x8000) / 4)
  else if off < 0x18100 then pbaWord s ((off % 0x100) / 4)
  else if 0x400000 ≤ off ∧ off < 0x800000 then
    windrowWord (getWindrow s ((off % 0x400000) / 64)) ((off % 0x400000) % 64 / 4)
  else match reg64 s (off - off % 8) with
    | some v => bits v (if off % 8 = 4 then 63 else 31) (if off % 8 = 4 then 32 else 0)
    | none => reg32 s off

/-- Registers whose halves are read from one sample (R15, R462, R553, R579). -/
def oneSample (off : Nat) : Bool :=
  off == 0x20010 || off == 0x21028 || off == 0x21030 || (decide (0x28040 ≤ off) && decide (off < 0x28080))

/-- Clear the RC fields of one 32-bit word (R12, R288, R315, R316, R344, R380, R420, R421, R461, R486, R522, R553). -/
def clearRc (s : State) (off : Nat) : State :=
  if !bar0Open s then s
  else
    let hi := if off % 8 = 4 then 63 else 31
    let lo := if off % 8 = 4 then 32 else 0
    let z (x : W64) : W64 := setField x hi lo 0
    let b := off - off % 8
    if b = 0x21018 then { s with hl := { s.hl with err := z s.hl.err } }
    else if b = 0x22000 then { s with grg := { s.grg with err := z s.grg.err } }
    else if off = 0x23018 then { s with tr := { s.tr with overflow := 0 } }
    else if b = 0x23020 then { s with tr := { s.tr with stat := z s.tr.stat } }
    else if b = 0x24008 then { s with cache := { s.cache with err := z s.cache.err } }
    else if b = 0x24018 then { s with cache := { s.cache with cohStat := z s.cache.cohStat } }
    else if off = 0x2500C then { s with mem := { s.mem with ownerRefuse := 0 } }
    else if 0x25200 ≤ off ∧ off < 0x25200 + 20 * 8 then
      (let n := (off % 0x100) / 8; { s with mem := { s.mem with err := put 0 s.mem.err n (z (look 0 s.mem.err n)) } })
    else if 0x26200 ≤ off ∧ off < 0x26200 + 24 * 8 then
      (let n := (off % 0x100) / 8; setLink s n { getLink s n with err := z (getLink s n).err })
    else if 0x27080 ≤ off ∧ off < 0x27080 + 4 * 8 then
      (let n := (off % 0x20) / 8; if attPresent s n then setAtt s n { getAtt s n with err := z (getAtt s n).err } else s)
    else if b = 0x28008 then { s with err := { s.err with count := z s.err.count } }
    else s

/-- Holding registers of a side. -/
def holding (s : State) (side : Side) : Tbl (Option W32) :=
  match side with
  | .host => s.hl.holdHost
  | .tally => s.hl.holdTally

/-- Keep the high half of the sample a low-half read took (R15). -/
def keepHigh (s : State) (side : Side) (off : Nat) : State :=
  let v := some (BitVec.ofNat 32 (regWord s (off + 4)))
  match side with
  | .host => { s with hl := { s.hl with holdHost := put none s.hl.holdHost off v } }
  | .tally => { s with hl := { s.hl with holdTally := put none s.hl.holdTally off v } }

/-- A 32-bit read by one side: its value, and the holding registers after it (R15). -/
def read32 (s : State) (side : Side) (off : Nat) : Nat × State :=
  if oneSample (off - off % 8) then
    if off % 8 = 0 then (regWord s off, keepHigh s side off)
    else match look none (holding s side) (off - 4) with
      | some v => (v.toNat, s)
      | none => (regWord s off, s)
  else (regWord s off, s)

/-- An access width and alignment BAR0 accepts (R14). -/
def goodAccess (off width : Nat) : Bool := (width == 4 || width == 8) && off % width == 0

/-- Count one access in HL_ERR.BAD_ACCESS (R461). -/
def countBad (s : State) : State := { s with hl := { s.hl with err := bump s.hl.err 15 0 1 } }

/-- An access of BAR0 or BAR4 that breaks R14: a read returns all ones, a write is dropped, each is counted. -/
def badAccess (s : State) (width : Nat) (write : Bool) : State :=
  let s := countBad s
  if write then s else emit s (.completion (List.replicate width 0xFF) false)

/-- A host read of BAR0 (R9, R12, R14, R15). -/
def hostRegRead (s : State) (off width : Nat) : State :=
  if !goodAccess off width then badAccess s width false
  else if width = 4 then
    let r := read32 s .host off
    emit (clearRc r.2 off) (.completion (toLE 4 r.1) false)
  else
    let v := regWord s off + 2 ^ 32 * regWord s (off + 4)
    emit (clearRc (clearRc s off) (off + 4)) (.completion (toLE 8 v) false)

/-! ## Writes -/

/-- Send every pending message whose vector is no longer masked (R446). -/
def drainPending (s : State) : State :=
  s.hl.pba.foldl (fun s v =>
    if vectorMasked s v then s
    else match vectorMsg s v with
      | none => s
      | some m => sendMsg { s with hl := { s.hl with pba := s.hl.pba.erase v } } m) s

/-- HL_CFG (R457). -/
def writeHlCfg (s : State) (v : W32) : State :=
  let old := s.hl.cfg
  let ms := field v 15 0
  let c := setField (setField old 27 16 (field v 27 16)) 15 0 (if 1 ≤ ms ∧ ms ≤ 1000 then ms else field old 15 0)
  { s with hl := { s.hl with cfg := c } }

/-- A release of the frozen port (R455): the held writes leave in order. -/
def releasePort (s : State) : State :=
  if s.hl.frozen && s.hl.linkUp && field s.hl.contain 2 0 == 0 then
    let held := s.hl.heldWrites
    let s := { s with hl := { s.hl with frozen := false, heldWrites := [] } }
    held.foldl (fun s o => match o with
      | .hostWrite a bs => hostPost s a bs
      | m => emit s m) s
  else s

/-- HL_CONTAIN (R455, R459): the cause bits clear first, then RELEASE is judged. -/
def writeContain (s : State) (v : W32) : State :=
  let s := { s with hl := { s.hl with contain := setField s.hl.contain 2 0 (field s.hl.contain 2 0 &&& (7 - field v 2 0)) } }
  if bitOf v 16 then releasePort s else s

/-- HATCH_BASE (R460). -/
def writeHatchBase (s : State) (v : W64) : State :=
  let b := 2 ^ 21 * field v 39 21
  if poolBytes s ≤ b then s else { s with hl := { s.hl with hatchBase := BitVec.ofNat 64 b } }

/-- FR_BASE (R420). -/
def writeFrBase (s : State) (v : W64) : State :=
  if bitOf s.tr.cfg 11 then s else { s with tr := { s.tr with frBase := BitVec.ofNat 64 (2 ^ 21 * field v 63 21) } }

/-- CACHE_CFG (R342). -/
def writeCacheCfg (s : State) (v : W32) : State :=
  let old := s.cache.cfg
  let p := field v 15 8
  let c := setField (setField old 2 0 (field v 2 0)) 15 8 (if 1 ≤ p ∧ p ≤ 64 then p else field old 15 8)
  { s with cache := { s.cache with cfg := c } }

/-- COH_CFG (R379). -/
def writeCohCfg (s : State) (v : W32) : State :=
  if field v 1 0 = 3 then s else { s with cache := { s.cache with cohCfg := setField s.cache.cohCfg 1 0 (field v 1 0) } }

/-- GLEAN_CFG (R316). -/
def writeGleanCfg (s : State) (v : W32) : State :=
  let old := s.mem.gleanCfg
  let h := field v 7 0
  let c := setBit (setField old 7 0 (if 1 ≤ h ∧ h ≤ 168 then h else field old 7 0)) 8 (bitOf v 8)
  { s with mem := { s.mem with gleanCfg := c } }

/-- WAIN_CFG (R286). -/
def writeWainCfg (s : State) (v : W32) : State :=
  let old := s.wain.cfg
  let l := field v 15 0
  let r := field v 31 16
  let c := setField (setField old 15 0 (if 1 ≤ l ∧ l ≤ 1000 then l else field old 15 0)) 31 16 (if 1 ≤ r then r else field old 31 16)
  { s with wain := { s.wain with cfg := c } }

/-- ERR_STAT (R553): clearing FIRST_VALID clears NEXT_VALID. -/
def writeErrStat (s : State) (v : W32) : State :=
  let first := s.err.firstValid && !bitOf v 0
  let next := s.err.nextValid && !bitOf v 1 && !bitOf v 0
  { s with err := { s.err with firstValid := first, nextValid := next, first := if first then s.err.first else none, next := if next then s.err.next else none } }

/-- BOOT_STATUS (R572, R574). -/
def writeBootStatus (s : State) (v : W32) : State :=
  { s with boot := { s.boot with tallyConflict := s.boot.tallyConflict && !bitOf v 10, alert := s.boot.alert && !bitOf v 23 } }

/-- EP_ARRIVE_BASE (R485, R583). -/
def writeArriveBase (s : State) (a : Nat) (v : W64) : State :=
  if !attPresent s a || s.ep.copies.any (fun j => j.att == a) then s
  else setAtt s a { getAtt s a with arriveBase := BitVec.ofNat 64 (2 ^ 9 * field v 51 9) }

/-- The fields of GRG_WINDROW_CFG a write may change while ENABLE is 1: CLASS, IRQ_ALL and VECTOR (R520). -/
def cfgLive (old v : W64) : W64 :=
  setField (setField (setBit old 5 (bitOf v 5)) 7 6 (field v 7 6)) 26 16 (field v 26 16)

/-- Every field but ENABLE, with LOG2N in range (R520). -/
def cfgIdle (old v : W64) : W64 :=
  let n := field v 12 8
  let ok := decide (6 ≤ n) && decide (n ≤ 16) && !(bitOf v 1 && decide (15 < n))
  let c := setField (setField (setField (cfgLive old v) 4 1 (field v 4 1)) 51 32 (field v 51 32)) 12 8 (if ok then n else field old 12 8)
  c

/-- GRG_WINDROW_CFG (R520): a write that sets ENABLE zeroes HEAD and the reply counters; with the pool absent only
Windrows 0 to 63 can be enabled (R291). -/
def writeWindrowCfg (s : State) (n : Nat) (v : W64) : State :=
  let w := getWindrow s n
  if bitOf w.cfg 0 then setWindrow s n { w with cfg := setBit (cfgLive w.cfg v) 0 (bitOf v 0) }
  else
    let c := cfgIdle w.cfg v
    if bitOf v 0 && (poolUp s || decide (n < 64)) then
      setWindrow s n { w with cfg := setBit c 0 true, head := 0, tail := 0, replyHead := 0, replyTail := 0,
                              halted := false, rereading := false, rereads := 0 }
    else setWindrow s n { w with cfg := c }

/-- A ring base (R521): ignored while ENABLE is 1. -/
def writeWindrowBase (s : State) (n : Nat) (reply : Bool) (v : W64) : State :=
  let w := getWindrow s n
  let b : W64 := BitVec.ofNat 64 (2 ^ 12 * field v 63 12)
  if bitOf w.cfg 0 then s
  else setWindrow s n (if reply then { w with replyBase := b } else { w with base := b })

/-- GRG_REPLY_HEAD (R521): a write that would pass the tail is ignored. -/
def writeReplyHead (s : State) (n : Nat) (v : W32) : State :=
  let w := getWindrow s n
  if (w.replyTail - w.replyHead).toNat < (v - w.replyHead).toNat then s else setWindrow s n { w with replyHead := v }

/-- One word of the MSI-X table written (R578); unmasking sends a pending message. -/
def writeMsix (s : State) (k : Nat) (v : W32) : State :=
  let e := look ({} : MsixEntry) s.hl.msixTable (k / 4)
  let e' := match k % 4 with
    | 0 => { e with addr := setField e.addr 31 0 (v.toNat - v.toNat % 4) }
    | 1 => { e with addr := setField e.addr 63 32 v.toNat }
    | 2 => { e with data := v }
    | _ => { e with masked := bitOf v 0 }
  drainPending { s with hl := { s.hl with msixTable := put {} s.hl.msixTable (k / 4) e' } }

/-- One word of the HDM decoder written (R431, R291; layout PRESUMED, log 9): locked once committed. -/
def writeHdm (s : State) (k : Nat) (v : W32) : State :=
  if s.hl.hdmCommitted && bitOf s.hl.hdmControl 8 then s
  else if k = 0x10 ∧ !s.hl.hdmCommitted then
    { s with hl := { s.hl with hdmBase := setField s.hl.hdmBase 31 0 (2 ^ 28 * field v 31 28) } }
  else if k = 0x14 ∧ !s.hl.hdmCommitted then { s with hl := { s.hl with hdmBase := setField s.hl.hdmBase 63 32 v.toNat } }
  else if k = 0x20 then
    let ok := bitOf v 9 && poolUp s
    let c : W32 := setBit (setBit (setField 0 9 0 (field v 9 0)) 10 ok) 11 (bitOf v 9 && !ok)
    { s with hl := { s.hl with hdmControl := c, hdmCommitted := ok } }
  else s

/-- The new value of a 64-bit register from the halves written. -/
def halves (old : W64) (lo hi : Option W32) : W64 :=
  let x := match lo with | some v => setField old 31 0 v.toNat | none => old
  match hi with | some v => setField x 63 32 v.toNat | none => x

/-- A write to a 64-bit register, whole or by halves; none for an offset that is no writable 64-bit register. -/
def write64 (s : State) (off : Nat) (lo hi : Option W32) : Option State :=
  if off = 0x21010 then some (writeHatchBase s (halves s.hl.hatchBase lo hi))
  else if off = 0x23008 then some (writeFrBase s (halves s.tr.frBase lo hi))
  else if 0x27040 ≤ off ∧ off < 0x27040 + 4 * 8 then
    (let a := (off % 0x20) / 8; some (writeArriveBase s a (halves (getAtt s a).arriveBase lo hi)))
  else if 0x400000 ≤ off ∧ off < 0x800000 then
    let n := (off % 0x400000) / 64
    let w := getWindrow s n
    match (off % 0x400000) % 64 with
    | 0 => some (writeWindrowCfg s n (halves w.cfg lo hi))
    | 8 => some (writeWindrowBase s n false (halves w.base lo hi))
    | 16 => some (writeWindrowBase s n true (halves w.replyBase lo hi))
    | _ => none
  else none

/-- A write to a 32-bit register; RO, RC and RSV fields and unassigned offsets take no effect (R9, R10, R576). -/
def write32 (s : State) (off : Nat) (v : W32) : State :=
  if off < 0x10000 then
    if off < 0x1000 ∨ 0x2000 ≤ off then s else writeHdm s (off % 0x1000 - Config.hdmOffset) v
  else if off < 0x18000 then writeMsix s ((off % 0x8000) / 4) v
  else if off = 0x21000 then writeHlCfg s v
  else if off = 0x21008 then writeContain s v
  else if off = 0x23000 then writeTrCfg s v
  else if off = 0x23010 then writeFrHead s v
  else if off = 0x24000 then writeCacheCfg s v
  else if off = 0x24010 then writeCohCfg s v
  else if off = 0x25004 then writeGleanCfg s v
  else if off = 0x26000 then writeWainCfg s v
  else if off = 0x28000 then writeErrStat s v
  else if 0x400000 ≤ off ∧ off < 0x800000 ∧ off % 64 = 24 then writeReplyHead s ((off % 0x400000) / 64) v
  else s

/-- One word written: the half of a 64-bit register, or a 32-bit register. -/
def writeWord (s : State) (off : Nat) (v : W32) : State :=
  if off = 0x2000C then writeBootStatus s v
  else if !bar0Open s then s
  else
    let r := if off % 8 = 0 then write64 s off (some v) none else write64 s (off - 4) none (some v)
    r.getD (write32 s off v)

/-- A write of BAR0 of 4 or 8 bytes by either side. -/
def regWrite (s : State) (off width : Nat) (v : W64) : State :=
  let lo : W32 := BitVec.ofNat 32 v.toNat
  let hi : W32 := BitVec.ofNat 32 (v.toNat / 2 ^ 32)
  if width = 4 then writeWord s off lo
  else match (if bar0Open s then write64 s off (some lo) (some hi) else none) with
    | some s' => s'
    | none => writeWord (writeWord s off lo) (off + 4) hi

/-- A configuration-space field written (R428; places PRESUMED, log 9). -/
def cfgWrite (s : State) (r : CfgReg) (v : W64) : State :=
  let h := s.hl
  match r with
  | .msixControl => drainPending { s with hl := { h with msixControl := setField h.msixControl 15 14 (field v 15 14) } }
  | .msiControl => drainPending { s with hl := { h with
      msiControl := setField (setBit h.msiControl 0 (bitOf v 0)) 6 4 (min 5 (field v 6 4)) } }
  | .msiMask => drainPending { s with hl := { h with msiMask := BitVec.ofNat 32 v.toNat } }
  | .devCtl2 => { s with hl := { h with devCtl2 := setField h.devCtl2 3 0 (field v 3 0) } }
  | .pmcsr => { s with hl := { h with pmcsr := setBit (setBit h.pmcsr 8 (bitOf v 8)) 15 (bitOf h.pmcsr 15 && !bitOf v 15) } }
  | .ptmControl => { s with hl := { h with ptmControl := setBit h.ptmControl 0 (bitOf v 0) } }
  | .aerSeverity => { s with hl := { h with aerSeverity := BitVec.ofNat 32 v.toNat } }
  | .aerStatus => { s with hl := { h with aerStatus := h.aerStatus &&& ~~~(BitVec.ofNat 32 v.toNat) } }
  | .bar0 => { s with hl := { h with bar0 := setField 0 63 26 (field v 63 26) } }
  | .bar2 => { s with hl := { h with bar2 := setField 0 63 36 (field v 63 36) } }
  | .bar4 => { s with hl := { h with bar4 := setField 0 63 22 (field v 63 22) } }

/-! ## Commands -/

/-- A memory access of the host reaches the block (R449, R567): the clocks run and the function is in D0. -/
def memAccess (s : State) : Bool := alive s && !s.hl.d3hot

/-- REGISTER_WRITE: a write to a register under its field access codes, or of a configuration field. -/
def execRegisterWrite (target : RegTarget) (width : Nat) (value : W64) (s : State) : Host.Outcome State Fault Refusal :=
  match target with
  | .bar0 off =>
    if !memAccess s then .next s
    else if !goodAccess off width then .next (badAccess s width true)
    else .next (regWrite s off width value)
  | .cfg r => .next (if alive s then cfgWrite s r value else s)

/-- A host read of BAR4 (R492): HEAD at a doorbell's offset, zero elsewhere; a frozen port ends it with an error (R454). -/
def doorbellRead (s : State) (off width : Nat) : State :=
  if s.hl.frozen then emit s .abortCompletion
  else if !goodAccess off width then badAccess s width false
  else emit s (.completion (toLE width (if off % 64 = 0 && bar0Open s then (getWindrow s (off / 64)).head.toNat else 0)) false)

/-- READ_TO_CLEAR: a host read of BAR0, returning the value and clearing the RC fields read; in D3hot it ends as
Unsupported Request (R449). A read of configuration space is served in every state (R449, R454); neither it nor a read of BAR4 clears anything (R492). -/
def execReadToClear (target : ReadTarget) (width : Nat) (s : State) : Host.Outcome State Fault Refusal :=
  if !alive s then .next s
  else match target with
    | .config off => .next (emit s (.completion (cfgBytes s off width) false))
    | .bar0 off => .next (if s.hl.d3hot then emit s .abortCompletion else hostRegRead s off width)
    | .bar4 off => .next (if s.hl.d3hot then emit s .abortCompletion else doorbellRead s off width)

/-- LOW_HALF_READ: a 32-bit read of the low half of a one-sample register by the host or over the Tally chain (R15). -/
def execLowHalfRead (side : Side) (off : Nat) (s : State) : Host.Outcome State Fault Refusal :=
  if !memAccess s || off % 8 != 0 then .next s
  else
    let r := read32 s side off
    match side with
    | .host => .next (emit (clearRc r.2 off) (.completion (toLE 4 r.1) false))
    | .tally => .next r.2

/-- BAD_ACCESS: an access of BAR0 (R14) or BAR4 (R492) that is not 32 or 64 bits wide and naturally aligned; a frozen port
completes a read of BAR4 with error and drops a write (R454). -/
def execBadAccess (bar off width : Nat) (write : Bool) (s : State) : Host.Outcome State Fault Refusal :=
  if !memAccess s || (bar != 0 && bar != 4) || goodAccess off width then .next s
  else if bar = 4 && s.hl.frozen then .next (if write then s else emit s .abortCompletion)
  else .next (badAccess s width write)

/-- VECTOR_UNMASK: a vector is unmasked, and a pending bit sends one message (R446). -/
def execVectorUnmask (v : Nat) (s : State) : Host.Outcome State Fault Refusal :=
  if !alive s then .next s
  else if bitOf s.hl.msixControl 15 then
    let e := look ({} : MsixEntry) s.hl.msixTable v
    .next (drainPending { s with hl := { s.hl with msixTable := put {} s.hl.msixTable v { e with masked := false } } })
  else .next (drainPending { s with hl := { s.hl with msiMask := setBit s.hl.msiMask (v % 2 ^ (field s.hl.msiControl 6 4)) false } })

/-- HL_CONTAIN_RELEASE: a write of HL_CONTAIN with RELEASE set (R455). -/
def execHlContainRelease (value : W32) (s : State) : Host.Outcome State Fault Refusal :=
  .next (if memAccess s && bar0Open s && bitOf value 16 then writeContain s value else s)

/-- WINDROW_ENABLE: a write of GRG_WINDROW_CFG that sets ENABLE (R520). -/
def execWindrowEnable (w : Nat) (value : W64) (s : State) : Host.Outcome State Fault Refusal :=
  .next (if memAccess s && bar0Open s && bitOf value 0 then writeWindrowCfg s w value else s)

/-- WINDROW_DISABLE: a write of GRG_WINDROW_CFG that clears ENABLE (R506, R520). -/
def execWindrowDisable (w : Nat) (value : W64) (s : State) : Host.Outcome State Fault Refusal :=
  .next (if memAccess s && bar0Open s && !bitOf value 0 then writeWindrowCfg s w value else s)

/-- GRG_REPLY_HEAD_WRITE: the host advances GRG_REPLY_HEAD (R505, R521). -/
def execGrgReplyHeadWrite (w : Nat) (value : W32) (s : State) : Host.Outcome State Fault Refusal :=
  .next (if memAccess s && bar0Open s then writeReplyHead s w value else s)

end Sys2Proof.Machine
end

