-- ==== Sys2Proof/Machine/HostLink.lean ====
section
/-!
DEFINITION. The host link (R423 to R462): BAR2 and CXL.mem accesses, snoops and GO, placement writes, completion timeouts,
PTM, training, freezing, power states and resets.
-/
namespace Sys2Proof.Machine

/-! ## Accesses of the host to device memory -/

/-- Count a poisoned return (R440). -/
def countPoison (s : State) : State := { s with hl := { s.hl with err := bump s.hl.err 55 48 1 } }

/-- A completion of a host read: with EP set and counted when poisoned (R440). -/
def hostCompletion (s : State) (bs : List Byte) (poison : Bool) : State :=
  emit (if poison then countPoison s else s) (.completion bs poison)

/-- Lines of a byte range: line number, first byte in the line, bytes, and place in the data. -/
def rangeLines (off n : Nat) : List (Nat × Nat × Nat × Nat) :=
  (List.range ((off + n + 63) / 64 - off / 64)).map (fun i =>
    let lo := if i = 0 then off % 64 else 0
    let hi := min 64 (off % 64 + n - 64 * i)
    (off / 64 + i, lo, hi - lo, 64 * i + lo - off % 64))

/-- HATCH_WRITE: each line enters its home as a HOSTIF WRLINE checked against HWR; a refused line is dropped (R303, R430);
a frozen port drops the write (R454). -/
def execHatchWrite (off : Nat) (data : List Byte) (s : State) : Host.Outcome State Fault Refusal :=
  if !hostUp s || s.hl.frozen then .next s
  else .next ((rangeLines (s.hl.hatchBase.toNat + off) data.length).foldl (fun s p =>
    let l : LineAddr := ⟨0, p.1⟩
    match coherentCheck s 20 l 0 .write with
    | .refuse _ row => coherentRefuse s 20 l 0 row
    | .ok => writeLine s 20 l (lineData p.2.1 (slice data p.2.2.2 p.2.2.1)) (byteMask p.2.1 p.2.2.1) 0 false) s)

/-- What reading lines for the host has gathered: bytes, poison, state. -/
abbrev Gather := List Byte × Bool × State

/-- HATCH_READ: each line is a HOSTIF RDCUR checked against HRD; a refused line reads as poisoned zeros (R303, R430). -/
def execHatchRead (off n : Nat) (s : State) : Host.Outcome State Fault Refusal :=
  if !grangerUp s then .next s
  else if s.hl.d3hot || s.hl.frozen then .next (emit s .abortCompletion)
  else
    let r := (rangeLines (s.hl.hatchBase.toNat + off) n).foldl (fun (acc : Gather) p =>
      let s := acc.2.2
      let l : LineAddr := ⟨0, p.1⟩
      match coherentCheck s 20 l 0 .read with
      | .refuse _ row => (acc.1 ++ List.replicate p.2.2.1 0, true, coherentRefuse s 20 l 0 row)
      | .ok =>
        let x := readCur s 20 l 0 false
        (acc.1 ++ slice x.1.data p.2.1 p.2.2.1, acc.2.1 || linePoison x.1, x.2)) ([], false, s)
    .next (hostCompletion r.2.2 r.1 r.2.1)

/-! ## CXL.mem (R431, R432) -/

/-- The host reaches CXL.mem at all: CXL.mem is negotiated and the function is in D0 (R426, R449). -/
def memOpen (s : State) : Bool := hostUp s && s.hl.cxlActive

/-- A CXL.mem read (R431, R440): refused, frozen or without a pool it returns poisoned zeros. -/
def memRead (s : State) (hpa : W64) : State :=
  if !memOpen s then s
  else if s.hl.frozen || !poolUp s then emit (countPoison s) (.memData (List.replicate 64 0) true)
  else if !inHdm s hpa.toNat then s
  else
    let n := (hpa.toNat - s.hl.hdmBase.toNat) / 64
    match hostCheck s (64 * n) .read with
    | .refuse _ row => emit (countPoison (coherentRefuse s 20 ⟨0, n⟩ 0 row)) (.memData (List.replicate 64 0) true)
    | .ok =>
      let r := memReadLine s n
      let p := linePoison r.1
      emit (if p then countPoison r.2 else r.2) (.memData r.1.data p)

/-- A CXL.mem write under a mask (R431): a refused one is completed with Cmp and dropped; a frozen port drops it. -/
def memWrite (s : State) (hpa : W64) (data : List Byte) (mask : Nat) : State :=
  if !memOpen s || s.hl.frozen then s
  else if !poolUp s then emit s .memCmp
  else if !inHdm s hpa.toNat then s
  else
    let n := (hpa.toNat - s.hl.hdmBase.toNat) / 64
    match hostCheck s (64 * n) .write with
    | .refuse _ row => emit (coherentRefuse s 20 ⟨0, n⟩ 0 row) .memCmp
    | .ok => emit (memWriteLine s n data mask) .memCmp

/-- MEM_RD. -/
def execMemRd (hpa : W64) (s : State) : Host.Outcome State Fault Refusal := .next (memRead s hpa)
/-- MEM_RD_DATA. -/
def execMemRdData (hpa : W64) (s : State) : Host.Outcome State Fault Refusal := .next (memRead s hpa)
/-- MEM_WR. -/
def execMemWr (hpa : W64) (data : List Byte) (s : State) : Host.Outcome State Fault Refusal :=
  .next (memWrite s hpa data (2 ^ 64 - 1))
/-- MEM_WR_PTL. -/
def execMemWrPtl (hpa : W64) (data : List Byte) (mask : W64) (s : State) : Host.Outcome State Fault Refusal :=
  .next (memWrite s hpa data mask.toNat)

/-- MEM_INV: answered without effect on memory (R431). -/
def execMemInv (hpa : W64) (s : State) : Host.Outcome State Fault Refusal :=
  .next (if memOpen s && !s.hl.frozen && inHdm s hpa.toNat then emit s .memCmp else s)
/-- MEM_SPEC_RD: no effect on memory, and no answer of its own, as CXL.mem defines it (R431; PRESUMED, log 9). -/
def execMemSpecRd (_hpa : W64) (s : State) : Host.Outcome State Fault Refusal := .next s

/-! ## CXL.cache (R353, R435, R436) -/

/-- What a snoop for data finds at the home of a host line: whether it is held, whether a copy is dirty, its data, and the state after. -/
structure SnoopView where
  held : Bool
  dirty : Bool
  content : Line
  after : State

/-- The home performs a snoop for data as an RDCUR: no holder and no directory entry changes; the data is an owner's, else the Granary's
(R351, R353). -/
def snoopHome (s : State) (l : LineAddr) : SnoopView :=
  let s := settleLine (checkHome s l) l
  let e := dirGet s l
  let cur : State × Option (Line × Bool) := if e.state = .excl then snoopAct s .cur e.owner l else (s, none)
  let s := cur.1
  match cur.2, cacheFind s 12 l with
  | some (x, d), way => ⟨true, d || (match way with | some w => w.dirty | none => false), x, s⟩
  | none, some w =>
    let r := granaryHit s l w.content
    ⟨true, w.dirty, r.1, r.2⟩
  | none, none => ⟨e.state != .uncached, false, poisonLine, s⟩

/-- The data of a clean line that only sharers hold, for a snoop that asks for it: it matches the value at the home, the host's own (R346). -/
def sharedData (v : SnoopView) (n : Nat) : List Byte := if linePoison v.content then (hostLine v.after n).data else v.content.data

/-- SNP_DATA: RDCUR at the home; the Granary's copy is S after it (R353, R436). -/
def execSnpData (hpa : W64) (s : State) : Host.Outcome State Fault Refusal :=
  if !hostUp s || s.hl.frozen then .next s
  else
    let n := hpa.toNat / 64
    let l : LineAddr := ⟨1, n⟩
    let v := snoopHome s l
    if !v.held then .next (emit v.after (.snoopRsp "RspIHitI" []))
    else
      let s := cacheModify v.after 12 l (fun w => { w with dirty := false, coh := .shared, content := v.content })
      if v.dirty then .next (emit (hostPutWhole s n v.content) (.snoopRsp "RspSFwdM" v.content.data))
      else .next (emit s (.snoopRsp "RspSHitSE" []))

/-- SNP_INV: WRLINE with an empty mask at the home, which collects M data; the Granary's copy goes (R353, R436). -/
def execSnpInv (hpa : W64) (s : State) : Host.Outcome State Fault Refusal :=
  if !hostUp s || s.hl.frozen then .next s
  else
    let n := hpa.toNat / 64
    let l : LineAddr := ⟨1, n⟩
    let s := settleLine (checkHome s l) l
    let held := (dirGet s l).state != .uncached
    let s := (homeRun s (writeReq 20 20 l [] 0 0 false)).2
    match cacheFind s 12 l with
    | some w =>
      let r := granaryHit s l w.content
      if w.dirty then .next (emit (hostPutWhole (cacheDrop r.2 12 l) n r.1) (.snoopRsp "RspIFwdM" r.1.data))
      else .next (emit (cacheDrop s 12 l) (.snoopRsp "RspIHitSE" []))
    | none => .next (emit s (.snoopRsp (if held then "RspIHitSE" else "RspIHitI") []))

/-- SNP_CUR: RDCUR at the home, no copy changed (R353, R436). -/
def execSnpCur (hpa : W64) (s : State) : Host.Outcome State Fault Refusal :=
  if !hostUp s || s.hl.frozen then .next s
  else
    let n := hpa.toNat / 64
    let v := snoopHome s ⟨1, n⟩
    .next (emit v.after (if v.held then .snoopRsp "RspVFwdV" (sharedData v n) else .snoopRsp "RspIHitI" []))

/-- GO: a write that awaited it is globally observed (R362, R435). -/
def execGo (tag : Nat) (s : State) : Host.Outcome State Fault Refusal :=
  match s.hl.hostReqs.find? (fun r => r.tag == tag) with
  | some r =>
    match r.kind with
    | .cacheWrite n data mask =>
      .next (hostPutMasked { s with hl := { s.hl with hostReqs := s.hl.hostReqs.erase r } } n data mask.toNat)
    | _ => .next s
  | none => .next s

/-! ## Placement writes (R442 to R445) -/

/-- Row of R444 that judges n bytes at a local offset. -/
def placeReason (s : State) (key : W16) (o n : Nat) : Nat :=
  match s.hl.regions.find? (fun r => r.key == key) with
  | none => 1
  | some r =>
    if o < r.base ∨ r.base + r.length < o + n then 2
    else if !r.wr then 3
    else if (rangeLines o n).any (fun p => ownerCheck s (64 * p.1) r.context .write false != .ok) then 4
    else 5

/-- The log of a drop (R461). -/
def placeLog (key requester : W16) (reason o : Nat) : W64 :=
  BitVec.ofNat 64 (compose [(key.toNat, 0), (requester.toNat, 16), (reason % 8, 32), (bits o 39 11, 35)])

/-- A dropped placement write: counted and recorded; a refused CONTEXT is refused under R303 too. -/
def placeDrop (s : State) (key requester : W16) (reason o n : Nat) : State :=
  let s := { s with hl := { s.hl with err := bump s.hl.err 31 16 1, placeLog := placeLog key requester reason o } }
  match s.hl.regions.find? (fun r => r.key == key), reason with
  | some r, 4 =>
    match (rangeLines o n).findSome? (fun p => match ownerCheck s (64 * p.1) r.context .write false with
        | .refuse _ row => some (p.1, row)
        | .ok => none) with
    | some (line, row) => refuseCtx s r.context (localDpa s (64 * line)) (localDpa s (64 * line)) row true
    | none => s
  | _, _ => s

/-- PLACEMENT_WRITE: by BAR2 along the Hatch path, or directly as unordered I/O under CXL 3.1 (R442, R444). -/
def execPlacementWrite (direct : Bool) (addr : W64) (key requester : W16) (data : List Byte) (s : State) : Host.Outcome State Fault Refusal :=
  let o := if direct then addr.toNat - s.hl.hdmBase.toNat else s.hl.hatchBase.toNat + addr.toNat
  if !hostUp s || s.hl.frozen then .next s
  else if direct && (!s.hl.cxlActive || s.hl.cxlVer != 3 || !inHdm s addr.toNat) then .next s
  else
    let reason := placeReason s key o data.length
    if reason ≠ 5 then .next (placeDrop s key requester reason o data.length)
    else .next ((rangeLines o data.length).foldl (fun s p =>
      let d := lineData p.2.1 (slice data p.2.2.2 p.2.2.1)
      let m := byteMask p.2.1 p.2.2.1
      if direct then memWriteLine s p.1 d m else writeLine s 20 ⟨0, p.1⟩ d m 0 false) s)

/-! ## Errors of the link -/

/-- A fill of a host line that will never arrive: the requests that joined it end with TARGET_LOST, of class Contained (R447, R454). -/
def loseFill (s : State) (l : LineAddr) : State :=
  match fillAt s 12 l with
  | none => s
  | some f =>
    let gone (g : Fill) := g.line == l && (g.cache == 12 || f.waiters.any (fun r => r.agent == g.cache))
    f.waiters.foldl (fun s r => emit (logError s clsContained srcAccess 0 (lineDpa s l) r.info.ctx.toNat 0) (.agentRefused r.agent l stTargetLost))
      { s with cache := { s.cache with fills := s.cache.fills.filter (fun g => !gone g) } }

/-- A host store that is lost: logged, and noted where its maker will answer with it (R370). -/
def loseStore (s : State) (line : Nat) (r : HostReq) : State :=
  let s := logError s clsContained srcAccess 0 (2 ^ 52 + 64 * line) r.context.toNat 0
  match r.who with
  | .command w _ => setWindrow s w { getWindrow s w with targetLost := true }
  | .engineGroup a g _ => noteLost s a g
  | .tiller _ => planContained s stTargetLost
  | _ => s

/-- A walk that can read no more of its tables: every requester that waits on it is refused (R409, R447, R454). -/
def loseMiss (status : Byte) (s : State) (m : Miss) : State :=
  m.waiters.foldl (fun s w => refuseWaiter s w.1 m.ctx m.va rsTablePoison status) s

/-- An outbound request ends at once (R454). -/
def loseRequest (s : State) (r : HostReq) : State :=
  match r.kind with
  | .cacheWrite n _ _ => loseStore s n r
  | .cacheRead l _ => loseFill s l
  | _ => s

/-- The host lines that are dirty in the Granary are discarded, every outbound access of a context ends with TARGET_LOST
(R454). -/
def failOutbound (s : State) : State :=
  let s := dropHostLines s true
  let reqs := s.hl.hostReqs
  let lost (m : Miss) := m.stopped.isNone && (!profileP s || walksHost s m.ctx m.va)
  let ms := s.tr.misses.filter lost
  let s := { s with hl := { s.hl with hostReqs := [] }, tr := { s.tr with misses := s.tr.misses.filter (fun m => !lost m) } }
  startWalks (ms.foldl (loseMiss stTargetLost) (reqs.foldl loseRequest s))

/-- The port freezes (R454): the cause is recorded and ERR_VECTOR signalled (R446); a lost link is no longer up. -/
def freezePort (s : State) (cause : FreezeCause) : State :=
  let b := match cause with | .surpriseDown => 0 | .fatal => 1 | .viral => 2
  let s := { s with hl := { s.hl with
    contain := setBit s.hl.contain b true, frozen := true
    linkUp := s.hl.linkUp && cause != .surpriseDown } }
  signalVector (failOutbound s) (field s.hl.cfg 26 16)

/-- PORT_FREEZE. -/
def execPortFreeze (cause : FreezeCause) (s : State) : Host.Outcome State Fault Refusal :=
  .next (if grangerUp s then freezePort s cause else s)

/-- A new AER error (R446, R454): its status bit, ERR_VECTOR, and the freeze where its severity is fatal. -/
def aerError (s : State) (b : Nat) : State :=
  let s := if bitOf s.hl.aerStatus b then s
    else signalVector { s with hl := { s.hl with aerStatus := setBit s.hl.aerStatus b true } } (field s.hl.cfg 26 16)
  if bitOf s.hl.aerSeverity b && !s.hl.frozen then freezePort s .fatal else s

/-- A request ends at its completion timeout (R370, R447): a store is dropped, a read's requesters get TARGET_LOST, a walk ends as TABLE_POISON. -/
def timeOut (s : State) (r : HostReq) : State :=
  match r.kind with
  | .walk ctx page => (match s.tr.misses.findIdx? (fun m => m.ctx == ctx && m.va / 4096 == page) with
    | some i => (match s.tr.misses[i]? with
      | some m => loseMiss stFaultUnresolved (dropMiss s i) m
      | none => s)
    | none => s)
  | _ => loseRequest s r

/-- COMPLETION_TIMEOUT (R370, R447): counted and logged in AER. -/
def execCompletionTimeout (tag : Nat) (s : State) : Host.Outcome State Fault Refusal :=
  match s.hl.hostReqs.find? (fun r => r.tag == tag) with
  | none => .next s
  | some r =>
    let s := { s with hl := { s.hl with hostReqs := s.hl.hostReqs.erase r, err := bump s.hl.err 47 32 1 } }
    .next (aerError (timeOut s r) 14)

/-- UNEXPECTED_COMPLETION: a completion of a request that is no longer outstanding is discarded (R447). -/
def execUnexpectedCompletion (_tag : Nat) (s : State) : Host.Outcome State Fault Refusal := .next s

/-! ## Time, training, power -/

/-- PTM_SAMPLE (R456): while PTM is enabled, in D0. -/
def execPtmSample (hostTime : W64) (s : State) : Host.Outcome State Fault Refusal :=
  .next (if hostUp s && bitOf s.hl.ptmControl 0 then { s with hl := { s.hl with ptmHost := hostTime, ptmTick := s.globalTick } } else s)

/-- HOST_LINK_TRAINED (R426, R458, R567 step 7): CXL.cache and CXL.mem need 8 GT/s. -/
def execHostLinkTrained (t : HostTraining) (s : State) : Host.Outcome State Fault Refusal :=
  if !grangerUp s || decide (s.boot.step.toNat < 6) || s.boot.step == 15 then .next s
  else
    let cxl := t.cxl && (profileP s || decide (16 ≤ t.rate.toNat))
    .next { s with
      boot := { s.boot with step := if s.boot.step = 6 then 7 else s.boot.step }
      hl := { s.hl with
        linkUp := true, cxlActive := cxl, cxlVer := if cxl then t.cxlVer else 0
        flit256 := t.flit256, rate := t.rate, width := t.width, modules := t.modules } }

/-- PME_Status is set, and wake signalled while PME_En is 1 (R450). -/
def setPme (s : State) : State :=
  let s := { s with hl := { s.hl with pmcsr := setBit s.hl.pmcsr 15 true } }
  if bitOf s.hl.pmcsr 8 then emit s .wake else s

/-- WAKE_WAIN. -/
def execWakeWain (_link : Nat) (s : State) : Host.Outcome State Fault Refusal :=
  .next (if grangerUp s && bitOf s.hl.cfg 27 then setPme s else s)

/-- Any command in progress (R449, R506). -/
def commandsBusy (s : State) : Bool := s.grg.windrows.any (fun p => !p.2.inprog.isEmpty || !p.2.accepted.isEmpty)

/-- The drain and the loss of bindings of a D3hot entry (R378, R449 steps 3 to 5). -/
def enterD3 (s : State) : State :=
  let s := drainAll s
  let s := flushWhere s (fun l => l.space != 2) false
  let s := (List.range 16).foldl (fun s n => setSlot s n (unbindSlot (getSlot s n))) s
  let s := endMembership s
  { s with hl := { s.hl with gated := true } }

/-- D3HOT_ENTRY: memory accesses and doorbells stop at once and a running plan is stopped by mode NOW; the row, executed
again once no plan runs and no command is in progress, drains and completes the entry. -/
def execD3hotEntry (s : State) : Host.Outcome State Fault Refusal :=
  if !grangerUp s || s.hl.gated then .next s
  else
    let first := !s.hl.d3hot
    let s := { s with hl := { s.hl with d3hot := true, pmcsr := setField s.hl.pmcsr 1 0 3 } }
    if (runningSlot s).isSome then .next (if first then reportToRoot s (.planStop true) else s)
    else if commandsBusy s then .next s
    else .next (enterD3 s)

/-- D0_RETURN: doorbells are read again (R449). -/
def execD0Return (s : State) : Host.Outcome State Fault Refusal :=
  .next (if s.hl.d3hot then { s with hl := { s.hl with d3hot := false, gated := false, pmcsr := setField s.hl.pmcsr 1 0 0 } } else s)

/-! ## Resets (R451 to R453, R483) -/

/-- A Windrow's registers after a reset: unbound, with the last status of a command it abandons (R507). -/
def abandonWindrow (s : State) (w : Windrow) : Windrow :=
  let busy := !w.inprog.isEmpty || !w.accepted.isEmpty || !w.replies.isEmpty
  let last := match w.inprog.getLast? with | some p => p.seq | none => w.lastSeq
  { windrowDefault s with
    lastSeq := if busy then last else w.lastSeq
    lastStatus := if busy then stAbortedReset else w.lastStatus }

/-- Slots after a reset (R217, R507). -/
def resetSlot (x : Slot) : Slot :=
  let y := unbindSlot x
  if x.run.isSome || x.forming.isSome then { y with lastStatus := stAbortedReset, run := none, forming := none } else y

/-- Every lease ends without LEASE and the attachments start over; RESET is sent (R483). -/
def resetEngines (s : State) : State :=
  let s := (List.range 16).foldl (fun s n =>
    if (getSheaf s n).lease.isSome then
      let s := clearSheaf s n
      setSheaf s n { getSheaf s n with lease := none }
    else s) s
  let s := { s with ep := { s.ep with copies := [] } }
  (List.range 4).foldl (fun s a =>
    if attPresent s a then emit (setAtt s a { err := (getAtt s a).err }) (.epReset a) else s) s

/-- Contexts, translation state and the ring after a reset (R452): counts of a context stay with its number. -/
def resetTrans (t : Trans) : Trans :=
  { gens := t.gens, overflow := t.overflow, stat := t.stat, desc0 := t.desc0, desc1 := t.desc1
    ctxs := t.ctxs.foldl (fun c p => put {} c p.1 { faults := p.2.faults, refusals := p.2.refusals, lastAddr := p.2.lastAddr }) [] }

/-- The host link after a reset: non-sticky configuration and RW fields at their defaults, counters and logs kept. -/
def resetHostLink (h : HostLink) : HostLink :=
  { contain := h.contain, err := h.err, placeLog := h.placeLog, ptmHost := h.ptmHost, ptmTick := h.ptmTick
    linkUp := h.linkUp, cxlActive := h.cxlActive, cxlVer := h.cxlVer, flit256 := h.flit256, rate := h.rate
    width := h.width, modules := h.modules
    pmcsr := setField (setBit ({} : HostLink).pmcsr 8 (bitOf h.pmcsr 8)) 15 15 (bitOf h.pmcsr 15).toNat
    aerSeverity := h.aerSeverity, aerStatus := h.aerStatus }

/-- The effects of R452. `keepHost` says that dirty host lines are written back through CXL.cache (function-level reset);
`self` that this is the self-reset, which frees the Loft's granules too (R341). -/
def resetBlock (s : State) (keepHost self : Bool) : State :=
  let s := drainAll (if self then { s with hl := { s.hl with frozen := true } } else s)
  let reqs := s.hl.hostReqs
  let s := reqs.foldl (fun s r => match r.kind with
    | .cacheWrite n d m => if keepHost then hostPutMasked s n d m.toNat else s
    | _ => s) { s with hl := { s.hl with hostReqs := [] } }
  let s := if keepHost then flushHostLines s else dropHostLines s false
  let s := flushWhere s (fun l => l.space != 1) true
  let s := clearRun s
  let s := resetEngines s
  let s := (List.range 16).foldl (fun s n => setSlot s n (resetSlot (getSlot s n))) s
  let s := endMembership s
  { s with
    hl := resetHostLink s.hl
    grg := { err := s.grg.err
             windrows := s.grg.windrows.foldl (fun t p => put (windrowDefault s) t p.1 (abandonWindrow s p.2)) [] }
    tr := resetTrans s.tr
    mem := { s.mem with owner := [], gleanCfg := ({} : Pool).gleanCfg }
    cache := { s.cache with
      cfg := ({} : Caches).cfg, cohCfg := ({} : Caches).cohCfg, sbufs := [], fills := [], nacks := [], streams := [], loftBusy := false
      loftOwner := if self then [] else s.cache.loftOwner }
    err := { s.err with replaying := false, restarts := 0, reported := [] }
    wain := { links := s.wain.links } }

/-- An error of class FATAL (R524, R533): handling in progress is marked PREEMPTED, and the block takes the self-reset. -/
def fatalReset (s : State) (source : Nat) : State := resetBlock (logError (markPreempted s) clsFatal source 0 0 0 0) false true

/-- SELF_RESET on a link that has been down for LINK_LOSS_MS in D0: an error of class FATAL (R453, R524). -/
def execSelfReset (s : State) : Host.Outcome State Fault Refusal :=
  if !grangerUp s || s.hl.d3hot || s.hl.linkUp then .next s
  else .next (fatalReset s srcHostLink)

/-- HOT_RESET. -/
def execHotReset (s : State) : Host.Outcome State Fault Refusal :=
  .next (if grangerUp s then resetBlock s false false else s)

/-- FUNCTION_LEVEL_RESET. -/
def execFunctionLevelReset (s : State) : Host.Outcome State Fault Refusal :=
  .next (if grangerUp s then resetBlock s true false else s)

end Sys2Proof.Machine
end

