-- ==== Sys2Proof/Machine/Margin.lean ====
section
/-!
DEFINITION. Ripeness samples (R545, R547), Granger's watchdog (R524) and the VDD_A request port (R562).
-/
namespace Sys2Proof.Machine

/-- A reading is kept: the epoch's minimum of its monitor and the lowest of all (R545, R551). -/
def keepSample (s : State) (monitor slack : Nat) : State :=
  let m := s.margin
  { s with margin := { m with
      slack := put 65535 m.slack monitor (min slack (look 65535 m.slack monitor))
      worst := BitVec.ofNat 32 (min m.worst.toNat slack) } }

/-- RIPENESS_SAMPLE: a reading below 10 ps is CRITICAL, a RIPENESS error of class REPLAYED (R545, R547). -/
def execRipenessSample (monitor slack : Nat) (s : State) : Host.Outcome State Fault Refusal :=
  if !grangerUp s then .next s
  else
    let s := keepSample s monitor slack
    if slack < 10 then .next (raiseReplayed { s with margin := { s.margin with critical := true } } srcRipeness monitor 0 0 slack)
    else .next s

/-- WATCHDOG_EXPIRY: an error of SOURCE CONTROL, class FATAL (R523, R524). -/
def execWatchdogExpiry (s : State) : Host.Outcome State Fault Refusal :=
  .next (if grangerUp s then fatalReset s srcControl else s)

/-- VID_ACK: VDD_A has settled; a code that waited is driven (R562). -/
def execVidAck (s : State) : Host.Outcome State Fault Refusal :=
  .next (driveVid { s with margin := { s.margin with vidAckHigh := true } })

/-- VID_ACK_TIMEOUT: logged, and VDD_A counts as at its ceiling until the next fundamental reset (R562). -/
def execVidAckTimeout (s : State) : Host.Outcome State Fault Refusal :=
  if grangerUp s && !s.margin.vidAckHigh then
    .next (logError { s with margin := { s.margin with atCeiling := true } } clsCorrected srcRipeness 0 0 0 0xFFFF)
  else .next s

end Sys2Proof.Machine
end

