-- ==== Sys2Proof/Machine/Boot.lean ====
section
/-!
DEFINITION. Fundamental reset and boot (R555, R556, R559 to R567), thermal trip (R561) and the test access port (R573).
-/
namespace Sys2Proof.Machine

/-! ## Reset -/

/-- The state of a fundamental reset (R378, R451, R562, R570, R573; log 6): everything is lost but what is not the block's (the queue
of commands, host memory, what has been emitted), the flash, the Tally address, the strap latches and the level of VID_ACK. -/
def fundamentalState (s : State) : State :=
  let b := takeDeferred s.boot
  { pending := s.pending, out := s.out, freeCtr := s.freeCtr, hostMem := s.hostMem
    boot := { straps := b.straps, tallyAddr := b.tallyAddr, tallyValid := b.tallyValid, flash := b.flash, erased := b.erased
              flashAddr := b.flashAddr, tap := b.tap }
    margin := { vidAckHigh := s.margin.vidAckHigh } }

/-- PERST_N_ASSERTED: the block enters fundamental reset and loses its state (R378, R451). -/
def execPerstNAsserted (s : State) : Host.Outcome State Fault Refusal :=
  .next (if s.boot.perstLow then s else fundamentalState s)

/-- PWR_OK_FALL: as an assertion of PERST_N (R559). -/
def execPwrOkFall (s : State) : Host.Outcome State Fault Refusal :=
  .next (if s.boot.perstLow then s else fundamentalState s)

/-- THERMTRIP: THERMTRIP_N is asserted and every clock stops, until a fundamental reset (R561). -/
def execThermtrip (s : State) : Host.Outcome State Fault Refusal :=
  .next { s with boot := { s.boot with thermtrip := true } }

/-- A strap combination without meaning (R556): RSV pin 3, a cache count of 3, lanes or caches of an absent attachment. -/
def strapsOdd (v : W16) : Bool :=
  bitOf v 3 || field v 13 12 == 3 || field v 15 14 == 3
    || (List.range 4).any (fun a => !bitOf v (4 + a) && bitOf v (8 + a))
    || (!bitOf v 4 && field v 13 12 != 0) || (!bitOf v 5 && field v 15 14 != 0)

/-- FUNDAMENTAL_RESET: PERST_N rises, the straps are sampled and the boot begins after step 2 (R555, R556, R567); pin test
instructions act as BYPASS from now on (R573). -/
def execFundamentalReset (straps : W16) (s : State) : Host.Outcome State Fault Refusal :=
  if !s.boot.perstLow then .next s
  else
    let b := s.boot
    let tap := match b.tap with | .extest | .clamp | .highz => TapOp.bypass | t => t
    .next { s with boot := { b with perstLow := false, thermtrip := false, straps := straps, step := 2, strapRsv := strapsOdd straps, tap := tap } }

/-! ## Boot steps -/

/-- The boot stops: STEP is FAILED, FAIL holds the code, and the alert is raised (R566, R572, R574). -/
def bootFail (s : State) (code : Nat) : State :=
  { s with boot := { s.boot with step := 15, fail := BitVec.ofNat 4 code, alert := true } }

/-- PLL_LOCK: the root locks and every crossing is aligned (steps 3 and 4), or the boot stops (R25, R26, R566, R567). -/
def execPllLock (locked : Bool) (s : State) : Host.Outcome State Fault Refusal :=
  if !alive s || s.boot.step != 2 then .next s
  else if locked then .next { s with boot := { s.boot with step := 4, pllLocked := true } }
  else .next (bootFail s 1)

/-- Ranges of the configuration record (R565). -/
def recordOk (r : AuthResult) : Bool :=
  let f (off n : Nat) : Nat := fieldLE r.record off n
  let boot := f 4 2
  let ceil := f 6 2
  r.recordSigned && r.record.length == 64
    && decide (700 ≤ boot) && decide (boot ≤ 800) && boot % 5 == 0
    && decide (boot ≤ ceil) && decide (ceil ≤ 850) && ceil % 5 == 0
    && decide (80 ≤ f 8 1) && decide (f 8 1 ≤ 100) && decide (100 ≤ f 10 1) && decide (f 10 1 ≤ 105) && decide (f 24 8 < 2 ^ 63)

/-- Cache counts of the record without meaning: 3, or any of an absent attachment (R556, R565). -/
def cachesOdd (straps : W16) (hi : Byte) : Bool :=
  field hi 1 0 == 3 || field hi 3 2 == 3 || (!bitOf straps 6 && field hi 1 0 != 0) || (!bitOf straps 7 && field hi 3 2 != 0)

/-- PTE_DESC1 as the record's word gives it (R422): its reserved bits [7:6] and [62:14] read zero (R9, R10), and LOCK is set. -/
def descOne (x : Nat) : W64 := BitVec.ofNat 64 (bits x 5 0 + 2 ^ 8 * bits x 13 8 + 2 ^ 63)

/-- Granger runs and loads the configuration record (R422, R427, R463, R551, R562, R567 step 5). -/
def loadConfig (s : State) (r : AuthResult) (copyB : Bool) : State :=
  let f (off n : Nat) : Nat := fieldLE r.record off n
  let hi : Byte := BitVec.ofNat 8 (f 9 1 % 16)
  let b := s.boot
  let s := { s with
    boot := { b with step := 5, fwRunning := true, copyB := copyB, fwVersion := if copyB then r.fwVersionB else r.fwVersionA
                     serial := r.serial, subsysVid := BitVec.ofNat 16 (f 0 2), subsysId := BitVec.ofNat 16 (f 2 2), epCachesHi := hi
                     strapRsv := b.strapRsv || cachesOdd b.straps hi }
    tr := { s.tr with desc0 := BitVec.ofNat 64 (f 16 8), desc1 := descOne (f 24 8) }
    margin := { s.margin with vddMv := f 4 2, vddBoot := f 4 2, vddCeil := f 6 2, fmin := f 8 1, fmax := f 10 1 } }
  driveVid s

/-- FIRMWARE_AUTHENTICATION: copy A, else copy B, whose signature holds and whose security version meets the fused minimum; then
the record (R564 to R567). -/
def execFirmwareAuthentication (r : AuthResult) (s : State) : Host.Outcome State Fault Refusal :=
  let okA := r.authA && decide (r.fusedMin ≤ r.versionA)
  let okB := r.authB && decide (r.fusedMin ≤ r.versionB)
  if !alive s || s.boot.step != 4 then .next s
  else if !okA && !okB then .next (bootFail s (if r.authA || r.authB then 3 else 2))
  else if !recordOk r then .next (bootFail s 4)
  else .next (loadConfig s r (!okA))

/-- Top pin rate of a stack kind, in units of 0.1 Gb/s (R289). -/
def topRate (kind : BitVec 2) : Nat := if kind = 1 then 64 else if kind = 2 then 96 else 0

/-- A port after training (R290): it serves when a stack of a known kind trained, at the lesser of the rated and the top rate. -/
def trainedPort (p : PortTrain) : Port :=
  { kind := p.kind, up := p.up && decide (0 < topRate p.kind), capGib := p.capGib
    rate := BitVec.ofNat 8 (min p.rate.toNat (topRate p.kind)) }

/-- STACK_TRAINING: the pool is 20 times the smallest stack; with a port that failed the pool is absent and step 6 ends here
(R289 to R292, R313, R314, R567). -/
def execStackTraining (ports : List PortTrain) (s : State) : Host.Outcome State Fault Refusal :=
  if !grangerUp s || s.boot.step != 5 || s.boot.stacksTrained then .next s
  else
    let ps := (List.range 20).zip ports
    let s := ps.foldl (fun s p => setPort s p.1 (trainedPort p.2)) s
    let ok := ports.length == 20 && ports.all (fun p => (trainedPort p).up)
    let least := ports.foldl (fun m p => min m p.capGib.toNat) 255
    let mixed := ports.any (fun p => p.kind == 1) && ports.any (fun p => p.kind == 2)
    let m := s.mem
    if ok then
      .next { s with
        boot := { s.boot with stacksTrained := true }
        mem := { m with poolGib := BitVec.ofNat 11 (20 * least), mixed := mixed, rsvGran := 640 } }
    else
      .next { s with
        boot := { s.boot with stacksTrained := true, poolAbsent := true, step := 6 }
        mem := { m with poolGib := 0, mixed := mixed, rsvGran := 640 } }

/-- POOL_CLEAR: every word of the pool is zero with its check bits, the owner and context tables are clear, and the pool serves
(R302, R312, R567 step 6). -/
def execPoolClear (s : State) : Host.Outcome State Fault Refusal :=
  if !grangerUp s || s.boot.step != 5 || !s.boot.stacksTrained || s.boot.poolAbsent then .next s
  else
    .next { s with
      boot := { s.boot with step := 6, memoryActive := true }
      mem := { s.mem with ram := {}, owner := [], gleanStart := s.wall }
      tr := { s.tr with ctxs := [] } }

/-! ## Test access (R573) -/

/-- TAP_INSTRUCTION: IDCODE names the block; pin instructions act only while PERST_N is low, and every
instrument but the monitors then or under a debug token: otherwise IJTAG reaches the monitors alone. -/
def execTapInstruction (op : TapOp) (s : State) : Host.Outcome State Fault Refusal :=
  let use (t : TapOp) (s : State) : State := { s with boot := { s.boot with tap := t } }
  let allowed := s.boot.perstLow || s.boot.debugToken
  match op with
  | .extest | .clamp | .highz => .next (use (if s.boot.perstLow then op else .bypass) s)
  | .idcode => .next (emit (use op s) (.tdo 0x15940A6B))
  | .ijtagPhy => .next (use (if allowed then op else .ijtagMonitors) s)
  | .ijtagBist =>
    if !allowed then .next (use .ijtagMonitors s)
    else
      let r := fundamentalState s
      .next (use op { r with boot := { r.boot with perstLow := s.boot.perstLow } })
  | .debugToken signed =>
    .next (if signed && grangerUp s then { s with boot := { s.boot with debugToken := true, tap := op } } else use op s)
  | .bypass | .samplePreload | .ijtagMonitors => .next (use op s)

end Sys2Proof.Machine
end

