-- ==== Sys2Proof/Machine/Packet.lean ====
section
/-!
DEFINITION. Command packets (R489 to R491, R519) and their decoding: checks 3 and 4 of R500 over the parameter tables of
R509, R513 and R515.
-/
namespace Sys2Proof.Machine

/-- PHASE of count k in a ring of 2^LOG2N slots (R489): 1 on an even lap. -/
def phaseOf (k log2n : Nat) : Bool := (k >>> log2n) % 2 == 0

/-- PCHK of R491 over a packet's words. -/
def packetSum (bs : List Byte) : Nat :=
  let s := (List.range 16).foldl (fun n i => if i = 3 then n else n + fieldLE bs (4 * i) 4) 0
  2 ^ 32 - 1 - s % 2 ^ 32

/-- A Moldo packet as the Waluc packet of the same command (R519): bytes 40 to 63 zero. -/
def expandMoldo (bs : List Byte) : List Byte :=
  slice bs 0 2 ++ [0, 0] ++ slice bs 2 2 ++ [0, 0] ++ slice bs 4 4 ++ [0, 0, 0, 0] ++ slice bs 8 24 ++ List.replicate 24 0

/-- Bytes of PARAM that no named range covers are zero (R490, R500 check 4). -/
def paramOnly (bs : List Byte) (named : List (Nat × Nat)) : Bool :=
  (List.range 48).all (fun i => named.any (fun r => decide (r.1 ≤ 16 + i) && decide (16 + i < r.1 + r.2)) || bs.getD (16 + i) 0 == 0)

/-- The header of R490. -/
def packetHdr (w : Nat) (bs : List Byte) : CmdHdr :=
  { windrow := w, seq := BitVec.ofNat 32 (fieldLE bs 4 4), context := BitVec.ofNat 20 (fieldLE bs 8 4),
    waitPrev := (fieldLE bs 1 1).testBit 1, irq := (fieldLE bs 1 1).testBit 2 }

/-- The parameter ranges an opcode names; none for an undefined opcode (R509, R513, R515). -/
def opcodeParams (op : Nat) : Option (List (Nat × Nat)) :=
  match op with
  | 0x01 => some []
  | 0x02 => some [(16, 1)]
  | 0x03 => some [(16, 17)]
  | 0x10 => some [(16, 27), (44, 12)]
  | 0x11 => some [(16, 24)]
  | 0x12 => some [(16, 22)]
  | 0x20 => some [(16, 2)]
  | 0x21 => some [(16, 1), (24, 16)]
  | 0x22 => some [(16, 8)]
  | 0x23 => some [(16, 16)]
  | 0x24 => some [(16, 12)]
  | 0x25 => some [(16, 3), (24, 16)]
  | 0x26 => some [(16, 2)]
  | 0x30 => some [(16, 1), (18, 2), (24, 16)]
  | 0x31 => some [(16, 1)]
  | 0x32 => some [(16, 2)]
  | 0x33 => some [(16, 1), (18, 22)]
  | 0x34 => some [(16, 1), (18, 18)]
  | 0x35 => some [(16, 1), (24, 16)]
  | 0x36 => some [(16, 1), (24, 16)]
  | 0x37 => some [(16, 1)]
  | 0x40 => some [(16, 2), (20, 2), (24, 4)]
  | 0x41 => some [(16, 4)]
  | 0x50 => some [(16, 2), (20, 12)]
  | 0x51 => some [(16, 2), (20, 8), (32, 8)]
  | 0x60 => some [(16, 5)]
  | 0x70 => some [(16, 3)]
  | _ => none

/-- Reserved bits inside named bytes are zero (R509, R513, R515). -/
def opcodeBits (op : Nat) (bs : List Byte) : Bool :=
  match op with
  | 0x10 => bits (fieldLE bs 41 1) 7 4 == 0 && bits (fieldLE bs 42 1) 7 7 == 0
  | 0x12 => bits (fieldLE bs 36 2) 15 10 == 0
  | 0x20 => bits (fieldLE bs 17 1) 7 3 == 0
  | 0x25 => bits (fieldLE bs 18 1) 7 1 == 0
  | 0x60 => bits (fieldLE bs 19 1) 7 1 == 0
  | _ => true

/-- The command of a packet whose opcode is defined. -/
def opcodeCommand (op : Nat) (h : CmdHdr) (bs : List Byte) : Instr :=
  let b8 (o : Nat) : Byte := BitVec.ofNat 8 (fieldLE bs o 1)
  let b16 (o : Nat) : W16 := BitVec.ofNat 16 (fieldLE bs o 2)
  let b32 (o : Nat) : W32 := BitVec.ofNat 32 (fieldLE bs o 4)
  let b64 (o : Nat) : W64 := BitVec.ofNat 64 (fieldLE bs o 8)
  match op with
  | 0x02 => .fence h (b8 16)
  | 0x03 => .flushPublish h (b64 16) (b64 24) (b8 32)
  | 0x10 => .copy h (b64 16) (b64 24) (b64 32) (b8 40) (BitVec.ofNat 4 (fieldLE bs 41 1)) (BitVec.ofNat 4 (fieldLE bs 42 1))
      ((fieldLE bs 42 1).testBit 4) (BitVec.ofNat 2 (bits (fieldLE bs 42 1) 6 5)) (b32 44) (b64 48)
  | 0x11 => .fill h (b64 16) (b64 24) (b64 32)
  | 0x12 => .copyRemote h (b64 16) (b64 24) (b32 32) (BitVec.ofNat 10 (fieldLE bs 36 2))
  | 0x20 => .ctxBind h (b8 16) ((fieldLE bs 17 1).testBit 0) ((fieldLE bs 17 1).testBit 1) ((fieldLE bs 17 1).testBit 2)
  | 0x21 => .segSet h (b8 16) (BitVec.ofNat 128 (fieldLE bs 24 16))
  | 0x22 => .ptRootSet h (b64 16)
  | 0x23 => .tlbInval h (b64 16) (b64 24)
  | 0x24 => .grant h (b32 16) (b32 20) (b32 24)
  | 0x25 => .regionRegister h (b16 16) ((fieldLE bs 18 1).testBit 0) (b64 24) (b64 32)
  | 0x26 => .regionRevoke h (b16 16)
  | 0x30 => .planLoad h (b8 16) (b16 18) (b64 24) (b64 32)
  | 0x31 => .planRun h (b8 16)
  | 0x32 => .planStop h (b8 16) (b8 17)
  | 0x33 => .cropForm h (b8 16) (b16 18) (b32 20) (b64 24) (b32 32) (b32 36)
  | 0x34 => .cropJoin h (b8 16) (b16 18) (b32 20) (b64 24) (b32 32)
  | 0x35 => .seedcornExport h (b8 16) (b64 24) (b64 32)
  | 0x36 => .seedcornImport h (b8 16) (b64 24) (b64 32)
  | 0x37 => .planResume h (b8 16)
  | 0x40 => .loftConfig h (b8 16) (b8 17) (b8 20) (b8 21) (b32 24)
  | 0x41 => .engineLease h (b8 16) (b8 17) (b16 18)
  | 0x50 => .query h (b16 16) (b32 20) (b64 24)
  | 0x51 => .countersRead h (b8 16) (b8 17) (b32 20) (b32 24) (b64 32)
  | 0x60 => .marginPolicy h (b16 16) (b8 18) ((fieldLE bs 19 1).testBit 0) (b8 20)
  | 0x70 => .faultResolve h (b16 16) (b8 18)
  | _ => .nop h

/-- What checks 3 and 4 of R500 make of a packet. -/
inductive Decoded where
  | badOpcode
  | reserved
  | command (c : Instr)
deriving DecidableEq, Repr

/-- Checks 3 and 4: the opcode is defined, every reserved field of the header and the parameters is zero. -/
def decodePacket (w : Nat) (bs : List Byte) : Decoded :=
  let op := fieldLE bs 0 1
  match opcodeParams op with
  | none => .badOpcode
  | some named =>
    if bits (fieldLE bs 1 1) 7 3 != 0 || fieldLE bs 2 2 != 0 || bits (fieldLE bs 8 4) 31 20 != 0
        || !paramOnly bs named || !opcodeBits op bs then .reserved
    else .command (opcodeCommand op (packetHdr w bs) bs)

/-- PLAN_RUN and PLAN_RESUME: in progress, they do not count as earlier commands (R503). -/
def isRun (c : Instr) : Bool :=
  match c with
  | .planRun _ _ | .planResume _ _ => true
  | _ => false

/-- The serialising opcodes of R503. -/
def isSerial (c : Instr) : Bool :=
  match c with
  | .ctxBind _ _ _ _ _ | .segSet _ _ _ | .ptRootSet _ _ | .tlbInval _ _ _ | .grant _ _ _ _ | .regionRegister _ _ _ _ _
  | .regionRevoke _ _ | .planLoad _ _ _ _ _ | .cropForm _ _ _ _ _ _ _ | .cropJoin _ _ _ _ _ _ | .seedcornExport _ _ _ _
  | .seedcornImport _ _ _ _ | .loftConfig _ _ _ _ _ _ | .engineLease _ _ _ _ | .marginPolicy _ _ _ _ _ => true
  | _ => false

/-- FENCE (R510). -/
def isFence (c : Instr) : Bool :=
  match c with
  | .fence _ _ => true
  | _ => false

end Sys2Proof.Machine
end

