-- ==== Sys2Proof/Machine/MemCmds.lean ====
section
/-!
DEFINITION. The memory opcodes (R509 to R512, R586): NOP, FENCE, FLUSH_PUBLISH, COPY, FILL, COPY_REMOTE.
-/
namespace Sys2Proof.Machine

/-- NOP (R509). -/
def execNop (h : CmdHdr) (s : State) : Host.Outcome State Fault Refusal :=
  command s h false true false (fun s => done s h)

/-- Host requests opened since a state, claimed for a command: FENCE and COMPLETION_TIMEOUT know them by it. -/
def claimReqs (before : State) (h : CmdHdr) (s : State) : State :=
  let n := before.hl.hostReqs.length
  { s with hl := { s.hl with hostReqs := s.hl.hostReqs.take n ++ (s.hl.hostReqs.drop n).map (fun r => { r with who := .command h.windrow h.seq }) } }

/-! ## FENCE (R369, R510) -/

/-- A requester is a command of a Windrow. -/
def ofWindrow (w : Nat) (r : Requester) : Bool := match r with | .command v _ => v == w | _ => false

/-- Accesses of a Windrow's commands that have not reached their end points (R362). -/
def accessesPending (s : State) (w : Nat) : Bool :=
  s.hl.hostReqs.any (fun r => ofWindrow w r.who) || s.wain.remote.any (fun r => ofWindrow w r.who)

/-- Earlier commands of a fence's Windrow still in progress; runs do not count (R503). -/
def earlierRunning (s : State) (h : CmdHdr) : Bool :=
  (getWindrow s h.windrow).inprog.any (fun p => p.seq != h.seq && !isRun p.cmd)

/-- FENCE: while it must wait it stays in progress; COMPLETE reports an access ended by timeout (R370). -/
def execFence (h : CmdHdr) (kind : Byte) (s : State) : Host.Outcome State Fault Refusal :=
  command s h false false false (fun s =>
    guardCodes s h [(decide (1 < kind.toNat), pcRange)] (fun s =>
      let w := getWindrow s h.windrow
      if earlierRunning s h || accessesPending s h.windrow || (kind == 1 && !w.replies.isEmpty) then s
      else if kind = 1 ∧ w.targetLost then complete (setWindrow s h.windrow { w with targetLost := false }) h stTargetLost (plainDetail stTargetLost) 0
      else done s h))

/-! ## FLUSH_PUBLISH (R374, R511) -/

/-- Lines of the range from the lowest: a part of local device memory is checked as a read and flushed, others are skipped. -/
def flushRange (iss : Issuer) (inval : Bool) : Nat → Nat → State → RangeEnd × State
  | 0, _, s => (.all, s)
  | n + 1, a, s =>
    let r := translate s none iss.who iss.ctx (a % 2 ^ 64) 64 .read
    match r.1 with
    | .parked => (.parked, r.2)
    | .refuse reason st => (.stop st, refuseCtx r.2 iss.ctx (a % 2 ^ 64) 0 reason.toNat false)
    | .ok dpa ty =>
      if dpaSpace dpa ≠ 0 || isRemote r.2 dpa then flushRange iss inval n (a + 64) r.2
      else match lineCheck r.2 iss ⟨dpa, ty, a % 2 ^ 64⟩ .read with
        | .refuse st row => (.stop st, lineRefuse r.2 iss ⟨dpa, ty, a % 2 ^ 64⟩ row)
        | .ok => flushRange iss inval n (a + 64) (flushLine r.2 (dpaLine dpa) inval)

/-- The issuer of a command that moves data: a copy engine on its behalf (R18, R345; log 12). -/
def cmdIssuer (h : CmdHdr) : Issuer := ⟨.command h.windrow h.seq, 12, 12, h.context⟩

/-- FLUSH_PUBLISH: a part parked on a fault leaves the command in progress. -/
def execFlushPublish (h : CmdHdr) (base length : W64) (mode : Byte) (s : State) : Host.Outcome State Fault Refusal :=
  command s h false false false (fun s =>
    guardCodes s h
      [(base.toNat % 64 != 0 || length.toNat % 64 != 0 || decide (length.toNat < 64) || decide (2 ^ 40 < length.toNat)
        || decide (1 < mode.toNat), pcRange)] (fun s =>
      let r := flushRange (cmdIssuer h) (mode == 1) (length.toNat / 64) base.toNat s
      match r.1 with
      | .parked => r.2
      | .stop st => complete r.2 h st (plainDetail st) 0
      | .all => done r.2 h))

/-! ## Copies -/

/-- One destination line of a copy, its place, and the places of the source lines it is made of. -/
structure CopyPair where
  index : Nat
  dst : LineOp
  src : List LineOp
deriving DecidableEq, Repr

/-- Shape of a copy: widths in bits of a source and a destination element (equal for a byte copy). -/
structure CopyShape where
  ws : Nat
  wd : Nat
  conv : Bool
  sfmt : Nat
  dfmt : Nat
  sat : Bool
  rnd : Nat
  tensor : W32
  seed : W64

/-- Elements that reach into destination line j: the first and one past the last. -/
def elemSpan (c : CopyShape) (j : Nat) : Nat × Nat := (512 * j / c.wd, (512 * j + 512 + c.wd - 1) / c.wd)

/-- Source lines destination line j is made of: the first and how many. -/
def srcSpan (c : CopyShape) (j : Nat) : Nat × Nat :=
  let e := elemSpan c j
  let a := e.1 * c.ws / 512
  (a, (e.2 * c.ws + 511) / 512 - a)

/-- w bits at a bit position of a byte string. -/
def bitsAt (bs : List Byte) (pos w : Nat) : Nat := (fieldLE bs (pos / 8) ((w + 7) / 8 + 1) >>> (pos % 8)) % 2 ^ w

/-- Bits [lo, lo + n) touch a bad word of the source lines. -/
def touchesBad (bad : List Nat) (lo n : Nat) : Bool := bad.any (fun i => decide (lo < 64 * i + 64) && decide (64 * i < lo + n))

/-- Destination line j from its source lines: data with poison, and flags (R132 MOV, R138, R141, R511, R586). -/
def copyLine (c : CopyShape) (j : Nat) (xs : List Line) : Line × Nat :=
  if !c.conv then (xs.getD 0 zeroLine, 0)
  else
    let e := elemSpan c j
    let base := 512 * (srcSpan c j).1
    let bs := xs.flatMap (fun x => x.data)
    let bad := (List.range xs.length).flatMap (fun i => (badWords (xs.getD i zeroLine)).map (fun w => 8 * i + w))
    let wf := winWork [c.sfmt]
    let elems := (List.range (e.2 - e.1)).map (fun i =>
      let k := e.1 + i
      let u := if c.rnd = rndSR then awnBits c.seed c.tensor k else 0
      (winElem 0 0 wf c.dfmt c.sat c.rnd u (decodeElem c.sfmt (bitsAt bs (k * c.ws - base) c.ws)) (.fin false 0 0) (.fin false 0 0),
       touchesBad bad (k * c.ws - base) c.ws))
    let total := elems.foldr (fun p n => n * 2 ^ c.wd + p.1.1 % 2 ^ c.wd) 0
    let line := (total >>> (512 * j - e.1 * c.wd)) % 2 ^ 512
    let poisoned (w : Nat) : Bool := (List.range elems.length).any (fun i =>
      (elems.getD i ((0, 0), false)).2 && decide ((e.1 + i) * c.wd < 512 * j + 64 * w + 64) && decide (512 * j + 64 * w < (e.1 + i) * c.wd + c.wd))
    let words := (List.range 8).map (fun w =>
      let d := (line >>> (64 * w)) % 2 ^ 64
      (d, if poisoned w then poisonBits d else checkBits d))
    (lineOf words, (elems.filter (fun p => !p.2)).foldl (fun f p => f ||| p.1.2) 0)

/-- Resolve destination lines from the lowest, with their sources, up to the first refusal or fault. -/
def resolvePairs (iss : Issuer) (c : CopyShape) (src : Nat) (dst : Nat → State → Except RangeEnd LineOp × State) :
    Nat → Nat → State → List CopyPair × RangeEnd × State
  | 0, _, s => ([], .all, s)
  | n + 1, j, s =>
    let span := srcSpan c j
    let r := resolveLines s iss .read span.2 (src + 64 * span.1)
    match r.2.1 with
    | .all =>
      match dst j r.2.2 with
      | (.error e, s') => ([], e, s')
      | (.ok o, s') => let q := resolvePairs iss c src dst n (j + 1) s'; (⟨j, o, r.1⟩ :: q.1, q.2)
    | e => ([], e, r.2.2)

/-- Source line as the copy reads it: a remote one as it arrived, a local one now. -/
def sourceLine (s : State) (iss : Issuer) (o : LineOp) : Line × State :=
  if isRemote s o.dpa then ((remoteGot s iss.who o.dpa).getD poisonLine, s) else lineGet s iss o

/-- Source lines of one destination line. -/
def sourceLines (s : State) (iss : Issuer) (os : List LineOp) : List Line × State :=
  os.foldl (fun (acc : List Line × State) o => let r := sourceLine acc.2 iss o; (acc.1 ++ [r.1], r.2)) ([], s)

/-- What a copy has met so far. -/
structure CopyAcc where
  flags : Nat
  poison : Bool
  ended : Bool

/-- Granger logs the poison a copy's source line holds, and where it was found. -/
def notePoison (before : State) (iss : Issuer) (os : List LineOp) (xs : List Line) (s : State) : State :=
  (List.range os.length).foldl (fun s i =>
    let o := os.getD i ⟨0, .wb, 0⟩
    let x := xs.getD i zeroLine
    if linePoison x then
      if isRemote s o.dpa then logError s clsContained srcMemWord 0 (o.dpa + 8 * (badWords x).headD 0) iss.ctx.toNat (syndrome (lineWord x ((badWords x).headD 0)))
      else logPoison s (poisonWhere before (dpaLine o.dpa)) (dpaLine o.dpa) x iss.ctx.toNat
    else s) s

/-- Send the remote lines of a copy; a poisoned line is not sent and ends it (R265, R586). -/
def sendPairs (iss : Issuer) (data : Nat → List Line → Line × Nat) (s : State) (ps : List CopyPair) : State × CopyAcc :=
  ps.foldl (fun (acc : State × CopyAcc) p =>
    let s := acc.1
    if acc.2.ended || !isRemote s p.dst.dpa then acc
    else if (getTask s iss.who).sent.contains (p.dst.dpa / 64) then acc
    else
      let r := sourceLines s iss p.src
      let x := data p.index r.1
      if linePoison x.1 then (notePoison s iss p.src r.1 r.2, { acc.2 with poison := true, ended := true })
      else (putRemote r.2 iss p.dst x.1.data (2 ^ 64 - 1), { acc.2 with flags := acc.2.flags ||| x.2 })) (s, ⟨0, false, false⟩)

/-- Write the local lines of a copy, poison kept, in ascending order. -/
def writePairs (iss : Issuer) (data : Nat → List Line → Line × Nat) (s : State) (ps : List CopyPair) : State × CopyAcc :=
  ps.foldl (fun (acc : State × CopyAcc) p =>
    let s := acc.1
    if isRemote s p.dst.dpa then acc
    else
      let r := sourceLines s iss p.src
      let x := data p.index r.1
      let bad := r.1.any linePoison
      let s' := if bad then notePoison s iss p.src r.1 r.2 else r.2
      (linePutWhole s' iss p.dst x.1, { acc.2 with flags := acc.2.flags ||| x.2, poison := acc.2.poison || bad })) (s, ⟨0, false, false⟩)

/-- Carry a resolved copy on (R512): missing remote lines are asked for, remote lines sent and awaited, then the local
lines are written and the command completes, with `detail` when it completes with DONE. -/
def copyRun (before : State) (h : CmdHdr) (detail : W32) (data : Nat → List Line → Line × Nat) (r : List CopyPair × RangeEnd × State) : State :=
  let iss := cmdIssuer h
  let ps := r.1
  let remote := (ps.flatMap (fun p => p.src)).filter (fun o => isRemote before o.dpa)
  match r.2.1, (getTask before iss.who).failed with
  | .parked, _ => r.2.2
  | _, some st => complete (endTask before iss.who) h st (plainDetail st) 0
  | e, none =>
    if remote.any (fun o => (remoteGot before iss.who o.dpa).isNone) then remote.foldl (fun s o => wantRemote s iss o) before
    else
      let toSend := ps.filter (fun p => isRemote before p.dst.dpa && !(getTask before iss.who).sent.contains (p.dst.dpa / 64))
      let sent := sendPairs iss data before toSend
      if sent.2.ended then complete (endTask sent.1 iss.who) h stFaultUnresolved (plainDetail stFaultUnresolved) (BitVec.ofNat 8 sent.2.flags)
      else if !toSend.isEmpty then sent.1
      else if awaiting before iss.who then before
      else
        let w := writePairs iss data r.2.2 ps
        let s := claimReqs before h (endTask w.1 iss.who)
        let sentFlags := (ps.filter (fun p => isRemote before p.dst.dpa)).foldl (fun f p => f ||| (data p.index (sourceLines s iss p.src).1).2) 0
        let fl := BitVec.ofNat 8 (w.2.flags ||| sentFlags)
        if w.2.poison then complete s h stFaultUnresolved (plainDetail stFaultUnresolved) fl
        else match e with
          | .stop st => complete s h st (plainDetail st) fl
          | _ => complete s h stDone detail fl

/-- Destination lines at context addresses. -/
def caDst (iss : Issuer) (dst : Nat) (j : Nat) (s : State) : Except RangeEnd LineOp × State :=
  resolveLine s iss none (dst + 64 * j) .write

/-- A byte copy. -/
def byteShape : CopyShape := ⟨512, 512, false, 0, 0, false, 0, 0, 0⟩

/-- Two ranges of context addresses overlap. -/
def rangesMeet (a n b m : Nat) : Bool := decide (a < b + m) && decide (b < a + n)

/-- COPY (R511, R512): a byte copy, or each element converted by MOV. -/
def execCopy (h : CmdHdr) (src dst bytes : W64) (conv : Byte) (sfmt dfmt : BitVec 4) (sat : Bool) (rnd : BitVec 2)
    (tensor : W32) (seed : W64) (s : State) : Host.Outcome State Fault Refusal :=
  let n := bytes.toNat
  let shape : CopyShape := if conv = 0 then byteShape
    else ⟨elemBits sfmt.toNat, elemBits dfmt.toNat, true, sfmt.toNat, dfmt.toNat, sat, rnd.toNat, tensor, seed⟩
  let dbits := n * 8 * shape.wd
  let dn := n * shape.wd / shape.ws
  command s h false false (conv == 1 && rnd == 3) (fun s =>
    guardCodes s h
      [(decide (1 < conv.toNat) || src.toNat % 64 != 0 || dst.toNat % 64 != 0 || n % 64 != 0 || decide (n < 64) || decide (2 ^ 40 < n), pcRange),
       (conv == 1 && (!schemeOk sfmt.toNat 0 || !schemeOk dfmt.toNat 0), pcDescriptor),
       (dbits % (512 * shape.ws) != 0 || n * 8 % shape.ws != 0 || rangesMeet src.toNat n dst.toNat dn, pcRange)]
      (fun s =>
        let iss := cmdIssuer h
        copyRun s h 0 (copyLine shape) (resolvePairs iss shape src.toNat (caDst iss dst.toNat) (dn / 64) 0 s)))

/-- The shape of a fill: no source. -/
def fillShape : CopyShape := ⟨0, 512, false, 0, 0, false, 0, 0, 0⟩

/-- FILL (R509, R512). -/
def execFill (h : CmdHdr) (dst bytes pattern : W64) (s : State) : Host.Outcome State Fault Refusal :=
  let n := bytes.toNat
  command s h false false false (fun s =>
    guardCodes s h
      [(dst.toNat % 64 != 0 || n % 64 != 0 || decide (n < 64) || decide (2 ^ 40 < n), pcRange)]
      (fun s =>
        let iss := cmdIssuer h
        let line := cleanLine ((List.range 8).flatMap (fun _ => toLE 8 pattern.toNat))
        copyRun s h 0 (fun _ _ => (line, 0)) (resolvePairs iss fillShape 0 (caDst iss dst.toNat) (n / 64) 0 s)))

/-- A line of the target chip of a COPY_REMOTE. -/
def remoteDst (iss : Issuer) (tally doff : Nat) (j : Nat) (s : State) : Except RangeEnd LineOp × State :=
  let o : LineOp := ⟨2 ^ 40 * tally + doff + 64 * j, .wb, 2 ^ 40 * tally + doff + 64 * j⟩
  match lineCheck s iss o .write with
  | .ok => (.ok o, s)
  | .refuse st row => (.error (.stop st), lineRefuse s iss o row)

/-- COPY_REMOTE (R512): local lines leave as remote WRITE requests; it replies when every WACK has arrived. -/
def execCopyRemote (h : CmdHdr) (src doff : W64) (bytes : W32) (tally : BitVec 10) (s : State) : Host.Outcome State Fault Refusal :=
  let n := bytes.toNat
  command s h false false false (fun s =>
    guardCodes s h
      [(src.toNat % 64 != 0 || doff.toNat % 64 != 0 || n % 64 != 0 || decide (n < 64) || decide (2 ^ 40 < doff.toNat + n), pcRange)]
      (fun s =>
        let iss := cmdIssuer h
        copyRun s h 0 (copyLine byteShape) (resolvePairs iss byteShape src.toNat (remoteDst iss tally.toNat doff.toNat) (n / 64) 0 s)))

end Sys2Proof.Machine
end

