-- ==== Sys2Proof/Machine/EnginePort.lean ====
section
/-!
DEFINITION. The engine port (15): loads, stores, atomics and fences of groups, asynchronous copies, group matrix instructions.
A request that must wait (for its turn, a remote line, a table walk) changes nothing it would answer and is executed again.
-/
namespace Sys2Proof.Machine

/-! ## Requests (R463 to R471, R481) -/

/-- STATUS of R468 for a reply status of R497. -/
def epStatusOf (st : Byte) : BitVec 4 :=
  if st = stGrantMissing then 5 else if st = stFaultUnresolved then 6 else if st = stTargetLost then 7 else 4

/-- Answer of a request without data. -/
def epSay (s : State) (r : EpReq) (status : BitVec 4) : State := epAnswer s r.att r.tag status [] 0 0

/-- Group width (R463). -/
def epWidth (s : State) (a : Nat) : Nat := if bitOf s.boot.straps (8 + a) then 64 else 32

/-- Who makes a request's accesses. -/
def epWho (r : EpReq) : Requester := .engineGroup r.att r.group r.tag

/-- The fault a parked group waits for, with its entry. -/
def groupFault (s : State) (r : EpReq) : Option FaultedGroup := (getAtt s r.att).faulted.find? (fun f => f.group == r.group)

/-- The pending fault of a FAULT_ID was met by this very request. -/
def metFault (s : State) (r : EpReq) (id : W16) : Bool :=
  match getFault s (field id 11 0) with
  | some f => f.gen.toNat == field id 15 12 && f.waiters.contains (epWho r)
  | none => false

/-- Requests that arrived ahead of this one and are not answered yet. -/
def epAhead (s : State) (r : EpReq) : List OutReq := (getAtt s r.att).outstanding.takeWhile (fun o => o.tag != r.tag)

/-- The requests of a group that arrived after one of its own (R481). -/
def epAfter (s : State) (r : EpReq) : List OutReq :=
  (((getAtt s r.att).outstanding.dropWhile (fun o => o.tag != r.tag)).drop 1).filter (fun o => o.group == r.group)

/-- FAULT for the request that met its group's fault, and CANCELLED, without any effect, for every later one of the group (R481). -/
def epFault (s : State) (r : EpReq) (id : W16) : State :=
  let later := epAfter s r
  later.foldl (fun s o => epAnswer (endTask s (.engineGroup r.att r.group o.tag)) r.att o.tag 2 [] 0 0)
    (epAnswer (endTask s (epWho r)) r.att r.tag 1 [] id 0)

/-- A request whose translation parked: FAULT once its group is parked on its fault and every earlier request of the group has been answered
(R481), else it waits. -/
def epParked (s : State) (r : EpReq) : State :=
  match groupFault s r with
  | some f => if (epAhead s r).any (fun o => o.group == r.group) then s else if metFault s r f.faultId then epFault s r f.faultId else s
  | none => s

/-- A request ahead of this one, of its group or of its Sheaf, has not taken effect yet (R469, R476). -/
def epBehind (s : State) (r : EpReq) (sheaf : Option Nat) : Bool :=
  (epAhead s r).any (fun o => o.due.isNone && (o.group == r.group || (sheaf.isSome && o.sheaf == sheaf)))

/-- The tick at which a request that has begun is complete. -/
def epDue (s : State) (r : EpReq) : Option Nat := ((getAtt s r.att).outstanding.find? (fun o => o.tag == r.tag)).bind (fun o => o.due)

/-- The tick at which a request was accepted. -/
def epSince (s : State) (r : EpReq) : Nat := (((getAtt s r.att).outstanding.find? (fun o => o.tag == r.tag)).map (fun o => o.since)).getD s.tick

/-- A request has begun and is complete at a tick. -/
def epBegin (s : State) (r : EpReq) (due : Nat) (pass : Bool) : State :=
  let x := getAtt s r.att
  setAtt s r.att { x with outstanding := x.outstanding.map (fun o => if o.tag = r.tag then { o with due := some due, pass := pass } else o) }

/-- A request arrives, or is taken up again: nothing while the port accepts none (R463) or without a credit (R466); a parked
group's is FAULT for the one that met the fault and CANCELLED for every other (R481); one that has begun is answered OK once it is
complete; a reserved MARK or SIZE is PROTECTION. -/
def epRequest (r : EpReq) (sheaf : Option Nat) (body : State → State) (s : State) : Host.Outcome State Fault Refusal :=
  if !grangerUp s || !attPresent s r.att then .next s
  else
    let x := getAtt s r.att
    let known := x.outstanding.any (fun o => o.tag == r.tag)
    if !known && x.credits == 0 then .next s
    else
      let s := if known then s
        else setAtt s r.att { x with credits := x.credits - 1, outstanding := x.outstanding ++ [{ tag := r.tag, group := r.group, sheaf := sheaf, since := s.tick }] }
      match epDue s r with
      | some d => .next (if d ≤ s.tick then epSay s r 0 else s)
      | none =>
      if epBehind s r sheaf then .next s
      else match groupFault s r with
        | some f =>
          if known && metFault s r f.faultId then .next (epParked s r)
          else .next (epSay (endTask s (epWho r)) r 2)
        | none => if r.mark = 3 ∨ 4 < r.size.toNat then .next (epSay s r 4) else .next (body s)

/-- Active lanes with their numbers; bits at and above the width are ignored. -/
def activeLanes (s : State) (r : EpReq) : List (Nat × Lane) :=
  ((List.range (epWidth s r.att)).filter (fun i => bitOf r.mask i)).map (fun i => (i, r.lanes.getD i ⟨0, 0, 0⟩))

/-- The parts of a byte range, each inside one line, with addresses modulo 2^64. -/
def splitRange (a n : Nat) : List (Nat × Nat) :=
  (List.range (ceilDiv (a % 64 + n) 64)).map (fun i =>
    let lo := max a (64 * (a / 64 + i))
    (lo % 2 ^ 64, min (a + n) (64 * (a / 64 + i) + 64) - lo))

/-- Issuer of a group's accesses to a line (R464, R469). -/
def epIssuer (s : State) (r : EpReq) (l : LineAddr) : Issuer :=
  let a := epAgent s r.att l
  ⟨epWho r, a, a, r.context⟩

/-- Issuer for checks that know no line yet. -/
def epAsker (r : EpReq) : Issuer := ⟨epWho r, 4 + 2 * r.att, 4 + 2 * r.att, r.context⟩

/-- Translate (the attachment's micro-TLB, R471) and check parts, up to the first that is refused or parks. -/
def epResolve (s : State) (r : EpReq) (acc : AccessKind) : List (Nat × Nat) → List LineOp × RangeEnd × State
  | [] => ([], .all, s)
  | p :: rest =>
    let iss := epAsker r
    let x := translate s (some (4 + r.att)) iss.who iss.ctx p.1 p.2 acc
    match x.1 with
    | .parked => ([], .parked, x.2)
    | .refuse reason st => ([], .stop st, refuseCtx x.2 iss.ctx p.1 0 reason.toNat false)
    | .ok dpa ty =>
      match lineCheck x.2 iss ⟨dpa, ty, p.1⟩ acc with
      | .refuse st row => ([], .stop st, lineRefuse x.2 iss ⟨dpa, ty, p.1⟩ row)
      | .ok => let q := epResolve x.2 r acc rest; (⟨dpa, ty, p.1⟩ :: q.1, q.2)

/-- Resolve every part of a request first: a fault ends it with nothing performed (R468, R481); a refusal ends it with its status, and
the parts admitted before the refused one are performed and stay (`cut`, R303). -/
def epAccess (s : State) (r : EpReq) (acc : AccessKind) (parts : List (Nat × Nat)) (k cut : State → List LineOp → State) : State :=
  let q := epResolve s r acc parts
  match q.2.1 with
  | .parked => epParked q.2.2 r
  | .stop st => epSay (endTask (cut q.2.2 q.1) (epWho r)) r (epStatusOf st)
  | .all => k q.2.2 q.1

/-- Host requests opened since a state belong to the group. -/
def claimGroup (before : State) (r : EpReq) (s : State) : State :=
  let n := before.hl.hostReqs.length
  { s with hl := { s.hl with hostReqs := s.hl.hostReqs.take n ++ (s.hl.hostReqs.drop n).map (fun q => { q with who := epWho r }) } }

/-- Read lines once each; remote ones stand in the group's task. -/
def epReadLines (s : State) (iss : LineOp → Issuer) (os : List LineOp) : LineMap × State :=
  os.foldl (fun (acc : LineMap × State) o =>
    let d := o.dpa - o.dpa % 64
    if acc.1.any (fun p => p.1 == d) then acc
    else if isRemote acc.2 o.dpa then (acc.1 ++ [(d, (remoteGot acc.2 (iss o).who o.dpa).getD poisonLine)], acc.2)
    else let x := lineGet acc.2 (iss o) o; (acc.1 ++ [(d, x.1)], x.2)) ([], s)

/-- The remote lines of a request that have not arrived. -/
def epMissing (s : State) (r : EpReq) (os : List LineOp) : List LineOp :=
  os.filter (fun o => isRemote s o.dpa && (remoteGot s (epWho r) o.dpa).isNone)

/-- Go on once every remote line is here; a lost one ends the request (R280, R370). -/
def epFetch (s : State) (r : EpReq) (os : List LineOp) (k : State → State) : State :=
  match (getTask s (epWho r)).failed with
  | some st => epSay (endTask s (epWho r)) r (epStatusOf st)
  | none =>
    let ms := epMissing s r os
    if ms.isEmpty then k s else ms.foldl (fun s o => wantRemote s (epAsker r) o) s

/-- The bytes at a DPA range inside a line use an uncorrectable word. -/
def epPoison (m : LineMap) (dpa n : Nat) : Bool := (mapPoison m [(dpa, n)]).isSome

/-! ## LOAD, STORE (R468 to R471, R366 to R368, R373) -/

/-- One lane of a load with its parts and their places. -/
structure LanePlace where
  lane : Nat
  parts : List (LineOp × Nat)
deriving DecidableEq, Repr

/-- The places of the lanes, from the flat list of resolved parts. -/
def lanePlaces : List (Nat × List (Nat × Nat)) → List LineOp → List LanePlace
  | [], _ => []
  | (i, ps) :: rest, os => ⟨i, (os.take ps.length).zip (ps.map (fun p => p.2))⟩ :: lanePlaces rest (os.drop ps.length)

/-- Bytes of a lane all of which the group's store buffer holds (R368). -/
def laneFromBuf (s : State) (es : List SbEntry) (p : LanePlace) : Option (List Byte) :=
  p.parts.foldr (fun q acc =>
    match acc, if q.1.type = .strict then none else bufBytes es (entryLine s q.1.dpa) (q.1.dpa % 64) q.2 with
    | some bs, some x => some (x ++ bs)
    | _, _ => none) (some [])

/-- A lane that must wait for the buffer: it overlaps an entry without lying in it, or is DEVICE-STRICT (R368, R371). -/
def laneBlocked (s : State) (es : List SbEntry) (p : LanePlace) : Bool :=
  (laneFromBuf s es p).isNone && p.parts.any (fun q => q.1.type == .strict || bufOverlaps es (entryLine s q.1.dpa) (q.1.dpa % 64) q.2)

/-- EP_LOAD. -/
def execEpLoad (r : EpReq) (s : State) : Host.Outcome State Fault Refusal :=
  epRequest r none (fun s =>
    let n := sizeBytes r.size
    let k := sbKey r.att r.group
    let ls := (activeLanes s r).map (fun p => (p.1, splitRange p.2.addr.toNat n))
    epAccess s r .read (ls.flatMap (fun p => p.2)) (fun s os =>
      let ps := lanePlaces ls os
      let s := if r.mark ≠ 0 ∨ ps.any (laneBlocked s (getBuf s k)) then drainBuf s k else s
      let es := getBuf s k
      let mem := ((ps.filter (fun p => (laneFromBuf s es p).isNone)).flatMap (fun p => p.parts)).map (fun q => q.1)
      epFetch s r mem (fun s =>
        let g := epReadLines s (fun o => epIssuer s r (dpaLine o.dpa)) mem
        let bad (p : LanePlace) : Bool := (laneFromBuf s es p).isNone && p.parts.any (fun q => epPoison g.1 q.1.dpa q.2)
        let good := ps.filter (fun p => !bad p)
        let data := good.map (fun p => (p.lane, BitVec.ofNat 128 (leNat ((laneFromBuf s es p).getD (p.parts.flatMap (fun q => mapBytes g.1 q.1.dpa q.2))))))
        let s := endTask (claimGroup s r g.2) (epWho r)
        epAnswer s r.att r.tag (if ps.any bad then 8 else 0) data 0 0))
      (fun s os => (epReadLines s (fun o => epIssuer s r (dpaLine o.dpa)) (os.filter (fun o => !isRemote s o.dpa))).2)) s

/-- A buffer for the group (R470): it has one, or takes a free one of 64; when none is free every buffer of the attachment is
performed first. -/
def takeBuf (s : State) (att : Nat) (g : BitVec 30) : Option State :=
  let add (s : State) : Option State :=
    let x := getAtt s att
    if x.groups.contains g then some s
    else if x.groups.length < 64 then some (setAtt s att { x with groups := x.groups ++ [g] })
    else none
  match add s with
  | some s => some s
  | none => add ((getAtt s att).groups.foldl (fun s y => freeBuf (drainBuf s (sbKey att y)) (sbKey att y)) s)

/-- The stores of lanes enter the group's buffer, as far as their parts are resolved. -/
def storeLanes (s : State) (r : EpReq) (lanes : List (Nat × Lane)) (ps : List LanePlace) : State :=
  (ps.zip lanes).foldl (fun s q =>
    let bs := toLE (sizeBytes r.size) q.2.2.data.toNat
    (q.1.parts.foldl (fun (acc : State × Nat) p =>
      (pushStore acc.1 (sbKey r.att r.group) (entryLine acc.1 p.1.dpa) (p.1.dpa % 64) (slice bs acc.2 p.2) p.1.asked r.context (r.mark == 2)
        (p.1.type == .strict) (p.1.type == .stream), acc.2 + p.2)) (s, 0)).1) s

/-- EP_STORE: lanes enter the buffer in ascending order, so that the highest lane's byte stays (R469). -/
def execEpStore (r : EpReq) (s : State) : Host.Outcome State Fault Refusal :=
  epRequest r none (fun s =>
    let n := sizeBytes r.size
    let k := sbKey r.att r.group
    let lanes := activeLanes s r
    let ls := lanes.map (fun p => (p.1, splitRange p.2.addr.toNat n))
    epAccess s r .write (ls.flatMap (fun p => p.2)) (fun s os =>
      match takeBuf s r.att r.group with
      | none => s
      | some s =>
        let s := storeLanes s r lanes (lanePlaces ls os)
        epSay (if r.mark = 1 then drainBuf s k else s) r 0)
      (fun s os => match takeBuf s r.att r.group with
        | none => s
        | some s => storeLanes s r lanes (lanePlaces ls os))) s

/-! ## ATOMIC (R358 to R361, R472, R473) -/

/-- Lane sets: each address once, in the order of its lowest lane, with its lanes in ascending order. -/
def laneSets (lanes : List (Nat × Lane)) : List (Nat × List (Nat × Lane)) :=
  ((lanes.map (fun p => p.2.addr.toNat)).eraseDups).map (fun a => (a, lanes.filter (fun p => p.2.addr.toNat == a)))

/-- Two lane sets overlap without being equal. -/
def setsOverlap (as : List Nat) (n : Nat) : Bool := as.any (fun a => as.any (fun b => a != b && rangesMeet a n b n))

/-- The lanes of an atomic applied one after another to an old value: the value after, whether any wrote, and what each found. -/
def atomLanes (op w old : Nat) (lanes : List (Nat × Lane)) : Nat × Bool × List (BitVec 128) :=
  lanes.foldl (fun (acc : Nat × Bool × List (BitVec 128)) p =>
    match atomNew op w acc.1 (p.2.data.toNat % 2 ^ (8 * w)) (p.2.cmp.toNat % 2 ^ (8 * w)) with
    | some v => (v, true, acc.2.2 ++ [BitVec.ofNat 128 acc.1])
    | none => (acc.1, acc.2.1, acc.2.2 ++ [BitVec.ofNat 128 acc.1])) (old, false, [])

/-- One lane set carried out: near or far for one lane, far as one combined ATOM for more. A set that straddles two lines is
unaligned and indivisible in no part larger than a byte (R373): it is read and written line by line, and from poisoned words nothing but a SWAP
writes (R301). -/
def runSet (s : State) (r : EpReq) (os : List (LineOp × Nat)) (lanes : List (Nat × Lane)) : AtomRun :=
  let w := sizeBytes r.size
  match os with
  | [(o, _)] =>
    let l := dpaLine o.dpa
    let iss := epIssuer s r l
    let args : AtomArgs := ⟨r.aop, r.size, o.dpa % 64, lanes.map (fun p => (p.2.data, p.2.cmp))⟩
    if lanes.length ≤ 1 then atomicAccess s iss.agent l r.context args else farRun s iss.agent l r.context args
  | _ =>
    let g := epReadLines s (fun o => epIssuer s r (dpaLine o.dpa)) (os.map (fun q => q.1))
    let bad := os.any (fun q => epPoison g.1 q.1.dpa q.2)
    let x := atomLanes r.aop.toNat w (if bad then 0 else leNat (os.flatMap (fun q => mapBytes g.1 q.1.dpa q.2))) lanes
    let s := if x.2.1 && (!bad || r.aop == 8) then
        (os.foldl (fun (acc : State × Nat) q =>
          (linePut acc.1 (epIssuer acc.1 r (dpaLine q.1.dpa)) q.1 (lineData (q.1.dpa % 64) (slice (toLE w x.1) acc.2 q.2)) (byteMask (q.1.dpa % 64) q.2),
           acc.2 + q.2)) (g.2, 0)).1
      else g.2
    ⟨x.2.2, false, bad, s⟩

/-- Lane sets carried out one after another: the results of those that read no poison, whether one did, and the state after; a combined
set counts in COMBINED (R468, R472, R486). -/
def runSets (s : State) (r : EpReq) (sets : List (LanePlace × (Nat × List (Nat × Lane)))) : List (Nat × BitVec 128) × Bool × State :=
  sets.foldl (fun (acc : List (Nat × BitVec 128) × Bool × State) p =>
    let x := runSet acc.2.2 r p.1.parts p.2.2
    let t := if p.2.2.length ≤ 1 then x.after
      else let a := getAtt x.after r.att; setAtt x.after r.att { a with err := bump a.err 47 32 1 }
    (if x.poison then acc.1 else acc.1 ++ (p.2.2.map (fun y => y.1)).zip x.olds, acc.2.1 || x.poison, t)) ([], false, s)

/-- A 16-byte atomic where R373 makes it no single access: unaligned, or outside a NORMAL-WB region. -/
def wideRefused (r : EpReq) (os : List LineOp) : Option LineOp :=
  if r.size = 4 then os.find? (fun o => o.type != .wb || o.dpa % 16 != 0) else none

/-- EP_ATOMIC: a reserved AOP, a SIZE the operation does not have or overlapping unequal lane sets are refused whole. -/
def execEpAtomic (r : EpReq) (s : State) : Host.Outcome State Fault Refusal :=
  epRequest r none (fun s =>
    let n := sizeBytes r.size
    let sets := laneSets (activeLanes s r)
    let sizeOk : Bool := r.size == 2 || r.size == 3 || (r.size == 4 && (r.aop == 8 || r.aop == 9))
    if 9 < r.aop.toNat || !sizeOk || setsOverlap (sets.map (fun p => p.1)) n then epSay s r 4
    else
      let ls := sets.map (fun p => (p.1, splitRange p.1 n))
      epAccess s r .atomic (ls.flatMap (fun p => p.2)) (fun s os =>
        match wideRefused r os with
        | some o => epSay (lineRefuse s (epAsker r) o 0) r 4
        | none =>
          let s := drainBuf s (sbKey r.att r.group)
          let q := runSets s r ((lanePlaces ls os).zip sets)
          epAnswer (claimGroup s r q.2.2) r.att r.tag (if q.2.1 then 8 else 0) q.1 0 0)
        (fun s os =>
          let whole := ((lanePlaces ls os).zip sets).filter (fun p => p.1.parts.length == (splitRange p.2.1 n).length)
          if (wideRefused r os).isSome then s else claimGroup s r (runSets (drainBuf s (sbKey r.att r.group)) r whole).2.2)) s

/-! ## FENCE (R369, R370) -/

/-- A requester is a group of an attachment. -/
def ofGroup (att : Nat) (g : BitVec 30) (w : Requester) : Bool := match w with | .engineGroup a h _ => a == att && h == g | _ => false

/-- Accesses of a group that have not reached their end points (R362). -/
def groupPending (s : State) (att : Nat) (g : BitVec 30) : Bool :=
  !(getBuf s (sbKey att g)).isEmpty || s.hl.hostReqs.any (fun q => ofGroup att g q.who) || s.wain.remote.any (fun q => ofGroup att g q.who)

/-- EP_FENCE: the group's stores are performed; it is answered when every earlier access is performed. COMPLETE reports a store
lost to a timeout. -/
def execEpFence (r : EpReq) (s : State) : Host.Outcome State Fault Refusal :=
  epRequest r none (fun s =>
    if 1 < r.aop.toNat then epSay s r 4
    else
      let s := drainBuf s (sbKey r.att r.group)
      if groupPending s r.att r.group then s
      else
        let x := getAtt s r.att
        if r.aop = 1 ∧ x.lost.contains r.group then
          epSay (setAtt s r.att { x with lost := x.lost.filter (fun g => g != r.group) }) r 7
        else epSay s r 0) s

/-! ## Asynchronous copies (R479, R480) -/

/-- PARAM of an ACOPY breaks R479. -/
def acopyBad (p : List Byte) : Bool :=
  let n := fieldLE p 16 4
  fieldLE p 0 8 % 64 != 0 || fieldLE p 8 8 % 64 != 0 || n % 64 != 0 || decide (n < 64) || decide (63 < fieldLE p 20 1) || !zeroAt p 21 43

/-- ACOPY: refused where its counter is refused (R339), else accepted and answered OK at once. -/
def execAcopy (r : EpReq) (s : State) : Host.Outcome State Fault Refusal :=
  epRequest r none (fun s =>
    let p := r.param
    if acopyBad p then epSay s r 4
    else
      let off := (getAtt s r.att).arriveBase.toNat + 8 * fieldLE p 20 1
      match loftCheck s off r.context .atomic with
      | .refuse _ row => epSay (refuseCtx s r.context (2 * 2 ^ 52 + off) (2 * 2 ^ 52 + off) row true) r 4
      | .ok =>
        let j : AcopyJob := { att := r.att, context := r.context, src := BitVec.ofNat 64 (fieldLE p 0 8), dst := BitVec.ofNat 64 (fieldLE p 8 8)
                              bytes := fieldLE p 16 4, counter := off, engine := none }
        epSay { s with ep := { s.ep with copies := s.ep.copies ++ [j] } } r 0) s

/-- Copy engines that carry no asynchronous copy. -/
def freeEngines (s : State) : List Nat := (List.range 8).filter (fun c => s.ep.copies.all (fun j => j.engine != some c))

/-- Give the oldest waiting copy an engine. -/
def startFirst (c : Nat) : List AcopyJob → List AcopyJob
  | [] => []
  | j :: rest => if j.engine.isNone then { j with engine := some c } :: rest else j :: startFirst c rest

/-- ACOPY_START: the lowest-numbered free copy engine takes the oldest waiting copy. -/
def execAcopyStart (s : State) : Host.Outcome State Fault Refusal :=
  match (freeEngines s).head? with
  | some c => .next (if grangerUp s then { s with ep := { s.ep with copies := startFirst c s.ep.copies } } else s)
  | none => .next s

/-- Issuer of a copy engine (R345). -/
def engineIssuer (c : Nat) (ctx : BitVec 20) : Issuer := ⟨.copyEngine c, 12 + c, 12 + c, ctx⟩

/-- Note how an engine's transfer ended. -/
def endCopy (s : State) (c : Nat) (ok : Bool) : State :=
  { s with ep := { s.ep with copies := s.ep.copies.map (fun j => if j.engine = some c then { j with ended := some ok } else j) } }

/-- Host requests opened since a state belong to the copy engine. -/
def claimEngine (before : State) (c : Nat) (s : State) : State :=
  let n := before.hl.hostReqs.length
  { s with hl := { s.hl with hostReqs := s.hl.hostReqs.take n ++ (s.hl.hostReqs.drop n).map (fun q => { q with who := .copyEngine c }) } }

/-- The transfer of an asynchronous copy, as a byte copy under its context (R479, R512). -/
def copyStep (s : State) (c : Nat) (j : AcopyJob) : State :=
  let iss := engineIssuer c j.context
  let data (_ : Nat) (xs : List Line) : Line × Nat := (xs.getD 0 zeroLine, 0)
  let r := resolvePairs iss byteShape j.src.toNat (caDst iss j.dst.toNat) (j.bytes / 64) 0 s
  let ps := r.1
  let remote := (ps.flatMap (fun p => p.src)).filter (fun o => isRemote s o.dpa)
  match r.2.1, (getTask s iss.who).failed with
  | .parked, _ => r.2.2
  | _, some _ => endCopy (endTask s iss.who) c false
  | e, none =>
    if remote.any (fun o => (remoteGot s iss.who o.dpa).isNone) then remote.foldl (fun s o => wantRemote s iss o) s
    else
      let toSend := ps.filter (fun p => isRemote s p.dst.dpa && !(getTask s iss.who).sent.contains (p.dst.dpa / 64))
      let sent := sendPairs iss data s toSend
      if sent.2.ended then endCopy (endTask sent.1 iss.who) c false
      else if !toSend.isEmpty then sent.1
      else if awaiting s iss.who then s
      else
        let w := writePairs iss data r.2.2 ps
        endCopy (claimEngine s c (endTask w.1 iss.who)) c (!w.2.poison && e == .all)

/-- The counter of an ended copy: one completion or one failure is added by a far atomic ADD (R480). -/
def countCopy (s : State) (c : Nat) (j : AcopyJob) (ok : Bool) : State :=
  let s := { s with ep := { s.ep with copies := s.ep.copies.filter (fun x => x.engine != some c) } }
  let l : LineAddr := ⟨2, j.counter / 64⟩
  match loftCheck s j.counter j.context .atomic with
  | .refuse _ row => refuseCtx s j.context (2 * 2 ^ 52 + j.counter) (2 * 2 ^ 52 + j.counter) row true
  | .ok => (farAtomic s (12 + c) l j.context ⟨0, 3, j.counter % 64, [(if ok then 1 else 2 ^ 32, 0)]⟩).after

/-- ACOPY_COMPLETE: the engine's copy goes on; when every write is performed its counter is raised. -/
def execAcopyComplete (engine : Nat) (s : State) : Host.Outcome State Fault Refusal :=
  match s.ep.copies.find? (fun j => j.engine == some engine) with
  | none => .next s
  | some j =>
    match j.ended with
    | some ok =>
      if s.hl.hostReqs.any (fun q => q.who == .copyEngine engine) then .next s else .next (countCopy s engine j ok)
    | none =>
      let s := copyStep s engine j
      match (s.ep.copies.find? (fun j => j.engine == some engine)).bind (fun j => j.ended) with
      | some ok => if s.hl.hostReqs.any (fun q => q.who == .copyEngine engine) then .next s else .next (countCopy s engine j ok)
      | none => .next s

/-! ## Group matrix instructions (R474 to R477) -/

/-- Fields of PARAM (R474). -/
structure GmParam where
  sheaf : Nat
  fmt : Nat
  sch : Nat
  acc : Nat
  out : Nat
  sat : Bool
  rnd : Nat
  kblk : Nat
  len : Nat
  lanes : Nat
  rbase : Nat
  depth : Nat
  first : Bool
  wbase : Nat
  wpitch : Nat
  wsbase : Nat
  wspitch : Nat
  seed : W64
  tensor : W32
  ncols : Nat
  rsv : Bool

/-- PARAM read (R474); `rsv` says that a reserved field is not zero. -/
def gmParam (p : List Byte) : GmParam :=
  let f := fieldLE p 1 1
  let o := fieldLE p 3 1
  { sheaf := fieldLE p 0 1, fmt := bits f 3 0, sch := bits f 5 4, acc := fieldLE p 2 1, out := bits o 3 0, sat := o.testBit 4
    rnd := bits o 6 5, kblk := fieldLE p 4 2, len := fieldLE p 6 1 + 1, lanes := fieldLE p 7 1, rbase := fieldLE p 8 2
    depth := fieldLE p 10 1, first := (fieldLE p 11 1).testBit 0, wbase := fieldLE p 16 8, wpitch := fieldLE p 24 8
    wsbase := fieldLE p 32 8, wspitch := fieldLE p 40 8, seed := BitVec.ofNat 64 (fieldLE p 48 8)
    tensor := BitVec.ofNat 32 (fieldLE p 56 4), ncols := fieldLE p 60 4
    rsv := bits f 7 6 != 0 || o.testBit 7 || bits (fieldLE p 11 1) 7 1 != 0 || !zeroAt p 12 4 }

/-- The Sheaf a GM request names, for its turn (R476). -/
def gmSheaf (r : EpReq) : Option Nat := some (fieldLE r.param 0 1)

/-- The Sheaf is leased to the attachment under the request's context, and the lease has begun (R474, R478). -/
def gmLeased (s : State) (r : EpReq) (n : Nat) : Bool :=
  decide (n < 16) && (match (getSheaf s n).lease with
    | some l => l.begun && l.att == r.att && l.context == r.context
    | none => false)

/-- A GM request: NOT_LEASED, then PROTECTION for a reserved field, then its body. -/
def gmRequest (r : EpReq) (body : GmParam → State → State) (s : State) : Host.Outcome State Fault Refusal :=
  epRequest r (gmSheaf r) (fun s =>
    let p := gmParam r.param
    if !gmLeased s r p.sheaf then epSay s r 9
    else if p.rsv then epSay s r 4
    else body p s) s

/-- Bytes of a row of len elements, and of its scale row. -/
def gmRow (p : GmParam) : Nat := rowBytes (elemBits p.fmt) p.len
def gmScales (p : GmParam) : Nat := p.len / blockLen p.sch * scaleBytes p.sch

/-- Issuer of a leased Sheaf's accesses: its Rick's Bin (R19, R474). -/
def gmIssuer (r : EpReq) (p : GmParam) : Issuer := ⟨epWho r, p.sheaf / 4, p.sheaf, r.context⟩

/-- Read byte ranges of context addresses for a GM request: every address is translated before it begins (R481); poisoned data
ends it with POISON. The lines are handed on under the context address of their first byte. -/
def gmRead (s : State) (r : EpReq) (p : GmParam) (ranges : List (Nat × Nat)) (k : State → LineMap → State) : State :=
  let parts := (ranges.flatMap (fun x => splitRange x.1 x.2)).eraseDups
  epAccess s r .read parts (fun s os =>
    epFetch s r os (fun s =>
      let g := epReadLines s (fun _ => gmIssuer r p) os
      let m : LineMap := (parts.zip os).map (fun q => (64 * (q.1.1 / 64), mapLine g.1 q.2.dpa))
      let s := endTask (claimGroup s r g.2) (epWho r)
      if (mapPoison m ranges).isSome then epSay s r 8 else k s m))
    (fun s os => (epReadLines s (fun _ => gmIssuer r p) (os.filter (fun o => !isRemote s o.dpa))).2)

/-- Codes of a row at a context address. -/
def gmCodes (p : GmParam) (m : LineMap) (a : Nat) : List Nat :=
  let bs := mapBytes m a (gmRow p)
  (List.range p.len).map (rowElem bs (elemBits p.fmt))

/-- Scale and offset bytes of a scale row (R58). -/
def gmScaleBytes (p : GmParam) (m : LineMap) (a : Nat) : List (Byte × Byte) :=
  (List.range (p.len / blockLen p.sch)).map (fun b =>
    let q := a + b * scaleBytes p.sch
    ((mapBytes m q 1).getD 0 0, if p.sch = 2 then (mapBytes m (q + 1) 1).getD 0 0 else 0))

/-- Blocks of a row. -/
def gmBlocks (p : GmParam) (codes : List Nat) (scales : List (Byte × Byte)) : List Block :=
  let n := blockLen p.sch
  (List.range scales.length).map (fun b => let x := scales.getD b (0, 0); ⟨x.1, x.2, (codes.drop (n * b)).take n⟩)

/-- Format, scheme and length of a K-block for a Sheaf (R35, R36, R63). -/
def gmFormatBad (p : GmParam) : Bool := !roleOk .sheaf p.fmt p.sch || (p.sch != 0 && p.len % blockLen p.sch != 0)

/-- The weight rows break the layout rules of R59. -/
def gmLayoutBad (p : GmParam) : Bool :=
  p.wbase % 64 != 0 || p.wpitch % 64 != 0 || p.wsbase % 64 != 0 || p.wspitch % 64 != 0 || decide (p.wpitch < gmRow p)
  || (p.sch != 0 && decide (p.wspitch < gmScales p))

/-- A GM request uses a tile's registers and entries of the store (R114): every word corrected is logged; an error raises class REPLAYED,
and outside a plan lease, where nothing is executed again, the request is answered POISON (log 52). -/
def gmSound (s : State) (r : EpReq) (n : Nat) (tiles : List Tile) (addrs : List Nat) (k : State → State) : State :=
  if !tiles.all tileSound || (storeWords (getSheaf s n).store addrs).any eccBad then
    let t := raiseReplayed s srcAccStore n 0 r.context.toNat 0
    match (getSheaf s n).lease with
    | some l => if l.byPlan then t else epSay t r 8
    | none => t
  else readEntries s n addrs k

/-- GM_LOAD: MASK is ignored; buffer k mod 2 takes the tile of the lease's k-th load, column by column (R104, R118); it is answered when
the last column is loaded. -/
def execGmLoad (r : EpReq) (s : State) : Host.Outcome State Fault Refusal :=
  gmRequest r (fun p s =>
    let sh := getSheaf s p.sheaf
    let lanes := lanesOf p.lanes
    if gmFormatBad p || gmLayoutBad p || decide (fmtLanes p.fmt < lanes) || decide (sh.gmPasses + 2 ≤ sh.gmLoads) then epSay s r 4
    else
      let at_ (n : Nat) : Nat := (p.wbase + n * p.wpitch) % 2 ^ 64
      let sc (n : Nat) : Nat := (p.wsbase + n * p.wspitch) % 2 ^ 64
      let rs := (List.range (256 * lanes)).flatMap (fun n => (at_ n, gmRow p) :: (if p.sch = 0 then [] else [(sc n, gmScales p)]))
      gmRead s r p rs (fun s m =>
        let rows := (List.range (256 * lanes)).map (fun n =>
          let b := if p.sch = 0 then [] else gmScaleBytes p m (sc n)
          (⟨gmCodes p m (at_ n), b.map (fun x => x.1), b.map (fun x => x.2)⟩ : WeightRow))
        let k := (getSheaf s p.sheaf).gmLoads
        let sh := fillBuf (getSheaf s p.sheaf) k s.tick { fmt := p.fmt, sch := p.sch, lanes := lanes, kblk := p.kblk, len := p.len, rows := rows }
        epBegin (setSheaf s p.sheaf { sh with gmLoads := k + 1 }) r (tileLast (bufOf sh k)) false)) s

/-- Push a pass's node onto every element of the port region; the flags go to the row they belong to (R477). -/
def portPush (st : Ram) (g : Region) (fl : Tbl Byte) (width : Nat) (val : Nat → Flagged) : Ram × Tbl Byte :=
  (List.range g.ecount).foldl (fun (acc : Ram × Tbl Byte) e =>
    let x := val e
    let next := g.lo + g.pushes
    let q := pushVals false (addAcc g.acc) g.lo next (stackVals acc.1 g false e) ⟨0, next, x.1⟩
    (putTop acc.1 g e q.1, put 0 acc.2 (e / width) (orFlags (look 0 acc.2 (e / width)) (x.2 ||| q.2)))) (st, fl)

/-- The region a pass works on: the one it opens, or the open one it continues. -/
def passRegion (sh : Sheaf) (p : GmParam) (ecount : Nat) : Option Region :=
  if p.first then
    some { rbase := p.rbase, acc := p.acc, depth := p.depth, ecount := ecount, lo := p.kblk, nblk := 0, sigt := 63, sigc := 0
           finish := true, pushes := 0, finished := false, flags := 0, step := 0, voids := [] }
  else sh.portRegion.filter (fun g => g.rbase == p.rbase && g.acc == p.acc && g.depth == p.depth)

/-- What R474, R476 and R107 refuse of a pass: a pair or lane count its tile does not fit (R63, R94), a K-block out of turn, a stack beyond
DEPTH, a region beyond the store. DESIGN CHOICE: for the last R107 says BAD_PACKET, which the answers of R468 lack, and R476 does not
list it; the answer is PROTECTION, as for what is malformed (log 52). -/
def passBad (p : GmParam) (t : Tile) (g : Region) : Bool :=
  !pairOk p.fmt t.fmt t.sch p.acc || t.lanes != min (fmtLanes p.fmt) (fmtLanes t.fmt) || p.sch != t.sch || p.len != t.len || p.kblk != t.kblk
  || p.depth == 0 || decide (16 < p.depth) || p.kblk != g.lo + g.pushes || decide (p.depth < stackCount false g.lo (p.kblk + 1))
  || decide (4096 < g.rbase + ceilDiv (g.ecount * g.depth * accBytes g.acc) 1024)

/-- GM_PASS: row i from lane i; a missing lane under MOK gives a zero row that is void from then on. It begins when the input port is
free and its first row may enter, holds as any pass does, and is answered when its last node is written (R104, R117, R118). -/
def execGmPass (r : EpReq) (s : State) : Host.Outcome State Fault Refusal :=
  gmRequest r (fun p s =>
    let sh := getSheaf s p.sheaf
    let w := epWidth s r.att
    let lanes := activeLanes s r
    if gmFormatBad p then epSay s r 4
    else match if sh.gmPasses < sh.gmLoads then some (bufOf sh sh.gmPasses) else none with
      | none => epSay s r 4
      | some t =>
        match passRegion sh p (256 * w * t.lanes) with
        | none => epSay s r 4
        | some g =>
          if passBad p t g then epSay s r 4
          else if lanes.length < w && !r.mok then epSay s r 3
          else if s.tick < max sh.portFree (tileReady t (pairStep p.fmt t.fmt)) then s
          else
            let rs := lanes.flatMap (fun x => (x.2.addr.toNat, gmRow p) :: (if p.sch = 0 then [] else [(x.2.data.toNat % 2 ^ 64, gmScales p)]))
            gmRead s r p rs (fun s m => gmSound s r p.sheaf [t] (pushReads false g) (fun s =>
              let sh := getSheaf s p.sheaf
              let width := 256 * t.lanes
              let row (i : Nat) : List Nat × List Block :=
                match lanes.find? (fun x => x.1 == i) with
                | some x =>
                  let cs := gmCodes p m x.2.addr.toNat
                  (cs, if p.sch = 0 then [] else gmBlocks p cs (gmScaleBytes p m (x.2.data.toNat % 2 ^ 64)))
                | none =>
                  let cs := List.replicate p.len 0
                  (cs, if p.sch = 0 then [] else gmBlocks p cs (List.replicate (p.len / blockLen p.sch) (0, 0)))
              let val (e : Nat) : Flagged := let x := row (e / width); passNode g.acc p.fmt x.1 x.2 t (e % width)
              let q := portPush sh.store g (if p.first then [] else sh.portFlags) width val
              let missing := (List.range w).filter (fun i => !lanes.any (fun x => x.1 == i))
              let a := pairStep p.fmt t.fmt
              let wait := min s.tick (tileReady t a) - max sh.portFree (epSince s r)
              let f := freshFree s
              let hold := Config.passHold f.1
              let done := s.tick + passSpan a w + hold
              let s := freezeSheaf f.2 p.sheaf hold
              let sh := getSheaf s p.sheaf
              let g' := { g with pushes := g.pushes + 1, voids := g.voids ++ missing.filter (fun i => !g.voids.contains i), passEnd := done }
              let sh := { sh with store := q.1, portFlags := q.2, portRegion := some g', gmPasses := sh.gmPasses + 1, hold := satAdd32 sh.hold (hold + wait) }
              epBegin (setSheaf s p.sheaf (passTimes sh (sh.gmPasses - 1) s.tick a w hold)) r done true))) s

/-- Value of an accumulator code. -/
def accValue (acc code : Nat) : Val := decodeElem acc code

/-- finish() on one element of the port region: its value and flags (R83). -/
def portFinish (st : Ram) (g : Region) (e : Nat) : Flagged :=
  finishStack (addAcc g.acc) (stackFrom g.lo (g.lo + g.pushes) (stackVals st g false e).reverse)

/-- A row of results converted under OUT (R47, R48, R141): its bytes and flags. -/
def storeRow (p : GmParam) (g : Region) (vals : Nat → Nat) (width i : Nat) (r : Nat) : List Byte × Nat :=
  let xs := (List.range width).map (fun n =>
    let u := if p.rnd = rndSR then awnBits p.seed p.tensor (r * p.ncols + n) else 0
    toElem p.out p.sat p.rnd u (accValue g.acc (vals (i * width + n))))
  (packElems (elemBits p.out) (xs.map (fun x => x.1)), xs.foldl (fun f x => f ||| x.2) 0)

/-- The lines of resolved parts, each once. -/
def distinctLines (os : List LineOp) : List LineOp :=
  os.foldl (fun ls o => if ls.any (fun x => x.dpa == o.dpa - o.dpa % 64 && x.type == o.type) then ls
    else ls ++ [⟨o.dpa - o.dpa % 64, o.type, o.asked⟩]) []

/-- Write rows at context addresses through the Rick's Bin, line by line. -/
def gmWrite (s : State) (r : EpReq) (p : GmParam) (ws : List (Nat × List Byte)) (k : State → State) : State :=
  let parts := ws.flatMap (fun w => splitRange w.1 w.2.length)
  let bytes := ws.flatMap (fun w =>
    ((splitRange w.1 w.2.length).foldl (fun (acc : List (List Byte) × Nat) q => (acc.1 ++ [slice w.2 acc.2 q.2], acc.2 + q.2)) ([], 0)).1)
  let iss := gmIssuer r p
  let send (s : State) (runs : List (Nat × List Byte)) (os : List LineOp) : State :=
    os.foldl (fun s o => if isRemote s o.dpa then let c := lineCover runs o.dpa; putRemote s iss o c.1 c.2 else s) s
  let write (s : State) (runs : List (Nat × List Byte)) (os : List LineOp) : State :=
    os.foldl (fun s o => if isRemote s o.dpa then s else let c := lineCover runs o.dpa; linePut s iss o c.1 c.2) s
  epAccess s r .write parts (fun s os =>
    let runs := (os.zip bytes).map (fun q => (q.1.dpa, q.2))
    let lines := distinctLines os
    let s := send s runs lines
    if lines.any (fun o => isRemote s o.dpa && !(getTask s iss.who).sent.contains (o.dpa / 64)) then s
    else
      k (endTask (claimGroup s r (write s runs lines)) (epWho r)))
    (fun s os =>
      let runs := (os.zip bytes).map (fun q => (q.1.dpa, q.2))
      claimGroup s r (write (send s runs (distinctLines os)) runs (distinctLines os)))

/-- GM_STORE: once the last pass is written and the levels are added (R110), finish, convert, write the rows of active lanes that are not void, close the region; the flag byte leaves void rows
out. -/
def execGmStore (r : EpReq) (s : State) : Host.Outcome State Fault Refusal :=
  gmRequest r (fun p s =>
    let sh := getSheaf s p.sheaf
    let w := epWidth s r.att
    let lanes := activeLanes s r
    match sh.portRegion.filter (fun g => g.rbase == p.rbase) with
    | none => epSay s r 4
    | some g =>
      if !schemeOk p.out 0 || p.rnd == 3 then epSay s r 4
      else if lanes.length < w && !r.mok then epSay s r 3
      else if s.tick < g.passEnd + finishTime g false + 1 then s
      else gmSound s r p.sheaf [] (regionEntries false g) (fun s =>
        let width := g.ecount / w
        let live (i : Nat) : Bool := !g.voids.contains i
        let fin := (List.range g.ecount).map (portFinish sh.store g)
        let written := lanes.filter (fun x => live x.1)
        let rows := written.map (fun x =>
          (x.2.addr.toNat, storeRow p g (fun e => (fin.getD e (0, 0)).1) width x.1 (x.2.data.toNat % 2 ^ 32)))
        let fl := (List.range w).foldl (fun (f : Nat) i =>
          if live i then (List.range width).foldl (fun f n => f ||| (fin.getD (i * width + n) (0, 0)).2) (f ||| (look 0 sh.portFlags i).toNat) else f) 0
        let fl := rows.foldl (fun f x => f ||| x.2.2) fl
        gmWrite (drainBuf s (sbKey r.att r.group)) r p (rows.map (fun x => (x.1, x.2.1))) (fun s =>
          let s := setSheaf s p.sheaf { getSheaf s p.sheaf with portRegion := none, portFlags := [] }
          epAnswer s r.att r.tag 0 [] 0 (BitVec.ofNat 8 fl)))) s

end Sys2Proof.Machine
end

