-- ==== Sys2Proof/Machine/MemEvents.lean ====
section
/-!
DEFINITION. Events of the stacks: patrol (R309, R310), corrective write-back (R311), loss (R290) and temperature (R295).
-/
namespace Sys2Proof.Machine

/-- Pool offset of a byte of a stack: the inverse of R296. -/
def unplace (stack b : Nat) : Nat :=
  let q := b >>> 8
  let r := (stack + 20 - placeFold q % 20) % 20
  256 * (q * 20 + r) + b % 256

/-- Bytes of a stack that the pool uses (R292). -/
def stackBytes (s : State) : Nat := poolBytes s / 20

/-- One patrol period (R316), in wall-clock time (R8). -/
def gleanPeriod (s : State) : Nat := 3600 * 10 ^ 9 * wallUnit * field s.mem.gleanCfg 7 0

/-- A record of the Gleaner log (R310, R528): the word's DPA and its granule's owner entry, whose bits above the context
stand in DETAIL (log 26). -/
def gleanLog (s : State) (stack word : Nat) : State :=
  let e := ownerEntry s (8 * word / 2 ^ 21)
  let r := errRecord s clsCorrected srcMemWord stack (localDpa s (8 * word)) (field e 19 0) (field e 31 20)
  { s with err := { s.err with gleanRing := ringAdd s.err.gleanRing r, gleanWrites := s.err.gleanWrites + 1 } }

/-- Every stack has been read to its top: the pass ends (R309, R316). -/
def gleanPass (s : State) : State :=
  if (List.range 20).all (fun n => decide (stackBytes s ≤ look 0 s.mem.gleanPos n)) then
    let late := decide (2 * gleanPeriod s < s.wall - s.mem.gleanStart)
    { s with mem := { s.mem with
      gleanPos := [], gleanStart := s.wall
      gleanStatus := setBit (setField s.mem.gleanStatus 15 0 (field s.mem.gleanStatus 15 0 + 1)) 16 late } }
  else if 2 * gleanPeriod s < s.wall - s.mem.gleanStart then
    { s with mem := { s.mem with gleanStatus := setBit s.mem.gleanStatus 16 true } }
  else s

/-- With a patrol read a stack reports the corrections of its on-die ECC since the read before (R289, R315): a free number (log 47). -/
def stackReport (s : State) (stack : Nat) : State :=
  let k := freshFree s
  bumpMemErr k.2 stack 63 48 (Config.stackCe k.1)

/-- GLEAN_LINE: the next line of a stack's patrol (R309, R310). -/
def execGleanLine (stack : Nat) (s : State) : Host.Outcome State Fault Refusal :=
  let pos := look 0 s.mem.gleanPos stack
  if !grangerUp s || !poolUp s || !bitOf s.mem.gleanCfg 8 || decide (stackBytes s ≤ pos) then .next s
  else
    let n := unplace stack pos / 64
    let bad := badWords (ramLine s.mem.ram n)
    let r := memReadLine s n
    let s := bad.foldl (fun s i => gleanLog s stack (8 * n + i)) r.2
    let s := stackReport s stack
    .next (gleanPass { s with mem := { s.mem with gleanPos := put 0 s.mem.gleanPos stack (pos + 64) } })

/-- CORRECTIVE_WRITEBACK: a corrected word that no newer write has cancelled goes to its stack (R311). -/
def execCorrectiveWriteback (index : Nat) (s : State) : Host.Outcome State Fault Refusal :=
  match s.mem.corr[index]? with
  | none => .next s
  | some c => .next { s with mem := { s.mem with
      corr := s.mem.corr.eraseIdx index
      ram := ramPutWord s.mem.ram c.word (c.data.toNat, c.chk.toNat) } }

/-- STACK_LOST: the loss of the chip, which the report names as suspect (R290, R524, R535). -/
def execStackLost (stack : Nat) (s : State) : Host.Outcome State Fault Refusal :=
  if !grangerUp s || !poolUp s then .next s
  else .next (raiseReplanned (setPort s stack { getPort s stack with up := false }) srcStack stack 0 0 0 (some (ownPosition s)))

/-- STACK_HOT (R295, R314). -/
def execStackHot (stack : Nat) (s : State) : Host.Outcome State Fault Refusal :=
  .next (if alive s && (getPort s stack).up then setPort s stack { getPort s stack with hot := true } else s)

/-- STACK_HOT_CLEAR (R295, R314). -/
def execStackHotClear (stack : Nat) (s : State) : Host.Outcome State Fault Refusal :=
  .next (if alive s && (getPort s stack).up then setPort s stack { getPort s stack with hot := false } else s)

end Sys2Proof.Machine
end

