-- ==== Sys2Proof/Machine/PlanCmds.lean ====
section
/-!
DEFINITION. PLAN_RUN, PLAN_RESUME and PLAN_STOP (R217 to R219, R224, R226, R227, R250, R515, R516, R588).
-/
namespace Sys2Proof.Machine

/-- A Sheaf of the position's SHEAF_MASK is leased by ENGINE_LEASE (R219). -/
def leasedAway (s : State) (x : Slot) (p : Plan) : Bool :=
  let mask := match p.positions[x.position]? with | some e => e.sheafMask | none => 0
  (sheavesOf mask).any (fun n => match (getSheaf s n).lease with | some l => !l.byPlan | none => false)

/-- The refusal of R219 reaches the root in an ARRIVE for the start barrier; the root itself abandons. -/
def reportRefusal (s : State) (x : Slot) : State :=
  if isCropRoot s then decide_ s (.abandon (some x.position))
  else if s.crop.member then
    sendCtrl s (upLink s) (.arrive
      { kind := .start, barrier := BitVec.ofNat 64 s.crop.attempts, halted := false, refusedAt := some x.position, stop := none
        gather := [], margin := [], maxFmin := 0, minFmax := 0, drift := false })
  else s

/-- What PLAN_RUN and PLAN_RESUME share: the slot's owner and state, one run at a time, the Loft, the leases; then the start
barrier. -/
def startRun (s : State) (h : CmdHdr) (c : Instr) (n : Nat) (accepts : Slot → Bool) (prepare : Plan → Slot → Slot) : State :=
  guardCodes s h [(decide (15 < n), pcRange)] (fun s =>
    let x := getSlot s n
    if slotForeign s h n then complete s h stProtection (plainDetail stProtection) 0
    else guardCodes s h [(!accepts x || (runningSlot s).isSome, pcState)] (fun s =>
      match x.plan with
      | none => badPacket s h pcState
      | some p =>
        guardCodes s h [(decide (s.cache.loftWays < p.loftWays), pcLoft)] (fun s =>
          if leasedAway s x p then reportRefusal (complete s h stProtection (plainDetail stProtection) 0) x
          else enterStart s h c n p (prepare p x))))

/-- A command that is already in progress for its slot. -/
def running (s : State) (h : CmdHdr) (n : Nat) : Bool :=
  match (getSlot s n).run with | some r => r.windrow == h.windrow && r.seq == h.seq | none => false

/-- PLAN_RUN (R224): from epoch 0 with both counts 0. DESIGN CHOICE: no valid Seedcorn stands from here on, an imported one is dropped, and
the step records start at 0, when the slot enters the start barrier; R217 does not say when (log 52). -/
def execPlanRun (h : CmdHdr) (slot : Byte) (s : State) : Host.Outcome State Fault Refusal :=
  command s h false false false (fun s =>
    if running s h slot.toNat then s
    else startRun s h (.planRun h slot) slot.toNat (fun x => x.state == .bound || x.state == .done) (fun p x =>
      { x with epoch := 0, replays := 0, replans := 0, steps := List.replicate p.nstep {}, seedValid := false, newest := none, older := none
               counters := {} }))

/-- PLAN_RESUME (R227): from the valid Seedcorn. -/
def execPlanResume (h : CmdHdr) (slot : Byte) (s : State) : Host.Outcome State Fault Refusal :=
  command s h false false false (fun s =>
    if running s h slot.toNat then s
    else startRun s h (.planResume h slot) slot.toNat (fun x => x.state == .stopped || (x.state == .bound && x.seedValid)) (fun p x =>
      match x.newest with
      | some r => { x with epoch := r.epoch, steps := r.steps }
      | none => { x with steps := if x.steps.isEmpty then List.replicate p.nstep {} else x.steps }))

/-- PLAN_STOP (R226, R250): agreed at once at the root, else sent to it; it completes when the stop is agreed or the run ends. -/
def execPlanStop (h : CmdHdr) (slot mode : Byte) (s : State) : Host.Outcome State Fault Refusal :=
  let n := slot.toNat
  command s h false false false (fun s =>
    guardCodes s h [(decide (15 < n) || decide (1 < mode.toNat), pcRange)] (fun s =>
      let st := (getSlot s n).state
      if slotForeign s h n then complete s h stProtection (plainDetail stProtection) 0
      else if st = .stopping ∨ st = .stopped then done s h
      else guardCodes s h [(!(st == .running), pcState)] (fun s =>
        if isCropRoot s then rootTry (rootStop (done s h) (.planStop (mode == 1)))
        else
          let s := stayInProgress s h (.planStop h slot mode)
          let q := (h, mode == 1)
          if s.crop.stops.contains q then s
          else reportToRoot { s with crop := { s.crop with stops := s.crop.stops ++ [q] } } (.planStop (mode == 1)))))

end Sys2Proof.Machine
end

