-- ==== Sys2Proof/Machine/Seedcorn.lean ====
section
/-!
DEFINITION. The canonical Seedcorn (R538 to R543): SEEDCORN_EXPORT and SEEDCORN_IMPORT.
-/
namespace Sys2Proof.Machine

/-! ## Shape -/

/-- CARRIED tensors of a plan, in ascending TENSOR, with their arenas. -/
def carriedTensors (p : Plan) : List (TensorEntry × ArenaEntry) :=
  let all := p.tensors.filterMap (fun t => match p.arenas[t.arena]? with
    | some a => if a.kind = 2 then some (t, a) else none
    | none => none)
  all.mergeSort (fun a b => decide (a.1.tensor ≤ b.1.tensor))

/-- Those of the slot's position. -/
def ownTensors (x : Slot) (p : Plan) : List (TensorEntry × ArenaEntry) := (carriedTensors p).filter (fun q => q.2.position == x.position)

/-- Bytes of a tensor's row of elements, and of its scales (R57, R58, R541). -/
def contentBytes (t : TensorEntry) : Nat := ceilDiv (t.rowlen * elemBits t.fmt) 8
def scaleRowBytes (t : TensorEntry) : Nat := if t.sch = 0 then 0 else t.rowlen / 32

/-- EP and SP of R541. -/
def rowPitch (t : TensorEntry) : Nat := roundUp (contentBytes t) 64
def scalePitchOf (t : TensorEntry) : Nat := roundUp (scaleRowBytes t) 64

/-- Bytes of a tensor's data: its rows, then its scale plane. -/
def tensorBytes (t : TensorEntry) : Nat := t.rows * rowPitch t + t.rows * scalePitchOf t

/-- Offsets of the directory and of the data in a part (their order is the model's: log 30). -/
def dirOffset (p : Plan) : Nat := 64 + roundUp (16 * p.nstep) 64
def dataOffset (p : Plan) (count : Nat) : Nat := dirOffset p + roundUp (32 * count) 64

/-- SIZE of one part. -/
def partSize (x : Slot) (p : Plan) : Nat :=
  let ts := ownTensors x p
  dataOffset p ts.length + (ts.map (fun q => tensorBytes q.1)).sum

/-- Whether a slot can be exported (R217, R538). -/
def canExport (x : Slot) : Bool := x.seedValid && (x.state == .stopped || x.state == .held || x.state == .failed)

/-- Bytes an export of the slot writes; 0 when there is none (R517, R538). -/
def exportSize (x : Slot) : Nat :=
  match x.plan with
  | some p => if canExport x then (if x.twoEpochs then 2 else 1) * partSize x p else 0
  | none => 0

/-- Logical digest of R542. -/
def digest (x : Slot) (p : Plan) : W32 :=
  crc32c ((carriedTensors p).flatMap (fun q => toLE 4 q.1.tensor ++ toLE 1 q.1.fmt ++ toLE 1 q.1.sch ++ toLE 1 q.1.outw ++ [0]
      ++ toLE 4 q.1.rows ++ toLE 4 q.1.rowlen)
    ++ p.steps.flatMap (fun e => toLE 8 e.seed.toNat ++ toLE 4 e.firstEpoch ++ toLE 4 e.lastEpoch)
    ++ [if x.orderV1 then 1 else 0, 0, 0, 0])

/-- A step record's 16 bytes (R209). -/
def stepBytes (r : StepRec) : List Byte := [r.flags, 0, 0, 0] ++ toLE 4 r.vanish.toNat ++ toLE 4 r.epochLast.toNat ++ [0, 0, 0, 0]

/-- A directory entry (R540), the tensor's data standing at an offset. -/
def dirEntry (t : TensorEntry) (off : Nat) : List Byte :=
  toLE 4 t.tensor ++ toLE 1 t.fmt ++ toLE 1 t.sch ++ [0, 0] ++ toLE 4 t.rows ++ toLE 4 t.rowlen ++ toLE 4 (off / 64)
    ++ toLE 4 (if t.sch = 0 then 0 else (off + t.rows * rowPitch t) / 64) ++ List.replicate 8 0

/-- Zeros up to a multiple of 64. -/
def padPart (bs : List Byte) : List Byte := slice bs 0 (roundUp bs.length 64)

/-- Data offsets of the tensors of a part. -/
def tensorOffsets (start : Nat) : List TensorEntry → List Nat
  | [] => []
  | t :: rest => start :: tensorOffsets (start + tensorBytes t) rest

/-! ## Reading and writing arenas -/

/-- The context address of a HOST arena's byte (R397). -/
def hostCa (o : Nat) : Nat := let a := bits o 51 0; if a.testBit 51 then 2 ^ 64 - 2 ^ 52 + a else a

/-- What reading a part's tensor data gives. -/
inductive ArenaRead where
  | bytes (bs : List Byte)
  | poison
  | stop (e : RangeEnd)
deriving DecidableEq, Repr

/-- n bytes of a context's range read line by line. -/
def readCa (s : State) (iss : Issuer) (a n : Nat) : ArenaRead × State :=
  let r := resolveLines s iss .read (ceilDiv (a % 64 + n) 64) (a / 64 * 64)
  match r.2.1 with
  | .all =>
    let q := sourceLines r.2.2 iss r.1
    if q.1.any linePoison then (.poison, q.2) else (.bytes (slice (q.1.flatMap (fun x => x.data)) (a % 64) n), q.2)
  | e => (.stop e, r.2.2)

/-- n bytes of an arena's copy IN of an epoch (R206). -/
def readArena (s : State) (iss : Issuer) (x : Slot) (t : TensorEntry) (a : ArenaEntry) (epoch off n : Nat) : ArenaRead × State :=
  let o := arenaBase x a t.arena 1 epoch + off
  if a.space = 1 then readCa s { iss with ctx := x.context } (hostCa o) n
  else
    let r := homeReadBytes s 21 a.space o n x.context
    (if r.2.1.isSome then .poison else .bytes r.1, r.2.2)

/-- Rows of one plane, each padded to its pitch in the part. -/
def readRows (s : State) (iss : Issuer) (x : Slot) (t : TensorEntry) (a : ArenaEntry) (epoch base pitch n : Nat) : Nat → Nat → ArenaRead × State
  | 0, _ => (.bytes [], s)
  | k + 1, r =>
    match readArena s iss x t a epoch (base + r * pitch) n with
    | (.bytes bs, s1) =>
      match readRows s1 iss x t a epoch base pitch n k (r + 1) with
      | (.bytes rest, s2) => (.bytes (padPart bs ++ rest), s2)
      | e => e
    | e => e

/-- Bits of a row beyond its elements are zero (R541). -/
def cutRow (t : TensorEntry) (bs : List Byte) : List Byte :=
  let n := t.rowlen * elemBits t.fmt % 8
  let p := rowPitch t
  if n = 0 || p = 0 then bs
  else (List.range t.rows).foldl (fun bs r =>
    let i := r * p + contentBytes t - 1
    bs.modify i (fun b => BitVec.ofNat 8 (b.toNat % 2 ^ n))) bs

/-- Data of the tensors of a part. -/
def readTensors (s : State) (iss : Issuer) (x : Slot) (epoch : Nat) : List (TensorEntry × ArenaEntry) → ArenaRead × State
  | [] => (.bytes [], s)
  | (t, a) :: rest =>
    match readRows s iss x t a epoch t.elemBase t.elemPitch (contentBytes t) t.rows 0 with
    | (.bytes es, s1) =>
      match readRows s1 iss x t a epoch t.scaleBase t.scalePitch (scaleRowBytes t) (if t.sch = 0 then 0 else t.rows) 0 with
      | (.bytes ss, s2) =>
        match readTensors s2 iss x epoch rest with
        | (.bytes more, s3) => (.bytes (cutRow t es ++ ss ++ more), s3)
        | e => e
      | e => e
    | e => e

/-! ## SEEDCORN_EXPORT -/

/-- The header of a part (R539) with its CRC still zero. -/
def partHeader (x : Slot) (p : Plan) (epoch : Nat) (gathered : Bool) (count size : Nat) : List Byte :=
  toLE 8 0x4E524F4344454553 ++ toLE 2 0x0100 ++ toLE 1 ((if gathered then 1 else 0) + (if x.isolated then 2 else 0))
    ++ toLE 1 (if x.orderV1 then 1 else 0) ++ toLE 4 p.nstep ++ toLE 8 epoch ++ toLE 4 (digest x p).toNat ++ toLE 4 count
    ++ toLE 4 (min x.replays (2 ^ 32 - 1)) ++ toLE 4 (min x.replans (2 ^ 32 - 1)) ++ toLE 4 1 ++ toLE 4 (dirOffset p / 64)
    ++ toLE 8 size ++ List.replicate 8 0

/-- One canonical part (R538 to R541). -/
def partBytes (x : Slot) (p : Plan) (steps : List StepRec) (epoch : Nat) (gathered : Bool) (data : List Byte) : List Byte :=
  let ts := (ownTensors x p).map (fun q => q.1)
  let offs := tensorOffsets (dataOffset p ts.length) ts
  let body := partHeader x p epoch gathered ts.length (partSize x p)
    ++ padPart ((List.range p.nstep).flatMap (fun i => stepBytes (steps.getD i {})))
    ++ padPart ((ts.zip offs).flatMap (fun q => dirEntry q.1 q.2)) ++ data
  splice body 60 (toLE 4 (crc32c body).toNat)

/-- The parts of an export, and how reading them ended. -/
def exportParts (s : State) (iss : Issuer) (x : Slot) (p : Plan) : ArenaRead × State :=
  let n := match x.newest with | some r => r.epoch.toNat | none => x.epoch.toNat
  let steps := match x.newest with | some r => r.steps | none => x.steps
  let ts := ownTensors x p
  match readTensors s iss x n ts with
  | (.bytes d, s1) =>
    let first := partBytes x p steps n true d
    if !x.twoEpochs then (.bytes first, s1)
    else match readTensors s1 iss x (n + 1) ts with
      | (.bytes d2, s2) => (.bytes (first ++ partBytes x p steps (n + 1) false d2), s2)
      | e => e
  | e => e

/-- SEEDCORN_EXPORT: DETAIL is the byte count divided by 64 (R516). -/
def execSeedcornExport (h : CmdHdr) (slot : Byte) (dst length : W64) (s : State) : Host.Outcome State Fault Refusal :=
  let n := slot.toNat
  command s h false false false (fun s =>
    guardCodes s h [(decide (15 < n) || dst.toNat % 64 != 0, pcRange)] (fun s =>
      let x := getSlot s n
      if slotForeign s h n then complete s h stProtection (plainDetail stProtection) 0
      else guardCodes s h [(!canExport x, pcState), (decide (length.toNat < exportSize x), pcSize)] (fun s =>
        match x.plan with
        | none => badPacket s h pcState
        | some p =>
          let iss := cmdIssuer h
          match exportParts s iss x p with
          | (.poison, s) => complete s h stTargetLost (plainDetail stTargetLost) 0
          | (.stop (.stop st), s) => complete s h st (plainDetail st) 0
          | (.stop _, s) => s
          | (.bytes bs, s) =>
            copyRun s h (BitVec.ofNat 32 (bs.length / 64)) (fun j _ => (cleanLine (slice bs (64 * j) 64), 0))
              (resolvePairs iss fillShape 0 (caDst iss dst.toNat) (bs.length / 64) 0 s))))

/-! ## SEEDCORN_IMPORT -/

/-- Check 1 of R543 for the arenas: the context may write every local DEVICE arena of kind CARRIED, both copies. -/
def importRefused (s : State) (h : CmdHdr) (x : Slot) (p : Plan) : Option Byte :=
  (localArenas x p (fun a => a.kind == 2)).findSome? (fun r => (judgeRange s r.1 r.2 h.context .write).map (fun q => q.1))

/-- A directory entry's TENSOR, FMT, SCH, ROWS, ROWLEN, and the offsets of its planes. -/
structure DirEnt where
  tensor : Nat
  fmt : Nat
  sch : Nat
  rows : Nat
  rowlen : Nat
  elem : Nat
  scale : Nat
deriving DecidableEq, Repr

/-- The directory of a Seedcorn (R540), as far as its bytes can hold it. -/
def importDir (bs : List Byte) : List DirEnt :=
  let d := 64 * fieldLE bs 44 4
  (List.range (min (fieldLE bs 28 4) (bs.length / 32))).map (fun i =>
    let e := slice bs (d + 32 * i) 32
    ⟨fieldLE e 0 4, fieldLE e 4 1, fieldLE e 5 1, fieldLE e 8 4, fieldLE e 12 4, 64 * fieldLE e 16 4, 64 * fieldLE e 20 4⟩)

/-- Reserved fields of the directory are zero (R540, R543 check 2). -/
def dirReservedZero (bs : List Byte) : Bool :=
  let d := 64 * fieldLE bs 44 4
  (List.range (min (fieldLE bs 28 4) (bs.length / 32))).all (fun i =>
    let e := slice bs (d + 32 * i) 32
    decide (fieldLE e 4 1 < 16) && decide (fieldLE e 5 1 < 4) && zeroAt e 6 2 && zeroAt e 24 8)

/-- Context addresses and lengths of the rows a HOST arena's tensors take in the copy IN of an epoch. -/
def hostRows (x : Slot) (p : Plan) (epoch : Nat) : List (Nat × Nat) :=
  ((ownTensors x p).filter (fun q => q.2.space == 1)).flatMap (fun q =>
    let t := q.1
    let base := arenaBase x q.2 t.arena 1 epoch
    (List.range t.rows).flatMap (fun r =>
      (hostCa (base + t.elemBase + r * t.elemPitch), contentBytes t) ::
        (if t.sch = 0 then [] else [(hostCa (base + t.scaleBase + r * t.scalePitch), scaleRowBytes t)])))

/-- The lines of ranges translated and checked for writing, up to the first that does not pass. -/
def resolveRows (s : State) (iss : Issuer) : List (Nat × Nat) → RangeEnd × State
  | [] => (.all, s)
  | r :: rest =>
    match (resolveLines s iss .write (ceilDiv (r.1 % 64 + r.2) 64) (r.1 / 64 * 64)).2 with
    | (.all, s) => resolveRows s iss rest
    | e => e

/-- The step records of a Seedcorn. -/
def importSteps (bs : List Byte) (nstep : Nat) : List StepRec :=
  let o := 64 * fieldLE bs 40 4
  (List.range nstep).map (fun i =>
    { flags := BitVec.ofNat 8 (fieldLE bs (o + 16 * i) 1), vanish := BitVec.ofNat 32 (fieldLE bs (o + 16 * i + 4) 4)
      epochLast := BitVec.ofNat 32 (fieldLE bs (o + 16 * i + 8) 4) })

/-- The entry that carries a tensor of the plan unchanged. -/
def matching (dir : List DirEnt) (t : TensorEntry) : Option DirEnt :=
  dir.find? (fun d => d.tensor == t.tensor && d.fmt == t.fmt && d.sch == t.sch && d.rows == t.rows && d.rowlen == t.rowlen)

/-- Bytes written into an arena's copy IN of an epoch. -/
def writeArena (s : State) (iss : Issuer) (x : Slot) (t : TensorEntry) (a : ArenaEntry) (epoch off : Nat) (bs : List Byte) : State :=
  let o := arenaBase x a t.arena 1 epoch + off
  if a.space = 1 then
    let ca := hostCa o
    let iss := { iss with ctx := x.context }
    let padded := List.replicate (ca % 64) 0 ++ bs
    (List.range (ceilDiv padded.length 64)).foldl (fun s i =>
      let lo := if i = 0 then ca % 64 else 0
      let hi := min 64 (padded.length - 64 * i)
      match resolveLine s iss none (ca / 64 * 64 + 64 * i) .write with
      | (.ok op, s) => linePut s iss op (slice padded (64 * i) 64) (byteMask lo (hi - lo))
      | (.error _, s) => s) s
  else homeWriteBytes s 21 a.space o bs x.context

/-- One tensor's rows and scale rows go into the arena. -/
def importTensor (s : State) (iss : Issuer) (x : Slot) (epoch : Nat) (bs : List Byte) (q : TensorEntry × ArenaEntry) (d : DirEnt) : State :=
  let t := q.1
  let s := (List.range t.rows).foldl (fun s r =>
    writeArena s iss x t q.2 epoch (t.elemBase + r * t.elemPitch) (slice bs (d.elem + r * rowPitch t) (contentBytes t))) s
  if t.sch = 0 then s
  else (List.range t.rows).foldl (fun s r =>
    writeArena s iss x t q.2 epoch (t.scaleBase + r * t.scalePitch) (slice bs (d.scale + r * scalePitchOf t) (scaleRowBytes t))) s

/-- Checks 2 to 5 of R543 on the bytes read: the code that fails. -/
def importCode (x : Slot) (p : Plan) (bs : List Byte) (length : Nat) : Option Nat :=
  let size := fieldLE bs 48 8
  let flags := fieldLE bs 10 1
  let dir := importDir bs
  if fieldLE bs 0 8 != 0x4E524F4344454553 || fieldLE bs 8 2 != 0x0100 || decide (3 < flags) || decide (1 < fieldLE bs 11 1)
      || !zeroAt bs 56 4 || !dirReservedZero bs || decide (length < size) then some pcRange
  else if crc32c (splice (slice bs 0 size) 60 [0, 0, 0, 0]) != BitVec.ofNat 32 (fieldLE bs 60 4) then some pcRange
  else if !flags.testBit 0 || fieldLE bs 12 4 != p.nstep || (fieldLE bs 11 1 == 1) != x.orderV1 || fieldLE bs 24 4 != (digest x p).toNat then
    some pcDescriptor
  else if (ownTensors x p).any (fun q => (matching dir q.1).isNone) then some pcDescriptor
  else none

/-- A checked Seedcorn takes effect (R543). -/
def importApply (s : State) (iss : Issuer) (n : Nat) (x : Slot) (p : Plan) (bs : List Byte) : State :=
  let epoch := fieldLE bs 16 8
  let dir := importDir bs
  let steps := importSteps bs p.nstep
  let s := (ownTensors x p).foldl (fun s q => match matching dir q.1 with
    | some d => importTensor s iss x epoch bs q d
    | none => s) s
  let e := BitVec.ofNat 64 epoch
  setSlot s n { x with
    epoch := e, steps := steps, replays := fieldLE bs 32 4, replans := fieldLE bs 36 4, seedValid := true, older := none
    newest := some { epoch := e, tillers := [], counts := [], steps := steps } }

/-- SEEDCORN_IMPORT. -/
def execSeedcornImport (h : CmdHdr) (slot : Byte) (src length : W64) (s : State) : Host.Outcome State Fault Refusal :=
  let n := slot.toNat
  command s h false false false (fun s =>
    guardCodes s h [(decide (15 < n) || src.toNat % 64 != 0, pcRange)] (fun s =>
      let x := getSlot s n
      if slotForeign s h n then complete s h stProtection (plainDetail stProtection) 0
      else guardCodes s h [(!(x.state == .loaded || x.state == .bound), pcState)] (fun s =>
        match x.plan with
        | none => badPacket s h pcState
        | some p =>
          let iss := cmdIssuer h
          let r := resolveLines s iss .read (ceilDiv length.toNat 64) src.toNat
          let remote := r.1.filter (fun o => isRemote s o.dpa)
          match r.2.1, (getTask s iss.who).failed, importRefused s h x p with
          | .parked, _, _ => r.2.2
          | .stop st, _, _ => complete (endTask r.2.2 iss.who) h st (plainDetail st) 0
          | .all, some st, _ => complete (endTask s iss.who) h st (plainDetail st) 0
          | .all, none, some st => complete (endTask r.2.2 iss.who) h st (plainDetail st) 0
          | .all, none, none =>
            if remote.any (fun o => (remoteGot s iss.who o.dpa).isNone) then remote.foldl (fun s o => wantRemote s iss o) r.2.2
            else
              let q := sourceLines r.2.2 iss r.1
              let close (s' : State) : State := claimReqs s h (endTask s' iss.who)
              if q.1.any linePoison then complete (notePoison s iss r.1 q.1 (close q.2)) h stFaultUnresolved (plainDetail stFaultUnresolved) 0
              else
                let bs := slice (q.1.flatMap (fun l => l.data)) 0 length.toNat
                match importCode x p bs length.toNat with
                | some code => badPacket (close q.2) h code
                | none =>
                  match resolveRows q.2 { iss with ctx := x.context } (hostRows x p (fieldLE bs 16 8)) with
                  | (.all, s2) => done (importApply (close s2) iss n x p bs) h
                  | (.stop st, s2) => complete (close s2) h st (plainDetail st) 0
                  | (.parked, s2) => s2)))

end Sys2Proof.Machine
end

