-- ==== Sys2Proof/Machine/Query.lean ====
section
/-!
DEFINITION. The records of QUERY (R253, R382, R517, R529, R551) and of COUNTERS_READ (R209, R518).
-/
namespace Sys2Proof.Machine

/-- Selector 0: its first three words are those of the identification block (R517, R579). -/
def identRecord (s : State) : List Byte :=
  slice (toLE 4 0x30345759 ++ toLE 4 0x10 ++ toLE 4 s.boot.fwVersion.toNat ++ toLE 2 s.boot.tallyAddr.toNat
    ++ toLE 1 (profileP s).toNat ++ toLE 1 (bitOf s.boot.straps 1).toNat) 0 64

/-- STATE code of R383. -/
def ctxStateCode (c : CtxState) : Nat := match c with | .unbound => 0 | .active => 1 | .blocked => 2

/-- Selector 1: the context table entry of R382. -/
def ctxRecord (c : Ctx) : List Byte :=
  let ctl := compose [((c.state != .unbound).toNat, 0), (c.segment.toNat, 1), (c.levels5.toNat, 2), (c.adUpdate.toNat, 3), (ctxStateCode c.state, 4)]
  slice (toLE 4 ctl ++ toLE 4 c.segslot.toNat ++ toLE 8 c.ptRoot.toNat ++ toLE 4 c.faults.toNat ++ toLE 4 c.refusals.toNat
    ++ toLE 8 c.lastAddr.toNat) 0 64

/-- Selector 2: the Crop record of R253, zero while the chip is no member. DESIGN CHOICE: an RT beyond its two bytes reads 65,535
(log 29). -/
def cropRecord (s : State) : List Byte :=
  let c := s.crop
  if !c.member then List.replicate 128 0
  else
    let head := toLE 4 c.cropId.toNat ++ toLE 2 c.rootTally.toNat ++ toLE 2 c.nmember.toNat ++ [c.depth, c.myDepth, c.parentLink, 0]
      ++ toLE 4 c.lUp.toNat ++ toLE 4 c.lDown.toNat ++ toLE 4 (c.depth.toNat + 1) ++ toLE 4 c.lateLinks.toNat ++ toLE 4 c.worstExcess.toNat
      ++ toLE 4 c.driftEvents.toNat ++ toLE 4 c.remeasures.toNat ++ toLE 8 c.startCtb.toNat
    slice (slice head 0 64 ++ (List.range 24).flatMap (fun n => toLE 2 (min (getLink s n).rt 65535))) 0 128

/-- STATE code of R216. -/
def slotStateCode (x : SlotState) : Nat :=
  match x with
  | .empty => 0 | .loaded => 1 | .bound => 2 | .running => 3 | .stopping => 4 | .stopped => 5 | .held => 6 | .done => 7 | .failed => 8

/-- Selector 3 (R517). -/
def slotRecord (x : Slot) : List Byte :=
  let id := match x.plan with | some p => p.planId.toNat | none => 0
  slice ([BitVec.ofNat 8 (slotStateCode x.state), if x.seedValid then 1 else 0, x.lastStatus, 0] ++ toLE 4 x.context.toNat ++ toLE 8 x.epoch.toNat
    ++ toLE 16 id ++ toLE 8 (exportSize x)) 0 64

/-- Selector 4 (R507, R517). -/
def windrowRecord (w : Windrow) : List Byte := slice (toLE 4 w.lastSeq.toNat ++ [w.lastStatus]) 0 16

/-- The 128-byte summary of R529. -/
def errorSummary (s : State) : List Byte :=
  let b := s.err
  slice (recOrZero (if b.firstValid then b.first else none) ++ recOrZero (if b.nextValid then b.next else none)
    ++ (List.range 5).flatMap (fun k => toLE 4 (look 0 b.counts k).toNat) ++ [BitVec.ofNat 8 b.restarts, 0, 0, 0]
    ++ toLE 4 b.errWrites.toNat ++ toLE 4 b.gleanWrites.toNat) 0 128

/-- Selector 5: the summary and the newest records, newest first (R529). -/
def errorRecord (s : State) (n : Nat) : List Byte := errorSummary s ++ (s.err.ring.reverse.take (min n 1024)).flatMap recBytes

/-- Selector 6: the record of R551. -/
def marginRecord (s : State) : List Byte :=
  let m := s.margin
  slice (toLE 1 s.rootPct ++ toLE 1 m.fmin ++ toLE 2 m.vddMv ++ toLE 2 m.vddCeil ++ toLE 2 m.vddBoot ++ toLE 1 m.enable.toNat
    ++ toLE 1 m.lastReq ++ toLE 1 m.fmax ++ [0] ++ toLE 4 m.vsteps.toNat ++ toLE 4 m.fsteps.toNat ++ toLE 4 m.relaxRun.toNat
    ++ toLE 4 m.worst.toNat ++ toLE 4 0 ++ (List.range 104).flatMap (fun k => toLE 2 (look 65535 m.slack k))) 0 256

/-- A task of the context is parked (R410, R414, R517). -/
def hasParked (s : State) (ctx : BitVec 20) : Bool := hasFault s ctx || s.tr.held.any (fun m => m.ctx == ctx)

/-- A Windrow that CONTEXT owns: its own, or one locked to it (R517; log 31). -/
def ownsWindrow (s : State) (h : CmdHdr) (n : Nat) : Bool :=
  n == h.windrow || (bitOf (getWindrow s n).cfg 3 && field (getWindrow s n).cfg 51 32 == h.context.toNat)

/-- The record a selector names and the status of the reply, or PROTECTION. -/
def queryRecord (s : State) (h : CmdHdr) (sel arg : Nat) : Option (List Byte × Byte) :=
  match sel with
  | 0 => some (identRecord s, stDone)
  | 1 =>
    if arg != h.context.toNat && !isPriv s h then none
    else some (ctxRecord (getCtx s arg), if hasParked s (BitVec.ofNat 20 arg) then stFaultPending else stDone)
  | 2 => some (cropRecord s, stDone)
  | 3 => if ((getSlot s arg).state == .empty || (getSlot s arg).context != h.context) && !isPriv s h then none else some (slotRecord (getSlot s arg), stDone)
  | 4 => if !ownsWindrow s h arg && !isPriv s h then none else some (windrowRecord (getWindrow s arg), stDone)
  | 5 => some (errorRecord s arg, stDone)
  | _ => some (marginRecord s, stDone)

/-- Whether ARG is beyond what the selector counts. -/
def queryRange (sel arg : Nat) : Bool :=
  (sel == 1 && decide (2 ^ 20 ≤ arg)) || (sel == 3 && decide (15 < arg)) || (sel == 4 && decide (65536 ≤ arg))

/-- QUERY. -/
def execQuery (h : CmdHdr) (selector : W16) (arg : W32) (dst : W64) (s : State) : Host.Outcome State Fault Refusal :=
  let sel := selector.toNat
  command s h false (sel == 0) (decide (6 < sel)) (fun s =>
    guardCodes s h [(queryRange sel arg.toNat || dst.toNat % 64 != 0, pcRange)] (fun s =>
      match queryRecord s h sel arg.toNat with
      | none => complete s h stProtection (plainDetail stProtection) 0
      | some (bs, st) => complete (hostPost s dst bs) h st (plainDetail st) 0))

/-- WHAT 1 (R518). -/
def counterBytes (c : Counters) : List Byte :=
  slice (toLE 8 c.epoch.toNat ++ toLE 8 c.tick.toNat ++ (List.range 53).flatMap (fun t => toLE 4 (c.slips.getD t 0).toNat)
    ++ (List.range 16).flatMap (fun n => toLE 4 (c.holds.getD n 0).toNat)) 0 320

/-- COUNTERS_READ. -/
def execCountersRead (h : CmdHdr) (slot what : Byte) (first count : W32) (dst : W64) (s : State) : Host.Outcome State Fault Refusal :=
  let n := slot.toNat
  let f := first.toNat
  let k := count.toNat
  command s h false false false (fun s =>
    guardCodes s h [(decide (15 < n) || decide (1 < what.toNat) || dst.toNat % 64 != 0 || (what == 0 && (k == 0 || decide (65536 < k))), pcRange)] (fun s =>
      let x := shownRecord (getSlot s n)
      if slotForeign s h n then complete s h stProtection (plainDetail stProtection) 0
      else match x.plan with
        | none => badPacket s h pcState
        | some p =>
          if what = 0 then
            guardCodes s h [(decide (p.nstep < f + k), pcRange)] (fun s =>
              let rs := (List.range k).map (fun i => x.steps.getD (f + i) {})
              complete (hostPost s dst (rs.flatMap stepBytes)) h stDone 0 (rs.foldl (fun b r => b ||| r.flags) 0))
          else done (hostPost s dst (counterBytes x.counters)) h))

end Sys2Proof.Machine
end

