-- ==== Sys2Proof/Machine/Wain.lean ====
section
/-!
DEFINITION. Wain frames and link events (R261 to R285): sending at a frame boundary, checking and accepting what arrives, link
states, and the loss of a link.
-/
namespace Sys2Proof.Machine

/-! ## Sending -/

/-- Lines that wait for a channel. -/
def txLines (x : WainLink) (vc : Nat) : List (List Byte) := if vc = 0 then x.tx0 else if vc = 1 then x.tx1 else x.tx2

/-- Credits reserved for a channel (R269). -/
def ownCredits (x : WainLink) (vc : Nat) : Nat := if vc = 0 then x.own0 else if vc = 1 then x.own1 else x.own2

/-- Lines of a channel that the next frame can carry: 80 slots, and a credit for each line (R262, R269). -/
def sendable (x : WainLink) (vc : Nat) : Nat := min 80 (min (txLines x vc).length (ownCredits x vc + x.sharedCred))

/-- The channels in the order in which they are looked at after the last one sent: VC2, VC1, VC0 in turn (R268). -/
def vcOrder (last : Nat) : List Nat := if last = 2 then [1, 0, 2] else if last = 1 then [0, 2, 1] else [2, 1, 0]

/-- n lines of a channel leave: the channel's credits first, then shared ones (R269). -/
def takeLines (x : WainLink) (vc n : Nat) : WainLink :=
  let own := min n (ownCredits x vc)
  let x := { x with sharedCred := x.sharedCred - (n - own), lastVc := vc }
  if vc = 0 then { x with tx0 := x.tx0.drop n, own0 := x.own0 - own }
  else if vc = 1 then { x with tx1 := x.tx1.drop n, own1 := x.own1 - own }
  else { x with tx2 := x.tx2.drop n, own2 := x.own2 - own }

/-- A DATA frame of a channel; the last line of a plan transfer ends its SEND (R186, R272). -/
def sendData (s : State) (link vc : Nat) : State :=
  let x := getLink s link
  let n := sendable x vc
  let ls := (txLines x vc).take n
  let s := sendNew (setLink s link (takeLines x vc n)) link (.data (BitVec.ofNat 2 vc) ls) false
  if vc = 0 && (getLink s link).tx0.isEmpty then sendDone s link else s

/-- A frame of the replay buffer again, with the ACK, NAK and HELD of now (R266): it counts in RETRY. -/
def sendAgain (s : State) (link : Nat) : State :=
  let x := getLink s link
  match x.resend with
  | f :: rest => transmit (setLink s link { x with resend := rest, err := bump x.err 47 32 1 }) link f
  | [] => s

/-- LEAVE, in 16 consecutive CONTROL frames (R284). -/
def sendLeave (s : State) (link : Nat) : State :=
  let x := getLink s link
  sendNew (setLink s link { x with leaveLeft := x.leaveLeft - 1 }) link (.control [.leave]) false

/-- FRAME_SEND at a frame boundary: control messages, frames to resend, DATA of the channels in turn, else IDLE (R266, R268, R272). -/
def execFrameSend (link : Nat) (s : State) : Host.Outcome State Fault Refusal :=
  let x := getLink s link
  if !alive s then .next s
  else if x.state = .up then
    if x.ctrl.any (ctrlReady s) then .next (sendControl s link)
    else if !x.resend.isEmpty then .next (sendAgain s link)
    else match (vcOrder x.lastVc).find? (fun vc => decide (0 < sendable x vc)) with
      | some vc => .next (sendData s link vc)
      | none => .next (sendNew s link .idle false)
  else if 0 < x.leaveLeft then .next (sendLeave s link)
  else .next s

/-! ## Loss (R282 to R285) -/

/-- RECOVERY (R282): it counts in RECOVER. -/
def enterRecovery (s : State) (link : Nat) : State :=
  let x := getLink s link
  setLink s link { x with state := .recovery, badFrames := 0, err := bump x.err 55 48 1 }

/-- The n lines buffered for a lost link are discarded and logged, their number in DETAIL (R284; log 36). -/
def dropBuffered (s : State) (link n : Nat) : State :=
  if n = 0 then s else logError s clsContained srcAccess link 0 0 n

/-- The Crop is dissolved for this chip, unless a run is under way (R229, R233). -/
def loseCrop (s : State) : State :=
  if (runningSlot s).isSome || !s.crop.member then s else dissolve (endForming s stCropLost (formDetail 0 0x3FF))

/-- A link is declared LOST (R283, R284). The errors of the event are logged with the highest class first (R527; log 20). -/
def declareLost (s : State) (link : Nat) : State :=
  let x := getLink s link
  let was := peerInCrop s x
  let s := setLink s link { state := .lost, rate := x.rate, peerLink := x.peerLink, peerTally := x.peerTally, peerIdent := x.peerIdent
                            err := x.err, leaveLeft := 16, txSeq := x.txSeq, rxSeq := x.rxSeq }
  let s := raiseReplanned s srcWainLost link 0 0 0 none
  let s := loseRemoteOver s link
  let s := dropBuffered s link (x.tx1.length + x.tx2.length)
  if s.crop.member then (if was then loseCrop s else s) else reportChecks s

/-- A link that carries frames or is relocking (R282). -/
def carrying (x : WainLink) : Bool := x.state == .up || x.state == .recovery

/-- LINK_LOSS_TIMEOUT: no frame has passed its check for LOSS_MS (R283). -/
def execLinkLossTimeout (link : Nat) (s : State) : Host.Outcome State Fault Refusal :=
  .next (if alive s && carrying (getLink s link) then declareLost s link else s)

/-- A line waits for a credit (R283). -/
def waitsForCredit (x : WainLink) : Bool := [0, 1, 2].any (fun vc => !(txLines x vc).isEmpty && sendable x vc == 0)

/-- CREDIT_WAIT_TIMEOUT: a line has waited for a credit for LOSS_MS while no frame had HELD (R283). -/
def execCreditWaitTimeout (link : Nat) (s : State) : Host.Outcome State Fault Refusal :=
  let x := getLink s link
  .next (if alive s && carrying x && waitsForCredit x && !x.peerHeld then declareLost s link else s)

/-- ELASTIC_BUFFER_OVERFLOW, or underflow (R241, R283). -/
def execElasticBufferOverflow (link : Nat) (s : State) : Host.Outcome State Fault Refusal :=
  .next (if alive s && carrying (getLink s link) then declareLost s link else s)

/-- LEAVE from the peer (R283). -/
def execLeave (link : Nat) (s : State) : Host.Outcome State Fault Refusal :=
  let s := takeFrom s link .leave
  .next (if alive s && carrying (getLink s link) then declareLost s link else s)

/-! ## Link states (R281, R282) -/

/-- TRAINING_COMPLETE. -/
def execTrainingComplete (link : Nat) (s : State) : Host.Outcome State Fault Refusal :=
  .next (if alive s && (getLink s link).state == .training then linkUp s link else s)

/-- TRAINING_TIMEOUT: the link is DOWN, and CABLING fails where the LINK table names it (R231). -/
def execTrainingTimeout (link : Nat) (s : State) : Host.Outcome State Fault Refusal :=
  .next (if alive s && (getLink s link).state == .training then reportChecks (linkDown s link) else s)

/-- LOSS_OF_LOCK. -/
def execLossOfLock (link : Nat) (s : State) : Host.Outcome State Fault Refusal :=
  .next (if alive s && (getLink s link).state == .up then enterRecovery s link else s)

/-- RELOCK: UP; the first frame that passes its check says where to resend from (R285). -/
def execRelock (link : Nat) (s : State) : Host.Outcome State Fault Refusal :=
  let x := getLink s link
  .next (if alive s && x.state == .recovery then setLink s link { x with state := .up, resync := true, resend := [] } else s)

/-! ## Receiving -/

/-- Symbols corrected (R264): CORR_SYM and the count of class CORRECTED; no record is written (WAIN_FEC, R524). -/
def countSymbols (s : State) (link n : Nat) : State :=
  if n = 0 then s
  else
    let x := getLink s link
    let b := s.err
    let s := setLink s link { x with err := bump x.err 31 0 n }
    { s with err := { b with count := bump b.count 31 0 n, counts := put 0 b.counts 0 (satAdd32 (look 0 b.counts 0) n) } }

/-- A discarded frame (R266, R282): a failed check sets NAK in the next frame; the fourth in a row means RECOVERY. -/
def discardFrame (s : State) (link : Nat) (failed : Bool) : State :=
  let x := getLink s link
  let x := { x with nakDue := x.nakDue || failed, badFrames := x.badFrames + 1 }
  if 4 ≤ x.badFrames then enterRecovery (setLink s link x) link else setLink s link x

/-- Frames of the replay buffer after an acknowledged one (R266). -/
def framesAfter (x : WainLink) (ack : Byte) : List SentFrame :=
  let n := (x.txSeq - 1 - ack).toNat
  x.replay.drop (x.replay.length - n)

/-- Credits returned for one channel: its own up to 16, the rest shared (R269); answers its own and the shared ones. -/
def creditBack (own shared n : Nat) : Nat × Nat :=
  let k := min n (16 - own)
  (own + k, min 2000 (shared + (n - k)))

/-- An accepted frame's header: SEQ, credits, and a NAK that is not the second with its ACK (R266, R269). -/
def acceptHead (x : WainLink) (h : FrameHead) : WainLink :=
  let c0 := creditBack x.own0 x.sharedCred h.cred0.toNat
  let c1 := creditBack x.own1 c0.2 h.cred1.toNat
  let c2 := creditBack x.own2 c1.2 h.cred2.toNat
  let x := { x with rxSeq := h.seq, badFrames := 0, own0 := c0.1, own1 := c1.1, own2 := c2.1, sharedCred := c2.2 }
  if h.nak then (if x.lastNak = some h.ack then x else { x with lastNak := some h.ack, resend := framesAfter x h.ack })
  else if x.lastNak = some h.ack then x else { x with lastNak := none }

/-- A frame that arrives on a link that is UP: checked (R264), resending after relock (R285), accepted in order only (R266). -/
def receiveFrame (s : State) (link : Nat) (h : FrameHead) (crcOk : Bool) (deliver : State → State) : State :=
  if !alive s || (getLink s link).state != .up then s
  else
    let s := countSymbols s link h.corrected
    if !(h.decodes && crcOk) then discardFrame s link true
    else
      let x := getLink s link
      let x := { x with peerHeld := h.held }
      let x := if x.resync then { x with resync := false, resend := framesAfter x h.ack } else x
      let s := setLink s link x
      if h.seq != x.rxSeq + 1 then discardFrame s link false
      else deliver (setLink s link (acceptHead x h))

/-- Arrived lines join their channel's receive buffer. -/
def bufferLines (x : WainLink) (vc : Nat) (ls : List (List Byte)) : WainLink :=
  if vc = 0 then { x with rx0 := x.rx0 ++ ls } else if vc = 1 then { x with rx1 := x.rx1 ++ ls } else { x with rx2 := x.rx2 ++ ls }

/-- Lines of VC0 are written at the receive they belong to as soon as it has begun (R272); after one is full the rest go to the next;
surplus lines are dropped (R275). -/
def deliverVc0 (s : State) (link : Nat) : State :=
  if (surplusLinks s).contains link then dropSurplus s link
  else receiveLines (receiveLines s (25 + link) link false) 24 link true

/-- DATA_FRAME (R262 to R272); of another KIND only the reserved 3 can stand here, and it fails its check (R263). -/
def execDataFrame (link : Nat) (f : DataFrame) (s : State) : Host.Outcome State Fault Refusal :=
  .next (receiveFrame s link f.head (f.head.kind == 1 && f.vc != 3 && f.crc == frameCrc f.head f.vc f.map f.lines) (fun s =>
    let s := setLink s link (bufferLines (getLink s link) f.vc.toNat f.lines)
    if f.vc = 0 then deliverVc0 s link else s))

/-- CONTROL_FRAME: its messages are delivered (R263, R264, R268). -/
def execControlFrame (link : Nat) (h : FrameHead) (last : FrameEnd) (msgs : List CtrlMsg) (s : State) :
    Host.Outcome State Fault Refusal :=
  .next (receiveFrame s link h (h.kind == 2 && last.crc == frameCrc h 0 last.map (msgs.map Config.ctrlSlot)) (fun s =>
    let x := getLink s link
    setLink s link { x with inbox := x.inbox ++ msgs }))

/-- IDLE_FRAME: no slot holds a line (R263, R264). -/
def execIdleFrame (link : Nat) (h : FrameHead) (crc : W32) (s : State) : Host.Outcome State Fault Refusal :=
  .next (receiveFrame s link h (h.kind == 0 && crc == frameCrc h 0 0 []) (fun s => s))

end Sys2Proof.Machine
end

