-- ==== Sys2Proof/Machine/Remote.lean ====
section
/-!
DEFINITION. Remote memory (R276 to R280): requests served at their target or passed on, responses at their requester, timeouts.
-/
namespace Sys2Proof.Machine

/-- The slots of a request or response leave the head of the channel that brought them, each returning its credit (R269). -/
def takeSlots (s : State) (link vc : Nat) (slots : List (List Byte)) : State :=
  let x := getLink s link
  let n := slots.length
  if vc = 1 then
    if x.rx1.take n = slots then setLink s link { x with rx1 := x.rx1.drop n, ret1 := x.ret1 + n } else s
  else if x.rx2.take n = slots then setLink s link { x with rx2 := x.rx2.drop n, ret2 := x.ret2 + n } else s

/-- A record and its data lines go on towards a Tally address in a channel, by the route or else back where they came from (R276). -/
def passOn (s : State) (link vc tally : Nat) (slots : List (List Byte)) : State :=
  let out := (routeTo s tally).getD link
  if vc = 1 then queueVc1 s out slots else queueVc2 s out slots

/-- The response record of a request (R277). -/
def responseTo (r : RemoteRec) (op status : Byte) : RemoteRec :=
  { r with op := op, status := status, src := r.dst, dst := r.src, firstMask := 0, lastMask := 0 }

/-- Answer a request on VC2. -/
def respond (s : State) (link : Nat) (r : RemoteRec) (op status : Byte) (data : List (List Byte)) : State :=
  passOn s link 2 r.src.toNat (recordBytes (responseTo r op status) :: data)

/-- Local line numbers of a request (R277). -/
def remoteLines (r : RemoteRec) : List Nat := (List.range r.nlines).map (fun i => bits r.dpa.toNat 39 6 + i)

/-- The first line of a request that the owner table refuses (R278, R303). -/
def remoteRefusal (s : State) (r : RemoteRec) (acc : AccessKind) : Option (Nat × Nat) :=
  (remoteLines r).findSome? (fun n => match ownerCheck s (64 * n) r.context acc true with
    | .refuse _ row => some (n, row)
    | .ok => none)

/-- A refused request: counted and logged here, NACK with PROTECTION to the requester (R278, R303). -/
def remoteNack (s : State) (link : Nat) (r : RemoteRec) (n row : Nat) : State :=
  respond (logError (countRefuse s) clsContained srcAccess 0 (localDpa s (64 * n)) r.context.toNat row) link r 0x83 1 []

/-- Byte enables of line i of a WRITE (R277). -/
def lineMask (r : RemoteRec) (i : Nat) : Nat :=
  let first := if i = 0 then r.firstMask.toNat else 2 ^ 64 - 1
  let last := if i + 1 = r.nlines then r.lastMask.toNat else 2 ^ 64 - 1
  first &&& last

/-- REMOTE_READ: served at the memory controllers; a member that is not the target passes it on unchecked (R276, R278). -/
def execRemoteRead (link : Nat) (r : RemoteRec) (s : State) : Host.Outcome State Fault Refusal :=
  let s := takeSlots s link 1 [recordBytes r]
  if !alive s then .next s
  else if r.dst != s.boot.tallyAddr then .next (passOn s link 1 r.dst.toNat [recordBytes r])
  else match remoteRefusal s r .read with
    | some (n, row) => .next (remoteNack s link r n row)
    | none =>
      let g := (remoteLines r).foldl (fun (acc : List Line × State) n => let x := memReadLine acc.2 n; (acc.1 ++ [x.1], x.2)) ([], s)
      if g.1.any linePoison then .next (respond g.2 link r 0x81 2 [])
      else .next (respond g.2 link r 0x81 0 (g.1.map (fun x => x.data)))

/-- REMOTE_WRITE: merged at the memory controllers and acknowledged; passed on elsewhere (R276, R278, R279). -/
def execRemoteWrite (link : Nat) (r : RemoteRec) (lines : List (List Byte)) (s : State) : Host.Outcome State Fault Refusal :=
  let s := takeSlots s link 1 (recordBytes r :: lines)
  if !alive s then .next s
  else if r.dst != s.boot.tallyAddr then .next (passOn s link 1 r.dst.toNat (recordBytes r :: lines))
  else match remoteRefusal s r .write with
    | some (n, row) => .next (remoteNack s link r n row)
    | none =>
      let s := ((remoteLines r).zip (List.range r.nlines)).foldl (fun s p => memWriteLine s p.1 (lines.getD p.2 []) (lineMask r p.2)) s
      .next (respond s link r 0x82 0 [])

/-! ## Responses -/

/-- The outstanding request that a response answers (R280). -/
def requestOf (s : State) (r : RemoteRec) : Option RemoteReq := s.wain.remote.find? (fun q => q.tag == r.tag.toNat)

/-- A request is answered. -/
def closeRemote (s : State) (q : RemoteReq) : State := { s with wain := { s.wain with remote := s.wain.remote.erase q } }

/-- A response: passed on, or handed to the request it answers; one whose tag has timed out is discarded and logged (R276, R280). -/
def response (s : State) (link : Nat) (r : RemoteRec) (lines : List (List Byte)) (f : State → RemoteReq → State) : State :=
  let s := takeSlots s link 2 (recordBytes r :: lines)
  if !alive s then s
  else if r.dst != s.boot.tallyAddr then passOn s link 2 r.dst.toNat (recordBytes r :: lines)
  else match requestOf s r with
    | some q => f (closeRemote s q) q
    | none => logError s clsContained srcAccess link r.dpa.toNat r.context.toNat 0

/-- RDATA: the lines reach their requester; POISON is an uncorrectable line of its own (R278). -/
def execRdata (link : Nat) (r : RemoteRec) (lines : List (List Byte)) (s : State) : Host.Outcome State Fault Refusal :=
  .next (response s link r lines (fun s q =>
    let t := getTask s q.who
    let line (i : Nat) : Line := if r.status = 2 then poisonLine else cleanLine (lines.getD i [])
    setTask s { t with got := t.got ++ (List.range q.record.nlines).map (fun i => (q.record.dpa.toNat / 64 + i, line i)) }))

/-- WACK: the write is complete (R279). -/
def execWack (link : Nat) (r : RemoteRec) (s : State) : Host.Outcome State Fault Refusal :=
  .next (response s link r [] (fun s _ => s))

/-- A refused remote request at its requester: Contained for the requesting context, whose task ends with PROTECTION (R278, R303). -/
def refuseRemote (s : State) (q : RemoteReq) : State :=
  let s := refuseCtx s q.record.context q.asked q.record.dpa.toNat 0 false
  let fail (s : State) : State :=
    let t := getTask s q.who
    setTask s { t with failed := some (t.failed.getD stProtection) }
  match q.who with
  | .tiller _ => planContained s stProtection
  | .engineGroup _ _ _ => if q.record.op = 0x02 then s else fail s
  | .command _ _ | .copyEngine _ => fail s
  | .nobody => s

/-- NACK. -/
def execNack (link : Nat) (r : RemoteRec) (s : State) : Host.Outcome State Fault Refusal :=
  .next (response s link r [] refuseRemote)

/-- REMOTE_TIMEOUT: the request completes with TARGET_LOST (R280, R525). -/
def execRemoteTimeout (tag : Nat) (s : State) : Host.Outcome State Fault Refusal :=
  match s.wain.remote.find? (fun q => q.tag == tag) with
  | some q => .next (if alive s then loseRemote s q else s)
  | none => .next s

end Sys2Proof.Machine
end

