-- ==== Sys2Proof/Machine/Tally.lean ====
section
/-!
DEFINITION. The Tally chain (R568 to R572): enumeration, management reads and writes, responses and wake.
-/
namespace Sys2Proof.Machine

/-- TALLY_ALERT_N is pulled low (R572). -/
def alertLow (s : State) : Bool := s.boot.alert || s.boot.thermtrip

/-! ## Frames (R569) -/

/-- A payload from its fields. -/
def tallyPayload (type : Nat) (addr sel data : Nat) (status : Bool) : W64 :=
  BitVec.ofNat 64 (compose [(type, 0), (addr, 5), (status.toNat, 15), (sel, 16), (data, 32)])

/-- TYPE is the row's and the CRC holds; any other frame is discarded. -/
def tallyGood (payload : W64) (crc : Byte) (type : Nat) : Bool := field payload 3 0 == type && crc == crc8 payload

/-- The frame names this chip's address. -/
def tallyMine (s : State) (payload : W64) : Bool := s.boot.tallyValid && field payload 14 5 == s.boot.tallyAddr.toNat && !bitOf payload 4

/-- A frame forwarded unchanged. -/
def tallyForward (s : State) (payload : W64) : State := emit s (.tally payload)

/-- The RESP that replaces a READ or a WRITE addressed to the chip. -/
def tallyAnswer (s : State) (payload : W64) (data : Nat) (refused : Bool) : State :=
  emit s (.tally (tallyPayload 4 (field payload 14 5) (field payload 31 16) data refused))

/-! ## Enumeration (R570) -/

/-- ENUM with a value leaves on TALLY_OUT. -/
def sendEnum (s : State) (v : Nat) : State := emit s (.tally (tallyPayload 1 0 0 (v % 2048) false))

/-- TALLY_CONFLICT, and with it ALERT (R570, R572). -/
def tallyConflict (s : State) : State := { s with boot := { s.boot with tallyConflict := true, alert := true } }

/-- ENUM_START at step 8: the head takes address 0 and sends ENUM 1. -/
def execEnumStart (s : State) : Host.Outcome State Fault Refusal :=
  if !grangerUp s || s.boot.step != 7 then .next s
  else
    let s := { s with boot := { s.boot with step := 8 } }
    if bitOf s.boot.straps 2 then .next (sendEnum { s with boot := { s.boot with tallyAddr := 0, tallyValid := true } } 1)
    else .next s

/-- ENUM. A value of 1,024 or more gives no address; one that the chip has stays (R570). -/
def execEnum (v : BitVec 11) (s : State) : Host.Outcome State Fault Refusal :=
  let n := v.toNat
  if bitOf s.boot.straps 2 then .next (tallyConflict s)
  else if 1024 ≤ n then .next (sendEnum s (n + 1))
  else if s.crop.member && s.boot.tallyAddr.toNat != n then
    .next (sendEnum (tallyConflict { s with boot := { s.boot with tallyDeferred := some (BitVec.ofNat 10 n) } }) (n + 1))
  else .next (sendEnum { s with boot := { s.boot with tallyAddr := BitVec.ofNat 10 n, tallyValid := true, tallyDeferred := none } } (n + 1))

/-! ## The flash window (R571) -/

/-- A byte of the flash: as programmed, erased, or as it was before the model saw a write (log 7). -/
def flashByte (b : Boot) (a : Nat) : Byte :=
  match b.flash.find? (fun c => c.1 == a) with
  | some c => c.2
  | none => if b.erased.contains (a / 65536) then 0xFF else Config.flashByte a

/-- A byte programmed; cells stay in rising order. -/
def flashPut : List Host.Cell → Nat → Byte → List Host.Cell
  | [], a, v => [(a, v)]
  | c :: t, a, v => if a < c.1 then (a, v) :: c :: t else if a = c.1 then (a, v) :: t else c :: flashPut t a v

/-- A data word programmed at the window's address. -/
def flashProgram (b : Boot) (w : Nat) : Boot :=
  { b with flash := ((List.range 4).zip (toLE 4 w)).foldl (fun t p => flashPut t (b.flashAddr.toNat + p.1) p.2) b.flash }

/-- The 64 KiB sector at the window's address erased. -/
def flashErase (b : Boot) : Boot :=
  let k := b.flashAddr.toNat / 65536
  { b with flash := b.flash.filter (fun c => c.1 / 65536 != k), erased := if b.erased.contains k then b.erased else b.erased ++ [k] }

/-! ## Reads and writes (R571) -/

/-- The word a selector names. -/
def tallyWord (s : State) (sel : Nat) : Nat × State :=
  if sel < 0xE000 then read32 s .tally (4 * sel)
  else if sel = 0xE000 then (s.boot.flashAddr.toNat, s)
  else if sel = 0xE001 then (leNat ((List.range 4).map (fun i => flashByte s.boot (s.boot.flashAddr.toNat + i))), s)
  else if 0xF000 ≤ sel ∧ sel < 0xF040 then (fieldLE (marginRecord s) (4 * (sel % 0x40)) 4, s)
  else if 0xF040 ≤ sel ∧ sel < 0xF060 then (fieldLE (errorSummary s) (4 * (sel % 0x20)) 4, s)
  else ((Config.tallyWord sel).toNat, s)

/-- The flash window accepts writes. -/
def flashOpen (s : State) : Bool := s.boot.perstLow || s.boot.step == 15

/-- A write the chain may perform: W1C fields and ERR_STAT, BOOT_STATUS, the flash window; none where it is refused. -/
def tallyStore (s : State) (sel : Nat) (v : W32) : Option State :=
  if sel = 0xE000 ∨ sel = 0xE001 ∨ sel = 0xE002 then
    if !flashOpen s then none
    else if sel = 0xE000 then some { s with boot := { s.boot with flashAddr := v } }
    else if sel = 0xE001 then some { s with boot := flashProgram s.boot v.toNat }
    else some (if v = 1 then { s with boot := flashErase s.boot } else s)
  else if 4 * sel = 0x2000C then some (writeBootStatus s v)
  else if 4 * sel = 0x21008 then some (if bar0Open s then writeContain s (setBit v 16 false) else s)
  else if 4 * sel = 0x28000 then some (if bar0Open s then writeErrStat s v else s)
  else none

/-- TALLY_READ. -/
def execTallyRead (payload : W64) (crc : Byte) (s : State) : Host.Outcome State Fault Refusal :=
  if !tallyGood payload crc 2 then .next s
  else if !tallyMine s payload then .next (tallyForward s payload)
  else
    let r := tallyWord s (field payload 31 16)
    .next (tallyAnswer r.2 payload r.1 false)

/-- TALLY_WRITE: performed, or refused with STATUS 1; a broadcast is performed and forwarded. -/
def execTallyWrite (payload : W64) (crc : Byte) (s : State) : Host.Outcome State Fault Refusal :=
  let sel := field payload 31 16
  let v : W32 := BitVec.ofNat 32 (field payload 63 32)
  if !tallyGood payload crc 3 then .next s
  else if bitOf payload 4 then .next (tallyForward ((tallyStore s sel v).getD s) payload)
  else if !tallyMine s payload then .next (tallyForward s payload)
  else match tallyStore s sel v with
    | some s' => .next (tallyAnswer s' payload v.toNat false)
    | none => .next (tallyAnswer s payload v.toNat true)

/-- RESP: forwarded unchanged (R569). -/
def execResp (payload : W64) (crc : Byte) (s : State) : Host.Outcome State Fault Refusal :=
  .next (if tallyGood payload crc 4 then tallyForward s payload else s)

/-- TALLY_WAKE: addressed or broadcast, it sets PME_Status; the frame goes on (R572). -/
def execTallyWake (payload : W64) (crc : Byte) (s : State) : Host.Outcome State Fault Refusal :=
  if !tallyGood payload crc 5 then .next s
  else .next (tallyForward (if bitOf payload 4 || tallyMine s payload then setPme s else s) payload)

end Sys2Proof.Machine
end

