-- ==== Sys2Proof/Machine/Windrow.lean ====
section
/-!
DEFINITION. The path of a packet: doorbell (R492, R495), residency (R501), slot reads and re-reads (R493, R494), the
scheduler (R502, R503) and replies (R496, R505).
-/
namespace Sys2Proof.Machine

/-- COMPAT of a Windrow (R519). -/
def isMoldo (w : Windrow) : Bool := bitOf w.cfg 1

/-- Raise a field of GRG_ERR (R522). -/
def bumpGrg (s : State) (hi lo : Nat) : State := { s with grg := { s.grg with err := bump s.grg.err hi lo 1 } }

/-! ## Residency (R501) -/

/-- The idle resident Windrow that has been idle longest. -/
def longestIdle (s : State) : Option Nat :=
  (s.grg.active.filter (fun n => windrowIdle (getWindrow s n))).foldl (fun m n => match m with
    | none => some n
    | some k => if (getWindrow s n).idleSince < (getWindrow s k).idleSince then some n else some k) none

/-- A Windrow enters the active set. -/
def enterActive (s : State) (n : Nat) : State :=
  let s := setWindrow s n { getWindrow s n with resident := true, idleSince := s.tick }
  { s with grg := { s.grg with active := s.grg.active ++ [n] } }

/-- A Windrow leaves the active set. -/
def leaveActive (s : State) (n : Nat) : State :=
  let s := setWindrow s n { getWindrow s n with resident := false }
  { s with grg := { s.grg with active := s.grg.active.filter (fun k => k != n) } }

/-- A Windrow becomes resident: a place is free, an idle one leaves, or it joins the admission queue. -/
def makeResident (s : State) (n : Nat) : State :=
  if (getWindrow s n).resident || s.grg.admission.contains n then s
  else if s.grg.active.length < 1024 then enterActive s n
  else match longestIdle s with
    | some k => enterActive (leaveActive s k) n
    | none => { s with grg := { s.grg with admission := s.grg.admission ++ [n] } }

/-- WINDROW_ADMISSION: the first queued Windrow enters once a place is free or a resident Windrow is idle. -/
def execWindrowAdmission (s : State) : Host.Outcome State Fault Refusal :=
  match s.grg.admission with
  | [] => .next s
  | n :: rest =>
    let s' := { s with grg := { s.grg with admission := rest } }
    if s.grg.active.length < 1024 then .next (enterActive s' n)
    else match longestIdle s with
      | some k => .next (enterActive (leaveActive s' k) n)
      | none => .next s

/-! ## Doorbells -/

/-- A TAIL as a count from HEAD: modulo 2^16 in a Moldo Windrow (R492, R519). -/
def tailAhead (w : Windrow) (v : W32) : Nat :=
  if isMoldo w then (v - w.head).toNat % 65536 else (v - w.head).toNat

/-- A TAIL reaches Granger (R492, R495). -/
def ringDoorbell (s : State) (n : Nat) (v : W32) : State :=
  let w := getWindrow s n
  let d := tailAhead w v
  if !bitOf w.cfg 0 || decide (ringSize w < d) || decide (d < (w.tail - w.head).toNat) then bumpGrg s 15 0
  else
    let w := { w with tail := w.head + BitVec.ofNat 32 d }
    let w := if w.halted then { w with halted := false, rereading := false, rereads := 0 } else w
    makeResident (setWindrow s n w) n

/-- The host's stores of bytes to its own memory: a word of which every byte is stored is no longer poisoned (R301). -/
def hostStores (r : Ram) (stores : List (Nat × Byte)) : Ram :=
  { data := stores.foldl (fun m p => put 0 m p.1 p.2) r.data
    chk := stores.foldl (fun c p =>
      if (List.range 8).all (fun i => stores.any (fun q => q.1 == 8 * (p.1 / 8) + i)) then put 0 c (p.1 / 8) 0 else c) r.chk }

/-- DOORBELL: the host's stores to its own memory, then a write of BAR4 (R429, R439, R492). A frozen port drops it (R454),
in D3hot it is an Unsupported Request and Granger reads none (R449). -/
def execDoorbell (off width : Nat) (value : W64) (stores : List (Nat × Byte)) (s : State) : Host.Outcome State Fault Refusal :=
  let s := { s with hostMem := hostStores s.hostMem stores }
  if !memAccess s || s.hl.frozen then .next s
  else if !goodAccess off width then .next (badAccess s width true)
  else if off % 64 ≠ 0 || !bar0Open s || decide (2 ^ 22 ≤ off) then .next s
  else .next (ringDoorbell s (off / 64) (BitVec.ofNat 32 value.toNat))

/-! ## Reading packets -/

/-- A packet slot as read: its bytes, the poisoned line met, with where its word was found, and the state after. -/
structure SlotRead where
  bytes : List Byte
  poison : Option (LineAddr × (Nat × Nat) × Line)
  after : State

/-- Slot HEAD of a Windrow's ring (R488, R519): host memory, or device memory at its home, whose line is then invalidated. -/
def readSlot (s : State) (n : Nat) : SlotRead :=
  let w := getWindrow s n
  let size := if isMoldo w then 32 else 64
  let addr := w.base.toNat + size * (w.head.toNat % ringSize w)
  if bitOf w.cfg 4 then
    let l := devLine addr
    let place := poisonWhere s l
    let r := readCur s 21 l 0 false
    { bytes := slice (r.1.data.drop (addr % 64)) 0 size
      poison := if (badWords r.1).any (fun i => decide (addr % 64 / 8 ≤ i) && decide (i < addr % 64 / 8 + size / 8)) then some (l, place, r.1) else none
      after := flushLine r.2 l true }
  else { bytes := ramBytes s.hostMem addr size, poison := none, after := s }

/-- Check 1 of R500: SEQ and PHASE. -/
def checkOne (w : Windrow) (bs : List Byte) : Bool :=
  let k := w.head.toNat
  (if isMoldo w then fieldLE bs 2 2 == k % 65536 else fieldLE bs 4 4 == k)
  && (fieldLE bs 1 1).testBit 0 == phaseOf k (field w.cfg 12 8)

/-- Check 2 of R500, skipped for a Moldo Windrow. -/
def checkTwo (w : Windrow) (bs : List Byte) : Bool := isMoldo w || fieldLE bs 12 4 == packetSum bs

/-- A packet that passed both checks: HEAD rises and it waits to start (R493). -/
def acceptPacket (s : State) (n : Nat) (bs : List Byte) : State :=
  let w := getWindrow s n
  let k := w.head.toNat
  let p : Packet := if isMoldo w then ⟨BitVec.ofNat 32 (k % 65536), expandMoldo bs⟩ else ⟨w.head, bs⟩
  setWindrow s n { w with head := w.head + 1, accepted := w.accepted ++ [p], rereading := false, rereads := 0,
                          waitSince := if w.accepted.isEmpty then s.tick else w.waitSince }

/-- Whether Granger reads slot HEAD of a Windrow now (R487, R493, R495, R501). -/
def mayRead (s : State) (n : Nat) : Bool :=
  let w := getWindrow s n
  hostUp s && bitOf w.cfg 0 && w.resident && !w.halted && w.head != w.tail && (bitOf w.cfg 4 || !s.hl.frozen)

/-- PACKET_READ: slot HEAD is read and checked; a slot that fails check 1 or 2 will be read again (R493, R494). -/
def execPacketRead (w : Nat) (s : State) : Host.Outcome State Fault Refusal :=
  if !mayRead s w || (getWindrow s w).rereading then .next s
  else
    let r := readSlot s w
    let x := getWindrow s w
    if r.poison.isNone && checkOne x r.bytes && checkTwo x r.bytes then .next (acceptPacket r.after w r.bytes)
    else .next (setWindrow r.after w { getWindrow r.after w with rereading := true, rereads := 0 })

/-- A reply of R494: it always signals the vector. -/
def readFailReply (s : State) (n : Nat) (st : Byte) (detail : W32) : State :=
  let w := getWindrow s n
  let seq : W32 := if isMoldo w then BitVec.ofNat 32 (w.head.toNat % 65536) else w.head
  setWindrow s n { w with replies := w.replies ++ [⟨seq, detail, 0, st, 0, 0, true⟩], rereading := false, rereads := 0 }

/-- The 64th re-read has failed too (R494). -/
def readFailed (s : State) (n : Nat) (r : SlotRead) : State :=
  let w := getWindrow s n
  match r.poison with
  | some (l, place, x) =>
    let s := bumpGrg (readFailReply s n stEarlyDoorbell (plainDetail stEarlyDoorbell)) 31 16
    logPoison (setWindrow s n { getWindrow s n with halted := true }) place l x 0
  | none =>
    if checkOne w r.bytes then
      let s := bumpGrg (readFailReply s n stBadPacket (packetDetail pcChecksum)) 63 48
      setWindrow s n { getWindrow s n with head := w.head + 1 }
    else
      let s := bumpGrg (readFailReply s n stEarlyDoorbell (plainDetail stEarlyDoorbell)) 31 16
      setWindrow s n { getWindrow s n with halted := true }

/-- PACKET_REREAD: up to 64 times; the last failure writes EARLY_DOORBELL and halts the Windrow, or CHECKSUM (R494). -/
def execPacketReread (w : Nat) (s : State) : Host.Outcome State Fault Refusal :=
  if !mayRead s w || !(getWindrow s w).rereading then .next s
  else
    let r := readSlot s w
    let s := bumpGrg r.after 47 32
    let x := getWindrow s w
    if r.poison.isNone && checkOne x r.bytes && checkTwo x r.bytes then .next (acceptPacket s w r.bytes)
    else if x.rereads + 1 < 64 then .next (setWindrow s w { x with rereads := x.rereads + 1 })
    else .next (readFailed s w r)

/-! ## Starting commands (R502, R503) -/

/-- Commands that a later one waits for: everything in progress but runs, and everything not yet replied to. -/
def earlierPending (w : Windrow) : Bool := w.inprog.any (fun p => !isRun p.cmd) || !w.replies.isEmpty

/-- A serialising command or a FENCE has not replied yet (R503, R510). -/
def serialPending (w : Windrow) : Bool :=
  w.inprog.any (fun p => isSerial p.cmd || isFence p.cmd) || (match w.serial with | some q => w.replies.any (fun r => r.seq == q) | none => false)

/-- R503 and R510 let the next accepted packet of a Windrow start. -/
def orderAllows (n : Nat) (w : Windrow) : Bool :=
  if serialPending w then false
  else match w.accepted with
    | [] => false
    | p :: _ =>
      match decodePacket n p.bytes with
      | .command c =>
        let wait := match hdrOf c with | some h => h.waitPrev | none => false
        !((wait || isSerial c) && earlierPending w)
      | _ => !((fieldLE p.bytes 1 1).testBit 1 && earlierPending w)

/-- A ready Windrow (R502) whose next command may start (R503). -/
def isReady (s : State) (n : Nat) : Bool :=
  let w := getWindrow s n
  w.resident && !w.accepted.isEmpty && decide (w.inprog.length < 8) && !replyFull w && !w.faultHeld && orderAllows n w

/-- Commands in progress in the whole block. -/
def inProgress (s : State) : Nat := s.grg.windrows.foldl (fun n p => n + p.2.inprog.length) 0

/-- Round robin: the next number after `last`, wrapping, among those offered. -/
def nextAfter (last : Nat) (ns : List Nat) : Option Nat :=
  let least (l : List Nat) := l.foldl (fun m n => match m with | none => some n | some k => some (min k n)) (none : Option Nat)
  match least (ns.filter (fun n => decide (last < n))) with
  | some n => some n
  | none => least ns

/-- The Windrow the turn goes to (R502): every 16th turn the one that has waited longest, else the lowest CLASS. -/
def turnOf (s : State) : Option Nat :=
  let ready := s.grg.active.filter (isReady s)
  if s.grg.turn % 16 = 15 then
    ready.foldl (fun m n => match m with
      | none => some n
      | some k => if (getWindrow s n).waitSince < (getWindrow s k).waitSince then some n else some k) none
  else
    let cls (n : Nat) := field (getWindrow s n).cfg 7 6
    match (List.range 4).find? (fun c => ready.any (fun n => cls n == c)) with
    | some c => nextAfter (look 65536 s.grg.lastServed c) (ready.filter (fun n => cls n == c))
    | none => none

/-- The next accepted packet of a Windrow starts: checks 3 and 4 end it at once, or it is in progress (R500, R502); LOFT_STATUS.BUSY rises
with a LOFT_CONFIG (R343). -/
def startPacket (s : State) (n : Nat) : State :=
  let w := getWindrow s n
  match w.accepted with
  | [] => s
  | p :: rest =>
    let s := setWindrow s n { w with accepted := rest, waitSince := s.tick }
    let irq := (fieldLE p.bytes 1 1).testBit 2
    match decodePacket n p.bytes with
    | .badOpcode => completeSeq s n p.seq irq stBadOpcode (plainDetail stBadOpcode) 0
    | .reserved => completeSeq s n p.seq irq stBadPacket (packetDetail pcReserved) 0
    | .command c =>
      let s := if isLoftConfig c then { s with cache := { s.cache with loftBusy := true } } else s
      let w := getWindrow s n
      setWindrow s n { w with inprog := w.inprog ++ [⟨p.seq, c, s.tick⟩], serial := if isSerial c || isFence c then some p.seq else w.serial }

/-- COMMAND_START: one turn of the scheduler. -/
def execCommandStart (s : State) : Host.Outcome State Fault Refusal :=
  if !grangerUp s || decide (256 ≤ inProgress s) then .next s
  else match turnOf s with
    | none => .next s
    | some n =>
      let c := field (getWindrow s n).cfg 7 6
      let s := { s with grg := { s.grg with turn := s.grg.turn + 1, lastServed := put 65536 s.grg.lastServed c n } }
      .next (startPacket s n)

/-! ## Replies (R496, R505) -/

/-- The 16 bytes of a reply in slot r of its ring. -/
def replyBytes (r : ReplyRec) (phase : Bool) : List Byte :=
  toLE 4 r.seq.toNat ++ toLE 4 r.detail.toNat ++ toLE 4 r.time.toNat ++ [r.status, r.flags, r.info, if phase then 1 else 0]

/-- REPLY: the oldest completed reply is written, bytes 0 to 14 and then byte 15, and the vector signalled; a full ring
holds it. -/
def execReply (w : Nat) (s : State) : Host.Outcome State Fault Refusal :=
  let x := getWindrow s w
  match x.replies with
  | [] => .next s
  | r :: rest =>
    if !grangerUp s || replyFull x then .next s
    else
      let k := x.replyTail.toNat
      let bs := replyBytes r (phaseOf k (field x.cfg 12 8))
      let a := x.replyBase.toNat + 16 * (k % ringSize x)
      let s := hostPost s (BitVec.ofNat 64 a) (bs.take 15)
      let s := hostPost s (BitVec.ofNat 64 (a + 15)) (bs.drop 15)
      let y := { x with replies := rest, replyTail := x.replyTail + 1 }
      let s := setWindrow s w { y with idleSince := if windrowIdle y then s.tick else y.idleSince }
      .next (if r.signal then signalVector s (field x.cfg 26 16) else s)

end Sys2Proof.Machine
end

