-- ==== Sys2Proof/Machine/Dispatch.lean ====
section
/-!
DEFINITION. One arm per row of spec/opcode_table.json: each command's effect on everything but the queue.
-/
namespace Sys2Proof.Machine

/-- The command's effect. -/
def exec (i : Instr) (s : State) : Host.Outcome State Fault Refusal :=
  match i with
  | .nop h => Sys2Proof.Machine.execNop h s
  | .fence h kind => Sys2Proof.Machine.execFence h kind s
  | .flushPublish h base length mode => Sys2Proof.Machine.execFlushPublish h base length mode s
  | .copy h src dst bytes conv sfmt dfmt sat rnd tensor seed => Sys2Proof.Machine.execCopy h src dst bytes conv sfmt dfmt sat rnd tensor seed s
  | .fill h dst bytes pattern => Sys2Proof.Machine.execFill h dst bytes pattern s
  | .copyRemote h src doff bytes tally => Sys2Proof.Machine.execCopyRemote h src doff bytes tally s
  | .ctxBind h action mode levels5 adUpdate => Sys2Proof.Machine.execCtxBind h action mode levels5 adUpdate s
  | .segSet h seg entry => Sys2Proof.Machine.execSegSet h seg entry s
  | .ptRootSet h root => Sys2Proof.Machine.execPtRootSet h root s
  | .tlbInval h base length => Sys2Proof.Machine.execTlbInval h base length s
  | .grant h first count entry => Sys2Proof.Machine.execGrant h first count entry s
  | .regionRegister h key wr base length => Sys2Proof.Machine.execRegionRegister h key wr base length s
  | .regionRevoke h key => Sys2Proof.Machine.execRegionRevoke h key s
  | .faultResolve h faultId outcome => Sys2Proof.Machine.execFaultResolve h faultId outcome s
  | .planLoad h slot position image bindList => Sys2Proof.Machine.execPlanLoad h slot position image bindList s
  | .planRun h slot => Sys2Proof.Machine.execPlanRun h slot s
  | .planStop h slot mode => Sys2Proof.Machine.execPlanStop h slot mode s
  | .cropForm h slot nmember cropId table formTo startTo => Sys2Proof.Machine.execCropForm h slot nmember cropId table formTo startTo s
  | .cropJoin h slot nmember cropId table joinTo => Sys2Proof.Machine.execCropJoin h slot nmember cropId table joinTo s
  | .seedcornExport h slot dst length => Sys2Proof.Machine.execSeedcornExport h slot dst length s
  | .seedcornImport h slot src length => Sys2Proof.Machine.execSeedcornImport h slot src length s
  | .planResume h slot => Sys2Proof.Machine.execPlanResume h slot s
  | .loftConfig h action ways first count entry => Sys2Proof.Machine.execLoftConfig h action ways first count entry s
  | .engineLease h action attach sheaves => Sys2Proof.Machine.execEngineLease h action attach sheaves s
  | .query h selector arg dst => Sys2Proof.Machine.execQuery h selector arg dst s
  | .countersRead h slot what first count dst => Sys2Proof.Machine.execCountersRead h slot what first count dst s
  | .marginPolicy h ceilMv fmin enable fmax => Sys2Proof.Machine.execMarginPolicy h ceilMv fmin enable fmax s
  | .doorbell off width value stores => Sys2Proof.Machine.execDoorbell off width value stores s
  | .windrowAdmission => Sys2Proof.Machine.execWindrowAdmission s
  | .packetRead w => Sys2Proof.Machine.execPacketRead w s
  | .packetReread w => Sys2Proof.Machine.execPacketReread w s
  | .commandStart => Sys2Proof.Machine.execCommandStart s
  | .reply w => Sys2Proof.Machine.execReply w s
  | .windrowEnable w value => Sys2Proof.Machine.execWindrowEnable w value s
  | .windrowDisable w value => Sys2Proof.Machine.execWindrowDisable w value s
  | .grgReplyHeadWrite w value => Sys2Proof.Machine.execGrgReplyHeadWrite w value s
  | .frHeadWrite value => Sys2Proof.Machine.execFrHeadWrite value s
  | .frEnableClear value => Sys2Proof.Machine.execFrEnableClear value s
  | .frEnableSet value => Sys2Proof.Machine.execFrEnableSet value s
  | .hlContainRelease value => Sys2Proof.Machine.execHlContainRelease value s
  | .registerWrite target width value => Sys2Proof.Machine.execRegisterWrite target width value s
  | .readToClear target width => Sys2Proof.Machine.execReadToClear target width s
  | .lowHalfRead side off => Sys2Proof.Machine.execLowHalfRead side off s
  | .badAccess bar off width write => Sys2Proof.Machine.execBadAccess bar off width write s
  | .vectorUnmask v => Sys2Proof.Machine.execVectorUnmask v s
  | .hatchWrite off data => Sys2Proof.Machine.execHatchWrite off data s
  | .hatchRead off n => Sys2Proof.Machine.execHatchRead off n s
  | .memRd hpa => Sys2Proof.Machine.execMemRd hpa s
  | .memRdData hpa => Sys2Proof.Machine.execMemRdData hpa s
  | .memWr hpa data => Sys2Proof.Machine.execMemWr hpa data s
  | .memWrPtl hpa data mask => Sys2Proof.Machine.execMemWrPtl hpa data mask s
  | .memInv hpa => Sys2Proof.Machine.execMemInv hpa s
  | .memSpecRd hpa => Sys2Proof.Machine.execMemSpecRd hpa s
  | .snpData hpa => Sys2Proof.Machine.execSnpData hpa s
  | .snpInv hpa => Sys2Proof.Machine.execSnpInv hpa s
  | .snpCur hpa => Sys2Proof.Machine.execSnpCur hpa s
  | .go tag => Sys2Proof.Machine.execGo tag s
  | .placementWrite direct addr key requester data => Sys2Proof.Machine.execPlacementWrite direct addr key requester data s
  | .invalidationRequest itag pasid addr size => Sys2Proof.Machine.execInvalidationRequest itag pasid addr size s
  | .invalidationComplete index => Sys2Proof.Machine.execInvalidationComplete index s
  | .translationCompletion miss r => Sys2Proof.Machine.execTranslationCompletion miss r s
  | .pageResponse faultId success => Sys2Proof.Machine.execPageResponse faultId success s
  | .completionTimeout tag => Sys2Proof.Machine.execCompletionTimeout tag s
  | .unexpectedCompletion tag => Sys2Proof.Machine.execUnexpectedCompletion tag s
  | .ptmSample hostTime => Sys2Proof.Machine.execPtmSample hostTime s
  | .hostLinkTrained t => Sys2Proof.Machine.execHostLinkTrained t s
  | .portFreeze cause => Sys2Proof.Machine.execPortFreeze cause s
  | .selfReset => Sys2Proof.Machine.execSelfReset s
  | .hotReset => Sys2Proof.Machine.execHotReset s
  | .functionLevelReset => Sys2Proof.Machine.execFunctionLevelReset s
  | .d3hotEntry => Sys2Proof.Machine.execD3hotEntry s
  | .d0Return => Sys2Proof.Machine.execD0Return s
  | .wakeWain link => Sys2Proof.Machine.execWakeWain link s
  | .tlbMiss req ctx va acc => Sys2Proof.Machine.execTlbMiss req ctx va acc s
  | .walkComplete miss => Sys2Proof.Machine.execWalkComplete miss s
  | .faultRingSignal => Sys2Proof.Machine.execFaultRingSignal s
  | .faultTimeout slot => Sys2Proof.Machine.execFaultTimeout slot s
  | .rds agent l q => Sys2Proof.Machine.execRds agent l q s
  | .rdo agent l q => Sys2Proof.Machine.execRdo agent l q s
  | .upg agent l q => Sys2Proof.Machine.execUpg agent l q s
  | .rdcur agent l q => Sys2Proof.Machine.execRdcur agent l q s
  | .wrline agent l q data mask => Sys2Proof.Machine.execWrline agent l q data mask s
  | .atom agent l q args => Sys2Proof.Machine.execAtom agent l q args s
  | .offer agent l => Sys2Proof.Machine.execOffer agent l s
  | .fwdS holder l => Sys2Proof.Machine.execFwdS holder l s
  | .fwdI holder l => Sys2Proof.Machine.execFwdI holder l s
  | .inv holder l => Sys2Proof.Machine.execInv holder l s
  | .invD holder l => Sys2Proof.Machine.execInvD holder l s
  | .cur holder l => Sys2Proof.Machine.execCur holder l s
  | .snoopResponse holder l => Sys2Proof.Machine.execSnoopResponse holder l s
  | .nackRetry agent l => Sys2Proof.Machine.execNackRetry agent l s
  | .nearAtomic agent l q args => Sys2Proof.Machine.execNearAtomic agent l q args s
  | .storeBufferPerform issuer index => Sys2Proof.Machine.execStoreBufferPerform issuer index s
  | .fillArrival cache l => Sys2Proof.Machine.execFillArrival cache l s
  | .gleanLine stack => Sys2Proof.Machine.execGleanLine stack s
  | .correctiveWriteback index => Sys2Proof.Machine.execCorrectiveWriteback index s
  | .stackLost stack => Sys2Proof.Machine.execStackLost stack s
  | .stackHot stack => Sys2Proof.Machine.execStackHot stack s
  | .halt t => Sys2Proof.Machine.execHalt t s
  | .tillerNop t => Sys2Proof.Machine.execTillerNop t s
  | .loop t => Sys2Proof.Machine.execLoop t s
  | .endl t => Sys2Proof.Machine.execEndl t s
  | .agset t => Sys2Proof.Machine.execAgset t s
  | .agskip t => Sys2Proof.Machine.execAgskip t s
  | .agrst t => Sys2Proof.Machine.execAgrst t s
  | .twait t => Sys2Proof.Machine.execTwait t s
  | .twaitExpiry t => Sys2Proof.Machine.execTwaitExpiry t s
  | .sig t => Sys2Proof.Machine.execSig t s
  | .waits t => Sys2Proof.Machine.execWaits t s
  | .waitsPass t => Sys2Proof.Machine.execWaitsPass t s
  | .step t => Sys2Proof.Machine.execStep t s
  | .ebar t => Sys2Proof.Machine.execEbar t s
  | .issue t => Sys2Proof.Machine.execIssue t s
  | .queueEntry t => Sys2Proof.Machine.execQueueEntry t s
  | .loadTile sheaf => Sys2Proof.Machine.execLoadTile sheaf s
  | .passRows sheaf => Sys2Proof.Machine.execPassRows sheaf s
  | .openRegion sheaf => Sys2Proof.Machine.execOpenRegion sheaf s
  | .freeRegion sheaf => Sys2Proof.Machine.execFreeRegion sheaf s
  | .regionFinish sheaf rbase => Sys2Proof.Machine.execRegionFinish sheaf rbase s
  | .npush rick => Sys2Proof.Machine.execNpush rick s
  | .lpush rick => Sys2Proof.Machine.execLpush rick s
  | .nsend rick => Sys2Proof.Machine.execNsend rick s
  | .rfin rick => Sys2Proof.Machine.execRfin rick s
  | .win rick => Sys2Proof.Machine.execWin rick s
  | .send link => Sys2Proof.Machine.execSend link s
  | .recv link => Sys2Proof.Machine.execRecv link s
  | .xsend => Sys2Proof.Machine.execXsend s
  | .xrecv => Sys2Proof.Machine.execXrecv s
  | .tillerCopy engine => Sys2Proof.Machine.execTillerCopy engine s
  | .pref engine => Sys2Proof.Machine.execPref engine s
  | .zero engine => Sys2Proof.Machine.execZero engine s
  | .subopCompletion unit => Sys2Proof.Machine.execSubopCompletion unit s
  | .epLoad r => Sys2Proof.Machine.execEpLoad r s
  | .epStore r => Sys2Proof.Machine.execEpStore r s
  | .epAtomic r => Sys2Proof.Machine.execEpAtomic r s
  | .epFence r => Sys2Proof.Machine.execEpFence r s
  | .acopy r => Sys2Proof.Machine.execAcopy r s
  | .acopyStart => Sys2Proof.Machine.execAcopyStart s
  | .acopyComplete engine => Sys2Proof.Machine.execAcopyComplete engine s
  | .gmLoad r => Sys2Proof.Machine.execGmLoad r s
  | .gmPass r => Sys2Proof.Machine.execGmPass r s
  | .gmStore r => Sys2Proof.Machine.execGmStore r s
  | .leaseBegin sheaf => Sys2Proof.Machine.execLeaseBegin sheaf s
  | .ident link m => Sys2Proof.Machine.execIdent link m s
  | .probe link echo index roundTrip => Sys2Proof.Machine.execProbe link echo index roundTrip s
  | .time link ctb => Sys2Proof.Machine.execTime link ctb s
  | .abort link cropId code position fromRoot => Sys2Proof.Machine.execAbort link cropId code position fromRoot s
  | .bindReport link m => Sys2Proof.Machine.execBindReport link m s
  | .bindNotice startTo => Sys2Proof.Machine.execBindNotice startTo s
  | .formTimeout => Sys2Proof.Machine.execFormTimeout s
  | .joinTimeout => Sys2Proof.Machine.execJoinTimeout s
  | .sendArrive => Sys2Proof.Machine.execSendArrive s
  | .arrive link m => Sys2Proof.Machine.execArrive link m s
  | .stop m => Sys2Proof.Machine.execStop m s
  | .decideRelease tick epoch rootPct settle gather => Sys2Proof.Machine.execDecideRelease tick epoch rootPct settle gather s
  | .decideReplay tick rootPct settle => Sys2Proof.Machine.execDecideReplay tick rootPct settle s
  | .decideReplan epoch suspect => Sys2Proof.Machine.execDecideReplan epoch suspect s
  | .decideStop now rootPct gather => Sys2Proof.Machine.execDecideStop now rootPct gather s
  | .decideComplete stage rootPct gather => Sys2Proof.Machine.execDecideComplete stage rootPct gather s
  | .completionReport position flagDone => Sys2Proof.Machine.execCompletionReport position flagDone s
  | .decideAbandon position => Sys2Proof.Machine.execDecideAbandon position s
  | .decideFailure status position => Sys2Proof.Machine.execDecideFailure status position s
  | .startTimeout => Sys2Proof.Machine.execStartTimeout s
  | .barrierRelease => Sys2Proof.Machine.execBarrierRelease s
  | .rootRouteLoss => Sys2Proof.Machine.execRootRouteLoss s
  | .driftCheck link departure => Sys2Proof.Machine.execDriftCheck link departure s
  | .frameSend link => Sys2Proof.Machine.execFrameSend link s
  | .dataFrame link f => Sys2Proof.Machine.execDataFrame link f s
  | .controlFrame link h last msgs => Sys2Proof.Machine.execControlFrame link h last msgs s
  | .idleFrame link h crc => Sys2Proof.Machine.execIdleFrame link h crc s
  | .trainingComplete link => Sys2Proof.Machine.execTrainingComplete link s
  | .trainingTimeout link => Sys2Proof.Machine.execTrainingTimeout link s
  | .lossOfLock link => Sys2Proof.Machine.execLossOfLock link s
  | .relock link => Sys2Proof.Machine.execRelock link s
  | .linkLossTimeout link => Sys2Proof.Machine.execLinkLossTimeout link s
  | .creditWaitTimeout link => Sys2Proof.Machine.execCreditWaitTimeout link s
  | .elasticBufferOverflow link => Sys2Proof.Machine.execElasticBufferOverflow link s
  | .leave link => Sys2Proof.Machine.execLeave link s
  | .remoteRead link r => Sys2Proof.Machine.execRemoteRead link r s
  | .remoteWrite link r lines => Sys2Proof.Machine.execRemoteWrite link r lines s
  | .rdata link r lines => Sys2Proof.Machine.execRdata link r lines s
  | .wack link r => Sys2Proof.Machine.execWack link r s
  | .nack link r => Sys2Proof.Machine.execNack link r s
  | .remoteTimeout tag => Sys2Proof.Machine.execRemoteTimeout tag s
  | .ripenessSample monitor slack => Sys2Proof.Machine.execRipenessSample monitor slack s
  | .watchdogExpiry => Sys2Proof.Machine.execWatchdogExpiry s
  | .vidAck => Sys2Proof.Machine.execVidAck s
  | .vidAckTimeout => Sys2Proof.Machine.execVidAckTimeout s
  | .thermtrip => Sys2Proof.Machine.execThermtrip s
  | .pwrOkFall => Sys2Proof.Machine.execPwrOkFall s
  | .fundamentalReset straps => Sys2Proof.Machine.execFundamentalReset straps s
  | .pllLock locked => Sys2Proof.Machine.execPllLock locked s
  | .firmwareAuthentication r => Sys2Proof.Machine.execFirmwareAuthentication r s
  | .stackTraining ports => Sys2Proof.Machine.execStackTraining ports s
  | .poolClear => Sys2Proof.Machine.execPoolClear s
  | .enumStart => Sys2Proof.Machine.execEnumStart s
  | .enum v => Sys2Proof.Machine.execEnum v s
  | .tallyRead payload crc => Sys2Proof.Machine.execTallyRead payload crc s
  | .tallyWrite payload crc => Sys2Proof.Machine.execTallyWrite payload crc s
  | .resp payload crc => Sys2Proof.Machine.execResp payload crc s
  | .tallyWake payload crc => Sys2Proof.Machine.execTallyWake payload crc s
  | .perstNAsserted => Sys2Proof.Machine.execPerstNAsserted s
  | .rootSettled => Sys2Proof.Machine.execRootSettled s
  | .stackHotClear stack => Sys2Proof.Machine.execStackHotClear stack s
  | .tapInstruction op => Sys2Proof.Machine.execTapInstruction op s

end Sys2Proof.Machine
end

