-- ==== Sys2Proof/Safety.lean ====
section
/-!
DEFINITION. The terms the statements use: what a state of the block keeps in every run, when Granger takes a command up,
and what an answered command leaves.
-/
namespace Sys2Proof

open Sys2Proof.Machine

/-- Every addressed store of the block lists its bytes in canonical form. -/
def MemWf (s : State) : Prop := s.mem.ram.wf = true ∧ s.cache.loft.wf = true ∧ s.hostMem.wf = true

/-- HL_CFG holds a LINK_LOSS_MS of its range and zeros in its reserved bits (R457). -/
def hlCfgOk (c : W32) : Prop := 1 ≤ field c 15 0 ∧ field c 15 0 ≤ 1000 ∧ field c 31 28 = 0

/-- TR_CFG holds a FAULT_TO_MS of its range and zeros in its reserved bits (R419). -/
def trCfgOk (c : W32) : Prop := 1 ≤ field c 31 16 ∧ field c 15 12 = 0

/-- CACHE_CFG holds a PRESSURE of its range and zeros in its reserved bits (R342). -/
def cacheCfgOk (c : W32) : Prop := 1 ≤ field c 15 8 ∧ field c 15 8 ≤ 64 ∧ field c 7 3 = 0 ∧ field c 31 16 = 0

/-- COH_CFG holds no reserved ATOM_MODE and zeros in its reserved bits (R379). -/
def cohCfgOk (c : W32) : Prop := field c 1 0 ≠ 3 ∧ field c 31 2 = 0

/-- GLEAN_CFG holds a PERIOD_H of its range and zeros in its reserved bits (R316). -/
def gleanCfgOk (c : W32) : Prop := 1 ≤ field c 7 0 ∧ field c 7 0 ≤ 168 ∧ field c 31 9 = 0

/-- WAIN_CFG holds a LOSS_MS and a REMOTE_TO_MS of their ranges (R286). -/
def wainCfgOk (c : W32) : Prop := 1 ≤ field c 15 0 ∧ field c 15 0 ≤ 1000 ∧ 1 ≤ field c 31 16

/-- The configuration registers whose rules leave a field unchanged by a write outside its range hold legal values. -/
structure CfgWf (s : State) : Prop where
  hl : hlCfgOk s.hl.cfg
  tr : trCfgOk s.tr.cfg
  cache : cacheCfgOk s.cache.cfg
  coh : cohCfgOk s.cache.cohCfg
  glean : gleanCfgOk s.mem.gleanCfg
  wain : wainCfgOk s.wain.cfg

/-- What a command or a step leaves: a next state with a property. -/
def Gives (o : Host.Outcome State Machine.Fault Refusal) (p : State → Prop) : Prop := ∃ t, o = .next t ∧ p t

/-- Granger takes a command up (R500 checks 5 and 6, R564): it runs, a privileged opcode comes through a Windrow whose PRIV is 1, a
locked Windrow's CTX is the packet's, CONTEXT is not 0 and, but for the opcodes that skip check 6, the context is bound. -/
structure Admitted (s : State) (h : CmdHdr) (privileged skip6 : Bool) : Prop where
  up : grangerUp s = true
  priv : privileged = true → bitOf (getWindrow s h.windrow).cfg 2 = true
  lock : bitOf (getWindrow s h.windrow).cfg 3 = true → field (getWindrow s h.windrow).cfg 51 32 = h.context.toNat
  context : h.context ≠ 0
  bound : skip6 = false → (getCtx s h.context.toNat).state ≠ .unbound

/-- A command has been answered in a state that differs from `s` in its Windrow only (R496, R505), and in the translations that served
just one access of it, which are gone (R399): one completed reply more, with its
SEQ, STATUS and DETAIL, INFO 0 and the vector signalled when IRQ or IRQ_ALL asks for it, and the command no longer in progress. -/
structure Answered (s t : State) (h : CmdHdr) (status : Byte) (detail : W32) : Prop where
  frame : t = { s with grg := { s.grg with windrows := t.grg.windrows }, tr := { s.tr with once := s.tr.once.filter (fun p => p.1 != .command h.windrow h.seq) } }
  others : ∀ w, w ≠ h.windrow → getWindrow t w = getWindrow s w
  reply : ∃ r : ReplyRec, (getWindrow t h.windrow).replies = (getWindrow s h.windrow).replies ++ [r]
    ∧ r.seq = h.seq ∧ r.status = status ∧ r.detail = detail ∧ r.info = 0
    ∧ ((∀ p ∈ (getWindrow s h.windrow).inprog, p.seq ≠ h.seq) → r.signal = (h.irq || bitOf (getWindrow s h.windrow).cfg 5))
  left : ∀ p ∈ (getWindrow t h.windrow).inprog, p.seq ≠ h.seq

/-- The request that each of R351's first six rows brings to the home of its line. -/
def asks : Instr → Option HomeReq
  | .rds a l q => some ⟨a, l, .rds, q, [], 0, noArgs⟩
  | .rdo a l q => some ⟨a, l, .rdo, q, [], 0, noArgs⟩
  | .upg a l q => some ⟨a, l, .upg, q, [], 0, noArgs⟩
  | .rdcur a l q => some ⟨a, l, .rdcur, q, [], 0, noArgs⟩
  | .wrline a l q data mask => some ⟨a, l, .wrline, q, data, mask, noArgs⟩
  | .atom a l q args => some ⟨a, l, .atom, q, [], 0, args⟩
  | _ => none

/-- The snoop that each of R351's five snoop rows brings to its holder. -/
def snoops : Instr → Option (SnoopKind × Nat × LineAddr)
  | .fwdS a l => some (.fwdS, a, l)
  | .fwdI a l => some (.fwdI, a, l)
  | .inv a l => some (.inv, a, l)
  | .invD a l => some (.invD, a, l)
  | .cur a l => some (.cur, a, l)
  | _ => none

/-- What a holder's answer to a snoop carries (R351): the data where the kind forwards it, with whether it was dirty. -/
def snoopGives (k : SnoopKind) (copy : Option (Coh × Line)) : Option (Line × Bool) :=
  match copy, k with
  | none, _ => none
  | some _, .inv => none
  | some (c, x), .invD => if c = .modified then some (x, true) else none
  | some (c, x), _ => some (x, c == .modified)

/-- An engine-port request is taken up at once (R463, R466, R469, R476, R481): the port runs, a credit is there, no request with its tag,
of its group or for its Sheaf is unanswered, its group is not parked, and MARK and SIZE are not reserved. -/
structure Taken (s : State) (r : EpReq) (sheaf : Option Nat) : Prop where
  up : grangerUp s = true
  present : attPresent s r.att = true
  credit : (getAtt s r.att).credits ≠ 0
  first : ∀ o ∈ (getAtt s r.att).outstanding, o.tag ≠ r.tag ∧ o.group ≠ r.group ∧ (sheaf.isSome = true → o.sheaf ≠ sheaf)
  free : ∀ f ∈ (getAtt s r.att).faulted, f.group ≠ r.group
  mark : r.mark ≠ 3
  size : r.size.toNat ≤ 4

/-- The state in which such a request is carried out: a credit less, and the request among those not answered. -/
def takenUp (s : State) (r : EpReq) (sheaf : Option Nat) : State :=
  let x := getAtt s r.att
  setAtt s r.att { x with credits := x.credits - 1, outstanding := x.outstanding ++ [{ tag := r.tag, group := r.group, sheaf := sheaf, since := s.tick }] }

/-- A request has been answered (R466, R468): its credit and its response leave last, and it is no longer outstanding. -/
def Responds (t : State) (r : EpReq) (status : BitVec 4) (lanes : List (Nat × BitVec 128)) (flags : Byte) : Prop :=
  (∃ pre, t.out = pre ++ [.epCredits r.att 1, .epResponse r.att r.tag status lanes 0 flags])
  ∧ ∀ o ∈ (getAtt t r.att).outstanding, o.tag ≠ r.tag

end Sys2Proof
end

