-- ==== Sys2Proof/Certificates/Slice0/Obligations.lean ====
section
/-!
DEFINITION. The statements for the provers, by family of commands: where each command completes and with what effect, what it leaves
alone, and the invariants of the block.
-/
open Sys2Proof Sys2Proof.Machine

/-! ## Granger commands -/

/-- NOP, and FENCE when nothing earlier of its Windrow is left, reply DONE and do nothing else (R509, R510); a FENCE.COMPLETE after an
access that ended by timeout replies TARGET_LOST instead; a FENCE that must wait leaves the state as it is.
FLUSH_PUBLISH over an aligned range every local part of which may be read writes those lines back, lowest first, and replies DONE
(R374, R511).
Model's own readings behind it: log 42. -/
def Obligations.NopFenceAndFlushComplete : Prop :=
  (
    ∀ (s : State) (h : CmdHdr) (kind : Byte),
      (Admitted s h false true → Gives (exec (.nop h) s) (Answered s · h stDone 0))
      ∧ (Admitted s h false false → kind.toNat ≤ 1 →
        let w := getWindrow s h.windrow
        let waits := earlierRunning s h = true ∨ accessesPending s h.windrow = true ∨ (kind = 1 ∧ w.replies ≠ [])
        (waits → exec (.fence h kind) s = .next s)
        ∧ (¬ waits → (kind = 1 → w.targetLost = false) → Gives (exec (.fence h kind) s) (Answered s · h stDone 0))
        ∧ (¬ waits → kind = 1 → w.targetLost = true →
            Gives (exec (.fence h kind) s)
              (Answered (setWindrow s h.windrow { w with targetLost := false }) · h stTargetLost (plainDetail stTargetLost))))
  ) ∧
  (
    ∀ (s : State) (h : CmdHdr) (base length : W64) (mode : Byte), Admitted s h false false →
      base.toNat % 64 = 0 → length.toNat % 64 = 0 → 64 ≤ length.toNat → length.toNat ≤ 2 ^ 40 → mode.toNat ≤ 1 →
      let r := flushRange (cmdIssuer h) (mode == 1) (length.toNat / 64) base.toNat s
      r.1 = .all → Gives (exec (.flushPublish h base length mode) s) (Answered r.2 · h stDone 0)
  )

/-- COPY and FILL whose lines all translate and pass their checks, on this chip and without poison, write every destination line from
its source lines and reply DONE (R509, R511, R512).
COPY_REMOTE sends its lines as remote WRITE requests and, once every WACK has arrived, replies DONE (R512).
Model's own readings behind it: logs 12, 20 and 42. -/
def Obligations.CopiesComplete : Prop :=
  (
    ∀ (s : State) (h : CmdHdr) (src dst bytes pattern : W64) (sfmt dfmt : BitVec 4) (sat : Bool) (rnd : BitVec 2) (tensor : W32) (seed : W64)
      (convert : Bool), Admitted s h false false → (getTask s (cmdIssuer h).who).failed = none → awaiting s (cmdIssuer h).who = false →
      dst.toNat % 64 = 0 → bytes.toNat % 64 = 0 → 64 ≤ bytes.toNat → bytes.toNat ≤ 2 ^ 40 →
      let localOnly (r : List CopyPair × RangeEnd × State) : Prop :=
        r.2.1 = .all ∧ ∀ p ∈ r.1, isRemote s p.dst.dpa = false ∧ ∀ o ∈ p.src, isRemote s o.dpa = false
      let after (data : Nat → List Line → Line × Nat) (r : List CopyPair × RangeEnd × State) : State :=
        claimReqs s h (endTask (writePairs (cmdIssuer h) data r.2.2 r.1).1 (cmdIssuer h).who)
      (let shape : CopyShape := if convert then ⟨elemBits sfmt.toNat, elemBits dfmt.toNat, true, sfmt.toNat, dfmt.toNat, sat, rnd.toNat, tensor, seed⟩
          else byteShape
        let dn := bytes.toNat * shape.wd / shape.ws
        let r := resolvePairs (cmdIssuer h) shape src.toNat (caDst (cmdIssuer h) dst.toNat) (dn / 64) 0 s
        src.toNat % 64 = 0 → (convert = true → rnd ≠ 3 ∧ schemeOk sfmt.toNat 0 = true ∧ schemeOk dfmt.toNat 0 = true) →
        bytes.toNat * 8 * shape.wd % (shape.ws * 512) = 0 → bytes.toNat * 8 % shape.ws = 0 → rangesMeet src.toNat bytes.toNat dst.toNat dn = false →
        localOnly r → (writePairs (cmdIssuer h) (copyLine shape) r.2.2 r.1).2.poison = false →
        Gives (exec (.copy h src dst bytes (if convert then 1 else 0) sfmt dfmt sat rnd tensor seed) s) (Answered (after (copyLine shape) r) · h stDone 0))
      ∧ (let data := fun (_ : Nat) (_ : List Line) => (cleanLine ((List.range 8).flatMap (fun _ => toLE 8 pattern.toNat)), 0)
        let r := resolvePairs (cmdIssuer h) fillShape 0 (caDst (cmdIssuer h) dst.toNat) (bytes.toNat / 64) 0 s
        localOnly r → (writePairs (cmdIssuer h) data r.2.2 r.1).2.poison = false →
        Gives (exec (.fill h dst bytes pattern) s) (Answered (after data r) · h stDone 0))
  ) ∧
  (
    ∀ (s : State) (h : CmdHdr) (src doff : W64) (bytes : W32) (tally : BitVec 10), Admitted s h false false →
      let iss := cmdIssuer h
      let r := resolvePairs iss byteShape src.toNat (remoteDst iss tally.toNat doff.toNat) (bytes.toNat / 64) 0 s
      src.toNat % 64 = 0 → doff.toNat % 64 = 0 → bytes.toNat % 64 = 0 → 64 ≤ bytes.toNat → doff.toNat + bytes.toNat ≤ 2 ^ 40 →
      (getTask s iss.who).failed = none → r.2.1 = .all →
      (∀ p ∈ r.1, isRemote s p.dst.dpa = true ∧ isRemote r.2.2 p.dst.dpa = true ∧ ∀ o ∈ p.src, isRemote s o.dpa = false) →
      let unsent := r.1.filter (fun p => !(getTask s iss.who).sent.contains (p.dst.dpa / 64))
      let out := sendPairs iss (copyLine byteShape) s unsent
      (unsent ≠ [] → out.2.ended = false → exec (.copyRemote h src doff bytes tally) s = .next out.1)
      ∧ (unsent = [] → awaiting s iss.who = true → exec (.copyRemote h src doff bytes tally) s = .next s)
      ∧ (unsent = [] → awaiting s iss.who = false →
        Gives (exec (.copyRemote h src doff bytes tally) s) (Answered (claimReqs s h (endTask r.2.2 iss.who)) · h stDone 0))
  )

/-- CTX_BIND with action BIND makes an UNBOUND context ACTIVE with the mode it names, in segment mode with an empty free segment slot
(R385, R390); in page mode the entry format must describe the VALID attribute.
CTX_BIND with action UNBIND of a context that has no plan running, no command on another Windrow, no lease and no pending fault ends
its translations and frees its entry and segment slot; it replies DONE once no store of the context waits (R385, R406).
Model's own readings behind it: logs 12, 31 and 42. -/
def Obligations.CtxBindCompletes : Prop :=
  (
    ∀ (s : State) (h : CmdHdr) (levels5 adUpdate : Bool), Admitted s h true true → poolUp s = true →
      (getCtx s h.context.toNat).state = .unbound →
      ((pteDesc s 0).testBit 6 = true →
        Gives (exec (.ctxBind h 0 false levels5 adUpdate) s)
          (Answered (setCtx s h.context.toNat { state := .active, levels5 := levels5, adUpdate := adUpdate }) · h stDone 0))
      ∧ ((∃ n, n < 65536 ∧ n ∉ usedSegSlots s) → ∃ n, n < 65536 ∧ n ∉ usedSegSlots s ∧
        Gives (exec (.ctxBind h 0 true levels5 adUpdate) s) (fun t =>
          getCtx t h.context.toNat = { state := .active, segment := true, levels5 := levels5, adUpdate := adUpdate, segslot := BitVec.ofNat 16 n }
          ∧ look [] t.tr.segs n = [] ∧ (∀ c, c ≠ h.context.toNat → getCtx t c = getCtx s c) ∧ ∃ u, u.grg = s.grg ∧ Answered u t h stDone 0))
  ) ∧
  (
    ∀ (s : State) (h : CmdHdr) (seg levels5 adUpdate : Bool), Admitted s h true false →
      planRuns s h.context = false → busyElsewhere s h = false → holdsLease s h.context = false → hasFault s h.context = false →
      let c := getCtx s h.context.toNat
      Gives (exec (.ctxBind h 1 seg levels5 adUpdate) s) (fun t =>
        getCtx t h.context.toNat = { faults := c.faults, refusals := c.refusals, lastAddr := c.lastAddr }
        ∧ (∀ k, k ≠ h.context.toNat → getCtx t k = getCtx s k)
        ∧ (c.segment = true → look [] t.tr.segs c.segslot.toNat = [])
        ∧ (∀ e ∈ t.tr.shared, overlaps s (some h.context) 0 (2 ^ 64) e = false)
        ∧ (∀ k, k < 8 → ∀ e ∈ look [] t.tr.micro k, overlaps s (some h.context) 0 (2 ^ 64) e = false)
        ∧ (quiet s (some h.context) = true → ∃ u, u.grg = s.grg ∧ Answered u t h stDone 0)
        ∧ (quiet s (some h.context) = false → t.grg = s.grg ∧ ⟨some h.context, 0, 2 ^ 64, .command h.windrow h.seq⟩ ∈ t.tr.invals))
  )

/-- SEG_SET writes the segment of a segment-mode context from the entry's fields and changes nothing else (R388, R514).
PT_ROOT_SET and TLB_INVAL remove every translation of the context that the rule names, PT_ROOT_SET after setting PT_ROOT; the reply
DONE comes once no store of the context waits (R404 to R407).
Model's own readings behind it: log 42. -/
def Obligations.SegmentsAndRootsComplete : Prop :=
  (
    ∀ (s : State) (h : CmdHdr) (seg : Byte) (entry : BitVec 128), Admitted s h true false →
      field entry 63 56 = 0 → field entry 119 117 = 0 → field entry 127 120 = 0 → field entry 116 115 < 3 → seg.toNat ≤ 15 →
      (dpaSpace (field entry 55 0) = 0 ∨ dpaSpace (field entry 55 0) = 2 ∧ field entry 116 115 = 0) → field entry 55 0 % 4096 = 0 →
      bits (field entry 55 0) 39 0 + field entry 111 64 < 2 ^ 40 → (getCtx s h.context.toNat).segment = true →
      let slot := (getCtx s h.context.toNat).segslot.toNat
      Gives (exec (.segSet h seg entry) s) (fun t =>
        (∃ segs, Answered { s with tr := { s.tr with segs := segs } } t h stDone 0)
        ∧ look {} (look [] t.tr.segs slot) seg.toNat =
            { valid := bitOf entry 112, rd := bitOf entry 113, wr := bitOf entry 114, type := BitVec.ofNat 2 (field entry 116 115)
              base := field entry 55 0, limit := field entry 111 64 }
        ∧ (∀ g, g ≠ seg.toNat → look {} (look [] t.tr.segs slot) g = look {} (look [] s.tr.segs slot) g)
        ∧ (∀ k, k ≠ slot → look [] t.tr.segs k = look [] s.tr.segs k))
  ) ∧
  (
    ∀ (s : State) (h : CmdHdr) (root base length : W64), Admitted s h true false →
      let gone (lo hi : Nat) (t : State) : Prop :=
        (∀ e ∈ t.tr.shared, overlaps s (some h.context) lo hi e = false)
        ∧ (∀ k, k < 8 → ∀ e ∈ look [] t.tr.micro k, overlaps s (some h.context) lo hi e = false)
        ∧ (quiet s (some h.context) = true → ∃ u, u.grg = s.grg ∧ Answered u t h stDone 0)
        ∧ (quiet s (some h.context) = false → t.grg = s.grg ∧ ⟨some h.context, lo, hi, .command h.windrow h.seq⟩ ∈ t.tr.invals)
      (field root 11 0 = 0 → field root 63 52 = 0 → (getCtx s h.context.toNat).segment = false →
        Gives (exec (.ptRootSet h root) s) (fun t =>
          getCtx t h.context.toNat = { getCtx s h.context.toNat with ptRoot := root } ∧ gone 0 (2 ^ 64) t))
      ∧ (base.toNat % 4096 = 0 → length.toNat % 4096 = 0 →
        let hi := if length = 0 then 2 ^ 64 else base.toNat + length.toNat
        Gives (exec (.tlbInval h base length) s) (gone (if length = 0 then 0 else base.toNat) hi))
  )

/-- GRANT gives every granule of the range the entry with OWNER the command's context, or zero for CLASS FREE, and leaves every other
granule's entry (R302, R306, R514).
REGION_REGISTER adds the placement region it names, and REGION_REVOKE removes the one whose KEY it names; nothing else changes
(R443, R445).
Model's own readings behind it: logs 20 and 42. -/
def Obligations.GrantAndRegionsComplete : Prop :=
  (
    ∀ (s : State) (h : CmdHdr) (first count entry : W32), Admitted s h true false →
      field entry 19 0 = 0 → field entry 31 27 = 0 → field entry 21 20 ≠ 3 → count ≠ 0 → count.toNat ≤ 491520 →
      first.toNat + count.toNat ≤ poolBytes s / 2 ^ 21 → first.toNat + count.toNat ≤ reservedGranule s →
      Gives (exec (.grant h first count entry) s) (fun t =>
        ∀ g, look 0 t.mem.owner g =
          if first.toNat ≤ g ∧ g < first.toNat + count.toNat then
            (if field entry 21 20 = 0 then 0 else BitVec.ofNat 32 (field entry 26 20 * 2 ^ 20 + h.context.toNat))
          else look 0 s.mem.owner g)
  ) ∧
  (
    ∀ (s : State) (h : CmdHdr) (key : W16) (wr : Bool) (base length : W64), Admitted s h true false →
      (base.toNat % 64 = 0 → length.toNat % 64 = 0 → 64 ≤ length.toNat → base.toNat + length.toNat ≤ 2 ^ 40 →
        (∀ r ∈ s.hl.regions, r.key ≠ key) → s.hl.regions.length < 4096 →
        Gives (exec (.regionRegister h key wr base length) s)
          (Answered { s with hl := { s.hl with regions := s.hl.regions ++ [⟨key, h.context, base.toNat, length.toNat, wr⟩] } } · h stDone 0))
      ∧ ((∃ r ∈ s.hl.regions, r.key = key) →
        Gives (exec (.regionRevoke h key) s)
          (Answered { s with hl := { s.hl with regions := s.hl.regions.filter (fun r => r.key != key) } } · h stDone 0))
  )

/-- FAULT_RESOLVE of a pending fault of the command's context frees the fault's slot. RETRY removes the page's translations, lets every
waiting command and group issue its access again, and replies DONE once every request of the context has been performed, at once when
none is on its way; FAIL ends every waiting command with FAULT_UNRESOLVED, and replies DONE (R406, R415).
PLAN_LOAD of a valid image into a slot that accepts it leaves the slot LOADED with the plan, its position, its bindings and the
command's context, and replies DONE; an image that fails validation leaves the slot EMPTY and replies BAD_PACKET with the table 1 code
and the failing place (R217, R220 to R222).
Model's own readings behind it: logs 25, 27, 28, 34, 49, 52 and 53. -/
def Obligations.FaultResolveAndPlanLoadComplete : Prop :=
  (
    ∀ (s : State) (h : CmdHdr) (id : W16) (slot : Nat) (f : Fault1), Admitted s h true false →
      faultNamed s id = some (slot, f) → f.ctx = h.context → (∀ m ∈ s.tr.misses, m.stopped = none) →
      let u := retryFault s slot f
      let v : Inval := ⟨some f.ctx, 4096 * f.page, 4096 * (f.page + 1), .command h.windrow h.seq⟩
      Gives (exec (.faultResolve h id 0) s) (fun t => getFault t slot = none
        ∧ (∀ e ∈ t.tr.shared, overlaps s (some f.ctx) v.lo v.hi e = false)
        ∧ (∀ k, k < 8 → ∀ e ∈ look [] t.tr.micro k, overlaps s (some f.ctx) v.lo v.hi e = false)
        ∧ (∀ w q, .command w q ∈ f.waiters → (getWindrow t w).faultHeld = false)
        ∧ (∀ a g k, .engineGroup a g k ∈ f.waiters → ∀ p ∈ (getAtt t a).faulted, p.group = g → p.faultId ≠ faultId slot f.gen)
        ∧ (quiet u (some f.ctx) = true → Answered (countInval u) t h stDone 0)
        ∧ (quiet u (some f.ctx) = false → t = { u with tr := { u.tr with invals := u.tr.invals ++ [v] } }))
      ∧ Gives (exec (.faultResolve h id 1) s) (fun t => Answered (failFault s slot f) t h stDone 0 ∧ getFault t slot = none
        ∧ ∀ w q, .command w q ∈ f.waiters → ∃ r ∈ (getWindrow t w).replies, r.seq = q ∧ r.status = stFaultUnresolved)
  ) ∧
  (
    ∀ (s u : State) (h : CmdHdr) (slot : Byte) (position : W16) (image bindList : W64), Admitted s h false false →
      slot.toNat ≤ 15 → image.toNat % 64 = 0 → slotForeign s h slot.toNat = false →
      (getSlot s slot.toNat).state ∈ [SlotState.empty, .loaded, .done, .failed] →
      (∀ img binds, loadImage s h.context image.toNat bindList.toNat position.toNat = (.valid img binds, u) →
        Gives (exec (.planLoad h slot position image bindList) s) (fun t =>
          Answered (checkMembership (setSlot u slot.toNat (loadedSlot u h.context position.toNat img binds))) t h stDone 0
          ∧ getSlot t slot.toNat = loadedSlot u h.context position.toNat img binds))
      ∧ (∀ code place, loadImage s h.context image.toNat bindList.toNat position.toNat = (.invalid code place, u) →
        Gives (exec (.planLoad h slot position image bindList) s) (fun t =>
          Answered (checkMembership (setSlot u slot.toNat {})) t h stBadPacket (detailOf 1 code place.2 place.1)
          ∧ getSlot t slot.toNat = {}))
  )

/-! ## Plan, Crop and Seedcorn commands -/

/-- PLAN_RUN and PLAN_RESUME of a slot that accepts them, with no plan running, ways enough and no Sheaf leased away, make the slot
RUNNING in the start barrier, and the command stays in progress: PLAN_RUN from epoch 0 with both counts 0, PLAN_RESUME from the
Seedcorn's epoch with the counts kept (R217 to R219, R224, R227).
PLAN_STOP of a slot whose run is stopping or stopped replies DONE; of a RUNNING slot the root replies DONE at once and takes the
stop, and another member sends STOP towards the root and stays in progress until the stop is agreed (R226, R250).
Model's own readings behind it: logs 37 and 52. -/
def Obligations.RunsBeginAndStop : Prop :=
  (
    ∀ (s : State) (h : CmdHdr) (slot : Byte) (p : Plan), Admitted s h false false → slot.toNat ≤ 15 →
      let x := getSlot s slot.toNat
      slotForeign s h slot.toNat = false → runningSlot s = none → x.plan = some p → p.loftWays ≤ s.cache.loftWays →
      leasedAway s x p = false → running s h slot.toNat = false →
      let waiting (t : State) : Prop := (getSlot t slot.toNat).state = .running ∧ t.crop.phase = .start ∧ t.crop.startBarrier = true
        ∧ t.tillers = [] ∧ ∃ q ∈ (getWindrow t h.windrow).inprog, q.seq = h.seq
      (x.state = .bound ∨ x.state = .done →
        Gives (exec (.planRun h slot) s) (fun t => waiting t ∧ (getSlot t slot.toNat).epoch = 0
          ∧ (getSlot t slot.toNat).replays = 0 ∧ (getSlot t slot.toNat).replans = 0 ∧ (getSlot t slot.toNat).seedValid = false))
      ∧ (x.state = .stopped ∨ x.state = .bound ∧ x.seedValid = true →
        Gives (exec (.planResume h slot) s) (fun t => waiting t
          ∧ (getSlot t slot.toNat).replays = x.replays ∧ (getSlot t slot.toNat).replans = x.replans
          ∧ ∀ r, x.newest = some r → (getSlot t slot.toNat).epoch = r.epoch ∧ (getSlot t slot.toNat).steps = r.steps))
  ) ∧
  (
    ∀ (s : State) (h : CmdHdr) (slot mode : Byte), Admitted s h false false → slot.toNat ≤ 15 → mode.toNat ≤ 1 →
      slotForeign s h slot.toNat = false →
      let x := getSlot s slot.toNat
      (x.state = .stopping ∨ x.state = .stopped → Gives (exec (.planStop h slot mode) s) (Answered s · h stDone 0))
      ∧ (x.state = .running → isCropRoot s = true →
        exec (.planStop h slot mode) s = .next (rootTry (rootStop (complete s h stDone 0 0) (.planStop (mode == 1)))))
      ∧ (x.state = .running → isCropRoot s = false → (h, mode == 1) ∉ s.crop.stops →
        Gives (exec (.planStop h slot mode) s) (fun t => t.crop.stops = s.crop.stops ++ [(h, mode == 1)]
          ∧ (∃ q ∈ (getWindrow t h.windrow).inprog, q.seq = h.seq)
          ∧ (s.crop.member = true → (getLink t (upLink s)).ctrl = (getLink s (upLink s)).ctrl ++ [.stop (.planStop (mode == 1))])))
  )

/-- CROP_FORM and CROP_JOIN, on a chip with a Tally address that is in no other Crop and forms none, read the member table and start the
formation of their slot: the slot is held by the command, which stays in progress, and the forming record holds the role, CROP_ID, count,
table and START_TO (0 for 10,000). A chip that was no member trains all 24 links and has no routes; a member, which binds a further slot,
sends its checks on every link to a member. CROP_FORM of a Crop of this chip alone binds the slot at once and replies DONE (R229, R230,
R231, R233, R282).
Model's own readings behind it: log 29. -/
def Obligations.CropCommandsStartFormation : Prop :=
  ∀ (s : State) (h : CmdHdr) (slot : Byte) (nmember : W16) (cropId formTo startTo : W32) (table : W64) (bs : List Byte),
    Admitted s h true false → slot.toNat ≤ 15 → 1 ≤ nmember.toNat → nmember.toNat ≤ 1024 → formTo.toNat ≤ 60000 → startTo.toNat ≤ 60000 →
    s.boot.tallyValid = true → (getForming s).active = false → (getForming s).req = none → (s.crop.member = true → s.crop.cropId = cropId) →
    (readDevice s table.toNat (2 * nmember.toNat) h.context).1 = .bytes bs →
    let u := (readDevice s table.toNat (2 * nmember.toNat) h.context).2
    let members := (List.range nmember.toNat).map (fun i => fieldLE bs (2 * i) 2)
    let others : Prop := ∃ a ∈ members, a ≤ 1023 ∧ a ≠ u.boot.tallyAddr.toNat
    let x := getSlot u slot.toNat
    let req : RunReq := ⟨h.windrow, h.seq, h.context, h.irq, startOf u h.windrow h.seq⟩
    let started (root : Bool) (st : Nat) (t : State) : Prop :=
      getSlot t slot.toNat = { x with forming := some req }
      ∧ (∃ q ∈ (getWindrow t h.windrow).inprog, q.seq = h.seq)
      ∧ (∃ j, getForming t = { active := true, isRoot := root, further := u.crop.member, slot := slot.toNat, cropId := cropId
                               nmember := nmember.toNat, table := members, startTo := st
                               code := localCode u x nmember.toNat members u.crop.member, joins := [j], req := some req }
          ∧ j.tally = u.boot.tallyAddr.toNat ∧ j.isRoot = root
          ∧ (u.crop.member = true → ∀ n, n < 24 → memberLink u n = true → (getLink t n).ctrl = (getLink u n).ctrl ++ [.bindReport (.checks j)]))
      ∧ (u.crop.member = false → t.wain.routes = [] ∧ t.crop.cropId = cropId ∧ t.crop.member = false ∧ ∀ n, n < 24 → (getLink t n).state = .training)
    ((s.crop.member = true → s.crop.parentLink = 0xFF) → others →
      Gives (exec (.cropForm h slot nmember cropId table formTo startTo) s) (started true (if startTo = 0 then 10000 else startTo.toNat)))
    ∧ (u.crop.member = false ∨ others → Gives (exec (.cropJoin h slot nmember cropId table formTo) s) (started false 10000))
    ∧ (∀ p, s.crop.member = false → u.crop.member = false → members = [u.boot.tallyAddr.toNat] → (x.state = .loaded ∨ x.state = .held) →
        x.plan = some p → p.npos = 1 → p.links = [] → x.position = 0 →
        Gives (exec (.cropForm h slot nmember cropId table formTo startTo) s) (fun t =>
          (getSlot t slot.toNat).state = .bound ∧ t.crop.member = true ∧ t.crop.cropId = cropId ∧ t.crop.parentLink = 0xFF
          ∧ ∃ r ∈ (getWindrow t h.windrow).replies, r.seq = h.seq ∧ r.status = stDone))

/-- SEEDCORN_EXPORT of a slot that has a Seedcorn to give writes its canonical parts to local lines and replies DONE with their byte
count divided by 64 in DETAIL; SEEDCORN_IMPORT of parts that pass every check writes the tensors into the arenas, gives the slot the
Seedcorn's epoch, records and counts and makes it valid, and replies DONE (R516, R538 to R543).
Model's own readings behind it: logs 23 and 30. -/
def Obligations.SeedcornCommandsComplete : Prop :=
  ∀ (s u : State) (h : CmdHdr) (slot : Byte) (ca length : W64) (p : Plan), Admitted s h false false →
    let n := slot.toNat
    let x := getSlot s n
    let iss := cmdIssuer h
    n ≤ 15 → ca.toNat % 64 = 0 → slotForeign s h n = false → x.plan = some p → (getTask s iss.who).failed = none →
    (∀ bs, canExport x = true → exportSize x ≤ length.toNat → exportParts s iss x p = (.bytes bs, u) →
      (getTask u iss.who).failed = none → awaiting u iss.who = false →
      let data := fun (j : Nat) (_ : List Line) => (cleanLine (slice bs (64 * j) 64), 0)
      let r := resolvePairs iss fillShape 0 (caDst iss ca.toNat) (bs.length / 64) 0 u
      r.2.1 = .all → (∀ q ∈ r.1, q.src = [] ∧ isRemote u q.dst.dpa = false) → (writePairs iss data r.2.2 r.1).2.poison = false →
      Gives (exec (.seedcornExport h slot ca length) s)
        (Answered (claimReqs u h (endTask (writePairs iss data r.2.2 r.1).1 iss.who)) · h stDone (BitVec.ofNat 32 (bs.length / 64))))
    ∧ (x.state = .loaded ∨ x.state = .bound →
      let r := resolveLines s iss .read (ceilDiv length.toNat 64) ca.toNat
      let q := sourceLines r.2.2 iss r.1
      let bs := slice (q.1.flatMap (fun l => l.data)) 0 length.toNat
      let w := resolveRows q.2 { iss with ctx := x.context } (hostRows x p (fieldLE bs 16 8))
      let s1 := claimReqs s h (endTask w.2 iss.who)
      r.2.1 = .all → importRefused s h x p = none → (∀ o ∈ r.1, isRemote s o.dpa = false) → q.1.any linePoison = false →
      importCode x p bs length.toNat = none → w.1 = .all →
      Gives (exec (.seedcornImport h slot ca length) s) (fun t => Answered (importApply s1 iss n x p bs) t h stDone 0
        ∧ (getSlot t n).seedValid = true ∧ (getSlot t n).epoch = BitVec.ofNat 64 (fieldLE bs 16 8)
        ∧ (getSlot t n).replays = fieldLE bs 32 4 ∧ (getSlot t n).replans = fieldLE bs 36 4 ∧ (getSlot t n).state = x.state))

/-- LOFT_CONFIG RESIZE to an even number of ways up to 14 that the running plan allows sets the size and leaves nothing owned and nothing
stored beyond it; GRANT gives the granules it names the command's context and leaves every other granule's entry, and
LOFT_STATUS.BUSY reads 1 then only while another LOFT_CONFIG is in progress (R337 to R341, R343, R516).
ENGINE_LEASE LEASE of free Sheaves outside the running position's SHEAF_MASK takes each and stays in progress; LEASE_BEGIN then clears
the Sheaf, marks the lease begun and sends LEASE; RELEASE of Sheaves that the command's context holds through that attachment ends each
and replies DONE; no other Sheaf's lease changes (R20, R113, R219, R478, R516).
Model's own readings behind it: logs 15 and 43. -/
def Obligations.LoftAndLeaseCommandsComplete : Prop :=
  (
    ∀ (s : State) (h : CmdHdr) (ways first count : Byte) (entry : W32), Admitted s h true false →
      let u : State := { s with cache := { s.cache with loftBusy := otherLoftConfig s h } }
      (ways.toNat ≤ 14 → ways.toNat % 2 = 0 → (∀ need, runningLoftWays s = some need → need ≤ ways.toNat) →
        Gives (exec (.loftConfig h 0 ways first count entry) s) (fun t => Answered (resizeLoft u ways.toNat) t h stDone 0
          ∧ t.cache.loftWays = ways.toNat ∧ (∀ g, 8 * ways.toNat ≤ g → look 0 t.cache.loftOwner g = 0)
          ∧ (∀ a, 2 ^ 24 * ways.toNat ≤ a → look 0 t.cache.loft.data a = 0)))
      ∧ (field entry 19 0 = 0 → field entry 31 24 = 0 → field entry 21 20 ≠ 3 → count ≠ 0 → first.toNat + count.toNat ≤ 8 * s.cache.loftWays →
        Gives (exec (.loftConfig h 1 ways first count entry) s) (fun t => t.cache.loftBusy = otherLoftConfig s h ∧
          ∀ g, look 0 t.cache.loftOwner g =
            if first.toNat ≤ g ∧ g < first.toNat + count.toNat then
              (if field entry 21 20 = 0 then 0 else BitVec.ofNat 32 (2 ^ 20 * field entry 23 20 + h.context.toNat))
            else look 0 s.cache.loftOwner g))
  ) ∧
  (
    ∀ (s : State) (h : CmdHdr) (attach : Byte) (sheaves : W16), Admitted s h true false → attPresent s attach.toNat = true →
      (sheaves ≠ 0 → (∀ n, n < 16 → sheaves.toNat.testBit n = true → (runningMask s).testBit n = false ∧ (getSheaf s n).lease = none) →
        Gives (exec (.engineLease h 0 attach sheaves) s) (fun t =>
          (∀ n, n < 16 → (getSheaf t n).lease = if sheaves.toNat.testBit n then some ⟨attach.toNat, h.context, false, false⟩ else (getSheaf s n).lease)
          ∧ ∃ p ∈ (getWindrow t h.windrow).inprog, p.seq = h.seq))
      ∧ ((∀ n, n < 16 → sheaves.toNat.testBit n = true →
            ∃ l, (getSheaf s n).lease = some l ∧ l.att = attach.toNat ∧ l.context = h.context ∧ l.byPlan = false) →
        Gives (exec (.engineLease h 1 attach sheaves) s) (fun t =>
          (∀ n, n < 16 → (getSheaf t n).lease = if sheaves.toNat.testBit n then none else (getSheaf s n).lease)
          ∧ ∃ u, u.grg = s.grg ∧ Answered u t h stDone 0))
      ∧ (∀ n l, (getSheaf s n).lease = some l → l.begun = false →
        Gives (exec (.leaseBegin n) s) (fun t =>
          getSheaf t n = { getSheaf s n with
            lease := some { l with begun := true }, store := {}, buf0 := {}, buf1 := {}, regions := [], portRegion := none
            gmLoads := 0, gmPasses := 0, portFlags := [] }
          ∧ t.out = s.out ++ [.epLease l.att (BitVec.ofNat 16 (2 ^ n)) true l.context]
          ∧ ∀ k, k ≠ n → getSheaf t k = getSheaf s k))
  )

/-- QUERY writes the record that its selector names and replies DONE, FAULT_PENDING where R517 says so; COUNTERS_READ writes COUNT step
records or the counters as the last completed barrier left them; MARGIN_POLICY leaves a policy within its ranges waiting for the next barrier
(R91, R515, R517, R518, R550).
Model's own readings behind it: log 31. -/
def Obligations.ReportingCommandsComplete : Prop :=
  ∀ (s : State) (h : CmdHdr) (selector : W16) (slot fmin fmax : Byte) (arg first count : W32) (ceilMv : W16) (dst : W64) (enable : Bool),
    (∀ bs st, Admitted s h false (selector == 0) → selector.toNat ≤ 6 → dst.toNat % 64 = 0 →
      (selector = 1 → arg.toNat < 2 ^ 20) → (selector = 3 → arg.toNat ≤ 15) → (selector = 4 → arg.toNat < 65536) →
      queryRecord s h selector.toNat arg.toNat = some (bs, st) →
      Gives (exec (.query h selector arg dst) s) (Answered (hostPost s dst bs) · h st (plainDetail st)))
    ∧ (∀ p, Admitted s h false false → slot.toNat ≤ 15 → dst.toNat % 64 = 0 → slotForeign s h slot.toNat = false →
        (getSlot s slot.toNat).plan = some p →
      Gives (exec (.countersRead h slot 1 first count dst) s)
        (Answered (hostPost s dst (counterBytes (shownRecord (getSlot s slot.toNat)).counters)) · h stDone 0)
      ∧ (count ≠ 0 → count.toNat ≤ 65536 → first.toNat + count.toNat ≤ p.nstep →
        Gives (exec (.countersRead h slot 0 first count dst) s)
          (Answered (hostPost s dst ((List.range count.toNat).flatMap
            (fun i => stepBytes ((shownRecord (getSlot s slot.toNat)).steps.getD (first.toNat + i) {})))) · h stDone 0)))
    ∧ (Admitted s h true false →
      let top := if fmax = 0 then 100 else fmax.toNat
      650 ≤ ceilMv.toNat → ceilMv.toNat ≤ 850 → 80 ≤ fmin.toNat → fmin.toNat ≤ 100 → 100 ≤ top → top ≤ 105 →
      s.margin.vddMv ≤ ceilMv.toNat → fmin.toNat ≤ s.rootPct → s.rootPct ≤ top →
      Gives (exec (.marginPolicy h ceilMv fmin enable fmax) s)
        (Answered { s with margin := { s.margin with pendingPolicy := some (ceilMv.toNat, fmin.toNat, top, enable) } } · h stDone 0))

/-! ## Windrows -/

/-- DOORBELL performs the host's stores to its own memory first. A TAIL that an enabled Windrow accepts becomes its TAIL and ends a halt,
HEAD stays, and the Windrow is resident or queued; a TAIL beyond the ring, behind the last one or of a Windrow that is not enabled is
only counted in GRG_ERR.BAD_DOORBELL (R492, R495, R501, R522).
WINDROW_ADMISSION lets the first queued Windrow in when the active set has a place or a resident Windrow is idle, which then leaves;
otherwise it changes nothing (R501).
Model's own readings behind it: logs 10 and 11. -/
def Obligations.DoorbellsAndAdmission : Prop :=
  (
    ∀ (s : State) (n width : Nat) (value : W64) (stores : List (Nat × Byte)), memAccess s = true → s.hl.frozen = false → bar0Open s = true →
      n < 65536 → (width = 4 ∨ width = 8) →
      let w := getWindrow s n
      let d := tailAhead w (BitVec.ofNat 32 value.toNat)
      let mem := hostStores s.hostMem stores
      let accepted := bitOf w.cfg 0 = true ∧ d ≤ ringSize w ∧ (w.tail - w.head).toNat ≤ d
      (accepted → Gives (exec (.doorbell (64 * n) width value stores) s) (fun t =>
        (getWindrow t n).tail = w.head + BitVec.ofNat 32 d ∧ (getWindrow t n).halted = false ∧ (getWindrow t n).head = w.head
        ∧ ((getWindrow t n).resident = true ∨ n ∈ t.grg.admission) ∧ t.hostMem = mem ∧ t.grg.err = s.grg.err))
      ∧ (¬ accepted → exec (.doorbell (64 * n) width value stores) s
          = .next { s with hostMem := mem, grg := { s.grg with err := bump s.grg.err 15 0 1 } })
  ) ∧
  (
    ∀ (s : State) (n : Nat) (rest : List Nat), s.grg.admission = n :: rest →
      (s.grg.active.length < 1024 → Gives (exec .windrowAdmission s) (fun t =>
        t.grg.admission = rest ∧ t.grg.active = s.grg.active ++ [n] ∧ getWindrow t n = { getWindrow s n with resident := true, idleSince := s.tick }))
      ∧ (∀ k, 1024 ≤ s.grg.active.length → longestIdle s = some k → k ≠ n → Gives (exec .windrowAdmission s) (fun t =>
        t.grg.admission = rest ∧ t.grg.active = s.grg.active.filter (fun j => j != k) ++ [n]
        ∧ (getWindrow t n).resident = true ∧ (getWindrow t k).resident = false))
      ∧ (1024 ≤ s.grg.active.length → longestIdle s = none → exec .windrowAdmission s = .next s)
  )

/-- PACKET_READ of a slot that passes checks 1 and 2 raises HEAD by 1 and accepts the packet; a slot that fails leaves HEAD and is read
again by PACKET_REREAD, which accepts it as soon as it passes, counts a failure, and at the 64th failure halts the Windrow with an
EARLY_DOORBELL reply for a wrong SEQ or PHASE, or raises HEAD with a CHECKSUM reply for a wrong PCHK; both replies signal the vector
(R493, R494).
COMMAND_START takes the oldest accepted packet of the Windrow whose turn it is: a command goes in progress, an unknown opcode ends
with BAD_OPCODE, a reserved field with BAD_PACKET and code RESERVED; with 256 commands in progress, or no ready Windrow, nothing
starts. Only a ready Windrow gets a turn (R500, R502, R503).
Model's own readings behind it: logs 11 and 32. -/
def Obligations.PacketsAreCheckedAndStarted : Prop :=
  (
    ∀ (s : State) (n : Nat), mayRead s n = true →
      let w := getWindrow s n
      let r := readSlot s n
      let seq : W32 := if isMoldo w then BitVec.ofNat 32 (w.head.toNat % 65536) else w.head
      let passes := r.poison = none ∧ checkOne w r.bytes = true ∧ checkTwo w r.bytes = true
      let took (t : State) : Prop := (getWindrow t n).head = w.head + 1 ∧ (getWindrow t n).rereading = false
        ∧ (getWindrow t n).accepted = w.accepted ++ [if isMoldo w then ⟨seq, expandMoldo r.bytes⟩ else ⟨w.head, r.bytes⟩]
      let replied (st : Byte) (d : W32) (t : State) : Prop := (getWindrow t n).replies = w.replies ++ [⟨seq, d, 0, st, 0, 0, true⟩]
      (w.rereading = false →
        (passes → Gives (exec (.packetRead n) s) took)
        ∧ (¬ passes → Gives (exec (.packetRead n) s) (fun t => getWindrow t n = { w with rereading := true, rereads := 0 })))
      ∧ (w.rereading = true →
        (passes → Gives (exec (.packetReread n) s) took)
        ∧ (¬ passes → w.rereads + 1 < 64 → Gives (exec (.packetReread n) s) (fun t => getWindrow t n = { w with rereads := w.rereads + 1 }))
        ∧ (¬ passes → 63 ≤ w.rereads → r.poison = none → checkOne w r.bytes = true →
          Gives (exec (.packetReread n) s) (fun t => replied stBadPacket (packetDetail pcChecksum) t
            ∧ (getWindrow t n).head = w.head + 1 ∧ (getWindrow t n).halted = w.halted))
        ∧ (63 ≤ w.rereads → r.poison ≠ none ∨ checkOne w r.bytes = false →
          Gives (exec (.packetReread n) s) (fun t => replied stEarlyDoorbell (plainDetail stEarlyDoorbell) t
            ∧ (getWindrow t n).head = w.head ∧ (getWindrow t n).halted = true)))
  ) ∧
  (
    ∀ (s : State), grangerUp s = true →
      (256 ≤ inProgress s → exec .commandStart s = .next s)
      ∧ (turnOf s = none → exec .commandStart s = .next s)
      ∧ (∀ n, turnOf s = some n → isReady s n = true)
      ∧ (∀ n p rest, inProgress s < 256 → turnOf s = some n → (getWindrow s n).accepted = p :: rest →
        Gives (exec .commandStart s) (fun t => (getWindrow t n).accepted = rest ∧ t.grg.turn = s.grg.turn + 1
          ∧ (∀ k, k ≠ n → getWindrow t k = getWindrow s k)
          ∧ (match decodePacket n p.bytes with
            | .command c => (getWindrow t n).inprog = (getWindrow s n).inprog ++ [⟨p.seq, c, s.tick⟩] ∧ (getWindrow t n).replies = (getWindrow s n).replies
            | .badOpcode => ∃ r : ReplyRec, (getWindrow t n).replies = (getWindrow s n).replies ++ [r] ∧ r.seq = p.seq ∧ r.status = stBadOpcode
            | .reserved => ∃ r : ReplyRec, (getWindrow t n).replies = (getWindrow s n).replies ++ [r] ∧ r.seq = p.seq ∧ r.status = stBadPacket
                ∧ r.detail = packetDetail pcReserved)))
  )

/-- REPLY writes the oldest completed reply into slot GRG_REPLY_TAIL of the reply ring, bytes 0 to 14 first and byte 15 by a later write,
raises GRG_REPLY_TAIL by 1, and signals the Windrow's VECTOR where the reply asks for it: its message is sent, or its pending bit is set
while it is masked. A frozen port holds the writes and the message. A full ring holds the reply (R446, R454, R496, R505).
WINDROW_ENABLE and WINDROW_DISABLE write GRG_WINDROW_CFG. While ENABLE is 0 every field takes the value written, LOG2N only where it is
in its range, and a write that sets ENABLE zeroes HEAD, TAIL and both reply counters; with the pool absent a Windrow from 64 on is not
enabled. While ENABLE is 1 a write changes only ENABLE, CLASS, IRQ_ALL and VECTOR. GRG_REPLY_HEAD_WRITE takes every value that does not
pass GRG_REPLY_TAIL and ignores the others. While the host reaches no register, none of the three has an effect (R291, R449, R505, R506,
R520, R521, R580).
Model's own readings behind it: log 11. -/
def Obligations.RepliesAndWindrowRegisters : Prop :=
  (
    ∀ (s : State) (n : Nat) (r : ReplyRec) (rest : List ReplyRec), grangerUp s = true → (getWindrow s n).replies = r :: rest →
      let w := getWindrow s n
      let k := w.replyTail.toNat
      let bs := replyBytes r (phaseOf k (field w.cfg 12 8))
      let a := w.replyBase.toNat + 16 * (k % ringSize w)
      let writes := [Out.hostWrite (BitVec.ofNat 64 a) (bs.take 15), Out.hostWrite (BitVec.ofNat 64 (a + 15)) (bs.drop 15)]
      let v := field w.cfg 26 16
      let message : List Out := match vectorMsg s v with
        | some m => if r.signal && !vectorMasked s v then [m] else []
        | none => []
      (replyFull w = true → exec (.reply n) s = .next s)
      ∧ (replyFull w = false → Gives (exec (.reply n) s) (fun t => (getWindrow t n).replies = rest ∧ (getWindrow t n).replyTail = w.replyTail + 1
          ∧ (∀ j, j ≠ n → getWindrow t j = getWindrow s j)
          ∧ (r.signal = true → vectorMasked s v = true → (vectorMsg s v).isSome = true → v ∈ t.hl.pba)
          ∧ (r.signal = false ∨ vectorMasked s v = false → t.hl.pba = s.hl.pba)
          ∧ (s.hl.frozen = false → t.out = s.out ++ writes ++ message ∧ t.hl.heldWrites = s.hl.heldWrites
            ∧ t.hostMem = hostPutBytes (hostPutBytes s.hostMem (a % 2 ^ 64) (bs.take 15)) ((a + 15) % 2 ^ 64) (bs.drop 15))
          ∧ (s.hl.frozen = true → t.hl.heldWrites = s.hl.heldWrites ++ writes ++ message ∧ t.out = s.out ∧ t.hostMem = s.hostMem)))
  ) ∧
  (
    ∀ (s : State) (n : Nat) (value : W64) (v : W32),
      let w := getWindrow s n
      let live (c : W64) : Prop := bitOf c 5 = bitOf value 5 ∧ field c 7 6 = field value 7 6 ∧ field c 26 16 = field value 26 16
      let kept (c : W64) : Prop := live c ∧ field c 4 1 = field w.cfg 4 1 ∧ field c 12 8 = field w.cfg 12 8 ∧ field c 51 32 = field w.cfg 51 32
      let inRange : Prop := 6 ≤ field value 12 8 ∧ field value 12 8 ≤ (if bitOf value 1 then 15 else 16)
      let taken (c : W64) : Prop := live c ∧ field c 4 1 = field value 4 1 ∧ field c 51 32 = field value 51 32
        ∧ (inRange → field c 12 8 = field value 12 8) ∧ (¬ inRange → field c 12 8 = field w.cfg 12 8)
      let write (on : Bool) := exec (if on then .windrowEnable n value else .windrowDisable n value) s
      (memAccess s = true → bar0Open s = true →
        (bitOf value 0 = true → bitOf w.cfg 0 = false → (poolUp s = true ∨ n < 64) → ∃ c, taken c ∧ bitOf c 0 = true
          ∧ write true = .next (setWindrow s n { w with
              cfg := c, head := 0, tail := 0, replyHead := 0, replyTail := 0, halted := false, rereading := false, rereads := 0 }))
        ∧ (bitOf value 0 = true → bitOf w.cfg 0 = false → poolUp s = false → 64 ≤ n → ∃ c, taken c ∧ bitOf c 0 = false
          ∧ write true = .next (setWindrow s n { w with cfg := c }))
        ∧ (bitOf w.cfg 0 = true → ∃ c, kept c ∧ bitOf c 0 = bitOf value 0 ∧ write (bitOf value 0) = .next (setWindrow s n { w with cfg := c }))
        ∧ (bitOf value 0 = false → bitOf w.cfg 0 = false → ∃ c, taken c ∧ bitOf c 0 = false
          ∧ write false = .next (setWindrow s n { w with cfg := c }))
        ∧ ((v - w.replyHead).toNat ≤ (w.replyTail - w.replyHead).toNat →
          exec (.grgReplyHeadWrite n v) s = .next (setWindrow s n { w with replyHead := v }))
        ∧ ((w.replyTail - w.replyHead).toNat < (v - w.replyHead).toNat → exec (.grgReplyHeadWrite n v) s = .next s))
      ∧ (memAccess s = false ∨ bar0Open s = false → write true = .next s ∧ write false = .next s ∧ exec (.grgReplyHeadWrite n v) s = .next s)
  )

/-! ## Register accesses -/

/-- REGISTER_WRITE gives each field of a configuration register of BAR0 the value written when that is in the field's range, and leaves the
field when it is not; no other state changes (R286, R316, R342, R379, R457).
REGISTER_WRITE leaves the state as it is where BAR0 holds nothing that can be written: the identification block but for
BOOT_STATUS, and every offset from 0x29000 to 0x3FFFFF, which no table assigns (R9, R10, R576, R579). -/
def Obligations.RegisterWritesFollowTheTables : Prop :=
  (
    ∀ (s : State) (v : W64), memAccess s = true → bar0Open s = true →
      let in_ (lo hi x : Nat) : Prop := lo ≤ x ∧ x ≤ hi
      let wr (off : Nat) := exec (.registerWrite (.bar0 off) 4 v) s
      (∃ c : W32, wr 0x21000 = .next { s with hl := { s.hl with cfg := c } }
        ∧ field c 27 16 = field v 27 16
        ∧ (in_ 1 1000 (field v 15 0) → field c 15 0 = field v 15 0) ∧ (¬ in_ 1 1000 (field v 15 0) → field c 15 0 = field s.hl.cfg 15 0))
      ∧ (∃ c : W32, wr 0x24000 = .next { s with cache := { s.cache with cfg := c } }
        ∧ field c 2 0 = field v 2 0
        ∧ (in_ 1 64 (field v 15 8) → field c 15 8 = field v 15 8) ∧ (¬ in_ 1 64 (field v 15 8) → field c 15 8 = field s.cache.cfg 15 8))
      ∧ (∃ c : W32, wr 0x24010 = .next { s with cache := { s.cache with cohCfg := c } }
        ∧ (field v 1 0 ≠ 3 → field c 1 0 = field v 1 0) ∧ (field v 1 0 = 3 → c = s.cache.cohCfg))
      ∧ (∃ c : W32, wr 0x25004 = .next { s with mem := { s.mem with gleanCfg := c } }
        ∧ field c 8 8 = field v 8 8
        ∧ (in_ 1 168 (field v 7 0) → field c 7 0 = field v 7 0) ∧ (¬ in_ 1 168 (field v 7 0) → field c 7 0 = field s.mem.gleanCfg 7 0))
      ∧ (∃ c : W32, wr 0x26000 = .next { s with wain := { s.wain with cfg := c } }
        ∧ (in_ 1 1000 (field v 15 0) → field c 15 0 = field v 15 0) ∧ (¬ in_ 1 1000 (field v 15 0) → field c 15 0 = field s.wain.cfg 15 0)
        ∧ (1 ≤ field v 31 16 → field c 31 16 = field v 31 16) ∧ (field v 31 16 = 0 → field c 31 16 = field s.wain.cfg 31 16))
  ) ∧
  (
    ∀ (s : State) (off width : Nat) (v : W64), memAccess s = true → (width = 4 ∨ width = 8) → off % width = 0 →
      (0x20010 ≤ off ∧ off < 0x20100 ∨ 0x29000 ≤ off ∧ off < 0x400000) → exec (.registerWrite (.bar0 off) width v) s = .next s
  )

/-- READ_TO_CLEAR of BAR0 returns the register's value little-endian and clears the fields that reading clears: an 8-byte read of GRG_ERR
returns it and leaves zero, and a 4-byte read of OWNER_REFUSE does the same; a read of a register without RC fields changes nothing but
what it returns (R12, R14, R316, R522). A read of configuration space is served in every power state, offset 0 giving the device's
identity (R427, R449); a doorbell of BAR4 reads its Windrow's HEAD (R492); in D3hot a read of BAR0 or BAR4 is not served, and on a frozen
port a read of BAR4 is not (R449, R454).
LOW_HALF_READ of a one-sample register takes the sample: the high half read next by the same side comes from it, whatever the register
has become, and the other side's holding register is not touched (R15).
Model's own readings behind it: log 9. -/
def Obligations.RegisterReadsFollowTheTables : Prop :=
  (
    ∀ (s : State), alive s = true →
      (memAccess s = true → bar0Open s = true →
        exec (.readToClear (.bar0 0x22000) 8) s
            = .next { s with out := s.out ++ [.completion (toLE 8 s.grg.err.toNat) false], grg := { s.grg with err := 0 } }
        ∧ exec (.readToClear (.bar0 0x2500C) 4) s
            = .next { s with out := s.out ++ [.completion (toLE 4 s.mem.ownerRefuse.toNat) false], mem := { s.mem with ownerRefuse := 0 } }
        ∧ exec (.readToClear (.bar0 0x24000) 4) s = .next { s with out := s.out ++ [.completion (toLE 4 s.cache.cfg.toNat) false] }
        ∧ (s.hl.frozen = false → ∀ w, exec (.readToClear (.bar4 (64 * w)) 4) s
            = .next { s with out := s.out ++ [.completion (toLE 4 (getWindrow s w).head.toNat) false] }))
      ∧ exec (.readToClear (.config 0) 4) s = .next { s with out := s.out ++ [.completion (toLE 4 0x59401D8A) false] }
      ∧ (s.hl.d3hot = true → ∀ off width, exec (.readToClear (.bar0 off) width) s = .next { s with out := s.out ++ [.abortCompletion] })
      ∧ (s.hl.d3hot = true ∨ s.hl.frozen = true →
          ∀ off width, exec (.readToClear (.bar4 off) width) s = .next { s with out := s.out ++ [.abortCompletion] })
  ) ∧
  (
    ∀ (s : State) (off : Nat), memAccess s = true → off % 8 = 0 → oneSample off = true →
      Gives (exec (.lowHalfRead .host off) s) (fun t =>
        t.out = s.out ++ [.completion (toLE 4 (regWord s off)) false]
        ∧ t.hl.holdTally = s.hl.holdTally
        ∧ ∀ u : State, u.hl.holdHost = t.hl.holdHost → memAccess u = true → bar0Open u = true →
          ∃ w, exec (.readToClear (.bar0 (off + 4)) 4) u = .next w
            ∧ w.out = u.out ++ [.completion (toLE 4 ((BitVec.ofNat 32 (regWord s (off + 4)) : W32).toNat)) false])
      ∧ Gives (exec (.lowHalfRead .tally off) s) (fun t =>
        look none t.hl.holdTally off = some (BitVec.ofNat 32 (regWord s (off + 4))) ∧ t.hl.holdHost = s.hl.holdHost ∧ t.out = s.out)
  )

/-- BAD_ACCESS counts an access of BAR0 or BAR4 that is not 4 or 8 bytes wide and naturally aligned in HL_ERR.BAD_ACCESS; a read returns
all ones and a write is dropped (R14, R461, R492). On a frozen port an access of BAR4 is not served: a read completes with error, a
write is dropped (R454); in D3hot the access has no effect (R449).
VECTOR_UNMASK of a vector under MSI-X whose pending bit is set sends its message and clears the bit, or holds the message while the
port is frozen; with no pending bit it sends nothing (R446, R454).
Model's own readings behind it: log 9. -/
def Obligations.BadAccessesAndVectors : Prop :=
  (
    ∀ (s : State) (bar off width : Nat), (bar = 0 ∨ bar = 4) → ¬ ((width = 4 ∨ width = 8) ∧ off % width = 0) →
      let counted := { s with hl := { s.hl with err := bump s.hl.err 15 0 1 } }
      (memAccess s = true → (bar = 4 → s.hl.frozen = false) →
        exec (.badAccess bar off width true) s = .next counted
        ∧ exec (.badAccess bar off width false) s = .next (emit counted (.completion (List.replicate width 0xFF) false)))
      ∧ (memAccess s = true → bar = 4 → s.hl.frozen = true →
        exec (.badAccess bar off width true) s = .next s ∧ exec (.badAccess bar off width false) s = .next (emit s .abortCompletion))
      ∧ (s.hl.d3hot = true → ∀ write, exec (.badAccess bar off width write) s = .next s)
  ) ∧
  (
    ∀ (s : State) (v : Nat), alive s = true → bitOf s.hl.msixControl 15 = true → bitOf s.hl.msixControl 14 = false →
      (∀ k ∈ s.hl.pba, k = v) →
      (s.hl.pba = [v] → Gives (exec (.vectorUnmask v) s) (fun t => t.hl.pba = []
          ∧ (s.hl.frozen = false → t.out = s.out ++ [.msix v])
          ∧ (s.hl.frozen = true → t.out = s.out ∧ t.hl.heldWrites = s.hl.heldWrites ++ [.msix v])))
      ∧ (s.hl.pba = [] → Gives (exec (.vectorUnmask v) s) (fun t => t.out = s.out ∧ t.hl.heldWrites = s.hl.heldWrites))
  )

/-- HL_CONTAIN_RELEASE with the last cause bits cleared ends the freeze of a port whose link is up, and the held writes leave in order; with
a cause left the port stays frozen (R455, R459).
FR_HEAD_WRITE takes a value that does not pass FR_TAIL and ignores one that does; FR_ENABLE_SET sets FR_ENABLE and the other fields of
TR_CFG; FR_ENABLE_CLEAR clears FR_ENABLE, ends no recorded fault, and leaves no context BLOCKED (R414, R417, R419, R420). -/
def Obligations.ReleaseAndFaultRingRegisters : Prop :=
  (
    ∀ (s : State) (v : W32), memAccess s = true → bar0Open s = true → bitOf v 16 = true → s.hl.frozen = true → s.hl.linkUp = true →
      let left := field s.hl.contain 2 0 &&& (7 - field v 2 0)
      (left = 0 → Gives (exec (.hlContainRelease v) s) (fun t =>
        t.hl.frozen = false ∧ t.hl.heldWrites = [] ∧ field t.hl.contain 2 0 = 0 ∧ t.out = s.out ++ s.hl.heldWrites))
      ∧ (left ≠ 0 → Gives (exec (.hlContainRelease v) s) (fun t => t.hl.frozen = true ∧ t.hl.heldWrites = s.hl.heldWrites ∧ t.out = s.out
        ∧ field t.hl.contain 2 0 = left))
  ) ∧
  (
    ∀ (s : State) (v : W32), hostUp s = true →
      ((s.tr.frTail - s.tr.frHead).toNat < (v - s.tr.frHead).toNat → exec (.frHeadWrite v) s = .next s)
      ∧ ((v - s.tr.frHead).toNat ≤ (s.tr.frTail - s.tr.frHead).toNat → s.tr.unrecorded = [] →
        exec (.frHeadWrite v) s = .next { s with tr := { s.tr with frHead := v } })
      ∧ (bitOf v 11 = true → ∃ c : W32, exec (.frEnableSet v) s = .next { s with tr := { s.tr with cfg := c } }
        ∧ bitOf c 11 = true ∧ field c 10 0 = field v 10 0 ∧ field c 31 16 = (if field v 31 16 = 0 then field s.tr.cfg 31 16 else field v 31 16))
      ∧ (bitOf v 11 = false → Gives (exec (.frEnableClear v) s) (fun t => bitOf t.tr.cfg 11 = false
        ∧ (bitOf s.tr.cfg 11 = true → ∀ n, (getCtx t n).state ≠ .blocked)))
  )

/-! ## The host's windows on memory -/

/-- HATCH_WRITE writes every line of its range at its home when the owner table lets the host write each, and drops and counts a line that
it may not write; HATCH_READ of lines that the host may read completes with the bytes of its range as their homes give them, with EP set
and counted when a line is poisoned, and with poisoned zeros where no line may be read; a frozen port drops the write and aborts the read
(R303, R430, R440, R454). -/
def Obligations.HatchAccessesComplete : Prop :=
  ∀ (s : State) (off n : Nat) (data : List Byte), hostUp s = true →
    let lines := rangeLines (s.hl.hatchBase.toNat + off)
    (s.hl.frozen = true → exec (.hatchWrite off data) s = .next s ∧ exec (.hatchRead off n) s = .next (emit s .abortCompletion))
    ∧ (s.hl.frozen = false →
      ((∀ p ∈ lines data.length, hostCheck s (64 * p.1) .write = .ok) →
        exec (.hatchWrite off data) s = .next ((lines data.length).foldl (fun u p =>
          writeLine u 20 ⟨0, p.1⟩ (lineData p.2.1 (slice data p.2.2.2 p.2.2.1)) (byteMask p.2.1 p.2.2.1) 0 false) s))
      ∧ ((∀ p ∈ lines data.length, hostCheck s (64 * p.1) .write ≠ .ok) →
        Gives (exec (.hatchWrite off data) s) (fun t => t.mem.ram = s.mem.ram ∧ t.cache = s.cache ∧ t.out = s.out
          ∧ t.mem.ownerRefuse.toNat = min (s.mem.ownerRefuse.toNat + (lines data.length).length) (2 ^ 32 - 1)))
      ∧ ((∀ p ∈ lines n, hostCheck s (64 * p.1) .read = .ok) →
        let r := (lines n).foldl (fun (acc : Gather) p =>
          let x := readCur acc.2.2 20 ⟨0, p.1⟩ 0 false
          (acc.1 ++ slice x.1.data p.2.1 p.2.2.1, acc.2.1 || linePoison x.1, x.2)) ([], false, s)
        Gives (exec (.hatchRead off n) s) (fun t => t.out = r.2.2.out ++ [.completion r.1 r.2.1] ∧ t.mem = r.2.2.mem ∧ t.cache = r.2.2.cache
          ∧ (r.2.1 = false → t.hl = r.2.2.hl) ∧ (r.2.1 = true → t.hl = { r.2.2.hl with err := bump r.2.2.hl.err 55 48 1 })))
      ∧ (0 < n → (∀ p ∈ lines n, hostCheck s (64 * p.1) .read ≠ .ok) →
        Gives (exec (.hatchRead off n) s) (fun t => t.mem.ram = s.mem.ram ∧ t.cache = s.cache
          ∧ t.out = s.out ++ [.completion ((lines n).flatMap (fun p => List.replicate p.2.2.1 0)) true]
          ∧ t.hl.err = bump s.hl.err 55 48 1)))

/-- A CXL.mem read of a line the host may read returns the line as the controller reads it, poison counted, and changes no stored word; a
read that is refused, or meets a frozen port or an absent pool, returns poisoned zeros (R431, R440, R454).
A CXL.mem write of a line the host may write stores the bytes of its mask there, all 64 for MEM_WR, changes no other line and is
answered Cmp; a refused one is dropped and answered; MEM_INV is answered without effect and MEM_SPEC_RD has none (R431).
Model's own readings behind it: log 9. -/
def Obligations.CxlMemAccessesComplete : Prop :=
  (
    ∀ (s : State) (hpa : W64), memOpen s = true →
      let n := (hpa.toNat - s.hl.hdmBase.toNat) / 64
      let poisoned (o : Host.Outcome State Machine.Fault Refusal) : Prop := Gives o (fun t => t.mem.ram = s.mem.ram
        ∧ t.out = s.out ++ [.memData (List.replicate 64 0) true] ∧ t.hl.err = bump s.hl.err 55 48 1)
      let line := lineSettle (ramLine s.mem.ram n)
      let read (o : Host.Outcome State Machine.Fault Refusal) : Prop := Gives o (fun t => t.mem.ram = s.mem.ram
        ∧ t.out = (memReadLine s n).2.out ++ [.memData line.data (linePoison line)]
        ∧ (linePoison line = false → t.hl.err = s.hl.err) ∧ (linePoison line = true → t.hl.err = bump s.hl.err 55 48 1))
      (s.hl.frozen = true ∨ poolUp s = false → poisoned (exec (.memRd hpa) s) ∧ poisoned (exec (.memRdData hpa) s))
      ∧ (s.hl.frozen = false → poolUp s = true → inHdm s hpa.toNat = true →
        (hostCheck s (64 * n) .read ≠ .ok → poisoned (exec (.memRd hpa) s) ∧ poisoned (exec (.memRdData hpa) s))
        ∧ (hostCheck s (64 * n) .read = .ok → read (exec (.memRd hpa) s) ∧ read (exec (.memRdData hpa) s)))
  ) ∧
  (
    ∀ (s : State) (hpa mask : W64) (data : List Byte), memOpen s = true → s.hl.frozen = false → poolUp s = true → inHdm s hpa.toNat = true →
      let n := (hpa.toNat - s.hl.hdmBase.toNat) / 64
      let stored (m : Nat) (o : Host.Outcome State Machine.Fault Refusal) : Prop := Gives o (fun t =>
        ramLine t.mem.ram n = lineMerge (ramLine s.mem.ram n) data m ∧ (∀ k, k ≠ n → ramLine t.mem.ram k = ramLine s.mem.ram k)
        ∧ t.out = s.out ++ [.memCmp] ∧ t.cache = s.cache ∧ t.hostMem = s.hostMem)
      let dropped (o : Host.Outcome State Machine.Fault Refusal) : Prop := Gives o (fun t =>
        t.mem.ram = s.mem.ram ∧ t.mem.ownerRefuse = satAdd32 s.mem.ownerRefuse 1 ∧ t.out = s.out ++ [.memCmp])
      (hostCheck s (64 * n) .write = .ok → stored (2 ^ 64 - 1) (exec (.memWr hpa data) s) ∧ stored mask.toNat (exec (.memWrPtl hpa data mask) s))
      ∧ (hostCheck s (64 * n) .write ≠ .ok → dropped (exec (.memWr hpa data) s) ∧ dropped (exec (.memWrPtl hpa data mask) s))
      ∧ exec (.memInv hpa) s = .next (emit s .memCmp)
      ∧ exec (.memSpecRd hpa) s = .next s
  )

/-- SNP_DATA and SNP_CUR are performed at the home as a read that keeps no copy, SNP_INV as a write of no byte that collects the modified
data. A line that the block does not hold is answered RspIHitI. SNP_DATA leaves the Granary's copy clean and in S, and answers RspSFwdM
with dirty data, which reaches the host's memory, RspSHitSE without; SNP_INV drops the Granary's copy and answers RspIFwdM or RspIHitSE in
the same way; SNP_CUR answers RspVFwdV with the data and changes no copy. GO makes the write that awaited it globally observed
(R353, R362, R435, R436).
Model's own readings behind it: log 10. -/
def Obligations.SnoopsAreAnswered : Prop :=
  ∀ (s : State) (hpa : W64), hostUp s = true → s.hl.frozen = false →
    let n := hpa.toNat / 64
    let l : LineAddr := ⟨1, n⟩
    let v := snoopHome s l
    let s1 := settleLine (checkHome s l) l
    let u := (homeRun s1 (writeReq 20 20 l [] 0 0 false)).2
    let kept := cacheModify v.after 12 l (fun w => { w with dirty := false, coh := .shared, content := v.content })
    (v.held = false → exec (.snpData hpa) s = .next (emit v.after (.snoopRsp "RspIHitI" []))
      ∧ exec (.snpCur hpa) s = .next (emit v.after (.snoopRsp "RspIHitI" [])))
    ∧ (v.held = true → exec (.snpCur hpa) s = .next (emit v.after (.snoopRsp "RspVFwdV" (sharedData v n)))
      ∧ (v.dirty = true → exec (.snpData hpa) s = .next (emit (hostPutWhole kept n v.content) (.snoopRsp "RspSFwdM" v.content.data)))
      ∧ (v.dirty = false → exec (.snpData hpa) s = .next (emit kept (.snoopRsp "RspSHitSE" []))))
    ∧ (cacheFind u 12 l = none → exec (.snpInv hpa) s
        = .next (emit u (.snoopRsp (if (dirGet s1 l).state = .uncached then "RspIHitI" else "RspIHitSE") [])))
    ∧ (∀ w, cacheFind u 12 l = some w →
      let r := granaryHit u l w.content
      (w.dirty = true → exec (.snpInv hpa) s
          = .next (emit (hostPutWhole (cacheDrop r.2 12 l) n r.1) (.snoopRsp "RspIFwdM" r.1.data)))
      ∧ (w.dirty = false → exec (.snpInv hpa) s = .next (emit (cacheDrop u 12 l) (.snoopRsp "RspIHitSE" []))))
    ∧ (∀ (tag k : Nat) (r : HostReq) (data : List Byte) (mask : W64), s.hl.hostReqs.find? (fun q => q.tag == tag) = some r →
      r.kind = .cacheWrite k data mask → Gives (exec (.go tag) s) (fun t => t.hl.hostReqs = s.hl.hostReqs.erase r
        ∧ t.hostMem = (hostPutMasked s k data mask.toNat).hostMem ∧ t.cache = s.cache ∧ t.out = s.out))

/-- PLACEMENT_WRITE to an address that its KEY's region covers, writable and owned by the region's context, stores its bytes along the Hatch
path or directly; any other is dropped, counted in HL_ERR.PLACE_MISS and recorded in HL_PLACE_LOG with its reason, and stores nothing
(R442 to R444, R461). -/
def Obligations.PlacementWritesAreJudged : Prop :=
  ∀ (s : State) (direct : Bool) (addr : W64) (key requester : W16) (data : List Byte), hostUp s = true → s.hl.frozen = false →
    (direct = true → s.hl.cxlActive = true ∧ s.hl.cxlVer = 3 ∧ inHdm s addr.toNat = true) →
    let o := if direct then addr.toNat - s.hl.hdmBase.toNat else s.hl.hatchBase.toNat + addr.toNat
    let reason := placeReason s key o data.length
    (reason = 5 → exec (.placementWrite direct addr key requester data) s = .next ((rangeLines o data.length).foldl (fun u p =>
        let d := lineData p.2.1 (slice data p.2.2.2 p.2.2.1)
        let m := byteMask p.2.1 p.2.2.1
        if direct then memWriteLine u p.1 d m else writeLine u 20 ⟨0, p.1⟩ d m 0 false) s))
    ∧ (reason ≠ 5 → Gives (exec (.placementWrite direct addr key requester data) s) (fun t =>
        t.mem.ram = s.mem.ram ∧ t.cache = s.cache ∧ t.out = s.out ∧ t.hl.err = bump s.hl.err 31 16 1
        ∧ t.hl.placeLog = placeLog key requester reason o))
    ∧ (reason = 5 → ∃ r ∈ s.hl.regions, r.key = key ∧ r.base ≤ o ∧ o + data.length ≤ r.base + r.length ∧ r.wr = true
        ∧ ∀ p ∈ rangeLines o data.length, ownerCheck s (64 * p.1) r.context .write false = .ok)

/-! ## Translation and the host link's events -/

/-- TLB_MISS of a canonical page-mode address joins the miss pending on its page, or enters the list, where it begins at once when a miss
entry and a walker are free: it counts in WALKS, in Profile A a Translation Request leaves, in Profile P a walk of tables in host memory
holds a tag; of a BLOCKED context it is held. A stale walk fills nothing, starts again and is counted; another walk ends as the tables
say, its miss leaves, and its walker goes to the next (R395, R399, R402, R405, R407, R414, R437).
Model's own readings behind it: logs 12, 43 and 48. -/
def Obligations.MissesJoinAndWalk : Prop :=
  ∀ (s : State) (req : Requester) (ctx : BitVec 20) (va : W64) (acc : AccessKind),
    let c := getCtx s ctx.toNat
    let m0 := newMiss 256 req ctx va.toNat acc
    (c.segment = false → bits va.toNat 63 56 ≠ 0xFE → canonical c.levels5 va.toNat = true →
      (c.state = .blocked → exec (.tlbMiss req ctx va acc) s = .next (holdMiss s m0))
      ∧ (c.state = .active → (∀ i, missReady s i = false) →
        (missOf s ctx va.toNat = none →
          let begins := decide (s.tr.misses.length < 256) && walkerFree s
          Gives (exec (.tlbMiss req ctx va acc) s) (fun t =>
            t.tr.misses = s.tr.misses ++ [{ m0 with walking := begins }]
            ∧ (begins = false → t.tr.stat = s.tr.stat ∧ t.out = s.out ∧ t.hl = s.hl)
            ∧ (begins = true → t.tr.stat = bump s.tr.stat 31 0 1
              ∧ (profileP s = false → t.out = s.out ++ [.translationRequest ctx (BitVec.ofNat 64 va.toNat) (isWrite acc)])
              ∧ (profileP s = true → walksHost s ctx va.toNat = false → t.hl = s.hl ∧ t.out = s.out)
              ∧ (profileP s = true → walksHost s ctx va.toNat = true → freeTags s ≠ [] → ∃ n ∈ freeTags s,
                  t.hl.hostReqs = s.hl.hostReqs ++ [⟨n, .walk ctx (va.toNat / 4096), ctx, .nobody⟩]))))
        ∧ (∀ m, missOf s ctx va.toNat = some m → (req, acc) ∉ m.waiters → exec (.tlbMiss req ctx va acc) s = .next { s with tr := { s.tr with
            misses := s.tr.misses.map (fun y => if y = m then { m with waiters := m.waiters ++ [(req, acc)] } else y) } })))
    ∧ (∀ i m, s.tr.misses[i]? = some m → profileP s = true →
      (m.walking = false ∨ m.stopped.isSome = true → exec (.walkComplete i) s = .next s)
      ∧ (m.walking = true → m.stopped = none →
        (m.stale = true → exec (.walkComplete i) s = .next { s with tr := { s.tr with
            misses := s.tr.misses.set i { m with stale := false }, stat := bump (bump s.tr.stat 63 48 1) 31 0 1 } })
        ∧ (m.stale = false → ∃ u, u.tr.misses = s.tr.misses.eraseIdx i ∧ u.tr.ctxs = s.tr.ctxs ∧ u.mem = s.mem ∧ u.hostMem = s.hostMem
            ∧ exec (.walkComplete i) s = .next (startWalks (walkEnd u m)))))

/-- A Translation Completion of Profile A that grants nothing, or no write to a write, faults the miss: with recording on, a free slot and
room in the ring, the requester's context counts the fault, FR_TAIL rises by 1, the fault is pending and recorded, and a Page Request
leaves. One that grants the access fills the shared TLB for the page, or, when the host forbids caching it, serves the access that waits
and no other. Its miss leaves the list and its walker goes to the next (R399, R401, R402, R411 to R413).
Model's own readings behind it: logs 12, 43 and 48. -/
def Obligations.TranslationCompletionsFillOrFault : Prop :=
  ∀ (s : State) (i : Nat) (m : Miss) (w : Requester) (acc : AccessKind) (r : TransResult), profileP s = false → s.tr.misses[i]? = some m →
    m.stale = false → m.walking = true → m.stopped = none → m.waiters = [(w, acc)] →
    let ends (p : State → Prop) : Prop := ∃ u, exec (.translationCompletion i r) s = .next (startWalks u) ∧ u.tr.misses = s.tr.misses.eraseIdx i ∧ p u
    (∀ reason : Byte, (r.read = false ∧ r.write = false ∧ reason = rsNotPresent)
        ∨ (r.read = true ∧ r.write = false ∧ isWrite m.access = true ∧ acc ≠ .read ∧ reason = rsWriteDenied) →
      bitOf s.tr.cfg 11 = true → ringFull s = false → invalPending s m.ctx m.va = false → chainSlot s m.ctx (m.va / 4096) acc = none →
      (∃ n, n < 4096 ∧ getFault s n = none) →
      ends (fun u => u.tr.frTail = s.tr.frTail + 1 ∧ (getCtx u m.ctx.toNat).faults = satAdd32 (getCtx s m.ctx.toNat).faults 1
        ∧ (getCtx u m.ctx.toNat).lastAddr = BitVec.ofNat 64 m.va
        ∧ ∃ n f, n < 4096 ∧ getFault s n = none ∧ getFault u n = some f ∧ f.ctx = m.ctx ∧ f.page = m.va / 4096 ∧ f.reason = reason
          ∧ f.access = acc ∧ f.recorded = true ∧ f.waiters = [w] ∧ .pageRequest m.ctx (BitVec.ofNat 64 m.va) (faultId n f.gen) ∈ u.out))
    ∧ ((r.read = true ∨ r.write = true) → (isWrite m.access = true → r.write = true) →
      (r.cacheable = true → ends (fun u => ∃ e ∈ u.tr.shared, e.ctx = m.ctx ∧ e.va ≤ m.va / 4096 * 4096
        ∧ m.va / 4096 * 4096 < e.va + 4096 * e.pages ∧ e.write = r.write))
      ∧ (r.cacheable = false → ends (fun u => u.tr.shared = s.tr.shared
        ∧ ∃ e, u.tr.once = s.tr.once ++ [(w, e)] ∧ e.ctx = m.ctx ∧ e.va = m.va / 4096 * 4096 ∧ e.pages = 1 ∧ e.write = r.write)))

/-- INVALIDATION_REQUEST removes every translation of its range, of one context or of every page-mode one, keeps every other, makes the walks
under way there stale, and waits; INVALIDATION_COMPLETE ends it once every request of those contexts has been performed: it counts, what
waited for it goes on, and the completion goes to the host or the command's reply says DONE (R404 to R407, R418, R421, R441). -/
def Obligations.InvalidationsComplete : Prop :=
  ∀ (s : State),
    (∀ (itag : BitVec 5) (pasid : Option (BitVec 20)) (addr : W64) (size : Nat),
      let n := 2 ^ (12 + size)
      let lo := addr.toNat - addr.toNat % n
      Gives (exec (.invalidationRequest itag pasid addr size) s) (fun t =>
        (∀ e ∈ t.tr.shared, overlaps s pasid lo (lo + n) e = false)
        ∧ (∀ k, k < 8 → ∀ e ∈ look [] t.tr.micro k, overlaps s pasid lo (lo + n) e = false)
        ∧ (∀ p ∈ t.tr.once, overlaps s pasid lo (lo + n) p.2 = false)
        ∧ (∀ e ∈ s.tr.shared, overlaps s pasid lo (lo + n) e = false → e ∈ t.tr.shared)
        ∧ (∀ m ∈ s.tr.misses, reaches s pasid lo (lo + n) m.ctx m.va = true → m.walking = true → m.stopped = none → { m with stale := true } ∈ t.tr.misses)
        ∧ t.tr.invals = s.tr.invals ++ [⟨pasid, lo, lo + n, .ats itag⟩] ∧ t.out = s.out))
    ∧ (∀ (i : Nat) (v : Inval), s.tr.invals[i]? = some v →
      let counted := releaseHeld { s with tr := { s.tr with invals := s.tr.invals.eraseIdx i, stat := bump s.tr.stat 47 32 1 } }
      (quiet s v.ctx = false → exec (.invalidationComplete i) s = .next s)
      ∧ (quiet s v.ctx = true →
        (∀ itag, v.dest = .ats itag → exec (.invalidationComplete i) s = .next (emit counted (.invalCompletion itag)))
        ∧ (v.dest = .internal → exec (.invalidationComplete i) s = .next counted)
        ∧ (∀ w q, v.dest = .command w q → Gives (exec (.invalidationComplete i) s) (fun t =>
            t.tr = { counted.tr with once := counted.tr.once.filter (fun p => p.1 != .command w q) }
            ∧ ∃ r : ReplyRec, (getWindrow t w).replies = (getWindrow s w).replies ++ [r] ∧ r.seq = q ∧ r.status = stDone ∧ r.detail = 0))))

/-- PAGE_RESPONSE of Profile A and FAULT_TIMEOUT resolve the pending fault they name: success retries its requesters' accesses once the
page's translations are gone, failure and the timeout end them with FAULT_UNRESOLVED; the slot is free again, unless a fault that waited
at its walker takes it. An UNRECORDED fault has no timeout; FAULT_RING_SIGNAL signals FR_VECTOR at most once in 1 microsecond and only
while records wait (R8, R411, R413 to R416).
COMPLETION_TIMEOUT of an outstanding host request ends it, counts in HL_ERR and sets its bit in AER; a store is dropped and its command is
marked; a walk ends as TABLE_POISON, every requester that waits on it refused with FAULT_UNRESOLVED; an unexpected completion changes
nothing (R370, R409, R447, R461).
Model's own readings behind it: log 12. -/
def Obligations.FaultEventsAndTimeoutsComplete : Prop :=
  (
    ∀ (s : State),
      (∀ (id : W16) (slot : Nat) (f : Fault1), profileP s = false → faultNamed s id = some (slot, f) →
        let u := retryFault s slot f
        (quiet u (some f.ctx) = true → exec (.pageResponse id true) s = .next (countInval u))
        ∧ (quiet u (some f.ctx) = false → exec (.pageResponse id true) s = .next { u with tr := { u.tr with
            invals := u.tr.invals ++ [⟨some f.ctx, 4096 * f.page, 4096 * (f.page + 1), .internal⟩] } })
        ∧ exec (.pageResponse id false) s = .next (failFault s slot f)
        ∧ ((∀ m ∈ s.tr.misses, m.stopped = none) → getFault u slot = none ∧ getFault (failFault s slot f) slot = none
          ∧ ∀ e ∈ u.tr.shared, overlaps s (some f.ctx) (4096 * f.page) (4096 * (f.page + 1)) e = false))
      ∧ (∀ (slot : Nat) (f : Fault1), getFault s slot = some f →
        (f.recorded = true → exec (.faultTimeout slot) s = .next (failFault s slot f))
        ∧ (f.recorded = false → exec (.faultTimeout slot) s = .next s))
      ∧ (s.tr.frTail = s.tr.frHead → exec .faultRingSignal s = .next s)
      ∧ (∀ t0, s.tr.lastSignal = some t0 → s.wall < 1000 * wallUnit + t0 → exec .faultRingSignal s = .next s)
      ∧ (s.tr.frTail ≠ s.tr.frHead → (∀ t0, s.tr.lastSignal = some t0 → 1000 * wallUnit + t0 ≤ s.wall) →
        Gives (exec .faultRingSignal s) (fun t => t.tr = { s.tr with lastSignal := some s.wall }
          ∧ (∀ m, vectorMsg s (field s.tr.cfg 10 0) = some m → vectorMasked s (field s.tr.cfg 10 0) = false → s.hl.frozen = false →
            t.out = s.out ++ [m])))
  ) ∧
  (
    ∀ (s : State) (tag : Nat) (r : HostReq),
      (s.hl.hostReqs.find? (fun q => q.tag == tag) = some r →
        let ended := { s with hl := { s.hl with hostReqs := s.hl.hostReqs.erase r, err := bump s.hl.err 47 32 1 } }
        ((s.hl.frozen = true ∨ bitOf s.hl.aerSeverity 14 = false) → Gives (exec (.completionTimeout tag) s) (fun t =>
          field t.hl.err 47 32 = min (field s.hl.err 47 32 + 1) 65535 ∧ t.hl.frozen = s.hl.frozen ∧ bitOf t.hl.aerStatus 14 = true
          ∧ (isAccess r.kind = true → t.hl.hostReqs = s.hl.hostReqs.erase r)
          ∧ (∀ n d m w q, r.kind = .cacheWrite n d m → r.who = .command w q → (getWindrow t w).targetLost = true ∧ t.hostMem = s.hostMem)))
        ∧ (∀ ctx page i m, r.kind = .walk ctx page → s.tr.misses.findIdx? (fun x => x.ctx == ctx && x.va / 4096 == page) = some i →
          s.tr.misses[i]? = some m → exec (.completionTimeout tag) s
            = .next (aerError (m.waiters.foldl (fun u w => refuseWaiter u w.1 m.ctx m.va rsTablePoison stFaultUnresolved) (dropMiss ended i)) 14)))
      ∧ exec (.unexpectedCompletion tag) s = .next s
  )

/-- PTM_SAMPLE keeps the host's time and the tick of the sample while PTM is enabled, and nothing otherwise; HOST_LINK_TRAINED makes the link
up with the rate, width and modules trained, CXL active where it may be, and takes step 7 of the boot (R426, R456, R458, R567).
D3HOT_ENTRY stops memory accesses at once and, with no plan running and no command in progress, completes: the clocks are gated and
the chip leaves its Crop; D0_RETURN lets doorbells in again; WAKE_WAIN with its enable sets PME_Status and signals wake while PME_En
is 1 (R449, R450).
Model's own readings behind it: logs 9 and 40. -/
def Obligations.LinkTrainingAndPowerStates : Prop :=
  (
    ∀ (s : State) (hostTime : W64) (tr : HostTraining),
      (hostUp s = true →
        (bitOf s.hl.ptmControl 0 = true → exec (.ptmSample hostTime) s = .next { s with hl := { s.hl with ptmHost := hostTime, ptmTick := s.globalTick } })
        ∧ (bitOf s.hl.ptmControl 0 = false → exec (.ptmSample hostTime) s = .next s))
      ∧ (grangerUp s = true → 6 ≤ s.boot.step.toNat → s.boot.step ≠ 15 → Gives (exec (.hostLinkTrained tr) s) (fun t =>
        t.hl.linkUp = true ∧ t.hl.rate = tr.rate ∧ t.hl.width = tr.width ∧ t.hl.modules = tr.modules ∧ t.hl.flit256 = tr.flit256
        ∧ t.hl.cxlActive = (tr.cxl && (profileP s || decide (16 ≤ tr.rate.toNat)))
        ∧ (s.boot.step = 6 → t.boot.step = 7) ∧ t.grg = s.grg ∧ t.out = s.out))
  ) ∧
  (
    ∀ (s : State) (link : Nat),
      (grangerUp s = true → s.hl.gated = false → Gives (exec .d3hotEntry s) (fun t =>
        t.hl.d3hot = true ∧ field t.hl.pmcsr 1 0 = 3
        ∧ ((runningSlot s).isSome = true ∨ commandsBusy s = true → t.hl.gated = false)
        ∧ (runningSlot s = none → commandsBusy s = false → t.hl.gated = true ∧ t.crop.member = false)))
      ∧ (s.hl.d3hot = true → exec .d0Return s
          = .next { s with hl := { s.hl with d3hot := false, gated := false, pmcsr := setField s.hl.pmcsr 1 0 0 } })
      ∧ (grangerUp s = true →
        (bitOf s.hl.cfg 27 = true → Gives (exec (.wakeWain link) s) (fun t => bitOf t.hl.pmcsr 15 = true
          ∧ (bitOf s.hl.pmcsr 8 = true → t.out = s.out ++ [.wake]) ∧ (bitOf s.hl.pmcsr 8 = false → t.out = s.out)))
        ∧ (bitOf s.hl.cfg 27 = false → exec (.wakeWain link) s = .next s))
  )

/-- PORT_FREEZE sets its cause bit in HL_CONTAIN, freezes the port and ends every outstanding access of the host, and every walk that reads
host memory; the surprise loss of the link takes the link down too (R454, R459).
After SELF_RESET, HOT_RESET and FUNCTION_LEVEL_RESET every context is UNBOUND, every granule of the pool is FREE, every Windrow is
disabled with nothing in progress, no slot has a run, the configuration registers hold their reset values, and the queue is
untouched; the self-reset frees the Loft's granules too, the other two keep them (R341, R452, R453).
Model's own readings behind it: logs 2, 6 and 40. -/
def Obligations.FreezeAndResets : Prop :=
  (
    ∀ (s : State) (cause : FreezeCause), grangerUp s = true → Gives (exec (.portFreeze cause) s) (fun t =>
      t.hl.frozen = true ∧ bitOf t.hl.contain (match cause with | .surpriseDown => 0 | .fatal => 1 | .viral => 2) = true
      ∧ (∀ r ∈ t.hl.hostReqs, isAccess r.kind = false) ∧ ((∀ m ∈ s.tr.misses, m.walking = true) → t.hl.hostReqs = [])
      ∧ t.hl.linkUp = (s.hl.linkUp && cause != .surpriseDown))
  ) ∧
  (
    ∀ (s : State), grangerUp s = true →
      let cleared (t : State) : Prop := (∀ n, (getCtx t n).state = .unbound) ∧ (∀ g, look 0 t.mem.owner g = 0)
        ∧ (∀ w, bitOf (getWindrow t w).cfg 0 = false ∧ (getWindrow t w).inprog = [] ∧ (getWindrow t w).accepted = [] ∧ (getWindrow t w).replies = [])
        ∧ (∀ n, n < 16 → (getSlot t n).run = none) ∧ t.hl.cfg = 0x0000000A ∧ t.cache.cfg = 0x00003007 ∧ t.wain.cfg = 0x003C0032 ∧ t.hl.frozen = false
      Gives (exec .hotReset s) (fun t => cleared t ∧ t.cache.loftOwner = s.cache.loftOwner)
      ∧ Gives (exec .functionLevelReset s) (fun t => cleared t ∧ t.cache.loftOwner = s.cache.loftOwner)
      ∧ (s.hl.d3hot = false → s.hl.linkUp = false → Gives (exec .selfReset s) (fun t => cleared t ∧ t.cache.loftOwner = []))
  )

/-! ## Coherence -/

/-- A request of R351 (RDS, RDO, UPG, RDCUR, WRLINE or ATOM) that its home refuses is answered so and changes no line. One whose agent already fills the line joins that entry, and one
for which no entry is free waits for one. Any other reaches its home, whose tags and directory entry are checked: on a BUSY line, behind a
starving request, or with the queue full, it gets NACK and changes no line, and so does an UPG of an agent that holds no copy, to be asked
again as RDO. An admitted one joins the fill of its line at the slice; or it sends every snoop it needs and makes its line BUSY; or it opens
the fill that answers it; or it is answered at once, with the state R351 grants (R303, R304, R322, R323, R335, R351, R354 to R356).
Model's own readings behind it: logs 24, 43, 45 and 46. -/
def Obligations.CoherentRequestsAreServed : Prop :=
  ∀ (s : State) (c : Instr) (r : HomeReq), asks c = some r →
    let check := coherentCheck s r.agent r.line r.info.ctx (reqAccess r.req)
    let u := checkHome (openAgentFill s r) r.line
    let kept (v t : State) : Prop := t.mem = v.mem ∧ t.hostMem = v.hostMem ∧ t.cache.bins = v.cache.bins ∧ t.cache.epcs = v.cache.epcs
      ∧ t.cache.granary = v.cache.granary ∧ t.cache.loft = v.cache.loft
    let nacked (v : State) (q : HomeReq) : Prop := Gives (exec c s) (fun t => kept v t ∧ t.cache.dir = v.cache.dir ∧ t.cache.loftDir = v.cache.loftDir
      ∧ t.cache.txns = v.cache.txns ∧ t.out = v.out ++ [.agentNack r.agent r.line] ∧ ∃ n ∈ t.cache.nacks, n.req = q)
    let waits := takesEntry s r && (fillAt s r.agent r.line).isNone && decide (64 ≤ fillsOf s r.agent r.line)
    (∀ st row, check = .refuse st row → Gives (exec c s) (fun t =>
        t.cache = s.cache ∧ t.mem.ram = s.mem.ram ∧ t.hostMem = s.hostMem ∧ ∃ v, t = emit v (.agentRefused r.agent r.line st)))
    ∧ (check = .ok → joinsFill s r = true → Gives (exec c s) (fun t => kept s t ∧ t.out = s.out ∧ t.cache.dir = s.cache.dir
        ∧ ∃ f ∈ t.cache.fills, f.cache = r.agent ∧ f.line = r.line ∧ f.asked = true))
    ∧ (check = .ok → joinsFill s r = false → waits = true → Gives (exec c s) (fun t => kept s t ∧ t.out = s.out ∧ t.cache.dir = s.cache.dir
        ∧ ∃ f ∈ t.cache.fills, f.cache = r.agent ∧ f.line = r.line ∧ f.asked = true ∧ f.granted = none))
    ∧ (check = .ok → joinsFill s r = false → waits = false →
      let denied := turnedAway u r.agent r.line false
      let notHeld := r.req == .upg && !isHolder u (dirGet u r.line) r.agent r.line
      (denied = true → nacked u r)
      ∧ (denied = false → notHeld = true → nacked u { r with req := .rdo })
      ∧ (denied = false → notHeld = false → roomFor u r = none → nacked u r)
      ∧ (∀ w, denied = false → notHeld = false → roomFor u r = some w →
        let v := frontNote (nackClear w r) r
        let k := snoopsFor v (dirGet v r.line) r
        let filling := v.cache.fills.any (fun f => f.cache == 12 && f.line == r.line)
        let x := homeFinish v r none false false
        (filling = true → Gives (exec c s) (fun t => kept v t ∧ t.out = v.out ∧ t.cache.dir = v.cache.dir
          ∧ ∃ f ∈ t.cache.fills, f.cache = 12 ∧ f.line = r.line ∧ r ∈ f.waiters))
        ∧ (filling = false → k ≠ [] → Gives (exec c s) (fun t => kept v t ∧ t.out = v.out ∧ (dirGet t r.line).busy = true
          ∧ (∃ y, t.cache.txns = v.cache.txns ++ [y] ∧ y.req = r ∧ y.awaiting = k.map (fun p => p.1))
          ∧ t.cache.snoops = v.cache.snoops ++ k.map (fun p => { holder := p.1, line := r.line, kind := p.2 })))
        ∧ (filling = false → k = [] → missesHome v r none = true → Gives (exec c s) (fun t => kept v t ∧ t.cache.dir = v.cache.dir
          ∧ (r.line.space ≠ 1 → t.out = v.out) ∧ ∃ f ∈ t.cache.fills, f.cache = 12 ∧ f.line = r.line ∧ f.waiters = [r]))
        ∧ (filling = false → k = [] → missesHome v r none = false → exec c s = .next (sendAnswer x.2 r x.1)
          ∧ (r.req = .rds → keepsCopies v r.agent = true →
            ((dirGet v r.line).state = .uncached → x.1.coh = .exclusive) ∧ ((dirGet v r.line).state = .shared → x.1.coh = .forward))
          ∧ (r.req = .rdo → keepsCopies v r.agent = true → x.1.coh = .exclusive ∨ x.1.coh = .modified)
          ∧ (r.req = .upg → x.1.coh = .exclusive) ∧ (r.req = .rdcur → x.1.coh = .invalid))))

/-- A snoop on its way reaches its holder: FWD_S leaves a held copy in S, CUR leaves it as it is, the others drop it, and the answer carries
the data that R351 gives, read from the holder's array; the tags of the holder's set are checked first; with no snoop on its way nothing
changes (R335, R336, R351, R357).
Model's own readings behind it: logs 24 and 45. -/
def Obligations.SnoopsActAtTheirHolders : Prop :=
  ∀ (s : State) (c : Instr) (k : SnoopKind) (a : Nat) (l : LineAddr), snoops c = some (k, a, l) →
    let sent := s.cache.snoops.find? (fun x => x.holder == a && x.line == l && x.kind == k && !x.done)
    let u := checkSet s a l
    let held := agentCopy u a l
    let gives := snoopGives k (held.map (fun p => (p.1, (copyRead u a l).1)))
    let v := if gives.isSome then (copyRead u a l).2 else u
    let copies (t w : State) : Prop := t.cache.bins = w.cache.bins ∧ t.cache.epcs = w.cache.epcs ∧ t.cache.fills = w.cache.fills
    (sent = none → exec c s = .next s)
    ∧ (∀ x, sent = some x → Gives (exec c s) (fun t =>
        t.cache.snoops = s.cache.snoops.map (fun y => if y = x then
          { x with done := true, content := gives.map (fun p => p.1), dirty := (gives.map (fun p => p.2)).getD false } else y)
        ∧ (held.isNone = true ∨ k = .cur → copies t v)
        ∧ (held.isSome = true → k = .fwdS → copies t (agentSet v a l .shared))
        ∧ (held.isSome = true → k = .fwdI ∨ k = .inv ∨ k = .invD → copies t (agentSet v a l .invalid))
        ∧ t.mem = u.mem ∧ t.out = u.out ∧ (a < 12 → t.cache.granary = u.cache.granary) ∧ t.cache.dir = u.cache.dir ∧ t.cache.txns = u.cache.txns))

/-- SNOOP_RESPONSE with answers still missing only leaves its transaction awaiting the others; with the last one the line leaves BUSY, and the
home fetches the line or answers. NACK_RETRY brings the NACKed request to its home again. FILL_ARRIVAL of a slice's fill places the line and
answers the requests that joined; that of a granted line places it and answers its requester, or waits while no way is eligible; that of
a prefetch asks the home. OFFER of a modified copy drops it and gives its data to the home, which forgets the holder.
STORE_BUFFER_PERFORM performs an entry that the order of R367 lets go, and no other (R322, R323, R328, R331, R351, R354, R356, R367).
NEAR_ATOMIC on a line of device memory or of the Loft that the agent holds in M or E under its context performs the operation in place and
returns the old value; every other line the agent holds keeps its data; on a host line it runs on the Granary's copy (R304, R336,
R358 to R361). The operation gives the value R358's table names and leaves the line's other bytes; of a poisoned word it gives no data (R301).
Model's own readings behind it: logs 24, 43, 45 and 46. -/
def Obligations.CoherenceEventsAndAtomicsComplete : Prop :=
  (
    ∀ (s : State) (a i : Nat) (l : LineAddr),
      (∀ x t0, s.cache.snoops.find? (fun x => x.holder == a && x.line == l && x.done) = some x → s.cache.txns.find? (fun t => t.req.line == l) = some t0 →
        let t1 : Txn := { t0 with awaiting := t0.awaiting.erase a, content := x.content.or t0.content, dirtySeen := t0.dirtySeen || x.dirty }
        let u : State := { s with cache := { s.cache with
          snoops := s.cache.snoops.erase x, txns := s.cache.txns.map (fun t => if t = t0 then t1 else t) } }
        let v : State := { u with cache := { u.cache with txns := u.cache.txns.erase t1 } }
        let w := dirPut v t0.req.line { dirGet v t0.req.line with busy := false }
        let y := homeFinish w t0.req t1.content t1.dirtySeen t1.held
        (t1.awaiting ≠ [] → exec (.snoopResponse a l) s = .next u)
        ∧ (t1.awaiting = [] → missesHome w t0.req t1.content = true → exec (.snoopResponse a l) s = .next (joinSlice w t0.req t0.reserved))
        ∧ (t1.awaiting = [] → missesHome w t0.req t1.content = false → exec (.snoopResponse a l) s = .next (sendAnswer y.2 t0.req y.1)))
      ∧ (∀ n, s.cache.nacks.find? (fun n => n.req.agent == a && n.req.line == l) = some n →
        exec (.nackRetry a l) s = .next (requestHome s n.req true))
      ∧ (∀ f, s.cache.fills.find? (fun f => f.cache == a && f.line == l) = some f → fillActive s f = true →
        let e : State := { s with cache := { s.cache with fills := s.cache.fills.erase f } }
        let r := homeRun e (readReq a a l f.req f.ctx (f.how == .streaming))
        (a = 12 → canPlace s 12 l = false → exec (.fillArrival a l) s = .next s)
        ∧ (a = 12 → canPlace s 12 l = true → ∀ w, cacheFind s 12 l = some w → exec (.fillArrival a l) s = .next (f.waiters.foldl serveWaiter e))
        ∧ (a = 12 → canPlace s 12 l = true → cacheFind s 12 l = none →
            let d := fillRead e f
            exec (.fillArrival a l) s
              = .next (f.waiters.foldl serveWaiter (granaryInsert d.2 l d.1 false (fillOwns f) (insertAge (fillHow e f)))))
        ∧ (a ≠ 12 → ∀ c x, f.granted = some (c, x) →
          (canPlace e a l = true → f.asked = true → exec (.fillArrival a l) s
              = .next (emit (agentPlace e a l c x f.ctx f.how) (.agentData a l (cohName c) (some x))))
          ∧ (canPlace e a l = true → f.asked = false → exec (.fillArrival a l) s = .next (agentPlace e a l c x f.ctx f.how))
          ∧ (canPlace e a l = false → exec (.fillArrival a l) s = .next { s with cache := { s.cache with fills := s.cache.fills.erase f ++ [f] } }))
        ∧ (a ≠ 12 → f.granted = none → fillComes s f = true → coherentCheck e a l f.ctx (reqAccess f.req) = .ok → exec (.fillArrival a l) s
            = .next (placeFill r.2 f r.1.coh (r.1.data.getD poisonLine))))
      ∧ (∀ w, a < 12 → cacheFind (checkHome (checkSet s a l) l) a l = some w → w.coh = .modified → Gives (exec (.offer a l) s) (fun t =>
          let u := homeTakeDirty (cacheDrop (checkHome (checkSet s a l) l) a l) l w.content
          t = dirPut u l (removeHolder (dirGet u l) a)))
      ∧ (∀ e, (getBuf s a)[i]? = some e → canSend s e = true →
        (mayPerform (getBuf s a) i = true → exec (.storeBufferPerform a i) s
          = .next (freeBuf (performEntry (setBuf s a ((getBuf s a).eraseIdx i)) a e) a))
        ∧ (mayPerform (getBuf s a) i = false → exec (.storeBufferPerform a i) s = .next s))
  ) ∧
  (
    (∀ (s : State) (a : Nat) (l : LineAddr) (q : ReqInfo) (args : AtomArgs), keepsCopies s a = true → coherentCheck s a l q.ctx .atomic = .ok →
      (l.space = 1 → let r := farRun s a l q.ctx args
        exec (.nearAtomic a l q args) s = .next (emit r.after (.atomResult a r.olds r.contended r.poison)))
      ∧ (∀ w, l.space ≠ 1 → (getWays s a l).all (fun v => wayFind a v == .good) = true → fillAt s a l = none →
        cacheFind s a l = some w → w.ctx = q.ctx → w.coh = .modified ∨ w.coh = .exclusive →
        let x := atomLine (lineSettle w.content) args
        Gives (exec (.nearAtomic a l q args) s) (fun t =>
          t.out = s.out ++ [.atomResult a x.olds false x.poison]
          ∧ (∃ v, cacheFind t a l = some v ∧ v.coh = (if x.wrote then .modified else w.coh) ∧ v.age = 0 ∧ v.ctx = w.ctx ∧ v.content = x.after)
          ∧ (∀ b m, (b ≠ a ∨ m ≠ l) → b ≤ 12 → cacheFind t b m = cacheFind s b m) ∧ t.mem = s.mem ∧ t.hostMem = s.hostMem)))
    ∧ (∀ (x : Line) (op : BitVec 4) (size : BitVec 3) (off : Nat) (v cmp : BitVec 128), lineSettle x = x →
      atomOk ⟨op, size, off, [(v, cmp)]⟩ = true →
      let n := 8 * sizeBytes size
      let old := fieldLE x.data off (sizeBytes size)
      let v' := v.toNat % 2 ^ n
      let r := atomLine x ⟨op, size, off, [(v, cmp)]⟩
      let new := fieldLE r.after.data off (sizeBytes size)
      (wordsPoisoned x off (sizeBytes size) = false →
        r.olds = [BitVec.ofNat 128 old] ∧ r.poison = false ∧ (r.wrote = true ↔ (op = 9 → old = cmp.toNat % 2 ^ n))
        ∧ (op = 0 → new = (old + v') % 2 ^ n) ∧ (op = 1 → new = old &&& v') ∧ (op = 2 → new = old ||| v') ∧ (op = 3 → new = old ^^^ v')
        ∧ (op = 4 → signed n new = max (signed n old) (signed n v')) ∧ (op = 5 → signed n new = min (signed n old) (signed n v'))
        ∧ (op = 6 → new = max old v') ∧ (op = 7 → new = min old v') ∧ (op = 8 → new = v')
        ∧ (op = 9 → new = if old = cmp.toNat % 2 ^ n then v' else old)
        ∧ (∀ j, j < 64 → j < off ∨ off + sizeBytes size ≤ j → r.after.data.getD j 0 = x.data.getD j 0))
      ∧ (wordsPoisoned x off (sizeBytes size) = true → r.poison = true ∧ r.olds = [0] ∧ (op ≠ 8 → r.after = x)))
  )

/-- The coherence commands leave everything but lines, their directory and queues, memory, counters and records as it was (R303, R351): the
queue, the clocks, the Windrows, plans, Tillers and units, both owner tables and the placement regions; and the Wain and the Crop, unless a
tag or a directory entry whose two copies both fail is reported towards the root (R335, R347).
Model's own readings behind it: log 45. -/
def Obligations.CoherenceLeavesTheRest : Prop :=
  ∀ (s t : State) (c : Instr), exec c s = .next t →
    ((asks c).isSome = true ∨ (snoops c).isSome = true
      ∨ (∃ a l, c = .offer a l ∨ c = .snoopResponse a l ∨ c = .nackRetry a l ∨ c = .fillArrival a l)
      ∨ (∃ a l q args, c = .nearAtomic a l q args)) →
    t.pending = s.pending ∧ t.tick = s.tick ∧ t.ctb = s.ctb ∧ t.globalTick = s.globalTick ∧ t.grg = s.grg ∧ t.slots = s.slots ∧ t.tillers = s.tillers
    ∧ t.units = s.units ∧ t.sheaves = s.sheaves ∧ t.reds = s.reds ∧ (t.err.reported = s.err.reported → t.wain = s.wain ∧ t.crop = s.crop) ∧ t.ep = s.ep ∧ t.margin = s.margin
    ∧ t.mem.owner = s.mem.owner ∧ t.mem.poolGib = s.mem.poolGib ∧ t.cache.loftOwner = s.cache.loftOwner ∧ t.cache.loftWays = s.cache.loftWays
    ∧ t.hl.frozen = s.hl.frozen ∧ t.hl.regions = s.hl.regions ∧ t.tr.segs = s.tr.segs ∧ t.tr.shared = s.tr.shared

/-! ## Stacked memory, Tillers and their units -/

/-- GLEAN_LINE reads the next line of its stack's patrol, logs each uncorrectable word and moves on by 64 bytes; CORRECTIVE_WRITEBACK stores
the corrected word and no other; STACK_LOST takes the port down and, in a run, reports the chip as suspect towards the root; STACK_HOT
and STACK_HOT_CLEAR set and clear the port's HOT bit (R290, R295, R309 to R311, R535).
Model's own readings behind it: logs 14, 26 and 47. -/
def Obligations.StackedMemoryCommandsComplete : Prop :=
  ∀ (s : State) (n i : Nat),
    (let pos := look 0 s.mem.gleanPos n
      let line := unplace n pos / 64
      n < 20 → grangerUp s = true → poolUp s = true → bitOf s.mem.gleanCfg 8 = true → pos + 64 < stackBytes s → Gives (exec (.gleanLine n) s) (fun t =>
        look 0 t.mem.gleanPos n = pos + 64 ∧ (∀ k, k ≠ n → look 0 t.mem.gleanPos k = look 0 s.mem.gleanPos k) ∧ t.mem.ram = s.mem.ram
        ∧ t.err.gleanWrites = s.err.gleanWrites + (badWords (ramLine s.mem.ram line)).length ∧ t.cache = s.cache ∧ t.grg = s.grg))
    ∧ (∀ c, s.mem.corr[i]? = some c → Gives (exec (.correctiveWriteback i) s) (fun t =>
        t.mem.corr = s.mem.corr.eraseIdx i ∧ ramWord t.mem.ram c.word = (c.data.toNat, c.chk.toNat)
        ∧ (∀ w, w ≠ c.word → ramWord t.mem.ram w = ramWord s.mem.ram w) ∧ t.cache = s.cache ∧ t.out = s.out))
    ∧ (grangerUp s = true → poolUp s = true → Gives (exec (.stackLost n) s) (fun t =>
        (getPort t n).up = false ∧ (∀ k, k ≠ n → getPort t k = getPort s k) ∧ t.boot.alert = true ∧ t.err.errWrites = s.err.errWrites + 1
        ∧ ((runningSlot s).isSome = true → s.crop.member = true → s.crop.parentLink = 0xFF →
          t.crop.reports = s.crop.reports ++ [.replanned (ownPosition s) (some (ownPosition s)) srcStack])
        ∧ t.tillers = s.tillers ∧ t.mem.ram = s.mem.ram))
    ∧ (alive s = true → (getPort s n).up = true →
      exec (.stackHot n) s = .next (setPort s n { getPort s n with hot := true })
      ∧ exec (.stackHotClear n) s = .next (setPort s n { getPort s n with hot := false }))

/-- The instruction at a Tiller's program counter does what its rule says and changes only that Tiller, SIG's counter excepted: HALT and EBAR
wait for the Tiller's sub-operations; LOOP and ENDL keep the loop stack; AGSET, AGSKIP and AGRST move a generator; TWAIT waits for its
target or adds its lateness to the slip counter; SIG adds; WAITS subtracts or waits; STEP sets the step index. A word read with a single-bit
error is corrected and logged; an uncorrectable one raises an error of class REPLAYED in place of the instruction (R158, R161 to R174).
ISSUE puts its sub-operation at the end of its unit's queue with the step index, the tick and its generators as they stand, and advances
each of those past the runs it gives; with no entry free the Tiller waits, and QUEUE_ENTRY does the same once one is (R168, R175,
R176). No other Tiller and no other unit changes. The entry that counts a reduction's runs is read and checked first (R158, R184).
Model's own readings behind it: logs 22, 24 and 49. -/
def Obligations.TillerInstructionsAndIssueComplete : Prop :=
  (
    ∀ (s : State) (n : Nat),
      let x := getTiller s n
      let w := tillerWord x
      let u := storeNote s n [progStored x]
      let sound := eccBad (progStored x) = false
      let on : Tiller := { x with pc := (x.pc + 1) % 4096, mode := .run, nextTick := s.tick + 1 }
      let sets (v : State) (o : Host.Outcome State Machine.Fault Refusal) (y : Tiller) : Prop := o = .next (setTiller v n y)
      let k := field w 57 55
      let moves (v : State) (o : Host.Outcome State Machine.Fault Refusal) (g : Option Agen) : Prop := sets v o { on with ags := put none x.ags k g }
      let at_ (op : Nat) : Prop := atOp s n op = true ∧ sound
      (∀ c op, (c, op) ∈ [(Instr.tillerNop n, 0x01), (.loop n, 0x02), (.endl n, 0x03), (.agset n, 0x04), (.agskip n, 0x05), (.agrst n, 0x06),
          (.twait n, 0x07), (.sig n, 0x08), (.waits n, 0x09), (.step n, 0x0A), (.issue n, 0x10)] →
        atOp s n op = true → ¬ sound → exec c s = .next (raiseReplayed s srcTillerStore n 0 0 0))
      ∧ (at_ 0x00 → (issuedPending s n = false → sets u (exec (.halt n) s) { x with mode := .halted })
        ∧ (issuedPending s n = true → exec (.halt n) s = .next s))
      ∧ (at_ 0x01 → sets u (exec (.tillerNop n) s) on)
      ∧ (at_ 0x02 → sets u (exec (.loop n) s) { on with loops := (field w 23 0 + 1, (x.pc + 1) % 4096) :: x.loops })
      ∧ (at_ 0x03 → ∀ c body rest, x.loops = (c, body) :: rest →
        (1 < c → sets u (exec (.endl n) s) { on with pc := body, loops := (c - 1, body) :: rest })
        ∧ (c ≤ 1 → sets u (exec (.endl n) s) { on with loops := rest }))
      ∧ (at_ 0x04 → let words := descStored x (field w 7 0)
        (words.any eccBad = false → moves (storeNote u n words) (exec (.agset n) s) (some { desc := tillerDesc x (field w 7 0) }))
        ∧ (words.any eccBad = true → exec (.agset n) s = .next (raiseReplayed u srcTillerStore n 0 0 0)))
      ∧ (at_ 0x05 → ∀ g, look none x.ags k = some g → moves u (exec (.agskip n) s) (some (agSkip g (field w 31 0))))
      ∧ (at_ 0x06 → ∀ g, look none x.ags k = some g → moves u (exec (.agrst n) s) (some { desc := g.desc }))
      ∧ (at_ 0x07 → let target := if bitOf w 57 then x.prevTarget + field w 39 0 else field w 39 0
        (epochTick s < target → sets u (exec (.twait n) s) { x with mode := .waitTick target, prevTarget := target })
        ∧ (target ≤ epochTick s → sets u (exec (.twait n) s)
            { on with prevTarget := target, slip := satAdd32 x.slip (epochTick s + 1 - target) }))
      ∧ (∀ target, x.mode = .waitTick target →
        (target ≤ epochTick s → sets s (exec (.twaitExpiry n) s) { on with nextTick := s.tick })
        ∧ (epochTick s < target → exec (.twaitExpiry n) s = .next s))
      ∧ (at_ 0x08 → field w 57 52 < 53 → Gives (exec (.sig n) s) (fun t =>
        let c := field w 57 52
        look 0 (getTiller t c).incoming (field w 51 48) = look 0 (getTiller s c).incoming (field w 51 48) + field w 15 0
        ∧ (getTiller t c).sc = (getTiller s c).sc ∧ (getTiller t n).pc = (x.pc + 1) % 4096
        ∧ (c ≠ n → getTiller t n = on) ∧ (∀ m, m ≠ n → m ≠ c → getTiller t m = getTiller s m) ∧ t = { u with tillers := t.tillers }))
      ∧ (let passes : Tiller := { on with sc := put 0 x.sc (field w 51 48) (look 0 x.sc (field w 51 48) - field w 15 0) }
        let enough := field w 15 0 ≤ look 0 x.sc (field w 51 48)
        (at_ 0x09 → (enough → sets u (exec (.waits n) s) passes) ∧ (¬ enough → sets u (exec (.waits n) s) { x with mode := .waitSignal }))
        ∧ (x.mode = .waitSignal → (enough → sets s (exec (.waitsPass n) s) passes) ∧ (¬ enough → exec (.waitsPass n) s = .next s)))
      ∧ (at_ 0x0A → sets u (exec (.step n) s) { on with step := field w 15 0 })
      ∧ (at_ 0x0B → (issuedPending s n = false → sets u (exec (.ebar n) s) { x with mode := .barrier })
        ∧ (issuedPending s n = true → exec (.ebar n) s = .next s))
  ) ∧
  (
    ∀ (s : State) (n : Nat),
      let x := getTiller s n
      let w := tillerWord x
      let u := unitOf n w
      let read := storeNote (storeNote s n [progStored x]) n (issueReads n x)
      let queued (b t : State) : Prop :=
        (∃ o, (getUnit t u).queue = (getUnit s u).queue ++ [o] ∧ o.tiller = n ∧ o.word = w ∧ o.step = x.step ∧ o.issued = s.tick
          ∧ o.ags = (issueUses n x).map (fun a => (getAg x a.ag).getD (agLoad [])))
        ∧ (getUnit t u).begun = (getUnit s u).begun ∧ (getTiller t n).pc = (x.pc + 1) % 4096 ∧ (getTiller t n).mode = .run
        ∧ (∀ a ∈ issueUses n x, (∀ b ∈ issueUses n x, b.ag = a.ag → b.runs = a.runs) →
            getAg (getTiller t n) a.ag = (getAg x a.ag).map (fun g => agSkip g a.runs))
        ∧ (∀ k, (∀ a ∈ issueUses n x, a.ag ≠ k) → getAg (getTiller t n) k = getAg x k)
        ∧ t = { b with tillers := t.tillers, units := t.units }
        ∧ (∀ m, m ≠ n → getTiller t m = getTiller s m) ∧ (∀ m, m ≠ u → getUnit t m = getUnit s m)
      (atOp s n 0x10 = true → eccBad (progStored x) = false →
        ((issueReads n x).any eccBad = false →
          (queueRoom s u = true → Gives (exec (.issue n) s) (queued read))
          ∧ (queueRoom s u = false → exec (.issue n) s = .next (setTiller read n { x with mode := .waitQueue })))
        ∧ ((issueReads n x).any eccBad = true →
          exec (.issue n) s = .next (raiseReplayed (storeNote s n [progStored x]) srcTillerStore n 0 0 0)))
      ∧ (x.mode = .waitQueue → (queueRoom s u = true → Gives (exec (.queueEntry n) s) (queued s))
        ∧ (queueRoom s u = false → exec (.queueEntry n) s = .next s))
  )

/-- Skipping n runs leaves an address generator where n steps of ag_step() leave it, at every position its counts allow (R173, R174). -/
def Obligations.SkippingIsRepeatedStepping : Prop :=
  ∀ (g : Agen) (n : Nat), g.p0 < agCount g 0 → g.p1 < agCount g 1 → g.p2 < agCount g 2 → g.p3 < agCount g 3 →
    agSkip g n = (List.range n).foldl (fun x _ => agStep x) g

/-- A Sheaf's sub-operations: LOAD fills the buffer of its turn with the rows its runs hold; PASS pushes one node onto every element of its
region, each the K-block sum of its activation row and weight row, in every Sheaf of its SHARE mask in the same step and under one hold,
and unlike run addresses of a shared PASS are an error of class REPLAYED; OPEN claims a region with no push, a chained one with the running
values of its Rick's reduction; FREE ends its claim; REGION_FINISH finishes a region whose range is complete and signals its counter
(R86, R97, R107, R110, R114, R116, R117, R179, R180, R182, R183, R585).
Model's own readings behind it: logs 15, 22, 24, 28 and 51. -/
def Obligations.SheafSubopsComplete : Prop :=
  ∀ (s v : State) (n : Nat) (o : SubOp) (m : LineMap),
    let g := opAg o 0
    let sh := getSheaf s n
    let ranges (k : Nat) := ((List.range k).map (agRun g)).flatMap (fun x => runRange x :: runScales x)
    let begun (t u : State) (k done : Nat) (q : SubOp) : Prop := (getUnit t k).queue = (getUnit u k).queue.drop 1
      ∧ (getUnit t k).begun = (getUnit u k).begun ++ [⟨q, some done, done, 0⟩] ∧ ∀ j, j ≠ k → getSheaf t j = getSheaf u j
    let entry (q : SubOp) := descStored (getTiller s q.tiller) (field q.word 39 32)
    let u := storeNote s o.tiller (entry o)
    let named := opRegion s o
    (headOp s n .feed 0 = some o → planRead s n o srcPoisonUse (ranges (256 * lanesOf (field o.word 15 14))) = (some m, v) →
      Gives (exec (.loadTile n) s) (fun t =>
        let old := getSheaf v n
        let lanes := lanesOf (field o.word 15 14)
        ∃ tile done, begun t v n done o ∧ (getSheaf t n).loads = old.loads + 1 ∧ (getSheaf t n).store = old.store
          ∧ (old.loads % 2 = 0 → (getSheaf t n).buf0 = tile ∧ (getSheaf t n).buf1 = old.buf1)
          ∧ (old.loads % 2 = 1 → (getSheaf t n).buf1 = tile ∧ (getSheaf t n).buf0 = old.buf0)
          ∧ tile.fmt = dFmt g.desc ∧ tile.sch = dSch g.desc ∧ tile.lanes = lanes ∧ tile.kblk = field o.word 39 24
          ∧ tile.len = field o.word 23 16 + 1 ∧ tile.rows.length = 256 * lanes ∧ tile.parity = tileParity tile ∧ done = tileLast tile
          ∧ ∀ r, r < 256 * lanes → (tile.rows.getD r ⟨[], [], []⟩).codes = runCodes m (agRun g (r % 256 * lanes + r / 256))))
    ∧ (∀ p rest, passOps s n = some (p :: rest) → (∀ q ∈ p :: rest, passMay s q = true) →
      let ps := p :: rest
      let addrs (q : Nat × SubOp) : List Nat := (passRuns q.2).map runAddr
      let words (q : Nat × SubOp) := storeWords (getSheaf v q.1).store (passReads v q)
      let stored (q : Nat × SubOp) := descStored (getTiller v q.2.tiller) (field q.2.word 39 32)
      ((∃ q ∈ ps, addrs q ≠ addrs p) → exec (.passRows n) s
        = .next (raiseReplayed s srcSignal n 0 (unitIssuer s n p.2.tiller).ctx.toNat 0))
      ∧ ((∀ q ∈ ps, addrs q = addrs p) →
        planRead s n p.2 srcPoisonUse (ps.flatMap (fun q => (passRuns q.2).flatMap (fun x => runRange x :: runScales x))) = (some m, v) →
        (∀ q ∈ ps, (stored q).any eccBad = false ∧ (words q).any eccBad = false ∧ tileSound (bufOf (getSheaf v q.1) (getSheaf v q.1).passes) = true) →
        let w := ps.foldl (fun x q => entryNote (storeNote x q.2.tiller (stored q)) q.1 (words q)) v
        exec (.passRows n) s
          = .next (ps.foldl (runPass m (Config.passHold w.freeCtr)) (freshFree (endTask w (.tiller p.2.tiller))).2)))
    ∧ (∀ (x : State) (k hold : Nat) (q : SubOp) (r : Region), passTarget x (k, q) = some r →
      let a := opAg q 0
      let old := getSheaf x k
      let tile := bufOf old old.passes
      let width := 256 * tile.lanes
      let node (e : Nat) : Flagged := if e / width < field q.word 31 16 + 1 then
          passNode r.acc (dFmt a.desc) (runCodes m (agRun a (e / width))) (if tile.sch = 0 then [] else runBlocks m (agRun a (e / width))) tile (e % width)
        else (0, 0)
      let z := pushRegion old.store r (runOrder x) node
      let cold := freezeSheaf x k hold
      let t := runPass m hold x (k, q)
      let done := x.tick + passSpan (pairStep (dFmt a.desc) tile.fmt) (field q.word 31 16 + 1) + hold
      begun t cold k done q ∧ (getSheaf t k).store = z.1 ∧ (getSheaf t k).passes = old.passes + 1
      ∧ (getSheaf t k).buf0 = (getSheaf cold k).buf0 ∧ (getSheaf t k).buf1 = (getSheaf cold k).buf1
      ∧ (getSheaf t k).hold = satAdd32 old.hold (hold + passWait x (k, q))
      ∧ (getSheaf t k).regions = (getSheaf cold k).regions.map (fun y => if y.rbase = r.rbase then
          { r with pushes := r.pushes + 1, flags := orFlags r.flags z.2, step := q.step, passEnd := done } else y))
    ∧ (headOp s n .feed 2 = some o → (entry o).any eccBad = false →
      let r := regionFrom named o.step
      (isChained (runOrder s) r = false → Gives (exec (.openRegion n) s) (fun t => begun t s n s.tick o
        ∧ getSheaf t n = { sh with regions := sh.regions ++ [r] }))
      ∧ (isChained (runOrder s) r = true →
        (chainFrom u n r = none → exec (.openRegion n) s = .next u)
        ∧ (∀ q, chainFrom u n r = some q → planRead u n o srcNodeSet (workRanges q true) = (some m, v) →
          Gives (exec (.openRegion n) s) (fun t => begun t v n v.tick o
            ∧ getSheaf t n = { getSheaf v n with
                store := chainStore (getSheaf v n).store r m q, regions := (getSheaf v n).regions ++ [{ r with chained := true }] }))))
    ∧ (headOp s n .feed 3 = some o → (entry o).any eccBad = false → Gives (exec (.freeRegion n) s) (fun t => begun t s n s.tick o
        ∧ getSheaf t n = { sh with regions := sh.regions.filter (fun x => x.rbase != gRbase named) }))
    ∧ (∀ r, sh.regions.find? (fun x => x.rbase == r.rbase) = some r → r.finished = false → r.pushes = r.nblk →
      r.passEnd + finishTime r (runOrder s) + 1 ≤ s.tick →
      (storeWords sh.store (if r.finish then regionEntries (runOrder s) r else [])).any eccBad = false →
      Gives (exec (.regionFinish n r.rbase) s) (fun t =>
        let p := if r.finish then finishRegion sh.store r (runOrder s) else (sh.store, 0)
        (getSheaf t n).store = p.1
        ∧ (getSheaf t n).regions = sh.regions.map (fun x => if x.rbase = r.rbase then { r with finished := true, flags := orFlags r.flags p.2 } else x)
        ∧ (r.sigt < 53 → look 0 (getTiller t r.sigt).incoming r.sigc = look 0 (getTiller s r.sigt).incoming r.sigc + 1)
        ∧ t.units = s.units ∧ ∀ k, k ≠ n → getSheaf t k = getSheaf s k))

/-- The sub-operations of Threshers and Winnowers: NPUSH and LPUSH push their set and leave the reduction expecting what follows it, a set that is
not the one expected is discarded and the run replays; NSEND and RFIN write what the stacks hold and empty the reduction; WIN writes the
runs of its function. Each begins when its reads and writes go through, occupies its unit for its combinations, and counts the flags it
raises (R86, R121 to R128, R132, R158, R184, R185).
Model's own readings behind it: logs 24, 33, 52 and 53. -/
def Obligations.ReductionSubopsComplete : Prop :=
  ∀ (s v v1 v2 : State) (n : Nat) (o : SubOp) (m m1 : LineMap),
    let u := 16 + n
    let entry := descStored (getTiller s o.tiller) (field o.word 39 32)
    let b := storeNote s o.tiller entry
    let r := opReduction b o
    let order := redV1 b r
    let g := opAg o 0
    let occupied (x t : State) (count : Nat) : Prop := (getUnit t u).queue = (getUnit x u).queue.drop 1
      ∧ ∃ done, done = x.tick + ceilDiv count (if r.acc = 0 then 128 else 256)
        ∧ (getUnit t u).begun = (getUnit x u).begun ++ [⟨o, some done, done, 0⟩] ∧ (getUnit t u).freeTick = done
    let others (x : State) := x.reds.filter (fun q => !(q.rick == r.rick && q.red == r.red))
    let empties (x t : State) (count : Nat) : Prop := occupied x t count ∧ t.reds = others x
    let moves (x t : State) (hi count flags : Nat) : Prop := occupied x t count
      ∧ t.reds = others x ++ [{ r with next := hi, flags := orFlags r.flags flags }]
    (headOp s u .thresher 0 = some o → entry.any eccBad = false → dSrc g.desc ≠ 1 →
      let a := runAddr g % 2 ^ 56
      let h := parseHead (mapBytes m a 32)
      let c := stackCount order h.lo h.hi
      let w := accBytes r.acc
      let nodes (e : Nat) := setNodes order h.lo h.hi ((List.range c).map (fun j => leNat (mapBytes m1 (a + 32 + (e * c + j) * w) w)))
      let p := pushAll m1 r order false nodes
      planRead b u o srcNodeSet [(a, 32)] = (some m, v) →
      (headOk r (plannedEnds v a r.next) h = false → exec (.npush n) s = .next (setMismatch v u o a))
      ∧ (headOk r (plannedEnds v a r.next) h = true → redV1 v r = order →
        planRead v u o srcNodeSet ((a + 32, c * w * h.ecount) :: workRanges r order) = (some m1, v1) →
        (planWrite v1 u o (stackWrites r p.1)).1 = some v2 →
        Gives (exec (.npush n) s) (fun t => moves v2 t h.hi (c * h.ecount) (h.flags % 64 ||| p.2))))
    ∧ (∀ x, headOp s u .thresher 0 = some o → entry.any eccBad = false → dSrc g.desc = 1 →
      let k := 4 * n + dSheaf g.desc
      let sh := getSheaf b k
      let h : SetHead := ⟨r.tensor, x.lo, x.lo + x.nblk, r.elem0, x.ecount, x.acc, 0, x.flags.toNat⟩
      let nodes (e : Nat) := setNodes order x.lo (x.lo + x.nblk) (stackVals sh.store x order e)
      let whole := order && x.chained
      let words := storeWords sh.store (regionEntries order x)
      let p := pushAll m r order whole nodes
      sh.regions.find? (fun x => 1024 * x.rbase == runAddr g * accBytes x.acc && x.finished && !x.finish) = some x →
      (headOk r (some [x.lo + x.nblk]) h = false → exec (.npush n) s = .next (setMismatch b u o 0))
      ∧ (headOk r (some [x.lo + x.nblk]) h = true → words.any eccBad = false → redV1 (entryNote b k words) r = order →
        planRead (entryNote b k words) u o srcNodeSet (if whole then [] else workRanges r order) = (some m, v) →
        (planWrite v u o (stackWrites r p.1)).1 = some v2 →
        Gives (exec (.npush n) s) (fun t => moves v2 t (x.lo + x.nblk) (regionCount order x * x.ecount) (x.flags.toNat ||| p.2))))
    ∧ (headOp s u .thresher 1 = some o → entry.any eccBad = false →
      let lo := field o.word 31 16
      let leaf (e : Nat) := (runVals m (agRun g e)).map (leafInto r.acc)
      let nodes (e : Nat) : List Node := (List.range (leaf e).length).map (fun i => ⟨0, lo + i, ((leaf e).getD i (0, 0)).1⟩)
      let rounded := (List.range r.ecount).foldl (fun f e => (leaf e).foldl (fun f x => f ||| x.2) f) 0
      let p := pushAll m r order false nodes
      planRead b u o srcNodeSet ((List.range r.ecount).flatMap (fun e => runRange (agRun g e) :: runScales (agRun g e)) ++ workRanges r order)
        = (some m, v) →
      (planWrite v u o (stackWrites r p.1)).1 = some v2 →
      Gives (exec (.lpush n) s) (fun t => moves v2 t (lo + dRun g.desc) (r.ecount * dRun g.desc) (rounded ||| p.2)))
    ∧ (headOp s u .thresher 2 = some o → entry.any eccBad = false →
      let h : SetHead := ⟨r.tensor, r.nlo, r.nhi, r.elem0, r.ecount, r.acc, r.kind, r.flags.toNat⟩
      planRead b u o srcNodeSet (workRanges r order) = (some m, v) →
      (planWrite v u o [(runAddr g % 2 ^ 56, pad64 (headBytes h
        ++ (List.range r.ecount).flatMap (fun e => (workVals m r order e).flatMap (toLE (accBytes r.acc)))))]).1 = some v2 →
      Gives (exec (.nsend n) s) (fun t => empties v2 t (redCount r order * r.ecount)))
    ∧ (headOp s u .thresher 3 = some o → entry.any eccBad = false →
      let k := max 1 (dRun g.desc)
      let runs := List.range (ceilDiv r.ecount k)
      let res := runs.map (fun i => finishRun b o m r order (agRun g i) (i * k) (min k (r.ecount - i * k)))
      planRead b u o srcNodeSet (workRanges r order) = (some m, v) →
      (planWrite v u o (runs.map (fun i => (runAddr (agRun g i) % 2 ^ 56, (res.getD i ([], 0)).1)))).1 = some v2 →
      Gives (exec (.rfin n) s) (fun t => empties v2 t ((redCount r order - 1) * r.ecount)))
    ∧ (headOp s (20 + n) .thresher 4 = some o →
      let arity := winOperands (field o.word 42 37)
      let from_ := (List.range arity).flatMap (fun k => if dSrc (opAg o k).desc = 1 then []
        else (List.range (field o.word 21 0 + 1)).flatMap (fun i => runRange (agRun (opAg o k) i) :: runScales (agRun (opAg o k) i)))
      let words (p : Nat × List Nat) := storeWords (getSheaf s p.1).store p.2
      let z := (winEntries s n o).foldl (fun x p => entryNote x p.1 (words p)) s
      let ws := winRuns z n o m
      (∀ p ∈ winEntries s n o, (words p).any eccBad = false) →
      planRead z (20 + n) o srcPoisonUse from_ = (some m, v) →
      (planWrite v (20 + n) o (ws.flatMap (fun x => x.writes))).1 = some v2 →
      Gives (exec (.win n) s) (fun t => (getUnit t (20 + n)).queue = (getUnit v2 (20 + n)).queue.drop 1
        ∧ (∃ done, (getUnit t (20 + n)).begun = (getUnit v2 (20 + n)).begun ++ [⟨o, some done, done, 0⟩])
        ∧ t.reds = v2.reds
        ∧ t.crop = (noteStep v2 o.step (ws.foldl (fun f x => f ||| x.flags) 0) (ws.foldl (fun k x => k + x.vanish) 0)).crop))

/-- SEND and XSEND queue the lines of their runs on their link when their turn comes; RECV and XRECV begin, write each line of their transfer
that arrives at its place and return its credit, and after the last one are complete at the transfer's release tick; COPY and ZERO of a
copy engine begin when their reads and writes go through, PREF when every line it brings may be read; a completed sub-operation leaves its
unit and adds 1 to the counter its ISSUE names (R177, R186 to R188, R211, R272, R273).
Model's own readings behind it: logs 22, 24, 44, 52 and 54. -/
def Obligations.MovingSubopsComplete : Prop :=
  ∀ (s v v2 : State) (n : Nat) (o : SubOp) (m : LineMap),
    let begun (u : Nat) (x t : State) (d : Option Nat) (e : Nat) : Prop := (getUnit t u).queue = (getUnit x u).queue.drop 1
      ∧ (getUnit t u).begun = (getUnit x u).begun ++ [⟨o, d, e, 0⟩]
    let g := opAg o 0
    let sends (u link runs : Nat) (c : Instr) (crop : Bool) : Prop := Gives (exec c s) (fun t =>
      (∃ e, begun u v t none e) ∧ (getLink t link).tx0 = (getLink v link).tx0 ++ (moveLines g runs).map (fun d => (mapLine m d).data)
      ∧ (getLink t link).lastXsend = crop ∧ (getLink t link).sentSeq = (getLink v link).sentSeq + 1 ∧ ∀ k, k ≠ link → getLink t k = getLink v k)
    (headOp s (25 + n) .wain 0 = some o →
      (sendTurn s n false (xsendFor s n) = false → exec (.send n) s = .next s)
      ∧ (sendTurn s n false (xsendFor s n) = true →
        planRead s (25 + n) o srcWainXfer ((moveLines g (field o.word 39 20 + 1)).map (fun d => (d, 64))) = (some m, v) →
        sends (25 + n) n (field o.word 39 20 + 1) (.send n) false))
    ∧ (headOp s 24 .crop 0 = some o →
      let link := field o.word 39 35
      let turn := sendTurn s link true (headOp s (25 + link) .wain 0).isSome
      (turn = false → exec .xsend s = .next s)
      ∧ (turn = true → planRead s 24 o srcWainXfer ((moveLines g (field o.word 34 15 + 1)).map (fun d => (d, 64))) = (some m, v) →
        sends 24 link (field o.word 34 15 + 1) .xsend true))
    ∧ (headOp s (25 + n) .wain 1 = some o → (getLink s n).rx0 = [] → exec (.recv n) s = .next (beginOp s (25 + n) o none s.tick))
    ∧ (headOp s 24 .crop 1 = some o → (∀ k, (getLink s k).rx0 = []) → exec .xrecv s = .next (beginOp s 24 o none s.tick))
    ∧ (∀ b line d rest, headOp s (25 + n) .wain 1 = none → openReceive s (25 + n) n false = some b → receiveTurn s n false = true →
      (getLink s n).rx0 = [line] → (moveLines (opAg b.op 0) (field b.op.word 39 20 + 1)).drop b.placed = d :: rest →
      (planWrite s (25 + n) b.op [(d, line)]).1 = some v →
      (rest ≠ [] → Gives (exec (.recv n) s) (fun t =>
        (getLink t n).rx0 = [] ∧ (getLink t n).ret0 = (getLink s n).ret0 + 1
        ∧ (getUnit t (25 + n)).begun = (getUnit v (25 + n)).begun.map (fun x => if x = b then { b with placed := b.placed + 1 } else x)))
      ∧ (rest = [] → b ∈ (getUnit v (25 + n)).begun → Gives (exec (.recv n) s) (fun t =>
        let e := epochTick v + 1
        let tr := (releaseTick v n false (getLink v n).recvSeq).getD e
        (getLink t n).rx0 = [] ∧ (getLink t n).ret0 = (getLink s n).ret0 + 1 ∧ (getLink t n).recvSeq = (getLink v n).recvSeq + 1
        ∧ ({ b with placed := b.placed + 1, doneTick := some (v.epochStart + max tr e) } : Begun) ∈ (getUnit t (25 + n)).begun)))
    ∧ (headOp s (49 + n) .copy 0 = some o →
      let runs := List.range (field o.word 36 17 + 1)
      let src := runs.flatMap (fun i => bothPlanes (agRun g i))
      let dst := runs.flatMap (fun i => bothPlanes (agRun (opAg o 1) i))
      planRead s (49 + n) o srcPoisonUse src = (some m, v) →
      (planWrite v (49 + n) o ((src.zip dst).map (fun p => (p.2.1, mapBytes m p.1.1 p.1.2)))).1 = some v2 →
      Gives (exec (.tillerCopy n) s) (fun t => begun (49 + n) v2 t (some v2.tick) v2.tick ∧ t.mem = v2.mem ∧ t.cache = v2.cache))
    ∧ (headOp s (49 + n) .copy 2 = some o →
      let dst := (List.range (field o.word 39 20 + 1)).flatMap (fun i => bothPlanes (agRun g i))
      (planWrite s (49 + n) o (dst.map (fun r => (r.1, List.replicate r.2 0)))).1 = some v2 →
      Gives (exec (.zero n) s) (fun t => begun (49 + n) v2 t (some v2.tick) v2.tick ∧ t.mem = v2.mem ∧ t.cache = v2.cache))
    ∧ (headOp s (49 + n) .copy 1 = some o →
      let iss := unitIssuer s (49 + n) o.tiller
      let r := planLines s iss none .read (rangeDpas ((List.range (field o.word 35 16 + 1)).map (fun i => runRange (agRun g i))))
      let bin := if field o.word 39 38 = 1 then some (field o.word 37 36) else none
      let q := r.1.foldl (fun x p => prefetchPlan x iss bin p) r.2.2
      r.2.1 = .all → exec (.pref n) s = .next (beginOp q (49 + n) o (some q.tick) q.tick))
    ∧ (∀ b, (getUnit s n).begun.find? (isDone s) = some b → Gives (exec (.subopCompletion n) s) (fun t =>
        getUnit t n = { getUnit s n with begun := (getUnit s n).begun.erase b } ∧ (∀ k, k ≠ n → getUnit t k = getUnit s k)
        ∧ (dtOf b.op.word < 53 → look 0 (getTiller t (dtOf b.op.word)).incoming (dcOf b.op.word)
            = look 0 (getTiller s (dtOf b.op.word)).incoming (dcOf b.op.word) + 1)
        ∧ (dtOf b.op.word = 63 → t.tillers = s.tillers) ∧ t.sheaves = s.sheaves ∧ t.mem = s.mem))

/-! ## Engine port -/

/-- EP_LOAD returns the bytes of its lanes, from the group's store buffer where it holds all of a lane and from memory elsewhere, and answers
POISON without the lanes whose bytes are poisoned; EP_STORE puts its lanes into the buffer; EP_ATOMIC carries out its lane sets after the
group's stores and returns the old values, POISON without those of a poisoned word; EP_FENCE performs the group's stores and is answered once all its accesses
are performed, COMPLETE with TARGET_LOST when one was lost; ACOPY joins the waiting copies. Each leaves its response
(R301, R358, R366 to R371, R466 to R473, R479).
Model's own readings behind it: logs 24 and 35. -/
def Obligations.PortRequestsComplete : Prop :=
  ∀ (s s2 : State) (r : EpReq) (os : List LineOp), Taken s r none →
    let s1 := takenUp s r none
    let n := sizeBytes r.size
    let k := sbKey r.att r.group
    let lanes := activeLanes s r
    let parts := lanes.map (fun p => (p.1, splitRange p.2.addr.toNat n))
    (epResolve s1 r .read (parts.flatMap (fun p => p.2)) = (os, .all, s2) →
      let ps := lanePlaces parts os
      let u := if r.mark ≠ 0 ∨ ps.any (laneBlocked s2 (getBuf s2 k)) = true then drainBuf s2 k else s2
      let from_ (p : LanePlace) := laneFromBuf u (getBuf u k) p
      let mem := ((ps.filter (fun p => (from_ p).isNone)).flatMap (fun p => p.parts)).map (fun q => q.1)
      let m := (epReadLines u (fun o => epIssuer u r (dpaLine o.dpa)) mem).1
      let bad (p : LanePlace) : Bool := (from_ p).isNone && p.parts.any (fun q => epPoison m q.1.dpa q.2)
      (getTask u (epWho r)).failed = none → epMissing u r mem = [] →
      Gives (exec (.epLoad r) s) (fun t => Responds t r (if ps.any bad then 8 else 0) ((ps.filter (fun p => !bad p)).map (fun p =>
        (p.lane, BitVec.ofNat 128 (leNat ((from_ p).getD (p.parts.flatMap (fun q => mapBytes m q.1.dpa q.2))))))) 0))
    ∧ (epResolve s1 r .write (parts.flatMap (fun p => p.2)) = (os, .all, s2) → (takeBuf s2 r.att r.group).isSome = true →
      Gives (exec (.epStore r) s) (fun t => Responds t r 0 [] 0
        ∧ ∀ l o, lanes = [l] → os = [o] → splitRange l.2.addr.toNat n = [(l.2.addr.toNat, n)] → r.mark ≠ 1 → getBuf s2 k = [] →
          (getAtt s2 r.att).groups.length < 64 →
          let strict := o.type == .strict
          getBuf t k = [⟨entryLine s2 o.dpa, lineData (o.dpa % 64) (toLE n l.2.data.toNat), BitVec.ofNat 64 (byteMask (o.dpa % 64) n), o.asked, r.context,
            r.mark == 2, strict, o.type == .stream, r.mark == 2 || strict⟩]))
    ∧ (let sets := laneSets lanes
      let sp := sets.map (fun p => (p.1, splitRange p.1 n))
      r.aop.toNat ≤ 9 → (r.size = 2 ∨ r.size = 3 ∨ r.size = 4 ∧ (r.aop = 8 ∨ r.aop = 9)) → setsOverlap (sets.map (fun p => p.1)) n = false →
      epResolve s1 r .atomic (sp.flatMap (fun p => p.2)) = (os, .all, s2) → wideRefused r os = none →
      let d := drainBuf s2 k
      let q := runSets d r ((lanePlaces sp os).zip sets)
      Gives (exec (.epAtomic r) s) (fun t => Responds t r (if q.2.1 then 8 else 0) q.1 0 ∧ t.mem = q.2.2.mem ∧ t.cache = q.2.2.cache
        ∧ ∀ l o, lanes = [l] → os = [o] → sp.flatMap (fun p => p.2) = [(l.2.addr.toNat, n)] →
          let x := atomicAccess d (epAgent d r.att (dpaLine o.dpa)) (dpaLine o.dpa) r.context ⟨r.aop, r.size, o.dpa % 64, [(l.2.data, l.2.cmp)]⟩
          (x.poison = false → q = ([l.1].zip x.olds, false, x.after)) ∧ (x.poison = true → q = ([], true, x.after))))
    ∧ (r.aop.toNat ≤ 1 →
      let d := drainBuf s1 k
      let lost := (getAtt d r.att).lost.contains r.group
      (groupPending d r.att r.group = true → exec (.epFence r) s = .next d)
      ∧ (groupPending d r.att r.group = false → r.aop = 0 ∨ lost = false → Gives (exec (.epFence r) s) (Responds · r 0 [] 0))
      ∧ (groupPending d r.att r.group = false → r.aop = 1 → lost = true → Gives (exec (.epFence r) s) (fun t => Responds t r 7 [] 0
          ∧ (getAtt t r.att).lost.contains r.group = false)))
    ∧ (acopyBad r.param = false →
      let off := (getAtt s r.att).arriveBase.toNat + 8 * fieldLE r.param 20 1
      loftCheck s1 off r.context .atomic = .ok → Gives (exec (.acopy r) s) (fun t => Responds t r 0 [] 0
        ∧ ∃ j, t.ep.copies = s.ep.copies ++ [j] ∧ j.context = r.context ∧ j.src.toNat = fieldLE r.param 0 8 ∧ j.dst.toNat = fieldLE r.param 8 8
          ∧ j.bytes = fieldLE r.param 16 4 ∧ j.counter = off ∧ j.engine = none ∧ j.ended = none))

/-- ACOPY_START gives the oldest waiting copy the lowest-numbered free copy engine; ACOPY_COMPLETE raises the counter of an ended copy, at most
once; GM_LOAD fills the buffer of its turn, GM_PASS pushes one node onto every element of its region, and each is answered OK once its last
column is loaded or its last node written (R104, R114, R118, R474 to R480).
GM_STORE, once its region's last pass is written and its levels are added, writes the finished rows of its active lanes that are not void,
converted under OUT, closes the region and answers OK with the flags of the rows that are not void; a region whose lanes are all void writes
nothing (R110, R474, R477).
Model's own readings behind it: logs 12, 22, 35, 51 and 52. -/
def Obligations.CopiesAndMatrixPasses : Prop :=
  (
    (∀ (s : State) (c : Nat) (pre post : List AcopyJob) (j : AcopyJob), grangerUp s = true → (freeEngines s).head? = some c →
      s.ep.copies = pre ++ j :: post → (∀ i ∈ pre, i.engine.isSome = true) → j.engine = none →
      exec .acopyStart s = .next { s with ep := { s.ep with copies := pre ++ { j with engine := some c } :: post } })
    ∧ (∀ (s : State) (c : Nat) (j : AcopyJob) (ok : Bool), s.ep.copies.find? (fun x => x.engine == some c) = some j → j.ended = some ok →
      (s.hl.hostReqs.any (fun q => q.who == .copyEngine c) = true → exec (.acopyComplete c) s = .next s)
      ∧ (s.hl.hostReqs.any (fun q => q.who == .copyEngine c) = false → Gives (exec (.acopyComplete c) s) (fun t =>
          t.ep.copies = s.ep.copies.filter (fun x => x.engine != some c)
          ∧ let u : State := { s with ep := { s.ep with copies := s.ep.copies.filter (fun x => x.engine != some c) } }
            loftCheck s j.counter j.context .atomic = .ok →
            t = (farAtomic u (12 + c) ⟨2, j.counter / 64⟩ j.context ⟨0, 3, j.counter % 64, [(if ok then 1 else 2 ^ 32, 0)]⟩).after)))
    ∧ (∀ (s : State) (r : EpReq) (c : Instr) (d : Nat), c = .gmLoad r ∨ c = .gmPass r → grangerUp s = true → attPresent s r.att = true →
      epDue s r = some d →
      (s.tick < d → exec c s = .next s) ∧ (d ≤ s.tick → Gives (exec c s) (fun t => Responds t r 0 [] 0)))
    ∧ (∀ (s s2 : State) (r : EpReq) (os : List LineOp), Taken s r (gmSheaf r) →
      let s1 := takenUp s r (gmSheaf r)
      let p := gmParam r.param
      let sh := getSheaf s p.sheaf
      let got := epReadLines s2 (fun _ => gmIssuer r p) os
      let w := endTask (claimGroup s2 r got.2) (epWho r)
      let old := getSheaf w p.sheaf
      let reads (ranges : List (Nat × Nat)) (m : LineMap) : Prop :=
        let parts := (ranges.flatMap (fun x => splitRange x.1 x.2)).eraseDups
        epResolve s1 r .read parts = (os, .all, s2) ∧ (getTask s2 (epWho r)).failed = none ∧ epMissing s2 r os = []
        ∧ m = (parts.zip os).map (fun q => (64 * (q.1.1 / 64), mapLine got.1 q.2.dpa)) ∧ mapPoison m ranges = none
      let row (a b : Nat) : List (Nat × Nat) := (a, gmRow p) :: (if p.sch = 0 then [] else [(b, gmScales p)])
      gmLeased s r p.sheaf = true → p.rsv = false → gmFormatBad p = false →
      (∀ m, gmLayoutBad p = false → lanesOf p.lanes ≤ fmtLanes p.fmt → sh.gmLoads < sh.gmPasses + 2 →
        reads ((List.range (256 * lanesOf p.lanes)).flatMap (fun n => row ((p.wbase + n * p.wpitch) % 2 ^ 64) ((p.wsbase + n * p.wspitch) % 2 ^ 64))) m →
        Gives (exec (.gmLoad r) s) (fun t => ∃ tile, epDue t r = some (tileLast tile) ∧ (getSheaf t p.sheaf).gmLoads = old.gmLoads + 1
          ∧ (old.gmLoads % 2 = 0 → (getSheaf t p.sheaf).buf0 = tile ∧ (getSheaf t p.sheaf).buf1 = old.buf1)
          ∧ (old.gmLoads % 2 = 1 → (getSheaf t p.sheaf).buf1 = tile ∧ (getSheaf t p.sheaf).buf0 = old.buf0)
          ∧ tile.fmt = p.fmt ∧ tile.sch = p.sch ∧ tile.lanes = lanesOf p.lanes ∧ tile.kblk = p.kblk ∧ tile.len = p.len
          ∧ tile.parity = tileParity tile
          ∧ ∀ n, n < 256 * lanesOf p.lanes → (tile.rows.getD n ⟨[], [], []⟩).codes = gmCodes p m ((p.wbase + n * p.wpitch) % 2 ^ 64)))
      ∧ (∀ m g,
        let n := epWidth s r.att
        let t0 := bufOf sh sh.gmPasses
        let width := 256 * t0.lanes
        let lanes := activeLanes s r
        let words := storeWords old.store (pushReads false g)
        let held (i : Nat) := lanes.find? (fun x => x.1 == i)
        let codes (i : Nat) : List Nat := match held i with | some x => gmCodes p m x.2.addr.toNat | none => List.replicate p.len 0
        let scales (i : Nat) := match held i with
          | some x => gmScaleBytes p m (x.2.data.toNat % 2 ^ 64)
          | none => List.replicate (p.len / blockLen p.sch) (0, 0)
        let val (e : Nat) : Flagged :=
          passNode g.acc p.fmt (codes (e / width)) (if p.sch = 0 then [] else gmBlocks p (codes (e / width)) (scales (e / width))) t0 (e % width)
        sh.gmPasses < sh.gmLoads → passRegion sh p (256 * n * t0.lanes) = some g → passBad p t0 g = false → (n ≤ lanes.length ∨ r.mok = true) →
        max sh.portFree (tileReady t0 (pairStep p.fmt t0.fmt)) ≤ s.tick →
        reads (lanes.flatMap (fun x => row x.2.addr.toNat (x.2.data.toNat % 2 ^ 64))) m → tileSound t0 = true → words.any eccBad = false →
        Gives (exec (.gmPass r) s) (fun t => ∃ done,
          let q := portPush old.store g (if p.first then [] else old.portFlags) width val
          let missing := (List.range n).filter (fun i => (held i).isNone)
          epDue t r = some done ∧ (getSheaf t p.sheaf).gmPasses = old.gmPasses + 1 ∧ (getSheaf t p.sheaf).store = q.1
          ∧ (getSheaf t p.sheaf).portFlags = q.2
          ∧ (getSheaf t p.sheaf).portRegion
            = some { g with pushes := g.pushes + 1, voids := g.voids ++ missing.filter (fun i => !g.voids.contains i), passEnd := done })))
  ) ∧
  (
    ∀ (s s2 : State) (r : EpReq) (os : List LineOp) (g : Region), Taken s r (gmSheaf r) →
      let p := gmParam r.param
      let sh := getSheaf s p.sheaf
      let words := storeWords sh.store (regionEntries false g)
      let u := drainBuf (entryNote (takenUp s r (gmSheaf r)) p.sheaf words) (sbKey r.att r.group)
      let n := epWidth s r.att
      let lanes := (activeLanes s r).filter (fun x => !g.voids.contains x.1)
      let width := g.ecount / n
      let fin := (List.range g.ecount).map (portFinish sh.store g)
      let rows := lanes.map (fun x => (x.2.addr.toNat, storeRow p g (fun e => (fin.getD e (0, 0)).1) width x.1 (x.2.data.toNat % 2 ^ 32)))
      let parts := rows.flatMap (fun w => splitRange w.1 w.2.1.length)
      let bytes := rows.flatMap (fun w => ((splitRange w.1 w.2.1.length).foldl
        (fun (acc : List (List Byte) × Nat) q => (acc.1 ++ [slice w.2.1 acc.2 q.2], acc.2 + q.2)) ([], 0)).1)
      let runs := (os.zip bytes).map (fun q => (q.1.dpa, q.2))
      let after := (distinctLines os).foldl (fun x o => if isRemote x o.dpa then x else let c := lineCover runs o.dpa; linePut x (gmIssuer r p) o c.1 c.2) s2
      let raised := (List.range n).foldl (fun (f : Nat) i => if g.voids.contains i then f
        else (List.range width).foldl (fun f k => f ||| (fin.getD (i * width + k) (0, 0)).2) (f ||| (look 0 sh.portFlags i).toNat)) 0
      gmLeased s r p.sheaf = true → p.rsv = false → sh.portRegion = some g → g.rbase = p.rbase → schemeOk p.out 0 = true → p.rnd ≠ 3 →
      n ≤ (activeLanes s r).length ∨ r.mok = true → g.passEnd + finishTime g false + 1 ≤ s.tick → words.any eccBad = false →
      epResolve u r .write parts = (os, .all, s2) → (∀ o ∈ os, isRemote s2 o.dpa = false) →
      Gives (exec (.gmStore r) s) (fun t => Responds t r 0 [] (BitVec.ofNat 8 (rows.foldl (fun f x => f ||| x.2.2) raised))
        ∧ (getSheaf t p.sheaf).portRegion = none ∧ t.mem = after.mem ∧ t.cache = after.cache
        ∧ (rows = [] → t.mem = s2.mem ∧ t.cache = s2.cache))
  )

/-! ## Crop formation and barriers -/

/-- Formation's messages: IDENT keeps the peer's identity and, at the lower Tally address of a Crop being formed, sends 16 PROBE frames;
PROBE is returned and its round trip, less the peer's turnaround, recorded, index 0 beginning a measurement and the sixteenth giving the mean RT; TIME aligns
CTB with the parent's plus RT / 4 and binds the slot, or in a barrier re-aligns a settled and measured member; BIND_REPORT passes checks and bindings on and
joins what is known, the last binding completing the root's command with DONE; BIND_NOTICE completes a member's command with DONE; ABORT and both
timeouts end the formation and its command with CROP_LOST or BAD_PACKET, and tell every trained link (R230 to R235, R239, R242).
The other events of a Crop: ROOT_SETTLED takes the root change named in the barrier and begins the measurement; DRIFT_CHECK counts a departure of
half a root cycle or more; COMPLETION_REPORT joins the root's reports or goes towards it; ROOT_ROUTE_LOSS isolates a chip in a run, which ends FAILED once no
access of it is under way, and dissolves the Crop for any other (R28, R229, R241, R242, R249, R536).
Model's own readings behind it: logs 21 and 29. -/
def Obligations.FormationCompletes : Prop :=
  (
    ∀ (s : State) (link : Nat),
      let f := getForming s
      let answered (t : State) (r : RunReq) (st : Byte) : Prop := ∃ q : ReplyRec,
        (getWindrow t r.windrow).replies = (getWindrow s r.windrow).replies ++ [q] ∧ q.seq = r.seq ∧ q.status = st
      (∀ m, (getLink s link).state = .up →
        let u := takeFrom s link (.ident m)
        let v := setLink u link { getLink u link with peerIdent := some m, peerLink := BitVec.ofNat 5 m.link, peerTally := m.tally }
        let probes : Prop := f.further = false ∧ m.cropId = s.crop.cropId ∧ ownTally s < m.tally.toNat
        (f.active = false → exec (.ident link m) s = .next v)
        ∧ (f.active = true → probes → ∃ w, exec (.ident link m) s = .next (reportChecks w)
          ∧ (getLink w link).ctrl = (getLink v link).ctrl ++ (List.range 16).map (.probe false ·)
          ∧ (∀ k, k ≠ link → getLink w k = getLink v k) ∧ w.crop = s.crop)
        ∧ (f.active = true → ¬ probes → exec (.ident link m) s = .next (reportChecks v)))
      ∧ (∀ echo i rt, (getLink s link).state = .up →
        let old := if i = 0 ∧ echo = false then [] else (getLink s link).rtSamples
        ∃ w, exec (.probe link echo i rt) s = .next (realign (if f.active then reportChecks w else w))
          ∧ (f.active = false → s.crop.phase ≠ .resettle → realign w = w) ∧ getForming w = f
          ∧ w.out = s.out ++ (if echo then [] else [.probeEcho link i])
          ∧ (old.length < 16 → (getLink w link).rtSamples = old ++ [rt - 192])
          ∧ (16 ≤ old.length → (getLink w link).rtSamples = old)
          ∧ (getLink w link).rt = (if old.length = 15 then (old ++ [rt - 192]).sum / 16 else (getLink s link).rt))
      ∧ (∀ ctb quarter,
        let u := takeFrom s link (.time ctb quarter)
        let q := 4 * ctb.toNat + quarter.toNat + (getLink s link).rt
        (f.active = true → f.isRoot = false → f.further = false → f.aligned = false → f.settled = true → (joinTree u).crop.parentLink.toNat = link →
          exec (.time link ⟨ctb, quarter⟩) s = .next (alignForming u q)
          ∧ Gives (exec (.time link ⟨ctb, quarter⟩) s) (fun t => t.ctb = BitVec.ofNat 64 (q / 4) ∧ t.ctbQuarter = q % 4 ∧ (getForming t).aligned = true
            ∧ t.crop.member = true ∧ (getSlot t f.slot).state = .bound ∧ (getSlot t f.slot).provisional = true))
        ∧ (f.active = false → s.crop.phase = .resettle → s.crop.realigned = false → s.crop.parentLink.toNat = link →
          exec (.time link ⟨ctb, quarter⟩) s
            = .next (realign { u with crop := { u.crop with waitTime := some (4 * ctb.toNat + quarter.toNat, ctbQuarters s) } })
          ∧ (s.crop.settled = true → measured s = true → isCropRoot s = false → Gives (exec (.time link ⟨ctb, quarter⟩) s) (fun t =>
            t.ctb = BitVec.ofNat 64 (q / 4) ∧ t.ctbQuarter = q % 4 ∧ t.crop.realigned = true ∧ t.crop.remeasures = satAdd32 s.crop.remeasures 1
            ∧ ∀ k ∈ s.crop.children, .time t.ctb (BitVec.ofNat 2 t.ctbQuarter) ∈ (getLink t k).ctrl))))
      ∧ (∀ m, let u := takeFrom s link (.bindReport m)
        let others := (memberLinks s).filter (fun n => n != link)
        (∀ j, m = .checks j → f.active = true → f.aligned = false → f.settled = false → memberLink s link = true →
          ((∀ k ∈ f.joins, k.tally = j.tally → k.round < j.round) →
            exec (.bindReport link m) s = .next (judgeForming (sendAll (setForming u { f with joins := keepJoin f.joins j }) others (.bindReport m))))
          ∧ ((∃ k ∈ f.joins, k.tally = j.tally ∧ j.round ≤ k.round) → exec (.bindReport link m) s = .next u))
        ∧ (∀ js, m = .settled js → f.active = true → f.isRoot = false → f.aligned = false → memberLink s link = true →
          exec (.bindReport link m) s = .next (setForming u { f with joins := js, settled := true }))
        ∧ (∀ pos, m = .bound pos → s.crop.parentLink = 0xFF → f.active = true → f.isRoot = true → pos ∉ f.bound →
          exec (.bindReport link m) s = .next (rootComplete (setForming u { f with bound := f.bound ++ [pos] }))
          ∧ (∀ r, f.aligned = true → f.nmember ≤ f.bound.length + 2 → f.req = some r → Gives (exec (.bindReport link m) s) (fun t =>
            answered t r stDone ∧ (getForming t).active = false ∧ (getSlot t f.slot).provisional = false
            ∧ ∀ k ∈ s.crop.children, .bindNotice f.startTo ∈ (getLink t k).ctrl)))
        ∧ (∀ pos, m = .bound pos → s.crop.parentLink ≠ 0xFF → s.crop.member = true →
          exec (.bindReport link m) s = .next (sendCtrl u s.crop.parentLink.toNat (.bindReport m))))
      ∧ (∀ startTo r, f.active = true → f.isRoot = false → f.aligned = true → f.req = some r → Gives (exec (.bindNotice startTo) s) (fun t =>
          answered t r stDone ∧ (getForming t).active = false ∧ t.crop.startTo = startTo ∧ (getSlot t f.slot).provisional = false
          ∧ ∀ k ∈ s.crop.children, .bindNotice startTo ∈ (getLink t k).ctrl))
      ∧ (∀ cropId code pos r, f.active = true → f.cropId = cropId → s.crop.member = false → f.req = some r →
        let status : Byte := if code = 0 then stCropLost else stBadPacket
        let told (t : State) (c : Byte) (p : Nat) (root : Bool) : Prop := ∀ k ∈ trainedLinks s, k ≠ link → .abort cropId c p root ∈ (getLink t k).ctrl
        (f.isRoot = false → Gives (exec (.abort link cropId code pos true) s) (fun t => t.crop = {} ∧ answered t r status ∧ told t code pos true))
        ∧ (f.isRoot = true → Gives (exec (.abort link cropId code pos false) s) (fun t => t.crop = {} ∧ answered t r status
          ∧ told t code (if code = 0 then lowestAbsent f else pos) true))
        ∧ (f.isRoot = false → f.aborting = false → Gives (exec (.abort link cropId code pos false) s) (fun t => told t code pos false
          ∧ ((∀ j ∈ f.joins, j.isRoot = false) → t.crop = {} ∧ answered t r status)
          ∧ ((∃ j ∈ f.joins, j.isRoot = true) → (getForming t).active = true ∧ (getForming t).aborting = true))))
      ∧ (∀ r, f.active = true → f.isRoot = true → f.aligned = false → allJoined f = false → s.crop.member = false → f.req = some r →
        Gives (exec .formTimeout s) (fun t => t.crop = {} ∧ answered t r stCropLost
          ∧ ∀ k ∈ trainedLinks s, .abort f.cropId 0 (lowestAbsent f) true ∈ (getLink t k).ctrl))
      ∧ (∀ r, f.active = true → f.isRoot = false → f.aligned = false → f.aborting = false → s.crop.member = false → f.req = some r →
        Gives (exec .joinTimeout s) (fun t => (∀ k ∈ trainedLinks s, .abort f.cropId 0 0x3FF false ∈ (getLink t k).ctrl)
          ∧ ((∀ j ∈ f.joins, j.isRoot = false) → t.crop = {} ∧ answered t r stCropLost)
          ∧ ((∃ j ∈ f.joins, j.isRoot = true) → (getForming t).active = true ∧ (getForming t).aborting = true)))
  ) ∧
  (
    ∀ (s : State) (link departure pos : Nat) (flag : Bool),
      (s.crop.phase = .resettle → s.crop.settled = false →
        let u : State := { s with
          rootPct := s.crop.nextRootPct, margin := { s.margin with fsteps := satAdd32 s.margin.fsteps 1 }, crop := { s.crop with settled := true } }
        exec .rootSettled s = .next (realign (startProbes u))
        ∧ Gives (exec .rootSettled s) (fun t => t.rootPct = s.crop.nextRootPct ∧ t.crop.settled = true ∧ t.margin = u.margin ∧ t.slots = s.slots
          ∧ ∀ k ∈ probeLinks s, ∀ i, i < 16 → .probe false i ∈ (getLink t k).ctrl))
      ∧ (memberLink s link = true → (1 ≤ departure → exec (.driftCheck link departure) s
          = .next { s with crop := { s.crop with driftEvents := satAdd32 s.crop.driftEvents 1, drift := true } })
        ∧ (departure = 0 → exec (.driftCheck link departure) s = .next s))
      ∧ (isCropRoot s = true → s.crop.phase = .complete → (pos, flag) ∉ s.crop.completions → ∃ u,
        exec (.completionReport pos flag) s = .next (rootCompletion u) ∧ u.crop = { s.crop with completions := s.crop.completions ++ [(pos, flag)] })
      ∧ (isCropRoot s = false → s.crop.member = true → Gives (exec (.completionReport pos flag) s) (fun t =>
        (getLink t (upLink s)).ctrl = (getLink (takeMsg s (.completion pos flag)) (upLink s)).ctrl ++ [.completion pos flag] ∧ t.crop = s.crop))
      ∧ (s.crop.member = true → isCropRoot s = false → s.crop.ending = none → (getForming s).active = false →
        (runningSlot s = none → Gives (exec .rootRouteLoss s) (fun t => t.crop = {} ∧ t.wain.routes = []
          ∧ ∀ k, k < 16 → boundSlot (getSlot t k) = false))
        ∧ (∀ n, runningSlot s = some n → runQuiet s = false → Gives (exec .rootRouteLoss s) (fun t => t.crop.ending = some .isolated
          ∧ (getSlot t n).isolated = true ∧ (∀ k, k < 53 → (getTiller t k).mode = .idle) ∧ t.err.errWrites ≠ s.err.errWrites))
        ∧ (∀ n, runningSlot s = some n → runQuiet s = true → Gives (exec .rootRouteLoss s) (fun t => (getSlot t n).state = .failed
          ∧ (getSlot t n).isolated = true ∧ (getSlot t n).replans = (getSlot s n).replans + 1
          ∧ (getSlot t n).newest = (dropRecord (getSlot s n)).newest)))
  )

/-- The barriers of a run: SEND_ARRIVE sends a member's ARRIVE combined with its children's up the tree, or at the root looks whether it can decide; an
ARRIVE of a child is kept, a refusal goes on at once and abandons the start; STOP goes towards the root, which takes it up; at the named tick
BARRIER_RELEASE opens the epoch of the barrier's record, starting every Tiller from its record at a start barrier and letting every waiting one go on
behind its EBAR at any other, or restores the newest record in a replay; START_TIMEOUT abandons the start at the root and tells it elsewhere; surplus
lines of a link are discarded with an error of class REPLAYED and no ARRIVE (R157, R169, R208, R219, R243, R245, R248, R250, R275, R531).
Model's own readings behind it: logs 21, 37, 44 and 50. -/
def Obligations.BarriersComplete : Prop :=
  ∀ (s : State) (n : Nat) (x : Slot) (p : Plan), runOf s = some (n, x, p) →
    let idle (t : State) : Prop := ∀ k, k < 53 → (getTiller t k).mode = .idle
    let others (t : State) : Prop := ∀ k, k ≠ n → getSlot t k = getSlot s k
    let stopped (m : StopMsg) (t : State) : Prop := (getLink t (upLink s)).ctrl = (getLink (takeMsg s (.stop m)) (upLink s)).ctrl ++ [.stop m]
    (∀ k, arriveKind s = some k → isCropRoot s = false → childrenHere s k = true → Gives (exec .sendArrive s) (fun t =>
      ∃ own, t.crop.selfArrive = some own ∧ own.kind = k ∧ (k = .epoch → own.barrier = x.epoch ∧ t.crop.phase = .epoch)
        ∧ (getLink t (upLink s)).ctrl = (getLink s (upLink s)).ctrl ++ [.arrive ((heldArrives s k).foldl combineArrive own)]))
    ∧ (∀ k, arriveKind s = some k → isCropRoot s = true → ∃ u, exec .sendArrive s = .next (rootTry u)
        ∧ ∃ own, u.crop.selfArrive = some own ∧ own.kind = k)
    ∧ (∀ link, surplusLinks s = [link] → Gives (exec .sendArrive s) (fun t => (getLink t link).rx0 = [] ∧ t.err.errWrites = s.err.errWrites + 1
        ∧ t.crop.selfArrive = s.crop.selfArrive ∧ idle t))
    ∧ (∀ link m, s.crop.children.contains link = true → staleArrive s m = false →
      (m.refusedAt = none → isCropRoot s = false →
        Gives (exec (.arrive link m) s) (fun t => t.crop = { s.crop with arrived := s.crop.arrived.filter (fun q => q.1 != link) ++ [(link, m)] }))
      ∧ (m.refusedAt = none → isCropRoot s = true → ∃ u, exec (.arrive link m) s = .next (rootTry u)
        ∧ u.crop = { s.crop with arrived := s.crop.arrived.filter (fun q => q.1 != link) ++ [(link, m)] })
      ∧ (∀ pos, m.refusedAt = some pos →
        exec (.arrive link m) s = .next (if isCropRoot s then decide_ (takeFrom s link (.arrive m)) (.abandon (some pos))
          else sendCtrl (takeFrom s link (.arrive m)) (upLink s) (.arrive m))))
    ∧ (∀ m, isCropRoot s = false → s.crop.member = true → Gives (exec (.stop m) s) (fun t => stopped m t ∧ t.crop = s.crop))
    ∧ (∀ m, isCropRoot s = true → ∃ u, exec (.stop m) s = .next (rootTry (rootStop u m)) ∧ u.crop = { s.crop with reports := s.crop.reports.erase m })
    ∧ (∀ r, alive s = true → s.crop.ending = none → s.crop.phase = .decided → x.newest = some r → cropTick s = s.crop.release.toNat →
      let y : Slot := { x with epoch := r.epoch, pend := none }
      Gives (exec .barrierRelease s) (fun t =>
        getSlot t n = y ∧ others t ∧ t.crop.phase = .none ∧ t.crop.startBarrier = false ∧ t.crop.arrived = [] ∧ t.crop.selfArrive = none
        ∧ t.crop.lastRelease = s.crop.release ∧ t.epochStart = s.tick ∧ t.err.replaying = false
        ∧ (s.crop.startBarrier = true → t.globalTick = 0 ∧ t.counting = true ∧ ∀ k, k < 53 → getTiller t k
            = tillerFrom s (p.progs.getD k []) ((patchDescs y p r.epoch.toNat).getD k []) 0 r.tillers[k]?)
        ∧ (s.crop.startBarrier = false → ∀ k, k < 53 → getTiller t k = tillerRelease s (getTiller s k)
          ∧ ((getTiller s k).mode = .barrier → (getTiller t k).mode = .run ∧ (getTiller t k).pc = pcNext (getTiller s k)
            ∧ (getTiller t k).prevTarget = 0 ∧ (getTiller t k).nextTick = s.tick))))
    ∧ (∀ r, alive s = true → s.crop.ending = none → s.crop.phase = .replayDecided → x.newest = some r → cropTick s = s.crop.release.toNat →
      let y : Slot := { x with epoch := r.epoch, steps := r.steps, pend := none }
      Gives (exec .barrierRelease s) (fun t => getSlot t n = y ∧ others t ∧ t.crop.phase = .none ∧ t.epochStart = s.tick ∧ t.units = [] ∧ t.reds = []
        ∧ ∀ k, k < 53 → getTiller t k
          = tillerFrom s (p.progs.getD k []) ((patchDescs y p r.epoch.toNat).getD k []) (getTiller s k).slip r.tillers[k]?))
    ∧ (s.crop.startBarrier = true → s.crop.phase = .start →
      (isCropRoot s = true → exec .startTimeout s = .next (decide_ s (.abandon none)))
      ∧ (isCropRoot s = false → s.crop.member = true → Gives (exec .startTimeout s) (fun t =>
        (getLink t (upLink s)).ctrl = (getLink s (upLink s)).ctrl ++ [.stop (.startTimeout x.position)] ∧ t.crop = s.crop)))

/-- What a member does on the root's DECIDE. RELEASE writes the barrier's Seedcorn record, keeps the one before it until the release, turns the Tillers'
MODE IN and OUT fields to the next epoch and names the tick, or begins the second round; a tick that has passed leaves the record before it and isolates
the chip. REPLAY halts the Tillers, counts the replay, discards the attempt and the record not released, then names its tick or begins the second round.
REPLAN, FAILURE and STOP of mode NOW halt the Tillers and end the run, FAILED or STOPPED, once no access of it is under way; STOP at the barrier ends it
STOPPED with the barrier's record; COMPLETE goes through its stages to DONE; ABANDON fails the start with CROP_LOST (R204, R208, R217, R225, R246 to
R249, R251, R531, R534, R535, R587).
Model's own readings behind it: logs 21 and 37. -/
def Obligations.DecisionsTakeEffect : Prop :=
  ∀ (s : State) (n : Nat) (x : Slot) (p : Plan) (run : RunReq), runOf s = some (n, x, p) → isCropRoot s = false → s.crop.member = true →
    s.crop.ending = none → x.run = some run →
    let atBarrier : Prop := s.crop.selfArrive.isSome = true ∧ (s.crop.phase = .start ∨ s.crop.phase = .epoch)
    let halted (t : State) : Prop := ∀ k, k < 53 → (getTiller t k).mode = .idle
    let passed (t : State) (m : DecideMsg) : Prop := ∀ k ∈ s.crop.children, .decide m ∈ (getLink t k).ctrl
    let replied (t : State) (st : Byte) : Prop := ∃ q ∈ (getWindrow t run.windrow).replies, q.seq = run.seq ∧ q.status = st
    let ended (t : State) (st : SlotState) : Prop := (getSlot t n).state = st ∧ (getSlot t n).run = none ∧ (getSlot t n).pend = none ∧ t.tillers = []
      ∧ t.units = [] ∧ t.reds = [] ∧ t.crop.phase = .none ∧ t.crop.ending = none
    let ending (t : State) (m : DecideMsg) (st : SlotState) : Prop := halted t ∧ t.units = [] ∧ t.reds = [] ∧ t.crop.ending = some (.decided m)
      ∧ (getSlot t n).state = st ∧ (getSlot t n).pend = none ∧ passed t m
    let last : Option W32 := if s.crop.startBarrier then none else some (BitVec.ofNat 32 x.epoch.toNat)
    let record (epoch : W64) (g : List StepGather) : SeedRec := {
      epoch := epoch, counts := sheafCounts s, steps := gatherSteps x.steps g last
      tillers := if s.crop.startBarrier then (x.newest.map (fun r => r.tillers)).getD [] else (List.range 53).map (fun k => tillerRecOf (getTiller s k)) }
    let written (epoch : W64) (g : List StepGather) : Slot := writeRecord x (record epoch g) (snapCounters s epoch)
    (∀ tick epoch pct g, atBarrier →
      (cropTick s ≤ tick.toNat → Gives (exec (.decideRelease tick epoch pct false g) s) (fun t =>
        t.crop.release = tick ∧ t.crop.phase = .decided ∧ t.crop.nextEpoch = epoch ∧ t.crop.nextRootPct = pct ∧ getSlot t n = written epoch g
        ∧ passed t (.release tick epoch pct false g)
        ∧ (s.crop.startBarrier = false → ∀ k, k < 53 → getTiller t k = turnDescs x p epoch.toNat k (getTiller s k))))
      ∧ (tick.toNat < cropTick s → Gives (exec (.decideRelease tick epoch pct false g) s) (fun t => t.crop.phase = .none
        ∧ getSlot t n = { dropRecord (written epoch g) with isolated := true, twoEpochs := true } ∧ t.err.errWrites = s.err.errWrites + 1
        ∧ .stop (.replanned x.position (some x.position) srcMember) ∈ (getLink t (upLink s)).ctrl))
      ∧ Gives (exec (.decideRelease tick epoch pct true g) s) (fun t =>
        t.crop.phase = .resettle ∧ t.crop.nextEpoch = epoch ∧ t.crop.nextRootPct = pct ∧ t.crop.selfArrive = none
        ∧ t.crop.settled = (pct == s.rootPct) ∧ getSlot t n = written epoch g))
    ∧ (∀ pct, Gives (exec (.decideReplay none pct false) s) (fun t => halted t ∧ t.units = [] ∧ t.reds = [] ∧ t.crop.phase = .replayDrain
      ∧ t.err.replaying = true ∧ getSlot t n = { dropRecord x with replays := x.replays + 1 } ∧ passed t (.replay none pct false)))
    ∧ (s.crop.phase = .replayDrain → s.crop.selfArrive.isSome = true →
      (∀ tick pct settle, cropTick s ≤ tick.toNat → Gives (exec (.decideReplay (some tick) pct settle) s) (fun t =>
        t.crop.release = tick ∧ t.crop.phase = .replayDecided ∧ getSlot t n = x))
      ∧ (∀ pct, Gives (exec (.decideReplay none pct true) s) (fun t => t.crop.phase = .resettle ∧ t.crop.nextRootPct = pct
        ∧ t.crop.settled = (pct == s.rootPct) ∧ getSlot t n = x)))
    ∧ (∀ m c st, (∃ e q, m = DecideMsg.replan e q ∧ c = Instr.decideReplan e q ∧ st = stDone)
        ∨ (∃ q a, m = DecideMsg.failure a q ∧ c = Instr.decideFailure a q ∧ st = a) →
      (runQuiet s = false → Gives (exec c s) (fun t => ending t m x.state))
      ∧ (runQuiet s = true → Gives (exec c s) (fun t => ended t .failed ∧ replied t st
          ∧ ((∃ a q, m = DecideMsg.failure a q) → (getSlot t n).seedValid = false ∧ (getSlot t n).newest = none)
          ∧ ((∃ e q, m = DecideMsg.replan e q) → (getSlot t n).replans = x.replans + 1 ∧ (getSlot t n).newest = (dropRecord x).newest))))
    ∧ (∀ pct g, atBarrier → Gives (exec (.decideStop false pct g) s) (fun t =>
        let epoch := if s.crop.startBarrier then x.epoch else x.epoch + 1
        ended t .stopped ∧ replied t stDone ∧ (getSlot t n).seedValid = true ∧ (getSlot t n).newest = some (record epoch g) ∧ (getSlot t n).epoch = epoch
        ∧ (getSlot t n).steps = gatherSteps x.steps g last))
    ∧ (∀ pct g, (runQuiet s = true → Gives (exec (.decideStop true pct g) s) (fun t => ended t .stopped ∧ replied t stDone
        ∧ (getSlot t n).newest = (dropRecord x).newest))
      ∧ (∀ k, k < 53 → awaiting s (.tiller k) = true → Gives (exec (.decideStop true pct g) s) (fun t => ending t (.stop true pct g) .stopping)))
    ∧ (∀ pct g, s.crop.selfArrive.isSome = true → s.crop.phase = .epoch → Gives (exec (.decideComplete 1 pct g) s) (fun t =>
        t.crop.phase = .complete ∧ t.crop.stage = 1 ∧ t.crop.completions = s.crop.completions ++ [(x.position, false)]
        ∧ getSlot t n = { x with steps := gatherSteps x.steps g (some (BitVec.ofNat 32 x.epoch.toNat)), counters := snapCounters s x.epoch }
        ∧ passed t (.complete 1 pct g) ∧ .completion x.position false ∈ (getLink t (upLink s)).ctrl))
    ∧ (∀ pct g, s.crop.phase = .complete →
      (flagHolder p ≠ x.position → Gives (exec (.decideComplete 2 pct g) s) (fun t =>
        t.crop = { s.crop with stage := 2 } ∧ passed t (.complete 2 pct g)))
      ∧ (flagHolder p = x.position → (x.position, true) ∉ s.crop.completions → ∃ u, exec (.decideComplete 2 pct g) s = .next (writeFlag u x p)
        ∧ u.crop = { s.crop with stage := 2 } ∧ u.slots = s.slots ∧ u.mem = s.mem ∧ u.cache = s.cache))
    ∧ (∀ stage pct g, 2 < stage → s.crop.phase = .complete → Gives (exec (.decideComplete stage pct g) s) (fun t =>
        ended t .done ∧ replied t (runStatus x)))
    ∧ (∀ pos, s.crop.startBarrier = true → s.crop.phase = .start → Gives (exec (.decideAbandon pos) s) (fun t =>
        ended t .failed ∧ replied t stCropLost ∧ (getSlot t n).seedValid = false))

/-! ## Wain links and remote memory -/

/-- FRAME_SEND on a link that is UP sends control messages that are ready first, at most 80, then a frame to resend, then the lines of the next channel
that has lines and credits, else IDLE; a link that leaves sends LEAVE; one that neither carries frames nor leaves sends nothing. The frame and its
symbols on the eight lanes leave; it carries SEQ, the last accepted SEQ, a NAK that is due and the credits to return; a new frame joins the last 32
kept; a resent one counts in RETRY (R261, R262, R266, R268, R269, R284, R287).
DATA_FRAME, CONTROL_FRAME and IDLE_FRAME on a link that is UP. One that passes its check and comes in order is accepted: SEQ becomes the last
accepted one, credits return, a NAK that is not the second with its ACK asks for the frames after it, and lines and messages are delivered; lines of VC0
go on to the receive they belong to, or, when no receive of the epoch awaits any more, are discarded with an error of class REPLAYED. One out of
order is discarded; one that fails its check or is not of its kind is discarded with a NAK due, and the fourth discarded in a row means RECOVERY.
Corrected symbols count in CORR_SYM (R263, R264, R266, R269, R272, R275, R282, R285).
Model's own readings behind it: logs 19, 21, 38, 44 and 54. -/
def Obligations.FramesMoveInOrder : Prop :=
  (
    ∀ (s : State) (link : Nat), alive s = true →
      let x := getLink s link
      let ready := x.ctrl.filter (ctrlReady s)
      let leaves (t : State) (f : SentFrame) : Prop :=
        let h := headOf x f
        h.seq = f.seq ∧ h.ack = x.rxSeq ∧ h.nak = x.nakDue ∧ h.held = !x.rx0.isEmpty
        ∧ t.out = s.out ++ [frameOut link h f.body, .lanes link (frameLanes (frameMessage h f.body))]
        ∧ (getLink t link).nakDue = false ∧ (getLink t link).localHeld = h.held ∧ ∀ k, k ≠ link → getLink t k = getLink s k
      let fresh (body : FrameBody) : SentFrame := ⟨x.txSeq, min x.ret0 255, min x.ret1 255, min x.ret2 255, body⟩
      let new (t : State) (body : FrameBody) : Prop := leaves t (fresh body) ∧ (getLink t link).txSeq = x.txSeq + 1
        ∧ (getLink t link).ret0 = x.ret0 - 255 ∧ (getLink t link).ret1 = x.ret1 - 255 ∧ (getLink t link).ret2 = x.ret2 - 255
        ∧ (getLink t link).replay = (x.replay ++ [fresh body]).drop (x.replay.length + 1 - 32)
      let carries := (vcOrder x.lastVc).find? (fun vc => decide (0 < sendable x vc))
      (x.state = .up → ready ≠ [] → Gives (exec (.frameSend link) s) (fun t =>
        let body := FrameBody.control ((ready.take 80).map (stamped s))
        new t body ∧ (getLink t link).ctrl = ready.drop 80 ++ x.ctrl.filter (fun m => !ctrlReady s m)
        ∧ (getLink t link).resend = (if x.resend = [] then [] else x.resend ++ [fresh body])))
      ∧ (x.state = .up → ready = [] → ∀ f rest, x.resend = f :: rest → Gives (exec (.frameSend link) s) (fun t =>
        leaves t f ∧ (getLink t link).resend = rest ∧ (getLink t link).err = bump x.err 47 32 1 ∧ (getLink t link).txSeq = x.txSeq
        ∧ (getLink t link).replay = x.replay))
      ∧ (x.state = .up → ready = [] → x.resend = [] → ∀ vc, carries = some vc →
        ∃ w, exec (.frameSend link) s = .next (if vc = 0 ∧ (getLink w link).tx0 = [] then sendDone w link else w)
          ∧ new w (.data (BitVec.ofNat 2 vc) ((txLines x vc).take (sendable x vc)))
          ∧ txLines (getLink w link) vc = (txLines x vc).drop (sendable x vc) ∧ (getLink w link).lastVc = vc
          ∧ ownCredits (getLink w link) vc + (getLink w link).sharedCred + sendable x vc = ownCredits x vc + x.sharedCred)
      ∧ (x.state = .up → ready = [] → x.resend = [] → carries = none → Gives (exec (.frameSend link) s) (fun t => new t .idle))
      ∧ (x.state ≠ .up → 0 < x.leaveLeft → Gives (exec (.frameSend link) s) (fun t => new t (.control [.leave])
          ∧ (getLink t link).leaveLeft = x.leaveLeft - 1))
      ∧ (x.state ≠ .up → x.leaveLeft = 0 → exec (.frameSend link) s = .next s)
  ) ∧
  (
    ∀ (s : State) (link : Nat) (h : FrameHead), alive s = true → (getLink s link).state = .up →
      let x := getLink s link
      let err := if h.corrected = 0 then x.err else bump x.err 31 0 h.corrected
      let base := if x.resync then framesAfter x h.ack else x.resend
      let others (t : State) : Prop := ∀ k, k ≠ link → getLink t k = getLink s k
      let took (t : State) : Prop := (getLink t link).rxSeq = h.seq ∧ (getLink t link).badFrames = 0 ∧ (getLink t link).peerHeld = h.held
        ∧ (x.own0 ≤ 16 → (getLink t link).own0 = min 16 (x.own0 + h.cred0.toNat))
        ∧ (x.own1 ≤ 16 → (getLink t link).own1 = min 16 (x.own1 + h.cred1.toNat))
        ∧ (x.own2 ≤ 16 → (getLink t link).own2 = min 16 (x.own2 + h.cred2.toNat)) ∧ (getLink t link).sharedCred ≤ 2000
        ∧ (getLink t link).resend = (if h.nak ∧ x.lastNak ≠ some h.ack then framesAfter x h.ack else base)
        ∧ (getLink t link).resync = false ∧ (getLink t link).err = err ∧ others t
      let kept (t : State) : Prop := (getLink t link).rxSeq = x.rxSeq ∧ (getLink t link).inbox = x.inbox
        ∧ (getLink t link).rx0 = x.rx0 ∧ (getLink t link).rx1 = x.rx1 ∧ (getLink t link).rx2 = x.rx2 ∧ others t
        ∧ (x.badFrames < 3 → (getLink t link).badFrames = x.badFrames + 1 ∧ (getLink t link).state = .up ∧ (getLink t link).err = err)
        ∧ (3 ≤ x.badFrames → (getLink t link).state = .recovery ∧ (getLink t link).badFrames = 0 ∧ (getLink t link).err = bump err 55 48 1)
      let refused (t : State) : Prop := kept t ∧ (getLink t link).nakDue = true ∧ (getLink t link).resend = x.resend
      let late (t : State) : Prop := kept t ∧ (getLink t link).nakDue = x.nakDue ∧ (getLink t link).resend = base
      (h.decodes = true → h.seq = x.rxSeq + 1 →
        (h.kind = 0 → Gives (exec (.idleFrame link h (frameCrc h 0 0 [])) s) (fun t => took t ∧ (getLink t link).inbox = x.inbox))
        ∧ (h.kind = 2 → ∀ map ms, Gives (exec (.controlFrame link h ⟨map, frameCrc h 0 map (ms.map Config.ctrlSlot)⟩ ms) s) (fun t =>
          took t ∧ (getLink t link).inbox = x.inbox ++ ms))
        ∧ (h.kind = 1 → ∀ vc map ls,
          let frame : DataFrame := ⟨h, vc, map, ls, frameCrc h vc map ls⟩
          (vc = 1 → Gives (exec (.dataFrame link frame) s) (fun t => took t ∧ (getLink t link).rx1 = x.rx1 ++ ls))
          ∧ (vc = 2 → Gives (exec (.dataFrame link frame) s) (fun t => took t ∧ (getLink t link).rx2 = x.rx2 ++ ls))
          ∧ (vc = 0 → (∃ w, exec (.dataFrame link frame) s = .next (deliverVc0 w link) ∧ took w ∧ (getLink w link).rx0 = x.rx0 ++ ls)
            ∧ (transfersDone s = false → openReceive s (25 + link) link false = none → openReceive s 24 link true = none →
              Gives (exec (.dataFrame link frame) s) (fun t => took t ∧ (getLink t link).rx0 = x.rx0 ++ ls))
            ∧ (transfersDone s = true → link < 24 → ls ≠ [] →
              Gives (exec (.dataFrame link frame) s) (fun t => (getLink t link).rxSeq = h.seq ∧ (getLink t link).rx0 = []
                ∧ t.err.errWrites = s.err.errWrites + 1 ∧ ∀ k, k < 53 → (getTiller t k).mode = .idle)))))
      ∧ (∀ crc, (h.decodes = false ∨ h.kind ≠ 0 ∨ crc ≠ frameCrc h 0 0 [] → Gives (exec (.idleFrame link h crc) s) refused)
        ∧ (∀ map ms, h.decodes = false ∨ h.kind ≠ 2 ∨ crc ≠ frameCrc h 0 map (ms.map Config.ctrlSlot) →
          Gives (exec (.controlFrame link h ⟨map, crc⟩ ms) s) refused)
        ∧ (∀ vc map ls, h.decodes = false ∨ h.kind ≠ 1 ∨ vc = 3 ∨ crc ≠ frameCrc h vc map ls → Gives (exec (.dataFrame link ⟨h, vc, map, ls, crc⟩) s) refused))
      ∧ (h.decodes = true → h.seq ≠ x.rxSeq + 1 →
        (h.kind = 0 → Gives (exec (.idleFrame link h (frameCrc h 0 0 [])) s) late)
        ∧ (h.kind = 2 → ∀ map ms, Gives (exec (.controlFrame link h ⟨map, frameCrc h 0 map (ms.map Config.ctrlSlot)⟩ ms) s) late)
        ∧ (h.kind = 1 → ∀ vc map ls, vc ≠ 3 → Gives (exec (.dataFrame link ⟨h, vc, map, ls, frameCrc h vc map ls⟩) s) late))
  )

/-- A link that trains becomes UP, and in a formation sends this member's identity and the checks it knows; it is DOWN when training fails; one that
loses lock is in RECOVERY until it relocks, and then resends from what the peer last accepted; the loss events declare a carrying link LOST:
its buffered lines and its remote requests go, and LEAVE is due 16 times. In a run WAIN_LOST is logged as REPLANNED, the first record if none is held;
outside one the loss of a member's link dissolves the Crop (R229, R234, R281 to R285, R527).
Model's own readings behind it: logs 20 and 36. -/
def Obligations.LinkEventsComplete : Prop :=
  ∀ (s : State) (link : Nat), alive s = true →
    let x := getLink s link
    let f := getForming s
    let lost (o : Host.Outcome State Machine.Fault Refusal) : Prop := Gives o (fun t => (getLink t link).leaveLeft = 16
      ∧ (getLink t link).tx0 = [] ∧ (getLink t link).tx1 = [] ∧ (getLink t link).tx2 = [] ∧ (∀ q ∈ t.wain.remote, q.link ≠ link) ∧ t.err.firstValid = true
      ∧ (s.err.firstValid = false → ∃ r, t.err.first = some r ∧ r.cls = 3 ∧ r.source = 0x0A ∧ r.inst = BitVec.ofNat 16 link)
      ∧ ((runningSlot s).isSome = true → (getLink t link).state = .lost)
      ∧ (runningSlot s = none → f.active = false → peerInCrop s x = true → t.crop = {} ∧ ∀ k, k < 16 → boundSlot (getSlot t k) = false))
    (x.state = .training →
      (f.active = false → f.joins = [] → exec (.trainingComplete link) s = .next (setLink s link { x with state := .up }))
      ∧ (f.active = true → ∃ w, exec (.trainingComplete link) s = .next (reportChecks w) ∧ (getLink w link).state = .up ∧ w.crop = s.crop
        ∧ (getLink w link).ctrl = x.ctrl ++ .ident (ownIdent s link) :: f.joins.map (fun j => .bindReport (.checks j)))
      ∧ exec (.trainingTimeout link) s = .next (reportChecks (linkDown s link))
      ∧ (f.active = false → s.wain.remote = [] → x.leaveLeft = 0 → exec (.trainingTimeout link) s = .next (setLink s link { err := x.err })))
    ∧ (x.state = .up → exec (.lossOfLock link) s = .next (setLink s link { x with state := .recovery, badFrames := 0, err := bump x.err 55 48 1 }))
    ∧ (x.state = .recovery → exec (.relock link) s = .next (setLink s link { x with state := .up, resync := true, resend := [] }))
    ∧ (s.crop.member = true → x.state = .up ∨ x.state = .recovery →
      lost (exec (.linkLossTimeout link) s) ∧ lost (exec (.elasticBufferOverflow link) s) ∧ lost (exec (.leave link) s)
      ∧ (waitsForCredit x = true → x.peerHeld = false → lost (exec (.creditWaitTimeout link) s)))

/-- A remote request at its target is served at the memory controllers and answered on VC2: a READ with its lines, a WRITE merged under its
byte enables with WACK, a refused one with NACK, counted and logged; elsewhere it goes on towards its target. Its slots leave the
receive buffer and their credits return (R269, R276 to R279, R303).
A response that reaches its requester closes its request: RDATA hands its lines over, poisoned when its STATUS says so, WACK ends a write,
NACK refuses the requesting context and fails a command's task; one whose tag is not outstanding is logged and changes no task; elsewhere a response goes on
towards its requester; REMOTE_TIMEOUT ends a request, logs it, and fails a command's or a copy's task with TARGET_LOST (R276 to R280, R525).
Model's own readings behind it: log 38. -/
def Obligations.RemoteAccessesComplete : Prop :=
  (
    ∀ (s : State) (link : Nat) (r : RemoteRec) (lines : List (List Byte)), alive s = true →
      let x := getLink s link
      let to_ (tally : Nat) := (routeTo s tally).getD link
      let taken (t : State) (n : Nat) : Prop := (getLink t link).rx1 = x.rx1.drop n ∧ (getLink t link).ret1 = x.ret1 + n
      let answers (t : State) (op status : Byte) (data : List (List Byte)) : Prop :=
        (getLink t (to_ r.src.toNat)).tx2 = (getLink s (to_ r.src.toNat)).tx2 ++ recordBytes (responseTo r op status) :: data
      let refused (t : State) : Prop := answers t 0x83 1 [] ∧ t.mem.ram = s.mem.ram ∧ t.mem.ownerRefuse = satAdd32 s.mem.ownerRefuse 1
        ∧ t.err.errWrites = s.err.errWrites + 1
      (r.dst ≠ s.boot.tallyAddr →
        (x.rx1.take 1 = [recordBytes r] → Gives (exec (.remoteRead link r) s) (fun t => taken t 1 ∧ t.mem = s.mem
          ∧ (getLink t (to_ r.dst.toNat)).tx1 = (getLink s (to_ r.dst.toNat)).tx1 ++ [recordBytes r]))
        ∧ (x.rx1.take (lines.length + 1) = recordBytes r :: lines → Gives (exec (.remoteWrite link r lines) s) (fun t => taken t (lines.length + 1)
          ∧ t.mem = s.mem ∧ (getLink t (to_ r.dst.toNat)).tx1 = (getLink s (to_ r.dst.toNat)).tx1 ++ recordBytes r :: lines)))
      ∧ (r.dst = s.boot.tallyAddr → x.rx1.take 1 = [recordBytes r] →
        (remoteRefusal s r .read = none → (∀ n ∈ remoteLines r, linePoison (lineSettle (ramLine s.mem.ram n)) = false) →
          Gives (exec (.remoteRead link r) s) (fun t => taken t 1 ∧ t.mem.ram = s.mem.ram
            ∧ answers t 0x81 0 ((remoteLines r).map (fun n => (lineSettle (ramLine s.mem.ram n)).data))))
        ∧ (remoteRefusal s r .read = none → (∃ n ∈ remoteLines r, linePoison (lineSettle (ramLine s.mem.ram n)) = true) →
          Gives (exec (.remoteRead link r) s) (fun t => taken t 1 ∧ t.mem.ram = s.mem.ram ∧ answers t 0x81 2 []))
        ∧ (∀ n row, remoteRefusal s r .read = some (n, row) → Gives (exec (.remoteRead link r) s) (fun t => taken t 1 ∧ refused t)))
      ∧ (r.dst = s.boot.tallyAddr → x.rx1.take (lines.length + 1) = recordBytes r :: lines →
        (remoteRefusal s r .write = none → Gives (exec (.remoteWrite link r lines) s) (fun t => taken t (lines.length + 1) ∧ answers t 0x82 0 []
          ∧ (∀ i, i < r.nlines → ramLine t.mem.ram (bits r.dpa.toNat 39 6 + i)
              = lineMerge (ramLine s.mem.ram (bits r.dpa.toNat 39 6 + i)) (lines.getD i []) (lineMask r i))
          ∧ ∀ n, (n < bits r.dpa.toNat 39 6 ∨ bits r.dpa.toNat 39 6 + r.nlines ≤ n) → ramLine t.mem.ram n = ramLine s.mem.ram n))
        ∧ (∀ n row, remoteRefusal s r .write = some (n, row) → Gives (exec (.remoteWrite link r lines) s) (fun t =>
          taken t (lines.length + 1) ∧ refused t)))
  ) ∧
  (
    ∀ (s : State) (link : Nat) (r : RemoteRec) (lines : List (List Byte)), alive s = true →
      let got (u : State) (who : Requester) := (getTask u who).got
      (r.dst = s.boot.tallyAddr → ∀ q, requestOf s r = some q →
        Gives (exec (.rdata link r lines) s) (fun t => t.wain.remote = s.wain.remote.erase q ∧ t.mem = s.mem
          ∧ got t q.who = got s q.who ++ (List.range q.record.nlines).map (fun i =>
              (q.record.dpa.toNat / 64 + i, if r.status = 2 then poisonLine else cleanLine (lines.getD i [])))
          ∧ ∀ w, w ≠ q.who → getTask t w = getTask s w)
        ∧ Gives (exec (.wack link r) s) (fun t => t.wain.remote = s.wain.remote.erase q ∧ t.wain.tasks = s.wain.tasks ∧ t.mem = s.mem)
        ∧ (∀ w n, q.who = .command w n → Gives (exec (.nack link r) s) (fun t => t.wain.remote = s.wain.remote.erase q
          ∧ (getTask t q.who).failed = some ((getTask s q.who).failed.getD stProtection)
          ∧ (getCtx t q.record.context.toNat).refusals = satAdd32 (getCtx s q.record.context.toNat).refusals 1)))
      ∧ (r.dst = s.boot.tallyAddr → requestOf s r = none →
        let unknown (t : State) : Prop := t.wain.remote = s.wain.remote ∧ t.wain.tasks = s.wain.tasks ∧ t.err.errWrites = s.err.errWrites + 1
        Gives (exec (.rdata link r lines) s) unknown ∧ Gives (exec (.wack link r) s) unknown ∧ Gives (exec (.nack link r) s) unknown)
      ∧ (r.dst ≠ s.boot.tallyAddr →
        let on (data : List (List Byte)) (t : State) : Prop := t.wain.remote = s.wain.remote ∧ t.wain.tasks = s.wain.tasks
          ∧ (getLink t ((routeTo s r.dst.toNat).getD link)).tx2 = (getLink s ((routeTo s r.dst.toNat).getD link)).tx2 ++ recordBytes r :: data
        Gives (exec (.rdata link r lines) s) (on lines) ∧ Gives (exec (.wack link r) s) (on []) ∧ Gives (exec (.nack link r) s) (on []))
      ∧ (∀ tag q, s.wain.remote.find? (fun q => q.tag == tag) = some q →
        Gives (exec (.remoteTimeout tag) s) (fun t => t.wain.remote = s.wain.remote.erase q ∧ t.err.errWrites = s.err.errWrites + 1
          ∧ (∀ w n, q.who = .command w n → (getTask t q.who).failed = some ((getTask s q.who).failed.getD stTargetLost)
            ∧ (getWindrow t w).targetLost = true)
          ∧ (∀ c, q.who = .copyEngine c → (getTask t q.who).failed = some ((getTask s q.who).failed.getD stTargetLost))))
  )

/-! ## Monitors, boot, the Tally chain and test access -/

/-- RIPENESS_SAMPLE keeps the epoch minimum of its monitor and the lowest reading of all, and below 10 ps is CRITICAL and of class REPLAYED;
VID_ACK lets a code that waited be driven, and its timeout counts as a correctable error; THERMTRIP stops the clocks; an expired
watchdog is FATAL and resets the block (R453, R524, R545, R547, R561, R562).
Pin test instructions of the TAP act only in fundamental reset and are BYPASS after it; IDCODE gives the block's code; the PHY and BIST instruments
need fundamental reset or a debug token, which needs a signed one and running firmware: without them IJTAG reaches the monitors alone; the BIST
instrument leaves the state of a fundamental reset (R573).
Model's own readings behind it: logs 8 and 16. -/
def Obligations.MonitorsAndTestAccess : Prop :=
  (
    ∀ (s : State) (monitor slack : Nat),
      (grangerUp s = true →
        let kept (t : State) : Prop := look 65535 t.margin.slack monitor = min slack (look 65535 s.margin.slack monitor)
          ∧ t.margin.worst.toNat = min s.margin.worst.toNat slack ∧ ∀ k, k ≠ monitor → look 65535 t.margin.slack k = look 65535 s.margin.slack k
        (10 ≤ slack → Gives (exec (.ripenessSample monitor slack) s) (fun t => kept t ∧ t = { s with margin := t.margin }))
        ∧ (slack < 10 → Gives (exec (.ripenessSample monitor slack) s) (fun t => kept t ∧ t.margin.critical = true
          ∧ t.err.errWrites = s.err.errWrites + 1 ∧ ((runningSlot s).isSome = true → ∀ k, k < 53 → (getTiller t k).mode = .idle)))
        ∧ exec .watchdogExpiry s = .next (fatalReset s srcControl) ∧ (fatalReset s srcControl).pending = s.pending
        ∧ ∀ w, bitOf (getWindrow (fatalReset s srcControl) w).cfg 0 = false)
      ∧ (let v := vidOf s.margin.vddMv
        (s.boot.fwRunning = true → s.margin.vid ≠ v → exec .vidAck s = .next { s with out := s.out ++ [.vid v], margin := { s.margin with
            vid := v, vidAckHigh := false } })
        ∧ (s.boot.fwRunning = false ∨ s.margin.vid = v → exec .vidAck s = .next { s with margin := { s.margin with vidAckHigh := true } }))
      ∧ (grangerUp s = true → s.margin.vidAckHigh = false → Gives (exec .vidAckTimeout s) (fun t => t.margin.atCeiling = true
          ∧ t.err.errWrites = s.err.errWrites + 1 ∧ look 0 t.err.counts 0 = satAdd32 (look 0 s.err.counts 0) 1 ∧ t.err.firstValid = s.err.firstValid))
      ∧ (s.margin.vidAckHigh = true → exec .vidAckTimeout s = .next s)
      ∧ exec .thermtrip s = .next { s with boot := { s.boot with thermtrip := true } }
  ) ∧
  (
    ∀ (s : State) (op : TapOp),
      let uses (o : TapOp) : Prop := exec (.tapInstruction op) s = .next { s with boot := { s.boot with tap := o } }
      let allowed := s.boot.perstLow = true ∨ s.boot.debugToken = true
      (op = .bypass ∨ op = .samplePreload ∨ op = .ijtagMonitors → uses op)
      ∧ (op = .idcode → exec (.tapInstruction op) s = .next { s with boot := { s.boot with tap := op }, out := s.out ++ [.tdo 0x15940A6B] })
      ∧ (op = .extest ∨ op = .clamp ∨ op = .highz → (s.boot.perstLow = true → uses op) ∧ (s.boot.perstLow = false → uses .bypass))
      ∧ (op = .ijtagPhy → (allowed → uses op) ∧ (¬ allowed → uses .ijtagMonitors))
      ∧ (op = .ijtagBist → (¬ allowed → uses .ijtagMonitors) ∧ (allowed → Gives (exec (.tapInstruction op) s) (fun t => t.boot.tap = op ∧ t.mem = {}
          ∧ t.cache = {} ∧ t.grg = {} ∧ t.slots = [] ∧ t.boot.perstLow = s.boot.perstLow ∧ t.boot.fwRunning = false)))
      ∧ (∀ ok, op = .debugToken ok → Gives (exec (.tapInstruction op) s) (fun t => t.boot.tap = op
          ∧ (ok = true → grangerUp s = true → t.boot.debugToken = true) ∧ (ok = false ∨ grangerUp s = false → t.boot.debugToken = s.boot.debugToken)))
  )

/-- PERST_N and a fall of PWR_OK bring the block into fundamental reset, which keeps the flash, the Tally address and the queue; its end samples
the straps; PLL_LOCK, FIRMWARE_AUTHENTICATION, STACK_TRAINING and POOL_CLEAR take the boot steps 4 to 6, each failure stopping it with its code
or, for a stack, leaving the pool absent; a port runs at the lesser of its rated and its kind's top rate (R289 to R292, R302, R378, R451, R555, R556, R559, R564 to R567).
Model's own readings behind it: logs 6, 7 and 39. -/
def Obligations.BootStepsComplete : Prop :=
  ∀ (s : State) (straps : W16) (r : AuthResult) (ports : List PortTrain),
    let at_ (n : Nat) : Prop := alive s = true ∧ s.boot.step = BitVec.ofNat 4 n
    let failed (o : Host.Outcome State Machine.Fault Refusal) (code : Nat) : Prop := Gives o (fun t => t.boot.step = 15 ∧ t.boot.fail.toNat = code
      ∧ t.boot.alert = true ∧ t = { s with boot := t.boot })
    let okA := r.authA = true ∧ r.fusedMin ≤ r.versionA
    let okB := r.authB = true ∧ r.fusedMin ≤ r.versionB
    let gone (t : State) : Prop := t.boot.perstLow = true ∧ t.boot.step = 0 ∧ t.boot.fwRunning = false ∧ t.boot.memoryActive = false ∧ t.mem = {} ∧ t.cache = {}
      ∧ t.grg = {} ∧ t.slots = [] ∧ t.crop = {} ∧ t.hl = {} ∧ t.tr = {} ∧ t.tick = 0 ∧ t.boot.flash = s.boot.flash ∧ t.boot.straps = s.boot.straps
      ∧ (s.boot.tallyDeferred = none → t.boot.tallyAddr = s.boot.tallyAddr ∧ t.boot.tallyValid = s.boot.tallyValid) ∧ t.pending = s.pending
    (s.boot.perstLow = false → Gives (exec .perstNAsserted s) gone ∧ Gives (exec .pwrOkFall s) gone)
    ∧ (s.boot.perstLow = true → Gives (exec (.fundamentalReset straps) s) (fun t => t.boot.perstLow = false ∧ t.boot.straps = straps ∧ t.boot.step = 2
        ∧ t.boot.strapRsv = strapsOdd straps ∧ t.boot.thermtrip = false ∧ t = { s with boot := t.boot }))
    ∧ (at_ 2 → Gives (exec (.pllLock true) s) (fun t => t.boot.step = 4 ∧ t = { s with boot := t.boot }) ∧ failed (exec (.pllLock false) s) 1)
    ∧ (at_ 4 → (okA ∨ okB → recordOk r = true → Gives (exec (.firmwareAuthentication r) s) (fun t => t.boot.step = 5 ∧ t.boot.fwRunning = true
          ∧ (okA → t.boot.copyB = false ∧ t.boot.fwVersion = r.fwVersionA) ∧ (¬ okA → t.boot.copyB = true ∧ t.boot.fwVersion = r.fwVersionB)
          ∧ t.boot.serial = r.serial ∧ t.margin.vddMv = fieldLE r.record 4 2 ∧ t.margin.vddCeil = fieldLE r.record 6 2
          ∧ t.margin.fmin = fieldLE r.record 8 1 ∧ t.margin.fmax = fieldLE r.record 10 1 ∧ t.tr.desc0.toNat = fieldLE r.record 16 8))
      ∧ (okA ∨ okB → recordOk r = false → failed (exec (.firmwareAuthentication r) s) 4)
      ∧ (¬ okA → ¬ okB → r.authA = true ∨ r.authB = true → failed (exec (.firmwareAuthentication r) s) 3)
      ∧ (r.authA = false → r.authB = false → failed (exec (.firmwareAuthentication r) s) 2))
    ∧ (grangerUp s = true → s.boot.step = 5 → s.boot.stacksTrained = false → ports.length = 20 → (∀ p ∈ ports, p.capGib.toNat ≤ 48) →
      (∀ m, (∀ p ∈ ports, p.up = true ∧ (p.kind = 1 ∨ p.kind = 2) ∧ m ≤ p.capGib.toNat) → (∃ p ∈ ports, p.capGib.toNat = m) →
        Gives (exec (.stackTraining ports) s) (fun t => t.mem.poolGib.toNat = 20 * m ∧ t.boot.stacksTrained = true ∧ t.boot.step = 5
          ∧ (t.mem.mixed = true ↔ (∃ p ∈ ports, p.kind = 1) ∧ (∃ p ∈ ports, p.kind = 2))
          ∧ ∀ i p, ports[i]? = some p → (getPort t i).up = true ∧ (getPort t i).capGib = p.capGib ∧ (getPort t i).kind = p.kind
            ∧ (getPort t i).rate.toNat = min p.rate.toNat (if p.kind = 1 then 64 else 96)))
      ∧ ((∃ p ∈ ports, p.up = false ∨ (p.kind ≠ 1 ∧ p.kind ≠ 2)) → Gives (exec (.stackTraining ports) s) (fun t => t.boot.poolAbsent = true ∧ t.boot.step = 6 ∧ t.mem.poolGib = 0)))
    ∧ (grangerUp s = true → s.boot.step = 5 → s.boot.stacksTrained = true → s.boot.poolAbsent = false → Gives (exec .poolClear s) (fun t =>
        t.boot.step = 6 ∧ t.boot.memoryActive = true ∧ (∀ n, ramLine t.mem.ram n = zeroLine) ∧ (∀ g, look 0 t.mem.owner g = 0)
        ∧ (∀ c, (getCtx t c).state = .unbound) ∧ t.cache = s.cache))

/-- The head of the Tally chain numbers itself 0 and sends ENUM 1; any other chip takes the number it receives, unless it is a member of a Crop,
and passes on the next; READ answers with the word its selector names, WRITE performs or refuses it, RESP goes on, WAKE sets PME_Status; frames
for other chips go on unchanged, and those whose CRC fails are discarded (R569 to R572).
Model's own readings behind it: logs 17 and 39. -/
def Obligations.TallyFramesComplete : Prop :=
  ∀ (s : State) (v : BitVec 11) (payload : W64) (crc : Byte),
    let sends (t : State) (n : Nat) : Prop := t.out = s.out ++ [.tally (tallyPayload 1 0 0 (n % 2048) false)]
    let head := bitOf s.boot.straps 2
    let mine := s.boot.tallyValid = true ∧ field payload 14 5 = s.boot.tallyAddr.toNat ∧ bitOf payload 4 = false
    let good (type : Nat) : Prop := field payload 3 0 = type ∧ crc = crc8 payload
    let on (u : State) : State := { u with out := u.out ++ [.tally payload] }
    let answer (d : Nat) (bad : Bool) : Out := .tally (tallyPayload 4 (field payload 14 5) (field payload 31 16) d bad)
    let sel := field payload 31 16
    let value : W32 := BitVec.ofNat 32 (field payload 63 32)
    (grangerUp s = true → s.boot.step = 7 →
      (head = true → Gives (exec .enumStart s) (fun t => sends t 1 ∧ t.boot = { s.boot with step := 8, tallyAddr := 0, tallyValid := true }))
      ∧ (head = false → exec .enumStart s = .next { s with boot := { s.boot with step := 8 } }))
    ∧ (head = false → v.toNat < 1024 → (s.crop.member = false ∨ s.boot.tallyAddr.toNat = v.toNat) → Gives (exec (.enum v) s) (fun t =>
        sends t (v.toNat + 1) ∧ t.boot.tallyAddr.toNat = v.toNat ∧ t.boot.tallyValid = true))
    ∧ (head = false → v.toNat < 1024 → s.crop.member = true → s.boot.tallyAddr.toNat ≠ v.toNat → Gives (exec (.enum v) s) (fun t =>
        sends t (v.toNat + 1) ∧ t.boot.tallyAddr = s.boot.tallyAddr ∧ t.boot.tallyDeferred = some (BitVec.ofNat 10 v.toNat) ∧ t.boot.tallyConflict = true))
    ∧ (head = false → 1024 ≤ v.toNat → Gives (exec (.enum v) s) (fun t => sends t (v.toNat + 1) ∧ t.boot = s.boot))
    ∧ (head = true → Gives (exec (.enum v) s) (fun t => t.boot.tallyConflict = true ∧ t.out = s.out ∧ t.boot.tallyAddr = s.boot.tallyAddr))
    ∧ (good 2 → mine → ∀ d u, tallyWord s sel = (d, u) → exec (.tallyRead payload crc) s = .next { u with out := u.out ++ [answer d false] })
    ∧ (good 2 → ¬ mine → exec (.tallyRead payload crc) s = .next (on s))
    ∧ (good 3 → mine → (∀ u, tallyStore s sel value = some u →
          exec (.tallyWrite payload crc) s = .next { u with out := u.out ++ [answer value.toNat false] })
        ∧ (tallyStore s sel value = none → exec (.tallyWrite payload crc) s = .next { s with out := s.out ++ [answer value.toNat true] }))
    ∧ (good 3 → bitOf payload 4 = true → exec (.tallyWrite payload crc) s = .next (on ((tallyStore s sel value).getD s)))
    ∧ (good 3 → ¬ mine → bitOf payload 4 = false → exec (.tallyWrite payload crc) s = .next (on s))
    ∧ (good 4 → exec (.resp payload crc) s = .next (on s))
    ∧ (good 5 → (bitOf payload 4 = true ∨ mine) → Gives (exec (.tallyWake payload crc) s) (fun t => bitOf t.hl.pmcsr 15 = true
        ∧ t.out = s.out ++ (if bitOf s.hl.pmcsr 8 then [.wake] else []) ++ [.tally payload]))
    ∧ (good 5 → bitOf payload 4 = false → ¬ mine → exec (.tallyWake payload crc) s = .next (on s))
    ∧ (crc ≠ crc8 payload → exec (.tallyRead payload crc) s = .next s ∧ exec (.tallyWrite payload crc) s = .next s
        ∧ exec (.resp payload crc) s = .next s ∧ exec (.tallyWake payload crc) s = .next s)

/-! ## The block as a whole -/

/-- A step with a command at the front of the queue is exec of that command on the state with the queue's rest.
Model's own readings behind it: log 1. -/
def Obligations.StepTakesTheFrontCommand : Prop :=
  ∀ (s : State) (c : Instr) (rest : List Instr), s.pending = c :: rest → step s = exec c { s with pending := rest }

/-- On an empty queue the step is one A-cycle (log 5, the model's choice): while the clocks run and are not gated, the tick and the Crop time
base rise, CTB by the six root cycles of the A-cycle and those that stretch it, so that the Crop tick rises by 1 in an A-cycle without a
stretch, and the global tick counter where it counts; a gated or stopped block stays as it is (R7, R25, R239, R448).
Model's own readings behind it: logs 5 and 29. -/
def Obligations.IdleStepIsOneCycle : Prop :=
  ∀ (s : State), s.pending = [] →
    (alive s = true → s.hl.gated = false → Gives (step s) (fun t => t.tick = s.tick + 1 ∧ t.ctb = s.ctb + 6 + BitVec.ofNat 64 s.stretch ∧ t.stretch = 0
      ∧ t.ctbQuarter = s.ctbQuarter ∧ (s.stretch = 0 → s.ctb.toNat + 6 < 2 ^ 64 → cropTick t = cropTick s + 1) ∧ t.wall = s.wall + wallStep s
      ∧ t.globalTick = (if s.counting then s.globalTick + 1 else s.globalTick) ∧ t.pending = [] ∧ t.mem = s.mem ∧ t.cache = s.cache ∧ t.grg = s.grg))
    ∧ (alive s = false ∨ s.hl.gated = true → step s = .next s)

/-- Every command answers a next state, whatever the state: none faults and none is refused.
Model's own readings behind it: log 18. -/
def Obligations.EveryCommandAnswers : Prop :=
  ∀ (c : Instr) (s : State), ∃ t, exec c s = .next t

/-- At reset the registers hold the values that their tables give: HL_CFG 0x0000000A, TR_CFG 0x27100000, CACHE_CFG 0x00003007, COH_CFG 0,
GLEAN_CFG 0x00000118, WAIN_CFG 0x003C0032, the counters 0, every Windrow disabled with LOG2N 6, every context UNBOUND, every slot EMPTY,
every link DOWN, and no command waits (R286, R316, R342, R379, R419, R457, R506, R520).
Model's own readings behind it: log 2. -/
def Obligations.ResetHoldsTheRegisters : Prop :=
  let s := State.reset
  s.hl.cfg = 0x0000000A ∧ s.tr.cfg = 0x27100000 ∧ s.cache.cfg = 0x00003007 ∧ s.cache.cohCfg = 0 ∧ s.mem.gleanCfg = 0x00000118
  ∧ s.wain.cfg = 0x003C0032 ∧ s.grg.err = 0 ∧ s.mem.ownerRefuse = 0 ∧ s.hl.err = 0 ∧ s.cache.err = 0 ∧ s.cache.cohStat = 0
  ∧ (∀ w, bitOf (getWindrow s w).cfg 0 = false ∧ field (getWindrow s w).cfg 12 8 = 6) ∧ (∀ c, (getCtx s c).state = .unbound)
  ∧ (∀ n, (getSlot s n).state = .empty) ∧ (∀ n, (getLink s n).state = .down) ∧ s.pending = []

/-- The state at reset keeps every addressed store canonical and every configuration register legal.
Model's own readings behind it: log 2. -/
def Obligations.ResetIsWellFormed : Prop :=
  MemWf State.reset ∧ CfgWf State.reset

/-- The queue is the sender's: no command changes it, and a step takes exactly its front command.
Model's own readings behind it: log 1. -/
def Obligations.CommandsKeepTheQueue : Prop :=
  (∀ (c : Instr) (s t : State), exec c s = .next t → t.pending = s.pending) ∧ (∀ (s t : State), step s = .next t → t.pending = s.pending.tail)

/-- Every step keeps the device memory, the Loft and the host's memory in canonical form: addresses strictly rising, no listed byte that an
unlisted one reads as.
Model's own readings behind it: logs 10 and 13. -/
def Obligations.StepsKeepMemoryCanonical : Prop :=
  ∀ (s t : State), MemWf s → step s = .next t → MemWf t

/-- Every step keeps the configuration registers within their ranges, with zeros in their reserved bits (R9, R286, R316, R342, R379, R419,
R457): no command, reset or engine can leave a value that a write would have refused. -/
def Obligations.StepsKeepConfigurationLegal : Prop :=
  ∀ (s t : State), CfgWf s → step s = .next t → CfgWf t

/-- PCHK of a packet is the complement of s mod 2^32, s the sum of its words at offsets 0 to 11 and 16 to 63, and check 2 compares the
word at offset 12 with it; a slot that holds only zeros does not pass it (R491). Moldo packets carry no PCHK (R519). -/
def Obligations.PacketChecksum : Prop :=
  (∀ (bs : List Byte), packetSum bs = 2 ^ 32 - 1 -
    (((List.range 3).map (fun i => fieldLE bs (4 * i) 4)).sum + ((List.range 12).map (fun i => fieldLE bs (16 + 4 * i) 4)).sum) % 2 ^ 32)
  ∧ ∀ (w : Windrow), isMoldo w = false →
      (∀ bs, checkTwo w bs = true ↔ fieldLE bs 12 4 = packetSum bs) ∧ checkTwo w (List.replicate 64 0) = false

/-- The INT32 accumulator adds exactly and saturates at the ends of its range; saturation sets accumulator overflow, and the addition starts
from the value it has, saturated or not (R78). In each accumulator format addition is commutative; the sum of two zeros is +0 but for two
negative ones, and a nonzero value and its negative sum to +0 (R77). -/
def Obligations.AccumulatorAddition : Prop :=
  (∀ (a b : Nat), a < 2 ^ 32 → b < 2 ^ 32 →
    let sum := signed 32 a + signed 32 b
    let r := addAcc 10 a b
    signed 32 r.1 = max (-2 ^ 31) (min (2 ^ 31 - 1) sum) ∧ r.1 < 2 ^ 32 ∧ (r.2 &&& fAO ≠ 0 ↔ (sum < -2 ^ 31 ∨ 2 ^ 31 - 1 < sum)))
  ∧ (∀ (acc : Nat), acc ∈ [0, 1, 10] → ∀ (a b : Nat), addAcc acc a b = addAcc acc b a)
  ∧ (∀ (acc sign inf : Nat), (acc, sign, inf) ∈ [(0, 2 ^ 63, 0x7FF0000000000000), (1, 2 ^ 31, 0x7F800000)] →
      addAcc acc 0 0 = (0, 0) ∧ addAcc acc 0 sign = (0, 0) ∧ addAcc acc sign 0 = (0, 0) ∧ addAcc acc sign sign = (sign, 0)
      ∧ (∀ (a : Nat), 0 < a → a < inf → addAcc acc a (a + sign) = (0, 0)))

/-- The tables of the function units hold the rounded values of their definitions: t[i] is 2^(i/64) × 2^31 to the nearest integer, by its 64th
power (R142), rt[j] is 2^24 / (257 + 2j), and st[j] is 2^16 / √c_j, by its square (R145); no entry is a tie. EXP2 of a multiple of 1/64
below 1 is the entry of t itself (R143). -/
def Obligations.FunctionTablesAreRounded : Prop :=
  exp2Table.length = 64
  ∧ (∀ (i : Nat), i < 64 → exp2Table.getD i 0 < 2 ^ 32 ∧ (2 * exp2Table.getD i 0 - 1) ^ 64 < 2 ^ (64 * 32 + i)
      ∧ 2 ^ (64 * 32 + i) < (2 * exp2Table.getD i 0 + 1) ^ 64 ∧ exp2Core (2 ^ 18 * i : Nat) = (exp2Table.getD i 0, 0))
  ∧ (∀ (j : Nat), j < 128 → rcpSeed j < 2 ^ 16 ∧ (2 * rcpSeed j - 1) * (257 + 2 * j) < 2 ^ 25 ∧ 2 ^ 25 < (2 * rcpSeed j + 1) * (257 + 2 * j))
  ∧ (∀ (j : Nat), j < 64 → rsqrtSeed j < 2 ^ 16
      ∧ (2 * rsqrtSeed j - 1) ^ 2 * (129 + 2 * j) < 2 ^ 41 ∧ 2 ^ 41 < (2 * rsqrtSeed j + 1) ^ 2 * (129 + 2 * j))
  ∧ (∀ (j : Nat), 64 ≤ j → j < 128 → rsqrtSeed j < 2 ^ 16
      ∧ (2 * rsqrtSeed j - 1) ^ 2 * (129 + 2 * (j - 64)) < 2 ^ 40 ∧ 2 ^ 40 < (2 * rsqrtSeed j + 1) ^ 2 * (129 + 2 * (j - 64)))
end

