-- ==== Sys2Proof/Laws/Aside.lean ====
section
/-!
SUPPORT. What every memory, cache, directory and flush operation leaves alone: all but what is emitted, the free counter, the contexts'
refusal counters, the error bank and its alert, the host link's own state, and the contents of the pool, the caches and the host's memory;
and the Wain and the Crop, unless it reports an error of class REPLANNED.
-/
namespace Sys2Proof.Machine

section

set_option linter.all false

/-- The second state has what the first has in every field outside the memory system. -/
structure Aside (s t : State) : Prop where
  pending : t.pending = s.pending
  tick : t.tick = s.tick
  wall : t.wall = s.wall
  ctb : t.ctb = s.ctb
  ctbQuarter : t.ctbQuarter = s.ctbQuarter
  stretch : t.stretch = s.stretch
  globalTick : t.globalTick = s.globalTick
  counting : t.counting = s.counting
  epochStart : t.epochStart = s.epochStart
  rootPct : t.rootPct = s.rootPct
  grg : t.grg = s.grg
  slots : t.slots = s.slots
  tillers : t.tillers = s.tillers
  units : t.units = s.units
  sheaves : t.sheaves = s.sheaves
  reds : t.reds = s.reds
  ep : t.ep = s.ep
  margin : t.margin = s.margin
  owner : t.mem.owner = s.mem.owner
  poolGib : t.mem.poolGib = s.mem.poolGib
  loftOwner : t.cache.loftOwner = s.cache.loftOwner
  loftWays : t.cache.loftWays = s.cache.loftWays
  frozen : t.hl.frozen = s.hl.frozen
  regions : t.hl.regions = s.hl.regions
  boot : { t.boot with alert := false } = { s.boot with alert := false }
  tr : { t.tr with ctxs := [] } = { s.tr with ctxs := [] }
  reports : ∃ r, t.err.reported = s.err.reported ++ r ∧ (r = [] → t.wain = s.wain ∧ t.crop = s.crop)

theorem Aside.refl (s : State) : Aside s s :=
  ⟨rfl, rfl, rfl, rfl, rfl, rfl, rfl, rfl, rfl, rfl, rfl, rfl, rfl, rfl, rfl, rfl, rfl, rfl, rfl, rfl, rfl, rfl, rfl, rfl, rfl, rfl,
    [], (List.append_nil _).symm, fun _ => ⟨rfl, rfl⟩⟩

/-- Without a report the Wain and the Crop stand too. -/
theorem Aside.links {s t : State} (h : Aside s t) (e : t.err.reported = s.err.reported) : t.wain = s.wain ∧ t.crop = s.crop := by
  obtain ⟨r, h1, h2⟩ := h.reports
  refine h2 ?_
  rw [e] at h1
  exact List.append_cancel_left (h1.symm.trans (List.append_nil _).symm)

theorem Aside.upd {s0 t : State} {out freeCtr boot hl hostMem tr cache mem err} (h : Aside s0 t)
    (w1 : mem.owner = t.mem.owner) (w2 : mem.poolGib = t.mem.poolGib) (w3 : cache.loftOwner = t.cache.loftOwner)
    (w4 : cache.loftWays = t.cache.loftWays) (w5 : hl.frozen = t.hl.frozen) (w6 : hl.regions = t.hl.regions)
    (w7 : { boot with alert := false } = { t.boot with alert := false }) (w8 : { tr with ctxs := [] } = { t.tr with ctxs := [] })
    (w9 : err.reported = t.err.reported) :
    Aside s0 (State.mk t.pending out freeCtr t.tick t.wall t.ctb t.ctbQuarter t.stretch t.globalTick t.counting t.epochStart t.rootPct boot hl
      hostMem t.grg tr cache mem err t.slots t.tillers t.units t.sheaves t.reds t.wain t.ep t.crop t.margin) :=
  ⟨h.pending, h.tick, h.wall, h.ctb, h.ctbQuarter, h.stretch, h.globalTick, h.counting, h.epochStart, h.rootPct, h.grg, h.slots, h.tillers,
    h.units, h.sheaves, h.reds, h.ep, h.margin, w1.trans h.owner, w2.trans h.poolGib, w3.trans h.loftOwner, w4.trans h.loftWays,
    w5.trans h.frozen, w6.trans h.regions, w7.trans h.boot, w8.trans h.tr, by
      obtain ⟨r, h1, h2⟩ := h.reports
      exact ⟨r, w9.trans h1, h2⟩⟩

/-- A report of class REPLANNED leaves everything but the error bank and what leads to the root. -/
theorem Aside.report {s0 t : State} {out freeCtr boot hl hostMem tr cache mem err wain crop} (h : Aside s0 t)
    (w1 : mem.owner = t.mem.owner) (w2 : mem.poolGib = t.mem.poolGib) (w3 : cache.loftOwner = t.cache.loftOwner)
    (w4 : cache.loftWays = t.cache.loftWays) (w5 : hl.frozen = t.hl.frozen) (w6 : hl.regions = t.hl.regions)
    (w7 : { boot with alert := false } = { t.boot with alert := false }) (w8 : { tr with ctxs := [] } = { t.tr with ctxs := [] })
    (w9 : ∃ e, err.reported = t.err.reported ++ [e]) :
    Aside s0 (State.mk t.pending out freeCtr t.tick t.wall t.ctb t.ctbQuarter t.stretch t.globalTick t.counting t.epochStart t.rootPct boot hl
      hostMem t.grg tr cache mem err t.slots t.tillers t.units t.sheaves t.reds wain t.ep crop t.margin) :=
  ⟨h.pending, h.tick, h.wall, h.ctb, h.ctbQuarter, h.stretch, h.globalTick, h.counting, h.epochStart, h.rootPct, h.grg, h.slots, h.tillers,
    h.units, h.sheaves, h.reds, h.ep, h.margin, w1.trans h.owner, w2.trans h.poolGib, w3.trans h.loftOwner, w4.trans h.loftWays,
    w5.trans h.frozen, w6.trans h.regions, w7.trans h.boot, w8.trans h.tr, by
      obtain ⟨r, h1, _⟩ := h.reports
      obtain ⟨e, he⟩ := w9
      exact ⟨r ++ [e], by rw [he, h1, List.append_assoc], fun hr => by simp at hr⟩⟩

theorem Aside.foldl {α : Type} {s0 s : State} {g : State → α → State} {l : List α} (h : ∀ a x, Aside s0 a → Aside s0 (g a x)) (hs : Aside s0 s) :
    Aside s0 (l.foldl g s) := by
  induction l generalizing s with
  | nil => exact hs
  | cons x l ih => exact ih (h s x hs)

theorem Aside.fold1 {α β : Type} {s0 : State} {s : State × β} {g : State × β → α → State × β} {l : List α} (h : ∀ a x, Aside s0 a.1 → Aside s0 (g a x).1) (hs : Aside s0 s.1) :
    Aside s0 (l.foldl g s).1 := by
  induction l generalizing s with
  | nil => exact hs
  | cons x l ih => exact ih (h s x hs)

theorem Aside.fold2 {α β : Type} {s0 : State} {s : β × State} {g : β × State → α → β × State} {l : List α} (h : ∀ a x, Aside s0 a.2 → Aside s0 (g a x).2) (hs : Aside s0 s.2) :
    Aside s0 (l.foldl g s).2 := by
  induction l generalizing s with
  | nil => exact hs
  | cons x l ih => exact ih (h s x hs)

theorem Aside.fold3 {α β γ : Type} {s0 : State} {s : β × γ × State} {g : β × γ × State → α → β × γ × State} {l : List α} (h : ∀ a x, Aside s0 a.2.2 → Aside s0 (g a x).2.2) (hs : Aside s0 s.2.2) :
    Aside s0 (l.foldl g s).2.2 := by
  induction l generalizing s with
  | nil => exact hs
  | cons x l ih => exact ih (h s x hs)

theorem Aside.pair2 {s0 : State} {α : Type} {x : α × State} {a : α} {t : State} (h : x = (a, t)) (hk : Aside s0 x.2) : Aside s0 t := by rw [h] at hk; exact hk

theorem Aside.pair1 {s0 : State} {α : Type} {x : State × α} {a : α} {t : State} (h : x = (t, a)) (hk : Aside s0 x.1) : Aside s0 t := by rw [h] at hk; exact hk

theorem Aside.pair3 {s0 : State} {α β : Type} {x : α × β × State} {a : α} {b : β} {t : State} (h : x = (a, b, t)) (hk : Aside s0 x.2.2) : Aside s0 t := by rw [h] at hk; exact hk

structure AsideO (s : State) (o : Host.Outcome State Fault Refusal) : Prop where
  keeps : ∀ t, o = .next t → Aside s t

theorem AsideO.next {s t : State} (h : Aside s t) : AsideO s (.next t) := ⟨fun u hu => by injection hu with hu; rw [← hu]; exact h⟩

theorem Aside.ite {s0 a b : State} {c : Prop} [Decidable c] (h1 : Aside s0 a) (h2 : Aside s0 b) : Aside s0 (if c then a else b) := by
  split
  · exact h1
  · exact h2

theorem AsideO.ite {s0 : State} {a b : Host.Outcome State Fault Refusal} {c : Prop} [Decidable c] (h1 : AsideO s0 a) (h2 : AsideO s0 b) : AsideO s0 (if c then a else b) := by
  split
  · exact h1
  · exact h2

structure AsideM (s : State) (o : Option State) : Prop where
  keeps : ∀ t, o = .some t → Aside s t

theorem AsideM.some {s t : State} (h : Aside s t) : AsideM s (.some t) := ⟨fun u hu => by injection hu with hu; rw [← hu]; exact h⟩

theorem AsideM.none {s : State} : AsideM s .none := ⟨fun u hu => nomatch hu⟩

theorem AsideM.of {s t : State} {o : Option State} (h : o = .some t) (k : AsideM s o) : Aside s t := k.keeps t h

theorem AsideM.ite {s0 : State} {a b : Option State} {c : Prop} [Decidable c] (h1 : AsideM s0 a) (h2 : AsideM s0 b) : AsideM s0 (if c then a else b) := by
  split
  · exact h1
  · exact h2

theorem Aside.pairM {s0 t u : State} {x : Option State × State} (h : x = (some t, u)) (hk : AsideM s0 x.1) : Aside s0 t := by rw [h] at hk; exact hk.keeps t rfl

theorem Aside.getD {s0 : State} {o : Option State} {d : State} (h1 : AsideM s0 o) (h2 : Aside s0 d) : Aside s0 (o.getD d) := by
  cases o with
  | none => exact h2
  | some t => exact h1.keeps t rfl


/-! ## Ops -/

theorem setCtx_aside {s0 : State} (s : State) (n : Nat) (c : Ctx) (k_s : Aside s0 s) : Aside s0 (setCtx s n c) := by
  unfold setCtx
  repeat' with_reducible first | rfl | assumption | intro _ | dsimp only | refine Aside.upd ?_ ?_ ?_ ?_ ?_ ?_ ?_ ?_ ?_ ?_

theorem emit_aside {s0 : State} (s : State) (o : Out) (k_s : Aside s0 s) : Aside s0 (emit s o) := by
  unfold emit
  repeat' with_reducible first | rfl | assumption | intro _ | dsimp only | refine Aside.upd ?_ ?_ ?_ ?_ ?_ ?_ ?_ ?_ ?_ ?_

theorem logRecord_aside {s0 : State} (s : State) (e : ErrRec) (k_s : Aside s0 s) : Aside s0 (logRecord s e) := by
  unfold logRecord
  repeat' with_reducible first | rfl | assumption | intro _ | dsimp only | apply Aside.ite | apply tallyConflict_aside | split | refine Aside.upd ?_ ?_ ?_ ?_ ?_ ?_ ?_ ?_ ?_ ?_

theorem logError_aside {s0 : State} (s : State) (cls : Nat) (source : Nat) (inst : Nat) (address : Nat) (ctx : Nat) (detail : Nat) (k_s : Aside s0 s) : Aside s0 (logError s cls source inst address ctx detail) := by
  unfold logError
  repeat' with_reducible first | rfl | assumption | intro _ | dsimp only | apply logRecord_aside

theorem countRefuse_aside {s0 : State} (s : State) (k_s : Aside s0 s) : Aside s0 (countRefuse s) := by
  unfold countRefuse
  repeat' with_reducible first | rfl | assumption | intro _ | dsimp only | refine Aside.upd ?_ ?_ ?_ ?_ ?_ ?_ ?_ ?_ ?_ ?_

theorem refuseCtx_aside {s0 : State} (s : State) (ctx : BitVec 20) (asked : Nat) (addr : Nat) (detail : Nat) (counted : Bool) (k_s : Aside s0 s) : Aside s0 (refuseCtx s ctx asked addr detail counted) := by
  unfold refuseCtx
  repeat' with_reducible first | rfl | assumption | intro _ | dsimp only | apply Aside.ite | apply countRefuse_aside | apply setCtx_aside | apply logError_aside | split

theorem freshFree_aside {s0 : State} (s : State) (k_s : Aside s0 s) : Aside s0 (freshFree s).2 := by
  unfold freshFree
  repeat' with_reducible first | rfl | assumption | intro _ | dsimp only | refine Aside.upd ?_ ?_ ?_ ?_ ?_ ?_ ?_ ?_ ?_ ?_


/-! ## Report -/

theorem raiseReplanned_aside {s0 : State} (s : State) (source inst addr ctx detail : Nat) (suspect : Option Nat) (k_s : Aside s0 s) :
    Aside s0 (raiseReplanned s source inst addr ctx detail suspect) := by
  unfold raiseReplanned reportToRoot reportError sendCtrl setLink
  dsimp only
  split
  · split
    · split
      · exact Aside.report (logRecord_aside _ _ k_s) rfl rfl rfl rfl rfl rfl rfl rfl ⟨_, rfl⟩
      · exact Aside.report (logRecord_aside _ _ k_s) rfl rfl rfl rfl rfl rfl rfl rfl ⟨_, rfl⟩
    · exact Aside.report (logRecord_aside _ _ k_s) rfl rfl rfl rfl rfl rfl rfl rfl ⟨_, rfl⟩
  · exact logRecord_aside _ _ k_s


/-! ## Cache -/

theorem storeWays_aside {s0 : State} (s : State) (c : Nat) (l : LineAddr) (ws : List Way) (k_s : Aside s0 s) : Aside s0 (storeWays s c l ws) := by
  unfold storeWays
  repeat' with_reducible first | rfl | assumption | intro _ | dsimp only | apply Aside.ite | split | refine Aside.upd ?_ ?_ ?_ ?_ ?_ ?_ ?_ ?_ ?_ ?_

theorem setWays_aside {s0 : State} (s : State) (c : Nat) (l : LineAddr) (ws : List Way) (k_s : Aside s0 s) : Aside s0 (setWays s c l ws) := by
  unfold setWays
  repeat' with_reducible first | rfl | assumption | intro _ | dsimp only | apply storeWays_aside

theorem cacheModify_aside {s0 : State} (s : State) (c : Nat) (l : LineAddr) (f : Way → Way) (k_s : Aside s0 s) : Aside s0 (cacheModify s c l f) := by
  unfold cacheModify
  repeat' with_reducible first | rfl | assumption | intro _ | dsimp only | apply setWays_aside | apply k_f | refine Aside.pair2 (by assumption) ?_ | refine Aside.pair3 (by assumption) ?_ | refine Aside.pair1 (by assumption) ?_ | refine AsideM.of (by assumption) ?_ | split

theorem cacheDrop_aside {s0 : State} (s : State) (c : Nat) (l : LineAddr) (k_s : Aside s0 s) : Aside s0 (cacheDrop s c l) := by
  unfold cacheDrop
  repeat' with_reducible first | rfl | assumption | intro _ | dsimp only | apply cacheModify_aside

theorem bumpCacheErr_aside {s0 : State} (s : State) (hi : Nat) (lo : Nat) (k : Nat) (k_s : Aside s0 s) : Aside s0 (bumpCacheErr s hi lo k) := by
  unfold bumpCacheErr
  repeat' with_reducible first | rfl | assumption | intro _ | dsimp only | refine Aside.upd ?_ ?_ ?_ ?_ ?_ ?_ ?_ ?_ ?_ ?_

theorem bumpCoh_aside {s0 : State} (s : State) (hi : Nat) (lo : Nat) (k : Nat) (k_s : Aside s0 s) : Aside s0 (bumpCoh s hi lo k) := by
  unfold bumpCoh
  repeat' with_reducible first | rfl | assumption | intro _ | dsimp only | refine Aside.upd ?_ ?_ ?_ ?_ ?_ ?_ ?_ ?_ ?_ ?_

theorem tagReport_aside {s0 : State} (s : State) (inst : Nat) (addr : Nat) (f : TagFind) (k_s : Aside s0 s) : Aside s0 (tagReport s inst addr f) := by
  unfold tagReport
  repeat' with_reducible first | rfl | assumption | intro _ | dsimp only | apply raiseReplanned_aside | apply logError_aside | apply bumpCacheErr_aside | refine Aside.pair2 (by assumption) ?_ | refine Aside.pair3 (by assumption) ?_ | refine Aside.pair1 (by assumption) ?_ | refine AsideM.of (by assumption) ?_ | split

theorem checkSet_aside {s0 : State} (s : State) (c : Nat) (l : LineAddr) (k_s : Aside s0 s) : Aside s0 (checkSet s c l) := by
  unfold checkSet
  repeat' with_reducible first | rfl | assumption | intro _ | dsimp only | apply Aside.ite | apply tagReport_aside | apply storeWays_aside | apply Aside.foldl | apply Aside.fold1 | apply Aside.fold2 | apply Aside.fold3 | split

theorem bumpMemErr_aside {s0 : State} (s : State) (n : Nat) (hi : Nat) (lo : Nat) (k : Nat) (k_s : Aside s0 s) : Aside s0 (bumpMemErr s n hi lo k) := by
  unfold bumpMemErr
  repeat' with_reducible first | rfl | assumption | intro _ | dsimp only | refine Aside.upd ?_ ?_ ?_ ?_ ?_ ?_ ?_ ?_ ?_ ?_

theorem memWordRead_aside {s0 : State} (s : State) (w : Nat) (k_s : Aside s0 s) : Aside s0 (memWordRead s w) := by
  unfold memWordRead
  repeat' with_reducible first | rfl | assumption | intro _ | dsimp only | apply bumpMemErr_aside | apply logError_aside | refine Aside.pair2 (by assumption) ?_ | refine Aside.pair3 (by assumption) ?_ | refine Aside.pair1 (by assumption) ?_ | refine AsideM.of (by assumption) ?_ | split | refine Aside.upd ?_ ?_ ?_ ?_ ?_ ?_ ?_ ?_ ?_ ?_

theorem memReadLine_aside {s0 : State} (s : State) (n : Nat) (k_s : Aside s0 s) : Aside s0 (memReadLine s n).2 := by
  unfold memReadLine
  repeat' with_reducible first | rfl | assumption | intro _ | dsimp only | apply memWordRead_aside | apply Aside.foldl | apply Aside.fold1 | apply Aside.fold2 | apply Aside.fold3

theorem cancelCorr_aside {s0 : State} (s : State) (n : Nat) (k_s : Aside s0 s) : Aside s0 (cancelCorr s n) := by
  unfold cancelCorr
  repeat' with_reducible first | rfl | assumption | intro _ | dsimp only | refine Aside.upd ?_ ?_ ?_ ?_ ?_ ?_ ?_ ?_ ?_ ?_

theorem memPutLine_aside {s0 : State} (s : State) (n : Nat) (a2 : Line) (k_s : Aside s0 s) : Aside s0 (memPutLine s n a2) := by
  unfold memPutLine
  repeat' with_reducible first | rfl | assumption | intro _ | dsimp only | apply cancelCorr_aside | apply wfIte | refine Aside.upd ?_ ?_ ?_ ?_ ?_ ?_ ?_ ?_ ?_ ?_

theorem memWriteLine_aside {s0 : State} (s : State) (n : Nat) (data : List Byte) (mask : Nat) (k_s : Aside s0 s) : Aside s0 (memWriteLine s n data mask) := by
  unfold memWriteLine
  repeat' with_reducible first | rfl | assumption | intro _ | dsimp only | apply memPutLine_aside

theorem hostPutMasked_aside {s0 : State} (s : State) (n : Nat) (data : List Byte) (mask : Nat) (k_s : Aside s0 s) : Aside s0 (hostPutMasked s n data mask) := by
  unfold hostPutMasked
  repeat' with_reducible first | rfl | assumption | intro _ | dsimp only | apply Aside.ite | refine Ram.wf_mk (tblFold_wf ?_ ?_) (tblFold_wf ?_ ?_) | apply tblWf_put | exact (Ram.wf_parts (by assumption)).1 | exact (Ram.wf_parts (by assumption)).2 | apply Aside.foldl | apply Aside.fold1 | apply Aside.fold2 | apply Aside.fold3 | split | refine Aside.upd ?_ ?_ ?_ ?_ ?_ ?_ ?_ ?_ ?_ ?_

theorem hostPutWhole_aside {s0 : State} (s : State) (n : Nat) (a2 : Line) (k_s : Aside s0 s) : Aside s0 (hostPutWhole s n a2) := by
  unfold hostPutWhole
  repeat' with_reducible first | rfl | assumption | intro _ | dsimp only | apply hostPutMasked_aside | refine Ram.wf_mk ?_ (tblFold_wf ?_ ?_) | apply tblWf_put | exact (Ram.wf_parts (by assumption)).1 | exact (Ram.wf_parts (by assumption)).2 | apply Aside.foldl | apply Aside.fold1 | apply Aside.fold2 | apply Aside.fold3 | refine Aside.upd ?_ ?_ ?_ ?_ ?_ ?_ ?_ ?_ ?_ ?_

theorem openHostReq_aside {s0 : State} (s : State) (k : HostReqKind) (ctx : BitVec 20) (who : Requester) (k_s : Aside s0 s) : Aside s0 (openHostReq s k ctx who) := by
  unfold openHostReq
  repeat' with_reducible first | rfl | assumption | intro _ | dsimp only | apply freshFree_aside | apply linkUp_aside | refine Aside.pair2 (by assumption) ?_ | refine Aside.pair3 (by assumption) ?_ | refine Aside.pair1 (by assumption) ?_ | refine AsideM.of (by assumption) ?_ | split | refine Aside.upd ?_ ?_ ?_ ?_ ?_ ?_ ?_ ?_ ?_ ?_

theorem hostPutLine_aside {s0 : State} (s : State) (n : Nat) (a2 : Line) (k_s : Aside s0 s) : Aside s0 (hostPutLine s n a2) := by
  unfold hostPutLine
  repeat' with_reducible first | rfl | assumption | intro _ | dsimp only | apply emit_aside | apply hostPutWhole_aside

theorem arrayRead_aside {s0 : State} (s : State) (inst : Nat) (addr : Nat) (a3 : Line) (k_s : Aside s0 s) : Aside s0 (arrayRead s inst addr a3).2 := by
  unfold arrayRead
  repeat' with_reducible first | rfl | assumption | intro _ | dsimp only | apply logError_aside | apply bumpCacheErr_aside | apply Aside.foldl | apply Aside.fold1 | apply Aside.fold2 | apply Aside.fold3 | refine Aside.pair2 (by assumption) ?_ | refine Aside.pair3 (by assumption) ?_ | refine Aside.pair1 (by assumption) ?_ | refine AsideM.of (by assumption) ?_ | split

theorem loftRead_aside {s0 : State} (s : State) (l : LineAddr) (k_s : Aside s0 s) : Aside s0 (loftRead s l).2 := by
  unfold loftRead
  repeat' with_reducible first | rfl | assumption | intro _ | dsimp only | apply arrayRead_aside | apply wfIte | refine Aside.upd ?_ ?_ ?_ ?_ ?_ ?_ ?_ ?_ ?_ ?_

theorem backRead_aside {s0 : State} (s : State) (l : LineAddr) (forWrite : Bool) (k_s : Aside s0 s) : Aside s0 (backRead s l forWrite).2 := by
  unfold backRead
  repeat' with_reducible first | rfl | assumption | intro _ | dsimp only | apply Aside.ite | apply memReadLine_aside | apply emit_aside | apply loftRead_aside | split

theorem ownHostLine_aside {s0 : State} (s : State) (l : LineAddr) (k_s : Aside s0 s) : Aside s0 (ownHostLine s l) := by
  unfold ownHostLine
  repeat' with_reducible first | rfl | assumption | intro _ | dsimp only | apply Aside.ite | apply emit_aside | apply cacheModify_aside | refine Aside.pair2 (by assumption) ?_ | refine Aside.pair3 (by assumption) ?_ | refine Aside.pair1 (by assumption) ?_ | refine AsideM.of (by assumption) ?_ | split

theorem backPut_aside {s0 : State} (s : State) (l : LineAddr) (a2 : Line) (k_s : Aside s0 s) : Aside s0 (backPut s l a2) := by
  unfold backPut
  repeat' with_reducible first | rfl | assumption | intro _ | dsimp only | apply Aside.ite | apply memPutLine_aside | apply hostPutLine_aside | apply wfIte | split | refine Aside.upd ?_ ?_ ?_ ?_ ?_ ?_ ?_ ?_ ?_ ?_

theorem backWrite_aside {s0 : State} (s : State) (l : LineAddr) (data : List Byte) (mask : Nat) (ctx : BitVec 20) (k_s : Aside s0 s) : Aside s0 (backWrite s l data mask ctx) := by
  unfold backWrite
  repeat' with_reducible first | rfl | assumption | intro _ | dsimp only | apply Aside.ite | apply memWriteLine_aside | apply openHostReq_aside | apply emit_aside | apply wfIte | split | refine Aside.upd ?_ ?_ ?_ ?_ ?_ ?_ ?_ ?_ ?_ ?_

theorem granaryEvict_aside {s0 : State} (s : State) (w : Way) (k_s : Aside s0 s) : Aside s0 (granaryEvict s w) := by
  unfold granaryEvict
  repeat' with_reducible first | rfl | assumption | intro _ | dsimp only | apply Aside.ite | apply backPut_aside | apply emit_aside | split

theorem granaryInsert_aside {s0 : State} (s : State) (l : LineAddr) (a2 : Line) (dirty : Bool) (own : Bool) (age : Nat) (k_s : Aside s0 s) : Aside s0 (granaryInsert s l a2 dirty own age) := by
  unfold granaryInsert
  repeat' with_reducible first | rfl | assumption | intro _ | dsimp only | apply Aside.ite | apply setWays_aside | apply granaryEvict_aside | apply backPut_aside | refine Aside.pair2 (by assumption) ?_ | refine Aside.pair3 (by assumption) ?_ | refine Aside.pair1 (by assumption) ?_ | refine AsideM.of (by assumption) ?_ | split

theorem homeTakeDirty_aside {s0 : State} (s : State) (l : LineAddr) (a2 : Line) (k_s : Aside s0 s) : Aside s0 (homeTakeDirty s l a2) := by
  unfold homeTakeDirty
  repeat' with_reducible first | rfl | assumption | intro _ | dsimp only | apply Aside.ite | apply backPut_aside | apply cacheModify_aside | apply granaryInsert_aside | refine Aside.pair2 (by assumption) ?_ | refine Aside.pair3 (by assumption) ?_ | refine Aside.pair1 (by assumption) ?_ | refine AsideM.of (by assumption) ?_ | split

theorem granaryHit_aside {s0 : State} (s : State) (l : LineAddr) (a2 : Line) (k_s : Aside s0 s) : Aside s0 (granaryHit s l a2).2 := by
  unfold granaryHit
  repeat' with_reducible first | rfl | assumption | intro _ | dsimp only | apply arrayRead_aside | apply cacheModify_aside

theorem homeFetch_aside {s0 : State} (s : State) (l : LineAddr) (how : FillHow) (forWrite : Bool) (k_s : Aside s0 s) : Aside s0 (homeFetch s l how forWrite).2 := by
  unfold homeFetch
  repeat' with_reducible first | rfl | assumption | intro _ | dsimp only | apply Aside.ite | apply backRead_aside | apply granaryHit_aside | apply ownHostLine_aside | apply granaryInsert_aside | refine Aside.pair2 (by assumption) ?_ | refine Aside.pair3 (by assumption) ?_ | refine Aside.pair1 (by assumption) ?_ | refine AsideM.of (by assumption) ?_ | split

theorem detectWrite_aside {s0 : State} (s : State) (c : Nat) (writer : Nat) (l : LineAddr) (k_s : Aside s0 s) : Aside s0 (detectWrite s c writer l).2 := by
  unfold detectWrite
  repeat' with_reducible first | rfl | assumption | intro _ | dsimp only | apply Aside.ite | apply Aside.foldl | apply Aside.fold1 | apply Aside.fold2 | apply Aside.fold3 | refine Aside.pair2 (by assumption) ?_ | refine Aside.pair3 (by assumption) ?_ | refine Aside.pair1 (by assumption) ?_ | refine AsideM.of (by assumption) ?_ | split | refine Aside.upd ?_ ?_ ?_ ?_ ?_ ?_ ?_ ?_ ?_ ?_

theorem homeStore_aside {s0 : State} (s : State) (l : LineAddr) (data : List Byte) (mask : Nat) (streaming : Bool) (ctx : BitVec 20) (k_s : Aside s0 s) : Aside s0 (homeStore s l data mask streaming ctx) := by
  unfold homeStore
  repeat' with_reducible first | rfl | assumption | intro _ | dsimp only | apply Aside.ite | apply backWrite_aside | apply loftRead_aside | apply ownHostLine_aside | apply arrayRead_aside | apply cacheModify_aside | apply granaryInsert_aside | apply emit_aside | apply backRead_aside | refine Aside.pair2 (by assumption) ?_ | refine Aside.pair3 (by assumption) ?_ | refine Aside.pair1 (by assumption) ?_ | refine AsideM.of (by assumption) ?_ | split


/-! ## Coherence -/

theorem storeDirSet_aside {s0 : State} (s : State) (l : LineAddr) (es : List DirEntry) (k_s : Aside s0 s) : Aside s0 (storeDirSet s l es) := by
  unfold storeDirSet
  repeat' with_reducible first | rfl | assumption | intro _ | dsimp only | apply Aside.ite | split | refine Aside.upd ?_ ?_ ?_ ?_ ?_ ?_ ?_ ?_ ?_ ?_

theorem setDirSet_aside {s0 : State} (s : State) (l : LineAddr) (es : List DirEntry) (k_s : Aside s0 s) : Aside s0 (setDirSet s l es) := by
  unfold setDirSet
  repeat' with_reducible first | rfl | assumption | intro _ | dsimp only | apply storeDirSet_aside

theorem checkDir_aside {s0 : State} (s : State) (l : LineAddr) (k_s : Aside s0 s) : Aside s0 (checkDir s l) := by
  unfold checkDir
  repeat' with_reducible first | rfl | assumption | intro _ | dsimp only | apply Aside.ite | apply tagReport_aside | apply storeDirSet_aside | apply Aside.foldl | apply Aside.fold1 | apply Aside.fold2 | apply Aside.fold3 | split | refine Aside.upd ?_ ?_ ?_ ?_ ?_ ?_ ?_ ?_ ?_ ?_

theorem checkHome_aside {s0 : State} (s : State) (l : LineAddr) (k_s : Aside s0 s) : Aside s0 (checkHome s l) := by
  unfold checkHome
  repeat' with_reducible first | rfl | assumption | intro _ | dsimp only | apply Aside.ite | apply checkDir_aside | apply checkSet_aside | split

theorem dirPut_aside {s0 : State} (s : State) (l : LineAddr) (e : DirEntry) (k_s : Aside s0 s) : Aside s0 (dirPut s l e) := by
  unfold dirPut
  repeat' with_reducible first | rfl | assumption | intro _ | dsimp only | apply Aside.ite | apply setDirSet_aside | refine Aside.pair2 (by assumption) ?_ | refine Aside.pair3 (by assumption) ?_ | refine Aside.pair1 (by assumption) ?_ | refine AsideM.of (by assumption) ?_ | split | refine Aside.upd ?_ ?_ ?_ ?_ ?_ ?_ ?_ ?_ ?_ ?_

theorem agentSet_aside {s0 : State} (s : State) (a : Nat) (l : LineAddr) (c : Coh) (k_s : Aside s0 s) : Aside s0 (agentSet s a l c) := by
  unfold agentSet
  repeat' with_reducible first | rfl | assumption | intro _ | dsimp only | apply Aside.ite | apply cacheDrop_aside | apply cacheModify_aside | split | refine Aside.upd ?_ ?_ ?_ ?_ ?_ ?_ ?_ ?_ ?_ ?_

theorem copyRead_aside {s0 : State} (s : State) (a : Nat) (l : LineAddr) (k_s : Aside s0 s) : Aside s0 (copyRead s a l).2 := by
  unfold copyRead
  repeat' with_reducible first | rfl | assumption | intro _ | dsimp only | apply arrayRead_aside | apply cacheModify_aside | refine Aside.pair2 (by assumption) ?_ | refine Aside.pair3 (by assumption) ?_ | refine Aside.pair1 (by assumption) ?_ | refine AsideM.of (by assumption) ?_ | split

theorem snoopAct_aside {s0 : State} (s : State) (k : SnoopKind) (a : Nat) (l : LineAddr) (k_s : Aside s0 s) : Aside s0 (snoopAct s k a l).1 := by
  unfold snoopAct
  repeat' with_reducible first | rfl | assumption | intro _ | dsimp only | apply Aside.ite | apply checkSet_aside | apply agentSet_aside | apply copyRead_aside | refine Aside.pair2 (by assumption) ?_ | refine Aside.pair3 (by assumption) ?_ | refine Aside.pair1 (by assumption) ?_ | refine AsideM.of (by assumption) ?_ | split

theorem recallEntry_aside {s0 : State} (s : State) (e : DirEntry) (k_s : Aside s0 s) : Aside s0 (recallEntry s e) := by
  unfold recallEntry
  repeat' with_reducible first | rfl | assumption | intro _ | dsimp only | apply snoopAct_aside | apply homeTakeDirty_aside | apply bumpCoh_aside | apply dirPut_aside | apply Aside.foldl | apply Aside.fold1 | apply Aside.fold2 | apply Aside.fold3 | refine Aside.pair2 (by assumption) ?_ | refine Aside.pair3 (by assumption) ?_ | refine Aside.pair1 (by assumption) ?_ | refine AsideM.of (by assumption) ?_ | split

theorem dirReserve_aside {s0 : State} (s : State) (l : LineAddr) (k_s : Aside s0 s) : AsideM s0 (dirReserve s l) := by
  unfold dirReserve
  repeat' with_reducible first | rfl | assumption | intro _ | dsimp only | apply Aside.ite | apply AsideM.some | exact AsideM.none | apply AsideM.ite | apply recallEntry_aside | apply setDirSet_aside | apply Aside.foldl | apply Aside.fold1 | apply Aside.fold2 | apply Aside.fold3 | refine Aside.pair2 (by assumption) ?_ | refine Aside.pair3 (by assumption) ?_ | refine Aside.pair1 (by assumption) ?_ | refine AsideM.of (by assumption) ?_ | split

theorem homeOffer_aside {s0 : State} (s : State) (a : Nat) (w : Way) (k_s : Aside s0 s) : Aside s0 (homeOffer s a w) := by
  unfold homeOffer
  repeat' with_reducible first | rfl | assumption | intro _ | dsimp only | apply Aside.ite | apply cacheDrop_aside | apply homeTakeDirty_aside | apply bumpCacheErr_aside | apply granaryInsert_aside | apply dirPut_aside | split

theorem agentPlace_aside {s0 : State} (s : State) (a : Nat) (l : LineAddr) (c : Coh) (a4 : Line) (ctx : BitVec 20) (how : FillHow) (k_s : Aside s0 s) : Aside s0 (agentPlace s a l c a4 ctx how) := by
  unfold agentPlace
  repeat' with_reducible first | rfl | assumption | intro _ | dsimp only | apply Aside.ite | apply setWays_aside | apply homeOffer_aside | refine Aside.pair2 (by assumption) ?_ | refine Aside.pair3 (by assumption) ?_ | refine Aside.pair1 (by assumption) ?_ | refine AsideM.of (by assumption) ?_ | split

theorem noteRecent_aside {s0 : State} (s : State) (r : HomeReq) (k_s : Aside s0 s) : Aside s0 (noteRecent s r) := by
  unfold noteRecent
  repeat' with_reducible first | rfl | assumption | intro _ | dsimp only | apply Aside.ite | split | refine Aside.upd ?_ ?_ ?_ ?_ ?_ ?_ ?_ ?_ ?_ ?_

theorem frontStreaming_aside {s0 : State} (s : State) (r : HomeReq) (k_s : Aside s0 s) : Aside s0 (frontStreaming s r).2 := by
  unfold frontStreaming
  repeat' with_reducible first | rfl | assumption | intro _ | dsimp only | apply Aside.ite | apply detectWrite_aside | split

theorem homeFinish_aside {s0 : State} (s : State) (r : HomeReq) (content : Option Line) (dirty : Bool) (held : Bool) (k_s : Aside s0 s) : Aside s0 (homeFinish s r content dirty held).2 := by
  unfold homeFinish
  repeat' with_reducible first | rfl | assumption | intro _ | dsimp only | apply Aside.ite | apply homeTakeDirty_aside | apply homeFetch_aside | apply dirPut_aside | apply emit_aside | apply noteRecent_aside | apply agentSet_aside | apply ownHostLine_aside | apply frontStreaming_aside | apply homeStore_aside | refine Aside.pair2 (by assumption) ?_ | refine Aside.pair3 (by assumption) ?_ | refine Aside.pair1 (by assumption) ?_ | refine AsideM.of (by assumption) ?_ | split

theorem snoopAll_aside {s0 : State} (s : State) (l : LineAddr) (ks : List (Nat × SnoopKind)) (k_s : Aside s0 s) : Aside s0 (snoopAll s l ks).1 := by
  unfold snoopAll
  repeat' with_reducible first | rfl | assumption | intro _ | dsimp only | apply snoopAct_aside | apply Aside.foldl | apply Aside.fold1 | apply Aside.fold2 | apply Aside.fold3 | refine Aside.pair2 (by assumption) ?_ | refine Aside.pair3 (by assumption) ?_ | refine Aside.pair1 (by assumption) ?_ | refine AsideM.of (by assumption) ?_ | split

theorem predMove_aside {s0 : State} (s : State) (a : Nat) (l : LineAddr) (up : Bool) (k_s : Aside s0 s) : Aside s0 (predMove s a l up) := by
  unfold predMove
  repeat' with_reducible first | rfl | assumption | intro _ | dsimp only | apply Aside.ite | split | refine Aside.upd ?_ ?_ ?_ ?_ ?_ ?_ ?_ ?_ ?_ ?_

theorem coherentRefuse_aside {s0 : State} (s : State) (a : Nat) (l : LineAddr) (ctx : BitVec 20) (row : Nat) (k_s : Aside s0 s) : Aside s0 (coherentRefuse s a l ctx row) := by
  unfold coherentRefuse
  repeat' with_reducible first | rfl | assumption | intro _ | dsimp only | apply Aside.ite | apply logError_aside | apply countRefuse_aside | apply refuseCtx_aside | split

theorem nackNote_aside {s0 : State} (s : State) (r : HomeReq) (k_s : Aside s0 s) : Aside s0 (nackNote s r) := by
  unfold nackNote
  repeat' with_reducible first | rfl | assumption | intro _ | dsimp only | apply Aside.ite | apply bumpCoh_aside | apply emit_aside | refine Aside.pair2 (by assumption) ?_ | refine Aside.pair3 (by assumption) ?_ | refine Aside.pair1 (by assumption) ?_ | refine AsideM.of (by assumption) ?_ | split | refine Aside.upd ?_ ?_ ?_ ?_ ?_ ?_ ?_ ?_ ?_ ?_

theorem nackClear_aside {s0 : State} (s : State) (r : HomeReq) (k_s : Aside s0 s) : Aside s0 (nackClear s r) := by
  unfold nackClear
  repeat' with_reducible first | rfl | assumption | intro _ | dsimp only | refine Aside.upd ?_ ?_ ?_ ?_ ?_ ?_ ?_ ?_ ?_ ?_

theorem askHost_aside {s0 : State} (s : State) (l : LineAddr) (own : Bool) (ctx : BitVec 20) (k_s : Aside s0 s) : Aside s0 (askHost s l own ctx) := by
  unfold askHost
  repeat' with_reducible first | rfl | assumption | intro _ | dsimp only | apply Aside.ite | apply openHostReq_aside | apply emit_aside | split

theorem prefetchLine_aside {s0 : State} (s : State) (c : Nat) (ctx : BitVec 20) (l : LineAddr) (streaming : Bool) (k_s : Aside s0 s) : Aside s0 (prefetchLine s c ctx l streaming) := by
  unfold prefetchLine
  repeat' with_reducible first | rfl | assumption | intro _ | dsimp only | apply Aside.ite | apply askHost_aside | split | refine Aside.upd ?_ ?_ ?_ ?_ ?_ ?_ ?_ ?_ ?_ ?_

theorem fetchAhead_aside {s0 : State} (s : State) (c : Nat) (ctx : BitVec 20) (p : PrefStream) (k_s : Aside s0 s) : Aside s0 (fetchAhead s c ctx p) := by
  unfold fetchAhead
  repeat' with_reducible first | rfl | assumption | intro _ | dsimp only | apply Aside.ite | apply prefetchLine_aside | apply Aside.foldl | apply Aside.fold1 | apply Aside.fold2 | apply Aside.fold3 | split

theorem prefetchNote_aside {s0 : State} (s : State) (c : Nat) (port : Nat) (ctx : BitVec 20) (l : LineAddr) (miss : Bool) (k_s : Aside s0 s) : Aside s0 (prefetchNote s c port ctx l miss) := by
  unfold prefetchNote
  repeat' with_reducible first | rfl | assumption | intro _ | dsimp only | apply Aside.ite | apply fetchAhead_aside | refine Aside.pair2 (by assumption) ?_ | refine Aside.pair3 (by assumption) ?_ | refine Aside.pair1 (by assumption) ?_ | refine AsideM.of (by assumption) ?_ | split | refine Aside.upd ?_ ?_ ?_ ?_ ?_ ?_ ?_ ?_ ?_ ?_

theorem frontNote_aside {s0 : State} (s : State) (r : HomeReq) (k_s : Aside s0 s) : Aside s0 (frontNote s r) := by
  unfold frontNote
  repeat' with_reducible first | rfl | assumption | intro _ | dsimp only | apply Aside.ite | apply prefetchNote_aside | split

theorem sendAnswer_aside {s0 : State} (s : State) (r : HomeReq) (a : Answer) (k_s : Aside s0 s) : Aside s0 (sendAnswer s r a) := by
  unfold sendAnswer
  repeat' with_reducible first | rfl | assumption | intro _ | dsimp only | apply Aside.ite | apply emit_aside | apply predMove_aside | refine Aside.pair2 (by assumption) ?_ | refine Aside.pair3 (by assumption) ?_ | refine Aside.pair1 (by assumption) ?_ | refine AsideM.of (by assumption) ?_ | split | refine Aside.upd ?_ ?_ ?_ ?_ ?_ ?_ ?_ ?_ ?_ ?_

theorem joinSlice_aside {s0 : State} (s : State) (r : HomeReq) (kept : Bool) (k_s : Aside s0 s) : Aside s0 (joinSlice s r kept) := by
  unfold joinSlice
  repeat' with_reducible first | rfl | assumption | intro _ | dsimp only | apply Aside.ite | apply askHost_aside | split | refine Aside.upd ?_ ?_ ?_ ?_ ?_ ?_ ?_ ?_ ?_ ?_

theorem roomFor_aside {s0 : State} (s : State) (r : HomeReq) (k_s : Aside s0 s) : AsideM s0 (roomFor s r) := by
  unfold roomFor
  repeat' with_reducible first | rfl | assumption | intro _ | dsimp only | apply Aside.ite | apply AsideM.some | exact AsideM.none | apply AsideM.ite | apply dirReserve_aside | split

theorem serveWaiter_aside {s0 : State} (s : State) (r : HomeReq) (k_s : Aside s0 s) : Aside s0 (serveWaiter s r) := by
  unfold serveWaiter
  repeat' with_reducible first | rfl | assumption | intro _ | dsimp only | apply roomFor_aside | apply nackNote_aside | apply snoopAll_aside | apply homeFinish_aside | apply sendAnswer_aside | refine Aside.pair2 (by assumption) ?_ | refine Aside.pair3 (by assumption) ?_ | refine Aside.pair1 (by assumption) ?_ | refine AsideM.of (by assumption) ?_ | split

theorem fillRead_aside {s0 : State} (s : State) (f : Fill) (k_s : Aside s0 s) : Aside s0 (fillRead s f).2 := by
  unfold fillRead
  repeat' with_reducible first | rfl | assumption | intro _ | dsimp only | apply Aside.ite | apply linkUp_aside | apply emit_aside | apply backRead_aside | refine Aside.pair2 (by assumption) ?_ | refine Aside.pair3 (by assumption) ?_ | refine Aside.pair1 (by assumption) ?_ | refine AsideM.of (by assumption) ?_ | split | refine Aside.upd ?_ ?_ ?_ ?_ ?_ ?_ ?_ ?_ ?_ ?_

theorem granaryFillArrive_aside {s0 : State} (s : State) (f : Fill) (k_s : Aside s0 s) : Aside s0 (granaryFillArrive s f) := by
  unfold granaryFillArrive
  repeat' with_reducible first | rfl | assumption | intro _ | dsimp only | apply Aside.ite | apply fillRead_aside | apply granaryInsert_aside | apply serveWaiter_aside | apply Aside.foldl | apply Aside.fold1 | apply Aside.fold2 | apply Aside.fold3 | refine Aside.pair2 (by assumption) ?_ | refine Aside.pair3 (by assumption) ?_ | refine Aside.pair1 (by assumption) ?_ | refine AsideM.of (by assumption) ?_ | split | refine Aside.upd ?_ ?_ ?_ ?_ ?_ ?_ ?_ ?_ ?_ ?_

theorem finishTxn_aside {s0 : State} (s : State) (t : Txn) (k_s : Aside s0 s) : Aside s0 (finishTxn s t) := by
  unfold finishTxn
  repeat' with_reducible first | rfl | assumption | intro _ | dsimp only | apply Aside.ite | apply dirPut_aside | apply joinSlice_aside | apply homeFinish_aside | apply sendAnswer_aside | split | refine Aside.upd ?_ ?_ ?_ ?_ ?_ ?_ ?_ ?_ ?_ ?_

theorem settleLine_aside {s0 : State} (s : State) (l : LineAddr) (k_s : Aside s0 s) : Aside s0 (settleLine s l) := by
  unfold settleLine
  repeat' with_reducible first | rfl | assumption | intro _ | dsimp only | apply Aside.ite | apply done_aside | apply snoopAll_aside | apply finishTxn_aside | apply granaryFillArrive_aside | apply Aside.foldl | apply Aside.fold1 | apply Aside.fold2 | apply Aside.fold3 | refine Aside.pair2 (by assumption) ?_ | refine Aside.pair3 (by assumption) ?_ | refine Aside.pair1 (by assumption) ?_ | refine AsideM.of (by assumption) ?_ | split | refine Aside.upd ?_ ?_ ?_ ?_ ?_ ?_ ?_ ?_ ?_ ?_

theorem serveStarving_aside {s0 : State} (s : State) (a : Nat) (l : LineAddr) (k_s : Aside s0 s) : Aside s0 (serveStarving s a l) := by
  unfold serveStarving
  repeat' with_reducible first | rfl | assumption | intro _ | dsimp only | apply serveWaiter_aside | apply nackClear_aside | apply Aside.foldl | apply Aside.fold1 | apply Aside.fold2 | apply Aside.fold3

theorem reachHome_aside {s0 : State} (s : State) (a : Nat) (l : LineAddr) (r : HomeReq) (k_s : Aside s0 s) : Aside s0 (reachHome s a l r) := by
  unfold reachHome
  repeat' with_reducible first | rfl | assumption | intro _ | dsimp only | apply Aside.ite | apply checkHome_aside | apply serveStarving_aside | apply settleLine_aside | apply nackNote_aside | apply nackClear_aside | split

theorem makeRoom_aside {s0 : State} (s : State) (c : Nat) (l : LineAddr) (k_s : Aside s0 s) : Aside s0 (makeRoom s c l) := by
  unfold makeRoom
  repeat' with_reducible first | rfl | assumption | intro _ | dsimp only | apply Aside.ite | apply settleLine_aside | apply Aside.foldl | apply Aside.fold1 | apply Aside.fold2 | apply Aside.fold3 | split

theorem makeDirRoom_aside {s0 : State} (s : State) (r : HomeReq) (k_s : Aside s0 s) : Aside s0 (makeDirRoom s r) := by
  unfold makeDirRoom
  repeat' with_reducible first | rfl | assumption | intro _ | dsimp only | apply roomFor_aside | apply settleLine_aside | apply Aside.foldl | apply Aside.fold1 | apply Aside.fold2 | apply Aside.fold3 | apply Aside.getD | refine Aside.pair2 (by assumption) ?_ | refine Aside.pair3 (by assumption) ?_ | refine Aside.pair1 (by assumption) ?_ | refine AsideM.of (by assumption) ?_ | split

theorem homeRun_aside {s0 : State} (s : State) (r : HomeReq) (k_s : Aside s0 s) : Aside s0 (homeRun s r).2 := by
  unfold homeRun
  repeat' with_reducible first | rfl | assumption | intro _ | dsimp only | apply Aside.ite | apply makeDirRoom_aside | apply makeRoom_aside | apply reachHome_aside | apply frontNote_aside | apply bumpCoh_aside | apply snoopAll_aside | apply homeFinish_aside | split

theorem readCur_aside {s0 : State} (s : State) (a : Nat) (l : LineAddr) (ctx : BitVec 20) (stream : Bool) (k_s : Aside s0 s) : Aside s0 (readCur s a l ctx stream).2 := by
  unfold readCur
  repeat' with_reducible first | rfl | assumption | intro _ | dsimp only | apply homeRun_aside | apply Aside.getD

theorem writeLine_aside {s0 : State} (s : State) (a : Nat) (l : LineAddr) (data : List Byte) (mask : Nat) (ctx : BitVec 20) (stream : Bool) (k_s : Aside s0 s) : Aside s0 (writeLine s a l data mask ctx stream) := by
  unfold writeLine
  repeat' with_reducible first | rfl | assumption | intro _ | dsimp only | apply homeRun_aside

theorem placeFill_aside {s0 : State} (s : State) (f : Fill) (c : Coh) (a3 : Line) (k_s : Aside s0 s) : Aside s0 (placeFill s f c a3) := by
  unfold placeFill
  repeat' with_reducible first | rfl | assumption | intro _ | dsimp only | apply Aside.ite | apply agentPlace_aside | apply emit_aside | split | refine Aside.upd ?_ ?_ ?_ ?_ ?_ ?_ ?_ ?_ ?_ ?_

theorem agentFillArrive_aside {s0 : State} (s : State) (f : Fill) (k_s : Aside s0 s) : Aside s0 (agentFillArrive s f) := by
  unfold agentFillArrive
  repeat' with_reducible first | rfl | assumption | intro _ | dsimp only | apply Aside.ite | apply placeFill_aside | apply emit_aside | apply coherentRefuse_aside | apply homeRun_aside | apply Aside.getD | refine Aside.pair2 (by assumption) ?_ | refine Aside.pair3 (by assumption) ?_ | refine Aside.pair1 (by assumption) ?_ | refine AsideM.of (by assumption) ?_ | split | refine Aside.upd ?_ ?_ ?_ ?_ ?_ ?_ ?_ ?_ ?_ ?_

theorem joinFill_aside {s0 : State} (s : State) (a : Nat) (l : LineAddr) (how : FillHow) (k_s : Aside s0 s) : Aside s0 (joinFill s a l how) := by
  unfold joinFill
  repeat' with_reducible first | rfl | assumption | intro _ | dsimp only | apply Aside.ite | apply settleLine_aside | apply agentFillArrive_aside | refine Aside.pair2 (by assumption) ?_ | refine Aside.pair3 (by assumption) ?_ | refine Aside.pair1 (by assumption) ?_ | refine AsideM.of (by assumption) ?_ | split | refine Aside.upd ?_ ?_ ?_ ?_ ?_ ?_ ?_ ?_ ?_ ?_

theorem agentRead_aside {s0 : State} (s : State) (a : Nat) (port : Nat) (l : LineAddr) (ctx : BitVec 20) (how : FillHow) (k_s : Aside s0 s) : Aside s0 (agentRead s a port l ctx how).2 := by
  unfold agentRead
  repeat' with_reducible first | rfl | assumption | intro _ | dsimp only | apply Aside.ite | apply readCur_aside | apply joinFill_aside | apply checkSet_aside | apply prefetchNote_aside | apply arrayRead_aside | apply cacheModify_aside | apply homeRun_aside | apply agentPlace_aside | apply makeRoom_aside | apply Aside.getD | refine Aside.pair2 (by assumption) ?_ | refine Aside.pair3 (by assumption) ?_ | refine Aside.pair1 (by assumption) ?_ | refine AsideM.of (by assumption) ?_ | split

theorem storeOwned_aside {s0 : State} (s : State) (a : Nat) (l : LineAddr) (data : List Byte) (mask : Nat) (ctx : BitVec 20) (k_s : Aside s0 s) : Aside s0 (storeOwned s a l data mask ctx) := by
  unfold storeOwned
  repeat' with_reducible first | rfl | assumption | intro _ | dsimp only | apply Aside.ite | apply copyRead_aside | apply cacheModify_aside | split

theorem agentWrite_aside {s0 : State} (s : State) (a : Nat) (writer : Nat) (l : LineAddr) (data : List Byte) (mask : Nat) (ctx : BitVec 20) (stream : Bool) (k_s : Aside s0 s) : Aside s0 (agentWrite s a writer l data mask ctx stream) := by
  unfold agentWrite
  repeat' with_reducible first | rfl | assumption | intro _ | dsimp only | apply Aside.ite | apply writeLine_aside | apply joinFill_aside | apply checkSet_aside | apply detectWrite_aside | apply storeOwned_aside | apply reachHome_aside | apply homeRun_aside | apply agentPlace_aside | apply makeRoom_aside | apply Aside.getD | refine Aside.pair2 (by assumption) ?_ | refine Aside.pair3 (by assumption) ?_ | refine Aside.pair1 (by assumption) ?_ | refine AsideM.of (by assumption) ?_ | split

theorem farAtomic_aside {s0 : State} (s : State) (a : Nat) (l : LineAddr) (ctx : BitVec 20) (args : AtomArgs) (k_s : Aside s0 s) : Aside s0 (farAtomic s a l ctx args).after := by
  unfold farAtomic
  repeat' with_reducible first | rfl | assumption | intro _ | dsimp only | apply homeRun_aside

theorem farRun_aside {s0 : State} (s : State) (a : Nat) (l : LineAddr) (ctx : BitVec 20) (args : AtomArgs) (k_s : Aside s0 s) : Aside s0 (farRun s a l ctx args).after := by
  unfold farRun
  repeat' with_reducible first | rfl | assumption | intro _ | dsimp only | apply Aside.ite | apply farAtomic_aside | apply predMove_aside | split

theorem takeOwned_aside {s0 : State} (s : State) (a : Nat) (l : LineAddr) (ctx : BitVec 20) (k_s : Aside s0 s) : Aside s0 (takeOwned s a l ctx) := by
  unfold takeOwned
  repeat' with_reducible first | rfl | assumption | intro _ | dsimp only | apply Aside.ite | apply predMove_aside | apply reachHome_aside | apply homeRun_aside | apply agentPlace_aside | apply makeRoom_aside | refine Aside.pair2 (by assumption) ?_ | refine Aside.pair3 (by assumption) ?_ | refine Aside.pair1 (by assumption) ?_ | refine AsideM.of (by assumption) ?_ | split

theorem nearAtomicRun_aside {s0 : State} (s : State) (a : Nat) (l : LineAddr) (ctx : BitVec 20) (args : AtomArgs) (k_s : Aside s0 s) : Aside s0 (nearAtomicRun s a l ctx args).after := by
  unfold nearAtomicRun
  repeat' with_reducible first | rfl | assumption | intro _ | dsimp only | apply Aside.ite | apply takeOwned_aside | apply joinFill_aside | apply checkSet_aside | apply copyRead_aside | apply cacheModify_aside | apply farRun_aside | refine Aside.pair2 (by assumption) ?_ | refine Aside.pair3 (by assumption) ?_ | refine Aside.pair1 (by assumption) ?_ | refine AsideM.of (by assumption) ?_ | split

theorem atomicAccess_aside {s0 : State} (s : State) (a : Nat) (l : LineAddr) (ctx : BitVec 20) (args : AtomArgs) (k_s : Aside s0 s) : Aside s0 (atomicAccess s a l ctx args).after := by
  unfold atomicAccess
  repeat' with_reducible first | rfl | assumption | intro _ | dsimp only | apply Aside.ite | apply farRun_aside | apply nearAtomicRun_aside | split

theorem openAgentFill_aside {s0 : State} (s : State) (r : HomeReq) (k_s : Aside s0 s) : Aside s0 (openAgentFill s r) := by
  unfold openAgentFill
  repeat' with_reducible first | rfl | assumption | intro _ | dsimp only | apply Aside.ite | apply prefetchNote_aside | split | refine Aside.upd ?_ ?_ ?_ ?_ ?_ ?_ ?_ ?_ ?_ ?_

theorem joinAgentFill_aside {s0 : State} (s : State) (r : HomeReq) (k_s : Aside s0 s) : Aside s0 (joinAgentFill s r) := by
  unfold joinAgentFill
  repeat' with_reducible first | rfl | assumption | intro _ | dsimp only | apply Aside.ite | split | refine Aside.upd ?_ ?_ ?_ ?_ ?_ ?_ ?_ ?_ ?_ ?_

theorem admitReq_aside {s0 : State} (s : State) (r : HomeReq) (kept : Bool) (k_s : Aside s0 s) : Aside s0 (admitReq s r kept) := by
  unfold admitReq
  repeat' with_reducible first | rfl | assumption | intro _ | dsimp only | apply Aside.ite | apply roomFor_aside | apply nackNote_aside | apply frontNote_aside | apply nackClear_aside | apply joinSlice_aside | apply homeFinish_aside | apply sendAnswer_aside | apply bumpCoh_aside | apply dirPut_aside | refine Aside.pair2 (by assumption) ?_ | refine Aside.pair3 (by assumption) ?_ | refine Aside.pair1 (by assumption) ?_ | refine AsideM.of (by assumption) ?_ | split | refine Aside.upd ?_ ?_ ?_ ?_ ?_ ?_ ?_ ?_ ?_ ?_

theorem requestHome_aside {s0 : State} (s : State) (r : HomeReq) (retry : Bool) (k_s : Aside s0 s) : Aside s0 (requestHome s r retry) := by
  unfold requestHome
  repeat' with_reducible first | rfl | assumption | intro _ | dsimp only | apply Aside.ite | apply emit_aside | apply coherentRefuse_aside | apply joinAgentFill_aside | apply openAgentFill_aside | apply checkHome_aside | apply nackNote_aside | apply admitReq_aside | refine Aside.pair2 (by assumption) ?_ | refine Aside.pair3 (by assumption) ?_ | refine Aside.pair1 (by assumption) ?_ | refine AsideM.of (by assumption) ?_ | split

theorem snoopArrive_aside {s0 : State} (s : State) (k : SnoopKind) (a : Nat) (l : LineAddr) (k_s : Aside s0 s) : Aside s0 (snoopArrive s k a l) := by
  unfold snoopArrive
  repeat' with_reducible first | rfl | assumption | intro _ | dsimp only | apply Aside.ite | apply done_aside | apply snoopAct_aside | apply Aside.getD | refine Aside.pair2 (by assumption) ?_ | refine Aside.pair3 (by assumption) ?_ | refine Aside.pair1 (by assumption) ?_ | refine AsideM.of (by assumption) ?_ | split | refine Aside.upd ?_ ?_ ?_ ?_ ?_ ?_ ?_ ?_ ?_ ?_

theorem snoopAnswered_aside {s0 : State} (s : State) (a : Nat) (l : LineAddr) (k_s : Aside s0 s) : Aside s0 (snoopAnswered s a l) := by
  unfold snoopAnswered
  repeat' with_reducible first | rfl | assumption | intro _ | dsimp only | apply Aside.ite | apply done_aside | apply finishTxn_aside | refine Aside.pair2 (by assumption) ?_ | refine Aside.pair3 (by assumption) ?_ | refine Aside.pair1 (by assumption) ?_ | refine AsideM.of (by assumption) ?_ | split | refine Aside.upd ?_ ?_ ?_ ?_ ?_ ?_ ?_ ?_ ?_ ?_

theorem execRds_aside {s0 : State} (agent : Nat) (l : LineAddr) (q : ReqInfo) (s : State) (k_s : Aside s0 s) : AsideO s0 (execRds agent l q s) := by
  unfold execRds
  repeat' with_reducible first | rfl | assumption | intro _ | dsimp only | apply AsideO.next | apply requestHome_aside

theorem execRdo_aside {s0 : State} (agent : Nat) (l : LineAddr) (q : ReqInfo) (s : State) (k_s : Aside s0 s) : AsideO s0 (execRdo agent l q s) := by
  unfold execRdo
  repeat' with_reducible first | rfl | assumption | intro _ | dsimp only | apply AsideO.next | apply requestHome_aside

theorem execUpg_aside {s0 : State} (agent : Nat) (l : LineAddr) (q : ReqInfo) (s : State) (k_s : Aside s0 s) : AsideO s0 (execUpg agent l q s) := by
  unfold execUpg
  repeat' with_reducible first | rfl | assumption | intro _ | dsimp only | apply AsideO.next | apply requestHome_aside

theorem execRdcur_aside {s0 : State} (agent : Nat) (l : LineAddr) (q : ReqInfo) (s : State) (k_s : Aside s0 s) : AsideO s0 (execRdcur agent l q s) := by
  unfold execRdcur
  repeat' with_reducible first | rfl | assumption | intro _ | dsimp only | apply AsideO.next | apply requestHome_aside

theorem execWrline_aside {s0 : State} (agent : Nat) (l : LineAddr) (q : ReqInfo) (data : List Byte) (mask : W64) (s : State) (k_s : Aside s0 s) : AsideO s0 (execWrline agent l q data mask s) := by
  unfold execWrline
  repeat' with_reducible first | rfl | assumption | intro _ | dsimp only | apply AsideO.next | apply requestHome_aside

theorem execAtom_aside {s0 : State} (agent : Nat) (l : LineAddr) (q : ReqInfo) (args : AtomArgs) (s : State) (k_s : Aside s0 s) : AsideO s0 (execAtom agent l q args s) := by
  unfold execAtom
  repeat' with_reducible first | rfl | assumption | intro _ | dsimp only | apply AsideO.next | apply requestHome_aside

theorem execOffer_aside {s0 : State} (agent : Nat) (l : LineAddr) (s : State) (k_s : Aside s0 s) : AsideO s0 (execOffer agent l s) := by
  unfold execOffer
  repeat' with_reducible first | rfl | assumption | intro _ | dsimp only | apply Aside.ite | apply AsideO.next | apply AsideO.ite | apply checkHome_aside | apply checkSet_aside | apply homeOffer_aside | refine Aside.pair2 (by assumption) ?_ | refine Aside.pair3 (by assumption) ?_ | refine Aside.pair1 (by assumption) ?_ | refine AsideM.of (by assumption) ?_ | split

theorem execFwdS_aside {s0 : State} (holder : Nat) (l : LineAddr) (s : State) (k_s : Aside s0 s) : AsideO s0 (execFwdS holder l s) := by
  unfold execFwdS
  repeat' with_reducible first | rfl | assumption | intro _ | dsimp only | apply AsideO.next | apply snoopArrive_aside

theorem execFwdI_aside {s0 : State} (holder : Nat) (l : LineAddr) (s : State) (k_s : Aside s0 s) : AsideO s0 (execFwdI holder l s) := by
  unfold execFwdI
  repeat' with_reducible first | rfl | assumption | intro _ | dsimp only | apply AsideO.next | apply snoopArrive_aside

theorem execInv_aside {s0 : State} (holder : Nat) (l : LineAddr) (s : State) (k_s : Aside s0 s) : AsideO s0 (execInv holder l s) := by
  unfold execInv
  repeat' with_reducible first | rfl | assumption | intro _ | dsimp only | apply AsideO.next | apply snoopArrive_aside

theorem execInvD_aside {s0 : State} (holder : Nat) (l : LineAddr) (s : State) (k_s : Aside s0 s) : AsideO s0 (execInvD holder l s) := by
  unfold execInvD
  repeat' with_reducible first | rfl | assumption | intro _ | dsimp only | apply AsideO.next | apply snoopArrive_aside

theorem execCur_aside {s0 : State} (holder : Nat) (l : LineAddr) (s : State) (k_s : Aside s0 s) : AsideO s0 (execCur holder l s) := by
  unfold execCur
  repeat' with_reducible first | rfl | assumption | intro _ | dsimp only | apply AsideO.next | apply snoopArrive_aside

theorem execSnoopResponse_aside {s0 : State} (holder : Nat) (l : LineAddr) (s : State) (k_s : Aside s0 s) : AsideO s0 (execSnoopResponse holder l s) := by
  unfold execSnoopResponse
  repeat' with_reducible first | rfl | assumption | intro _ | dsimp only | apply AsideO.next | apply snoopAnswered_aside

theorem execNackRetry_aside {s0 : State} (agent : Nat) (l : LineAddr) (s : State) (k_s : Aside s0 s) : AsideO s0 (execNackRetry agent l s) := by
  unfold execNackRetry
  repeat' with_reducible first | rfl | assumption | intro _ | dsimp only | apply AsideO.next | apply requestHome_aside | refine Aside.pair2 (by assumption) ?_ | refine Aside.pair3 (by assumption) ?_ | refine Aside.pair1 (by assumption) ?_ | refine AsideM.of (by assumption) ?_ | split

theorem execNearAtomic_aside {s0 : State} (agent : Nat) (l : LineAddr) (q : ReqInfo) (args : AtomArgs) (s : State) (k_s : Aside s0 s) : AsideO s0 (execNearAtomic agent l q args s) := by
  unfold execNearAtomic
  repeat' with_reducible first | rfl | assumption | intro _ | dsimp only | apply Aside.ite | apply AsideO.next | apply AsideO.ite | apply emit_aside | apply coherentRefuse_aside | apply farRun_aside | apply nearAtomicRun_aside | refine Aside.pair2 (by assumption) ?_ | refine Aside.pair3 (by assumption) ?_ | refine Aside.pair1 (by assumption) ?_ | refine AsideM.of (by assumption) ?_ | split

theorem execFillArrival_aside {s0 : State} (cache : Nat) (l : LineAddr) (s : State) (k_s : Aside s0 s) : AsideO s0 (execFillArrival cache l s) := by
  unfold execFillArrival
  repeat' with_reducible first | rfl | assumption | intro _ | dsimp only | apply Aside.ite | apply AsideO.next | apply AsideO.ite | apply granaryFillArrive_aside | apply agentFillArrive_aside | refine Aside.pair2 (by assumption) ?_ | refine Aside.pair3 (by assumption) ?_ | refine Aside.pair1 (by assumption) ?_ | refine AsideM.of (by assumption) ?_ | split


/-! ## Flush -/

theorem writeBack_aside {s0 : State} (s : State) (l : LineAddr) (k_s : Aside s0 s) : Aside s0 (writeBack s l) := by
  unfold writeBack
  repeat' with_reducible first | rfl | assumption | intro _ | dsimp only | apply Aside.ite | apply copyRead_aside | apply cacheModify_aside | apply backPut_aside | apply agentSet_aside | apply arrayRead_aside | refine Aside.pair2 (by assumption) ?_ | refine Aside.pair3 (by assumption) ?_ | refine Aside.pair1 (by assumption) ?_ | refine AsideM.of (by assumption) ?_ | split

theorem dropLine_aside {s0 : State} (s : State) (l : LineAddr) (k_s : Aside s0 s) : Aside s0 (dropLine s l) := by
  unfold dropLine
  repeat' with_reducible first | rfl | assumption | intro _ | dsimp only | apply Aside.ite | apply agentSet_aside | apply dirPut_aside | apply cacheDrop_aside | apply Aside.foldl | apply Aside.fold1 | apply Aside.fold2 | apply Aside.fold3 | split

theorem flushLine_aside {s0 : State} (s : State) (l : LineAddr) (inval : Bool) (k_s : Aside s0 s) : Aside s0 (flushLine s l inval) := by
  unfold flushLine
  repeat' with_reducible first | rfl | assumption | intro _ | dsimp only | apply Aside.ite | apply writeBack_aside | apply settleLine_aside | apply checkHome_aside | apply dropLine_aside | split

theorem flushWhere_aside {s0 : State} (s : State) (p : LineAddr → Bool) (inval : Bool) (k_s : Aside s0 s) : Aside s0 (flushWhere s p inval) := by
  unfold flushWhere
  repeat' with_reducible first | rfl | assumption | intro _ | dsimp only | apply flushLine_aside | apply k_p | apply Aside.foldl | apply Aside.fold1 | apply Aside.fold2 | apply Aside.fold3

theorem flushHostLines_aside {s0 : State} (s : State) (k_s : Aside s0 s) : Aside s0 (flushHostLines s) := by
  unfold flushHostLines
  repeat' with_reducible first | rfl | assumption | intro _ | dsimp only | apply flushWhere_aside

theorem dropHostLines_aside {s0 : State} (s : State) (onlyDirty : Bool) (k_s : Aside s0 s) : Aside s0 (dropHostLines s onlyDirty) := by
  unfold dropHostLines
  repeat' with_reducible first | rfl | assumption | intro _ | dsimp only | apply Aside.ite | apply dropLine_aside | apply linkUp_aside | apply Aside.foldl | apply Aside.fold1 | apply Aside.fold2 | apply Aside.fold3 | split | refine Aside.upd ?_ ?_ ?_ ?_ ?_ ?_ ?_ ?_ ?_ ?_

theorem homeReadBytes_aside {s0 : State} (s : State) (a : Nat) (space : Nat) (off : Nat) (n : Nat) (ctx : BitVec 20) (k_s : Aside s0 s) : Aside s0 (homeReadBytes s a space off n ctx).2.2 := by
  unfold homeReadBytes
  repeat' with_reducible first | rfl | assumption | intro _ | dsimp only | apply Aside.ite | apply readCur_aside | apply Aside.foldl | apply Aside.fold1 | apply Aside.fold2 | apply Aside.fold3 | split

theorem homeWriteBytes_aside {s0 : State} (s : State) (a : Nat) (space : Nat) (off : Nat) (bs : List Byte) (ctx : BitVec 20) (k_s : Aside s0 s) : Aside s0 (homeWriteBytes s a space off bs ctx) := by
  unfold homeWriteBytes
  repeat' with_reducible first | rfl | assumption | intro _ | dsimp only | apply Aside.ite | apply writeLine_aside | apply Aside.foldl | apply Aside.fold1 | apply Aside.fold2 | apply Aside.fold3 | split

theorem logPoison_aside {s0 : State} (s : State) (place : Nat × Nat) (l : LineAddr) (a3 : Line) (ctx : Nat) (k_s : Aside s0 s) : Aside s0 (logPoison s place l a3 ctx) := by
  unfold logPoison
  repeat' with_reducible first | rfl | assumption | intro _ | dsimp only | apply logError_aside | refine Aside.pair2 (by assumption) ?_ | refine Aside.pair3 (by assumption) ?_ | refine Aside.pair1 (by assumption) ?_ | refine AsideM.of (by assumption) ?_ | split

end

end Sys2Proof.Machine
end

