-- ==== Sys2Proof/Laws/Bits.lean ====
section
/-!
SUPPORT. What reading a field gives after a field write.
-/
namespace Sys2Proof.Machine

/-- A two-part number stays below the product of its bounds. -/
theorem parts_lt {a b p q : Nat} (h1 : a < p) (h2 : b < q) : a + p * b < p * q := by
  have h3 : p * (b + 1) ≤ p * q := Nat.mul_le_mul_left p h2
  rw [Nat.mul_succ] at h3
  omega

/-- A number cut below, inside and above a field. -/
theorem cut_field (x hi lo : Nat) (h : lo ≤ hi) :
    x = x % 2 ^ lo + 2 ^ lo * bits x hi lo + 2 ^ (hi + 1) * (x / 2 ^ (hi + 1)) := by
  unfold bits
  rw [Nat.shiftRight_eq_div_pow]
  have e : hi + 1 = lo + (hi - lo + 1) := by omega
  have e1 : x / 2 ^ (hi + 1) = x / 2 ^ lo / 2 ^ (hi - lo + 1) := by rw [Nat.div_div_eq_div_mul, ← pow_add, ← e]
  have e2 : (2 : Nat) ^ (hi + 1) = 2 ^ lo * 2 ^ (hi - lo + 1) := by rw [← pow_add, ← e]
  rw [e1, e2, Nat.mul_assoc, Nat.add_assoc, ← Nat.mul_add, Nat.mod_add_div, Nat.mod_add_div]

/-- What a field write leaves, as a number. -/
theorem setField_toNat {w : Nat} (x : BitVec w) (hi lo v : Nat) (h : lo ≤ hi) (hw : hi < w) :
    (setField x hi lo v).toNat
      = x.toNat % 2 ^ lo + 2 ^ lo * (v % 2 ^ (hi - lo + 1)) + 2 ^ (hi + 1) * (x.toNat / 2 ^ (hi + 1)) := by
  have c := cut_field x.toNat hi lo h
  have e : (2 : Nat) ^ (hi + 1) = 2 ^ lo * 2 ^ (hi - lo + 1) := by rw [← pow_add]; congr 1; omega
  have ew : (2 : Nat) ^ w = 2 ^ (hi + 1) * 2 ^ (w - (hi + 1)) := by rw [← pow_add]; congr 1; omega
  have l1 : x.toNat % 2 ^ lo < 2 ^ lo := Nat.mod_lt _ (by positivity)
  have l2 : v % 2 ^ (hi - lo + 1) < 2 ^ (hi - lo + 1) := Nat.mod_lt _ (by positivity)
  have l3 : x.toNat / 2 ^ (hi + 1) < 2 ^ (w - (hi + 1)) := by
    apply Nat.div_lt_of_lt_mul; rw [← ew]; exact x.isLt
  have b1 : x.toNat % 2 ^ lo + 2 ^ lo * (v % 2 ^ (hi - lo + 1)) < 2 ^ (hi + 1) := by
    rw [e]; exact parts_lt l1 l2
  have b2 : x.toNat % 2 ^ lo + 2 ^ lo * (v % 2 ^ (hi - lo + 1)) + 2 ^ (hi + 1) * (x.toNat / 2 ^ (hi + 1)) < 2 ^ w := by
    rw [ew]; exact parts_lt b1 l3
  unfold setField field
  rw [BitVec.toNat_ofNat]
  have : x.toNat - 2 ^ lo * bits x.toNat hi lo + 2 ^ lo * (v % 2 ^ (hi - lo + 1))
      = x.toNat % 2 ^ lo + 2 ^ lo * (v % 2 ^ (hi - lo + 1)) + 2 ^ (hi + 1) * (x.toNat / 2 ^ (hi + 1)) := by omega
  rw [this]
  exact Nat.mod_eq_of_lt b2

/-- The bits of a register after a field write. -/
theorem setField_testBit {w : Nat} (x : BitVec w) (hi lo v i : Nat) (h : lo ≤ hi) (hw : hi < w) :
    (setField x hi lo v).toNat.testBit i = if lo ≤ i ∧ i ≤ hi then v.testBit (i - lo) else x.toNat.testBit i := by
  rw [setField_toNat x hi lo v h hw]
  have e : (2 : Nat) ^ (hi + 1) = 2 ^ lo * 2 ^ (hi - lo + 1) := by rw [← pow_add]; congr 1; omega
  have l1 : x.toNat % 2 ^ lo < 2 ^ lo := Nat.mod_lt _ (by positivity)
  have l2 : v % 2 ^ (hi - lo + 1) < 2 ^ (hi - lo + 1) := Nat.mod_lt _ (by positivity)
  have b1 : 2 ^ lo * (v % 2 ^ (hi - lo + 1)) + x.toNat % 2 ^ lo < 2 ^ (hi + 1) := by rw [e, Nat.add_comm]; exact parts_lt l1 l2
  rw [Nat.add_comm, Nat.add_comm (x.toNat % 2 ^ lo)]
  rw [Nat.testBit_two_pow_mul_add _ b1]
  by_cases h1 : i < hi + 1
  · rw [if_pos h1, Nat.testBit_two_pow_mul_add _ l1]
    by_cases h2 : i < lo
    · rw [if_pos h2, if_neg (by omega), Nat.testBit_mod_two_pow]; simp [h2]
    · rw [if_neg h2, if_pos (by omega), Nat.testBit_mod_two_pow]
      have : i - lo < hi - lo + 1 := by omega
      simp [this]
  · rw [if_neg h1, if_neg (by omega), Nat.testBit_div_two_pow]
    congr 1; omega

/-- A field, bit by bit. -/
theorem field_testBit {w : Nat} (x : BitVec w) (hi lo i : Nat) :
    (field x hi lo).testBit i = (decide (i < hi - lo + 1) && x.toNat.testBit (lo + i)) := by
  unfold field bits
  rw [Nat.testBit_mod_two_pow, Nat.testBit_shiftRight]

/-- A field read after a write of the same field. -/
theorem field_setField_same {w : Nat} (x : BitVec w) (hi lo v : Nat) (h : lo ≤ hi) (hw : hi < w) :
    field (setField x hi lo v) hi lo = v % 2 ^ (hi - lo + 1) := by
  apply Nat.eq_of_testBit_eq
  intro i
  rw [field_testBit, setField_testBit x hi lo v _ h hw, Nat.testBit_mod_two_pow]
  by_cases hi' : i < hi - lo + 1
  · rw [if_pos (by omega)]; simp [hi']
  · simp [hi']

/-- A field read after a write of another field. -/
theorem field_setField_other {w : Nat} (x : BitVec w) (hi lo v hi' lo' : Nat) (h : lo ≤ hi) (hw : hi < w)
    (d : lo' ≤ hi' ∧ (hi' < lo ∨ hi < lo')) : field (setField x hi lo v) hi' lo' = field x hi' lo' := by
  apply Nat.eq_of_testBit_eq
  intro i
  rw [field_testBit, field_testBit, setField_testBit x hi lo v _ h hw]
  by_cases k : i < hi' - lo' + 1
  · rw [if_neg (by omega)]
  · simp [k]

end Sys2Proof.Machine
end

