-- ==== Sys2Proof/Laws/Config.lean ====
section
/-!
SUPPORT. What a write leaves in the configuration registers whose rules bound a field: the new value is legal when the old one was.
-/
namespace Sys2Proof

open Sys2Proof.Machine

/-- A 16-bit field is below 65,536, an 8-bit field below 256. -/
theorem field_lt {w : Nat} (x : BitVec w) (hi lo : Nat) : field x hi lo < 2 ^ (hi - lo + 1) := Nat.mod_lt _ (by positivity)

theorem field_mod {w : Nat} (x : BitVec w) (hi lo : Nat) : field x hi lo % 2 ^ (hi - lo + 1) = field x hi lo :=
  Nat.mod_eq_of_lt (field_lt x hi lo)

theorem trCfgOk_write (old v : W32) (t : Nat) (h : trCfgOk old) (ht : 1 ≤ t) (hl : t < 65536) :
    trCfgOk (setField (setField (setField old 10 0 (field v 10 0)) 11 11 (field v 11 11)) 31 16 t) := by
  unfold trCfgOk at *
  rw [field_setField_same _ 31 16 _ (by decide) (by decide), field_setField_other _ 31 16 _ 15 12 (by decide) (by decide) (by decide),
    field_setField_other _ 11 11 _ 15 12 (by decide) (by decide) (by decide),
    field_setField_other _ 10 0 _ 15 12 (by decide) (by decide) (by decide)]
  refine ⟨?_, h.2⟩
  rw [Nat.mod_eq_of_lt (show t < 2 ^ (31 - 16 + 1) from hl)]; exact ht

theorem hlCfgOk_write (old : W32) (a t : Nat) (h : hlCfgOk old) (ht : 1 ≤ t) (hl : t ≤ 1000) :
    hlCfgOk (setField (setField old 27 16 a) 15 0 t) := by
  unfold hlCfgOk at *
  rw [field_setField_same _ 15 0 _ (by decide) (by decide), field_setField_other _ 15 0 _ 31 28 (by decide) (by decide) (by decide),
    field_setField_other _ 27 16 _ 31 28 (by decide) (by decide) (by decide), Nat.mod_eq_of_lt (show t < 2 ^ (15 - 0 + 1) by omega)]
  exact ⟨ht, hl, h.2.2⟩

theorem cacheCfgOk_write (old : W32) (a t : Nat) (h : cacheCfgOk old) (ht : 1 ≤ t) (hl : t ≤ 64) :
    cacheCfgOk (setField (setField old 2 0 a) 15 8 t) := by
  unfold cacheCfgOk at *
  rw [field_setField_same _ 15 8 _ (by decide) (by decide), field_setField_other _ 15 8 _ 7 3 (by decide) (by decide) (by decide),
    field_setField_other _ 2 0 _ 7 3 (by decide) (by decide) (by decide), field_setField_other _ 15 8 _ 31 16 (by decide) (by decide) (by decide),
    field_setField_other _ 2 0 _ 31 16 (by decide) (by decide) (by decide), Nat.mod_eq_of_lt (show t < 2 ^ (15 - 8 + 1) by omega)]
  exact ⟨ht, hl, h.2.2⟩

theorem cohCfgOk_write (old : W32) (t : Nat) (h : cohCfgOk old) (ht : t < 3) : cohCfgOk (setField old 1 0 t) := by
  unfold cohCfgOk at *
  rw [field_setField_same _ 1 0 _ (by decide) (by decide), field_setField_other _ 1 0 _ 31 2 (by decide) (by decide) (by decide),
    Nat.mod_eq_of_lt (show t < 2 ^ (1 - 0 + 1) by omega)]
  exact ⟨by omega, h.2⟩

theorem gleanCfgOk_write (old : W32) (t : Nat) (b : Bool) (h : gleanCfgOk old) (ht : 1 ≤ t) (hl : t ≤ 168) :
    gleanCfgOk (setBit (setField old 7 0 t) 8 b) := by
  unfold gleanCfgOk setBit at *
  rw [field_setField_other _ 8 8 _ 7 0 (by decide) (by decide) (by decide), field_setField_same _ 7 0 _ (by decide) (by decide),
    field_setField_other _ 8 8 _ 31 9 (by decide) (by decide) (by decide), field_setField_other _ 7 0 _ 31 9 (by decide) (by decide) (by decide),
    Nat.mod_eq_of_lt (show t < 2 ^ (7 - 0 + 1) by omega)]
  exact ⟨ht, hl, h.2.2⟩

theorem wainCfgOk_write (old : W32) (t r : Nat) (ht : 1 ≤ t) (hl : t ≤ 1000) (hr : 1 ≤ r) (hr' : r < 65536) :
    wainCfgOk (setField (setField old 15 0 t) 31 16 r) := by
  unfold wainCfgOk at *
  rw [field_setField_other _ 31 16 _ 15 0 (by decide) (by decide) (by decide), field_setField_same _ 15 0 _ (by decide) (by decide),
    field_setField_same _ 31 16 _ (by decide) (by decide), Nat.mod_eq_of_lt (show t < 2 ^ (15 - 0 + 1) by omega),
    Nat.mod_eq_of_lt (show r < 2 ^ (31 - 16 + 1) by omega)]
  exact ⟨ht, hl, hr⟩

theorem hlCfgOk_reset : hlCfgOk 0x0000000A := by unfold hlCfgOk; decide
theorem trCfgOk_reset : trCfgOk 0x27100000 := by unfold trCfgOk; decide
theorem cacheCfgOk_reset : cacheCfgOk 0x00003007 := by unfold cacheCfgOk; decide
theorem cohCfgOk_reset : cohCfgOk 0 := by unfold cohCfgOk; decide
theorem gleanCfgOk_reset : gleanCfgOk 0x00000118 := by unfold gleanCfgOk; decide
theorem wainCfgOk_reset : wainCfgOk 0x003C0032 := by unfold wainCfgOk; decide

end Sys2Proof
end

