-- ==== Sys2Proof/Laws/Table.lean ====
section
/-!
SUPPORT. The laws of sparse tables: what is read after a write, that a later write of an instance replaces the earlier one, and that
every write keeps the canonical form.
-/
namespace Sys2Proof.Machine

variable {α : Type}

theorem look_del_same (d : α) (t : Tbl α) (k : Nat) : look d (del t k) k = d := by
  induction t with
  | nil => rfl
  | cons e t ih => obtain ⟨i, v⟩ := e; by_cases h : k = i <;> simp [del, look, h]; · rw [← h]; exact ih
                   · exact ih

theorem look_del_ne (d : α) (t : Tbl α) {k j : Nat} (h : j ≠ k) : look d (del t k) j = look d t j := by
  induction t with
  | nil => rfl
  | cons e t ih =>
    obtain ⟨i, v⟩ := e
    by_cases hk : k = i
    · subst hk; simp [del, look, h, ih]
    · simp [del, look, hk, ih]

theorem look_ins_same (d : α) (t : Tbl α) (k : Nat) (v : α) : look d (ins t k v) k = v := by
  induction t with
  | nil => simp [ins, look]
  | cons e t ih =>
    obtain ⟨i, w⟩ := e
    unfold ins
    split
    · exact ih
    · split
      · simp [look]
      · simp [look, *]

theorem look_ins_ne (d : α) (t : Tbl α) {k j : Nat} (v : α) (h : j ≠ k) : look d (ins t k v) j = look d t j := by
  induction t with
  | nil => simp [ins, look, h]
  | cons e t ih =>
    obtain ⟨i, w⟩ := e
    unfold ins
    split
    · rename_i hk; subst hk; simp [look, h, ih]
    · split
      · simp [look, h, look_del_ne d t h]
      · simp [look, ih]

/-- Instance k reads as what was written to it. -/
@[simp] theorem look_put_same [DecidableEq α] (d : α) (t : Tbl α) (k : Nat) (v : α) : look d (put d t k v) k = v := by
  unfold put; split
  · subst_vars; exact look_del_same _ t k
  · exact look_ins_same d t k v

/-- A write leaves every other instance alone. -/
theorem look_put_ne [DecidableEq α] (d : α) (t : Tbl α) {k j : Nat} (v : α) (h : j ≠ k) : look d (put d t k v) j = look d t j := by
  unfold put; split
  · exact look_del_ne d t h
  · exact look_ins_ne d t v h

/-- What any instance reads as after a write. -/
theorem look_put [DecidableEq α] (d : α) (t : Tbl α) (k j : Nat) (v : α) : look d (put d t k v) j = if j = k then v else look d t j := by
  split
  · subst_vars; exact look_put_same d t _ v
  · exact look_put_ne d t v ‹_›

theorem del_del (t : Tbl α) (k : Nat) : del (del t k) k = del t k := by
  induction t with
  | nil => rfl
  | cons e t ih => obtain ⟨i, v⟩ := e; by_cases h : k = i <;> simp [del, h]; · subst h; exact ih
                   · exact ih

theorem del_ins (t : Tbl α) (k : Nat) (v : α) : del (ins t k v) k = del t k := by
  induction t with
  | nil => simp [ins, del]
  | cons e t ih =>
    obtain ⟨i, w⟩ := e
    unfold ins
    split
    · rename_i h; subst h; simp [del, ih]
    · split
      · simp [del, *, del_del]
      · simp [del, *]

theorem ins_del (t : Tbl α) (k : Nat) (v : α) : ins (del t k) k v = ins t k v := by
  induction t with
  | nil => rfl
  | cons e t ih =>
    obtain ⟨i, w⟩ := e
    by_cases h : k = i
    · subst h; simp [del, ins, ih]
    · simp [del, ins, h, ih, del_del]

theorem ins_ins (t : Tbl α) (k : Nat) (v w : α) : ins (ins t k v) k w = ins t k w := by
  induction t with
  | nil => simp [ins]
  | cons e t ih =>
    obtain ⟨i, x⟩ := e
    by_cases h : k = i
    · subst h; simp [ins, ih]
    · by_cases hlt : k < i
      · simp [ins, h, hlt, del_del]
      · simp [ins, h, hlt, ih]

/-- A later write of an instance replaces the earlier one. -/
@[simp] theorem put_put [DecidableEq α] (d : α) (t : Tbl α) (k : Nat) (v w : α) : put d (put d t k v) k w = put d t k w := by
  unfold put; split <;> split <;> simp [del_del, del_ins, ins_del, ins_ins]

/-! ## The canonical form -/

theorem all_del (t : Tbl α) (k : Nat) (p : Nat × α → Bool) (h : t.all p = true) : (del t k).all p = true := by
  induction t with
  | nil => rfl
  | cons e t ih =>
    obtain ⟨i, v⟩ := e
    simp only [List.all_cons, Bool.and_eq_true] at h
    by_cases hk : k = i
    · simp [del, hk]; rw [← hk]; simpa using ih h.2
    · simp only [del, hk, if_false, List.all_cons, Bool.and_eq_true]; exact ⟨h.1, ih h.2⟩

theorem all_ins (t : Tbl α) (k : Nat) (v : α) (p : Nat × α → Bool) (h : t.all p = true) (hk : p (k, v) = true) : (ins t k v).all p = true := by
  induction t with
  | nil => simp [ins, hk]
  | cons e t ih =>
    obtain ⟨i, w⟩ := e
    simp only [List.all_cons, Bool.and_eq_true] at h
    unfold ins
    split
    · exact ih h.2
    · split
      · simp only [List.all_cons, Bool.and_eq_true]; exact ⟨hk, h.1, all_del t k p h.2⟩
      · simp only [List.all_cons, Bool.and_eq_true]; exact ⟨h.1, ih h.2⟩

theorem tblWf_del [DecidableEq α] (d : α) (t : Tbl α) (k : Nat) (h : tblWf d t = true) : tblWf d (del t k) = true := by
  induction t with
  | nil => rfl
  | cons e t ih =>
    obtain ⟨i, v⟩ := e
    simp only [tblWf, Bool.and_eq_true] at h
    by_cases hk : k = i
    · simp only [del, hk, if_true]; rw [← hk]; exact ih h.2
    · simp only [del, hk, if_false, tblWf, Bool.and_eq_true]; exact ⟨⟨h.1.1, all_del t k _ h.1.2⟩, ih h.2⟩

theorem tblWf_ins [DecidableEq α] (d : α) (t : Tbl α) (k : Nat) (v : α) (hv : v ≠ d) (h : tblWf d t = true) : tblWf d (ins t k v) = true := by
  induction t with
  | nil => simp [ins, tblWf, hv]
  | cons e t ih =>
    obtain ⟨i, w⟩ := e
    have h0 := h
    simp only [tblWf, Bool.and_eq_true, decide_eq_true_eq] at h
    unfold ins
    split
    · exact ih h.2
    · rename_i hne
      split
      · rename_i hlt
        simp only [tblWf, Bool.and_eq_true, List.all_cons, decide_eq_true_eq]
        refine ⟨⟨hv, hlt, all_del t k _ ?_⟩, ⟨h.1.1, all_del t k _ h.1.2⟩, tblWf_del d t k h.2⟩
        have := h.1.2
        rw [List.all_eq_true] at this ⊢
        intro x hx
        have := this x hx
        simp only [decide_eq_true_eq] at this ⊢
        omega
      · simp only [tblWf, Bool.and_eq_true, decide_eq_true_eq]
        exact ⟨⟨h.1.1, all_ins t k v _ h.1.2 (by simp; omega)⟩, ih h.2⟩

/-- A write keeps the canonical form. -/
theorem tblWf_put [DecidableEq α] (d : α) (t : Tbl α) (k : Nat) (v : α) (h : tblWf d t = true) : tblWf d (put d t k v) = true := by
  unfold put; split
  · exact tblWf_del d t k h
  · exact tblWf_ins d t k v ‹_› h

/-- Writing consecutive instances keeps the canonical form. -/
theorem tblWf_putAll [DecidableEq α] (d : α) (t : Tbl α) (k : Nat) (vs : List α) (h : tblWf d t = true) : tblWf d (putAll d t k vs) = true := by
  induction vs generalizing t k with
  | nil => exact h
  | cons v vs ih => exact ih _ _ (tblWf_put d t k v h)

/-- Dropping entries keeps the canonical form. -/
theorem tblWf_filter [DecidableEq α] (d : α) (t : Tbl α) (p : Nat × α → Bool) (h : tblWf d t = true) : tblWf d (t.filter p) = true := by
  induction t with
  | nil => rfl
  | cons e t ih =>
    obtain ⟨i, v⟩ := e
    simp only [tblWf, Bool.and_eq_true] at h
    by_cases hp : p (i, v) = true
    · rw [List.filter_cons_of_pos hp]
      simp only [tblWf, Bool.and_eq_true]
      refine ⟨⟨h.1.1, ?_⟩, ih h.2⟩
      rw [List.all_eq_true] at *
      intro x hx
      exact h.1.2 x (List.mem_filter.1 hx).1
    · rw [List.filter_cons_of_neg hp]
      exact ih h.2

/-- What any instance reads as after a write of consecutive ones. -/
theorem look_putAll [DecidableEq α] (d : α) (t : Tbl α) (k : Nat) (vs : List α) (j : Nat) :
    look d (putAll d t k vs) j = if k ≤ j ∧ j < k + vs.length then vs.getD (j - k) d else look d t j := by
  induction vs generalizing t k with
  | nil =>
    have h : ¬ (k ≤ j ∧ j < k + ([] : List α).length) := fun h => by have h2 := h.2; rw [List.length_nil] at h2; omega
    rw [putAll, if_neg h]
  | cons v vs ih =>
    rw [putAll, ih, look_put]
    by_cases hj : j = k
    · subst hj
      rw [if_neg (by omega), if_pos rfl, if_pos ⟨Nat.le_refl _, by rw [List.length_cons]; omega⟩, Nat.sub_self]
      rfl
    · by_cases h1 : k + 1 ≤ j ∧ j < k + 1 + vs.length
      · have h2 : k ≤ j ∧ j < k + (v :: vs).length := by simp; omega
        rw [if_pos h1, if_pos h2]
        obtain ⟨m, rfl⟩ : ∃ m, j = k + 1 + m := ⟨j - (k + 1), by omega⟩
        have e1 : k + 1 + m - (k + 1) = m := by omega
        have e2 : k + 1 + m - k = m + 1 := by omega
        rw [e1, e2]; rfl
      · have h2 : ¬(k ≤ j ∧ j < k + (v :: vs).length) := by simp; omega
        rw [if_neg h1, if_neg h2, if_neg hj]

end Sys2Proof.Machine
end

