-- ==== Sys2Proof/Laws/State.lean ====
section
/-!
SUPPORT. What each named update of State leaves alone, one lemma per field, and what each part reads as after an update.
-/
namespace Sys2Proof.Machine

variable (s : State) (n m : Nat)

/-! ## setWindrow -/

@[simp] theorem setWindrow_pending (x : Windrow) : (setWindrow s n x).pending = s.pending := rfl
@[simp] theorem setWindrow_out (x : Windrow) : (setWindrow s n x).out = s.out := rfl
@[simp] theorem setWindrow_freeCtr (x : Windrow) : (setWindrow s n x).freeCtr = s.freeCtr := rfl
@[simp] theorem setWindrow_tick (x : Windrow) : (setWindrow s n x).tick = s.tick := rfl
@[simp] theorem setWindrow_wall (x : Windrow) : (setWindrow s n x).wall = s.wall := rfl
@[simp] theorem setWindrow_ctb (x : Windrow) : (setWindrow s n x).ctb = s.ctb := rfl
@[simp] theorem setWindrow_ctbQuarter (x : Windrow) : (setWindrow s n x).ctbQuarter = s.ctbQuarter := rfl
@[simp] theorem setWindrow_stretch (x : Windrow) : (setWindrow s n x).stretch = s.stretch := rfl
@[simp] theorem setWindrow_globalTick (x : Windrow) : (setWindrow s n x).globalTick = s.globalTick := rfl
@[simp] theorem setWindrow_counting (x : Windrow) : (setWindrow s n x).counting = s.counting := rfl
@[simp] theorem setWindrow_epochStart (x : Windrow) : (setWindrow s n x).epochStart = s.epochStart := rfl
@[simp] theorem setWindrow_rootPct (x : Windrow) : (setWindrow s n x).rootPct = s.rootPct := rfl
@[simp] theorem setWindrow_boot (x : Windrow) : (setWindrow s n x).boot = s.boot := rfl
@[simp] theorem setWindrow_hl (x : Windrow) : (setWindrow s n x).hl = s.hl := rfl
@[simp] theorem setWindrow_hostMem (x : Windrow) : (setWindrow s n x).hostMem = s.hostMem := rfl
@[simp] theorem setWindrow_tr (x : Windrow) : (setWindrow s n x).tr = s.tr := rfl
@[simp] theorem setWindrow_cache (x : Windrow) : (setWindrow s n x).cache = s.cache := rfl
@[simp] theorem setWindrow_mem (x : Windrow) : (setWindrow s n x).mem = s.mem := rfl
@[simp] theorem setWindrow_err (x : Windrow) : (setWindrow s n x).err = s.err := rfl
@[simp] theorem setWindrow_slots (x : Windrow) : (setWindrow s n x).slots = s.slots := rfl
@[simp] theorem setWindrow_tillers (x : Windrow) : (setWindrow s n x).tillers = s.tillers := rfl
@[simp] theorem setWindrow_units (x : Windrow) : (setWindrow s n x).units = s.units := rfl
@[simp] theorem setWindrow_sheaves (x : Windrow) : (setWindrow s n x).sheaves = s.sheaves := rfl
@[simp] theorem setWindrow_reds (x : Windrow) : (setWindrow s n x).reds = s.reds := rfl
@[simp] theorem setWindrow_wain (x : Windrow) : (setWindrow s n x).wain = s.wain := rfl
@[simp] theorem setWindrow_ep (x : Windrow) : (setWindrow s n x).ep = s.ep := rfl
@[simp] theorem setWindrow_crop (x : Windrow) : (setWindrow s n x).crop = s.crop := rfl
@[simp] theorem setWindrow_margin (x : Windrow) : (setWindrow s n x).margin = s.margin := rfl
theorem getWindrow_setWindrow (x : Windrow) : getWindrow (setWindrow s n x) m = if m = n then x else getWindrow s m := by
  unfold getWindrow setWindrow; exact look_put _ _ _ _ _
@[simp] theorem setWindrow_grg_active (x : Windrow) : (setWindrow s n x).grg.active = s.grg.active := rfl
@[simp] theorem setWindrow_grg_admission (x : Windrow) : (setWindrow s n x).grg.admission = s.grg.admission := rfl
@[simp] theorem setWindrow_grg_turn (x : Windrow) : (setWindrow s n x).grg.turn = s.grg.turn := rfl
@[simp] theorem setWindrow_grg_lastServed (x : Windrow) : (setWindrow s n x).grg.lastServed = s.grg.lastServed := rfl
@[simp] theorem setWindrow_grg_err (x : Windrow) : (setWindrow s n x).grg.err = s.grg.err := rfl
@[simp] theorem getWindrow_setWindrow_same (x : Windrow) : getWindrow (setWindrow s n x) n = x := by rw [getWindrow_setWindrow, if_pos rfl]
theorem getWindrow_setWindrow_ne {n m : Nat} (x : Windrow) (h : m ≠ n) : getWindrow (setWindrow s n x) m = getWindrow s m := by rw [getWindrow_setWindrow, if_neg h]
@[simp] theorem setWindrow_setWindrow (x y : Windrow) : setWindrow (setWindrow s n x) n y = setWindrow s n y := by
  simp [setWindrow, windrowDefault]
@[simp] theorem getCtx_setWindrow (x : Windrow) : getCtx (setWindrow s n x) m = getCtx s m := rfl
@[simp] theorem getSlot_setWindrow (x : Windrow) : getSlot (setWindrow s n x) m = getSlot s m := rfl
@[simp] theorem getTiller_setWindrow (x : Windrow) : getTiller (setWindrow s n x) m = getTiller s m := rfl
@[simp] theorem getUnit_setWindrow (x : Windrow) : getUnit (setWindrow s n x) m = getUnit s m := rfl
@[simp] theorem getSheaf_setWindrow (x : Windrow) : getSheaf (setWindrow s n x) m = getSheaf s m := rfl
@[simp] theorem getLink_setWindrow (x : Windrow) : getLink (setWindrow s n x) m = getLink s m := rfl
@[simp] theorem getAtt_setWindrow (x : Windrow) : getAtt (setWindrow s n x) m = getAtt s m := rfl
@[simp] theorem getPort_setWindrow (x : Windrow) : getPort (setWindrow s n x) m = getPort s m := rfl

/-! ## setCtx -/

@[simp] theorem setCtx_pending (x : Ctx) : (setCtx s n x).pending = s.pending := rfl
@[simp] theorem setCtx_out (x : Ctx) : (setCtx s n x).out = s.out := rfl
@[simp] theorem setCtx_freeCtr (x : Ctx) : (setCtx s n x).freeCtr = s.freeCtr := rfl
@[simp] theorem setCtx_tick (x : Ctx) : (setCtx s n x).tick = s.tick := rfl
@[simp] theorem setCtx_wall (x : Ctx) : (setCtx s n x).wall = s.wall := rfl
@[simp] theorem setCtx_ctb (x : Ctx) : (setCtx s n x).ctb = s.ctb := rfl
@[simp] theorem setCtx_ctbQuarter (x : Ctx) : (setCtx s n x).ctbQuarter = s.ctbQuarter := rfl
@[simp] theorem setCtx_stretch (x : Ctx) : (setCtx s n x).stretch = s.stretch := rfl
@[simp] theorem setCtx_globalTick (x : Ctx) : (setCtx s n x).globalTick = s.globalTick := rfl
@[simp] theorem setCtx_counting (x : Ctx) : (setCtx s n x).counting = s.counting := rfl
@[simp] theorem setCtx_epochStart (x : Ctx) : (setCtx s n x).epochStart = s.epochStart := rfl
@[simp] theorem setCtx_rootPct (x : Ctx) : (setCtx s n x).rootPct = s.rootPct := rfl
@[simp] theorem setCtx_boot (x : Ctx) : (setCtx s n x).boot = s.boot := rfl
@[simp] theorem setCtx_hl (x : Ctx) : (setCtx s n x).hl = s.hl := rfl
@[simp] theorem setCtx_hostMem (x : Ctx) : (setCtx s n x).hostMem = s.hostMem := rfl
@[simp] theorem setCtx_grg (x : Ctx) : (setCtx s n x).grg = s.grg := rfl
@[simp] theorem setCtx_cache (x : Ctx) : (setCtx s n x).cache = s.cache := rfl
@[simp] theorem setCtx_mem (x : Ctx) : (setCtx s n x).mem = s.mem := rfl
@[simp] theorem setCtx_err (x : Ctx) : (setCtx s n x).err = s.err := rfl
@[simp] theorem setCtx_slots (x : Ctx) : (setCtx s n x).slots = s.slots := rfl
@[simp] theorem setCtx_tillers (x : Ctx) : (setCtx s n x).tillers = s.tillers := rfl
@[simp] theorem setCtx_units (x : Ctx) : (setCtx s n x).units = s.units := rfl
@[simp] theorem setCtx_sheaves (x : Ctx) : (setCtx s n x).sheaves = s.sheaves := rfl
@[simp] theorem setCtx_reds (x : Ctx) : (setCtx s n x).reds = s.reds := rfl
@[simp] theorem setCtx_wain (x : Ctx) : (setCtx s n x).wain = s.wain := rfl
@[simp] theorem setCtx_ep (x : Ctx) : (setCtx s n x).ep = s.ep := rfl
@[simp] theorem setCtx_crop (x : Ctx) : (setCtx s n x).crop = s.crop := rfl
@[simp] theorem setCtx_margin (x : Ctx) : (setCtx s n x).margin = s.margin := rfl
theorem getCtx_setCtx (x : Ctx) : getCtx (setCtx s n x) m = if m = n then x else getCtx s m := by
  unfold getCtx setCtx; exact look_put _ _ _ _ _
@[simp] theorem getCtx_setCtx_same (x : Ctx) : getCtx (setCtx s n x) n = x := by rw [getCtx_setCtx, if_pos rfl]
theorem getCtx_setCtx_ne {n m : Nat} (x : Ctx) (h : m ≠ n) : getCtx (setCtx s n x) m = getCtx s m := by rw [getCtx_setCtx, if_neg h]
@[simp] theorem setCtx_setCtx (x y : Ctx) : setCtx (setCtx s n x) n y = setCtx s n y := by
  simp [setCtx]
@[simp] theorem getWindrow_setCtx (x : Ctx) : getWindrow (setCtx s n x) m = getWindrow s m := rfl
@[simp] theorem getSlot_setCtx (x : Ctx) : getSlot (setCtx s n x) m = getSlot s m := rfl
@[simp] theorem getTiller_setCtx (x : Ctx) : getTiller (setCtx s n x) m = getTiller s m := rfl
@[simp] theorem getUnit_setCtx (x : Ctx) : getUnit (setCtx s n x) m = getUnit s m := rfl
@[simp] theorem getSheaf_setCtx (x : Ctx) : getSheaf (setCtx s n x) m = getSheaf s m := rfl
@[simp] theorem getLink_setCtx (x : Ctx) : getLink (setCtx s n x) m = getLink s m := rfl
@[simp] theorem getAtt_setCtx (x : Ctx) : getAtt (setCtx s n x) m = getAtt s m := rfl
@[simp] theorem getPort_setCtx (x : Ctx) : getPort (setCtx s n x) m = getPort s m := rfl

/-! ## setSlot -/

@[simp] theorem setSlot_pending (x : Slot) : (setSlot s n x).pending = s.pending := rfl
@[simp] theorem setSlot_out (x : Slot) : (setSlot s n x).out = s.out := rfl
@[simp] theorem setSlot_freeCtr (x : Slot) : (setSlot s n x).freeCtr = s.freeCtr := rfl
@[simp] theorem setSlot_tick (x : Slot) : (setSlot s n x).tick = s.tick := rfl
@[simp] theorem setSlot_wall (x : Slot) : (setSlot s n x).wall = s.wall := rfl
@[simp] theorem setSlot_ctb (x : Slot) : (setSlot s n x).ctb = s.ctb := rfl
@[simp] theorem setSlot_ctbQuarter (x : Slot) : (setSlot s n x).ctbQuarter = s.ctbQuarter := rfl
@[simp] theorem setSlot_stretch (x : Slot) : (setSlot s n x).stretch = s.stretch := rfl
@[simp] theorem setSlot_globalTick (x : Slot) : (setSlot s n x).globalTick = s.globalTick := rfl
@[simp] theorem setSlot_counting (x : Slot) : (setSlot s n x).counting = s.counting := rfl
@[simp] theorem setSlot_epochStart (x : Slot) : (setSlot s n x).epochStart = s.epochStart := rfl
@[simp] theorem setSlot_rootPct (x : Slot) : (setSlot s n x).rootPct = s.rootPct := rfl
@[simp] theorem setSlot_boot (x : Slot) : (setSlot s n x).boot = s.boot := rfl
@[simp] theorem setSlot_hl (x : Slot) : (setSlot s n x).hl = s.hl := rfl
@[simp] theorem setSlot_hostMem (x : Slot) : (setSlot s n x).hostMem = s.hostMem := rfl
@[simp] theorem setSlot_grg (x : Slot) : (setSlot s n x).grg = s.grg := rfl
@[simp] theorem setSlot_tr (x : Slot) : (setSlot s n x).tr = s.tr := rfl
@[simp] theorem setSlot_cache (x : Slot) : (setSlot s n x).cache = s.cache := rfl
@[simp] theorem setSlot_mem (x : Slot) : (setSlot s n x).mem = s.mem := rfl
@[simp] theorem setSlot_err (x : Slot) : (setSlot s n x).err = s.err := rfl
@[simp] theorem setSlot_tillers (x : Slot) : (setSlot s n x).tillers = s.tillers := rfl
@[simp] theorem setSlot_units (x : Slot) : (setSlot s n x).units = s.units := rfl
@[simp] theorem setSlot_sheaves (x : Slot) : (setSlot s n x).sheaves = s.sheaves := rfl
@[simp] theorem setSlot_reds (x : Slot) : (setSlot s n x).reds = s.reds := rfl
@[simp] theorem setSlot_wain (x : Slot) : (setSlot s n x).wain = s.wain := rfl
@[simp] theorem setSlot_ep (x : Slot) : (setSlot s n x).ep = s.ep := rfl
@[simp] theorem setSlot_crop (x : Slot) : (setSlot s n x).crop = s.crop := rfl
@[simp] theorem setSlot_margin (x : Slot) : (setSlot s n x).margin = s.margin := rfl
theorem getSlot_setSlot (x : Slot) : getSlot (setSlot s n x) m = if m = n then x else getSlot s m := by
  unfold getSlot setSlot; exact look_put _ _ _ _ _
@[simp] theorem getSlot_setSlot_same (x : Slot) : getSlot (setSlot s n x) n = x := by rw [getSlot_setSlot, if_pos rfl]
theorem getSlot_setSlot_ne {n m : Nat} (x : Slot) (h : m ≠ n) : getSlot (setSlot s n x) m = getSlot s m := by rw [getSlot_setSlot, if_neg h]
@[simp] theorem setSlot_setSlot (x y : Slot) : setSlot (setSlot s n x) n y = setSlot s n y := by
  simp [setSlot]
@[simp] theorem getWindrow_setSlot (x : Slot) : getWindrow (setSlot s n x) m = getWindrow s m := rfl
@[simp] theorem getCtx_setSlot (x : Slot) : getCtx (setSlot s n x) m = getCtx s m := rfl
@[simp] theorem getTiller_setSlot (x : Slot) : getTiller (setSlot s n x) m = getTiller s m := rfl
@[simp] theorem getUnit_setSlot (x : Slot) : getUnit (setSlot s n x) m = getUnit s m := rfl
@[simp] theorem getSheaf_setSlot (x : Slot) : getSheaf (setSlot s n x) m = getSheaf s m := rfl
@[simp] theorem getLink_setSlot (x : Slot) : getLink (setSlot s n x) m = getLink s m := rfl
@[simp] theorem getAtt_setSlot (x : Slot) : getAtt (setSlot s n x) m = getAtt s m := rfl
@[simp] theorem getPort_setSlot (x : Slot) : getPort (setSlot s n x) m = getPort s m := rfl

/-! ## setTiller -/

@[simp] theorem setTiller_pending (x : Tiller) : (setTiller s n x).pending = s.pending := rfl
@[simp] theorem setTiller_out (x : Tiller) : (setTiller s n x).out = s.out := rfl
@[simp] theorem setTiller_freeCtr (x : Tiller) : (setTiller s n x).freeCtr = s.freeCtr := rfl
@[simp] theorem setTiller_tick (x : Tiller) : (setTiller s n x).tick = s.tick := rfl
@[simp] theorem setTiller_wall (x : Tiller) : (setTiller s n x).wall = s.wall := rfl
@[simp] theorem setTiller_ctb (x : Tiller) : (setTiller s n x).ctb = s.ctb := rfl
@[simp] theorem setTiller_ctbQuarter (x : Tiller) : (setTiller s n x).ctbQuarter = s.ctbQuarter := rfl
@[simp] theorem setTiller_stretch (x : Tiller) : (setTiller s n x).stretch = s.stretch := rfl
@[simp] theorem setTiller_globalTick (x : Tiller) : (setTiller s n x).globalTick = s.globalTick := rfl
@[simp] theorem setTiller_counting (x : Tiller) : (setTiller s n x).counting = s.counting := rfl
@[simp] theorem setTiller_epochStart (x : Tiller) : (setTiller s n x).epochStart = s.epochStart := rfl
@[simp] theorem setTiller_rootPct (x : Tiller) : (setTiller s n x).rootPct = s.rootPct := rfl
@[simp] theorem setTiller_boot (x : Tiller) : (setTiller s n x).boot = s.boot := rfl
@[simp] theorem setTiller_hl (x : Tiller) : (setTiller s n x).hl = s.hl := rfl
@[simp] theorem setTiller_hostMem (x : Tiller) : (setTiller s n x).hostMem = s.hostMem := rfl
@[simp] theorem setTiller_grg (x : Tiller) : (setTiller s n x).grg = s.grg := rfl
@[simp] theorem setTiller_tr (x : Tiller) : (setTiller s n x).tr = s.tr := rfl
@[simp] theorem setTiller_cache (x : Tiller) : (setTiller s n x).cache = s.cache := rfl
@[simp] theorem setTiller_mem (x : Tiller) : (setTiller s n x).mem = s.mem := rfl
@[simp] theorem setTiller_err (x : Tiller) : (setTiller s n x).err = s.err := rfl
@[simp] theorem setTiller_slots (x : Tiller) : (setTiller s n x).slots = s.slots := rfl
@[simp] theorem setTiller_units (x : Tiller) : (setTiller s n x).units = s.units := rfl
@[simp] theorem setTiller_sheaves (x : Tiller) : (setTiller s n x).sheaves = s.sheaves := rfl
@[simp] theorem setTiller_reds (x : Tiller) : (setTiller s n x).reds = s.reds := rfl
@[simp] theorem setTiller_wain (x : Tiller) : (setTiller s n x).wain = s.wain := rfl
@[simp] theorem setTiller_ep (x : Tiller) : (setTiller s n x).ep = s.ep := rfl
@[simp] theorem setTiller_crop (x : Tiller) : (setTiller s n x).crop = s.crop := rfl
@[simp] theorem setTiller_margin (x : Tiller) : (setTiller s n x).margin = s.margin := rfl
theorem getTiller_setTiller (x : Tiller) : getTiller (setTiller s n x) m = if m = n then x else getTiller s m := by
  unfold getTiller setTiller; exact look_put _ _ _ _ _
@[simp] theorem getTiller_setTiller_same (x : Tiller) : getTiller (setTiller s n x) n = x := by rw [getTiller_setTiller, if_pos rfl]
theorem getTiller_setTiller_ne {n m : Nat} (x : Tiller) (h : m ≠ n) : getTiller (setTiller s n x) m = getTiller s m := by rw [getTiller_setTiller, if_neg h]
@[simp] theorem setTiller_setTiller (x y : Tiller) : setTiller (setTiller s n x) n y = setTiller s n y := by
  simp [setTiller]
@[simp] theorem getWindrow_setTiller (x : Tiller) : getWindrow (setTiller s n x) m = getWindrow s m := rfl
@[simp] theorem getCtx_setTiller (x : Tiller) : getCtx (setTiller s n x) m = getCtx s m := rfl
@[simp] theorem getSlot_setTiller (x : Tiller) : getSlot (setTiller s n x) m = getSlot s m := rfl
@[simp] theorem getUnit_setTiller (x : Tiller) : getUnit (setTiller s n x) m = getUnit s m := rfl
@[simp] theorem getSheaf_setTiller (x : Tiller) : getSheaf (setTiller s n x) m = getSheaf s m := rfl
@[simp] theorem getLink_setTiller (x : Tiller) : getLink (setTiller s n x) m = getLink s m := rfl
@[simp] theorem getAtt_setTiller (x : Tiller) : getAtt (setTiller s n x) m = getAtt s m := rfl
@[simp] theorem getPort_setTiller (x : Tiller) : getPort (setTiller s n x) m = getPort s m := rfl

/-! ## setUnit -/

@[simp] theorem setUnit_pending (x : SubUnit) : (setUnit s n x).pending = s.pending := rfl
@[simp] theorem setUnit_out (x : SubUnit) : (setUnit s n x).out = s.out := rfl
@[simp] theorem setUnit_freeCtr (x : SubUnit) : (setUnit s n x).freeCtr = s.freeCtr := rfl
@[simp] theorem setUnit_tick (x : SubUnit) : (setUnit s n x).tick = s.tick := rfl
@[simp] theorem setUnit_wall (x : SubUnit) : (setUnit s n x).wall = s.wall := rfl
@[simp] theorem setUnit_ctb (x : SubUnit) : (setUnit s n x).ctb = s.ctb := rfl
@[simp] theorem setUnit_ctbQuarter (x : SubUnit) : (setUnit s n x).ctbQuarter = s.ctbQuarter := rfl
@[simp] theorem setUnit_stretch (x : SubUnit) : (setUnit s n x).stretch = s.stretch := rfl
@[simp] theorem setUnit_globalTick (x : SubUnit) : (setUnit s n x).globalTick = s.globalTick := rfl
@[simp] theorem setUnit_counting (x : SubUnit) : (setUnit s n x).counting = s.counting := rfl
@[simp] theorem setUnit_epochStart (x : SubUnit) : (setUnit s n x).epochStart = s.epochStart := rfl
@[simp] theorem setUnit_rootPct (x : SubUnit) : (setUnit s n x).rootPct = s.rootPct := rfl
@[simp] theorem setUnit_boot (x : SubUnit) : (setUnit s n x).boot = s.boot := rfl
@[simp] theorem setUnit_hl (x : SubUnit) : (setUnit s n x).hl = s.hl := rfl
@[simp] theorem setUnit_hostMem (x : SubUnit) : (setUnit s n x).hostMem = s.hostMem := rfl
@[simp] theorem setUnit_grg (x : SubUnit) : (setUnit s n x).grg = s.grg := rfl
@[simp] theorem setUnit_tr (x : SubUnit) : (setUnit s n x).tr = s.tr := rfl
@[simp] theorem setUnit_cache (x : SubUnit) : (setUnit s n x).cache = s.cache := rfl
@[simp] theorem setUnit_mem (x : SubUnit) : (setUnit s n x).mem = s.mem := rfl
@[simp] theorem setUnit_err (x : SubUnit) : (setUnit s n x).err = s.err := rfl
@[simp] theorem setUnit_slots (x : SubUnit) : (setUnit s n x).slots = s.slots := rfl
@[simp] theorem setUnit_tillers (x : SubUnit) : (setUnit s n x).tillers = s.tillers := rfl
@[simp] theorem setUnit_sheaves (x : SubUnit) : (setUnit s n x).sheaves = s.sheaves := rfl
@[simp] theorem setUnit_reds (x : SubUnit) : (setUnit s n x).reds = s.reds := rfl
@[simp] theorem setUnit_wain (x : SubUnit) : (setUnit s n x).wain = s.wain := rfl
@[simp] theorem setUnit_ep (x : SubUnit) : (setUnit s n x).ep = s.ep := rfl
@[simp] theorem setUnit_crop (x : SubUnit) : (setUnit s n x).crop = s.crop := rfl
@[simp] theorem setUnit_margin (x : SubUnit) : (setUnit s n x).margin = s.margin := rfl
theorem getUnit_setUnit (x : SubUnit) : getUnit (setUnit s n x) m = if m = n then x else getUnit s m := by
  unfold getUnit setUnit; exact look_put _ _ _ _ _
@[simp] theorem getUnit_setUnit_same (x : SubUnit) : getUnit (setUnit s n x) n = x := by rw [getUnit_setUnit, if_pos rfl]
theorem getUnit_setUnit_ne {n m : Nat} (x : SubUnit) (h : m ≠ n) : getUnit (setUnit s n x) m = getUnit s m := by rw [getUnit_setUnit, if_neg h]
@[simp] theorem setUnit_setUnit (x y : SubUnit) : setUnit (setUnit s n x) n y = setUnit s n y := by
  simp [setUnit]
@[simp] theorem getWindrow_setUnit (x : SubUnit) : getWindrow (setUnit s n x) m = getWindrow s m := rfl
@[simp] theorem getCtx_setUnit (x : SubUnit) : getCtx (setUnit s n x) m = getCtx s m := rfl
@[simp] theorem getSlot_setUnit (x : SubUnit) : getSlot (setUnit s n x) m = getSlot s m := rfl
@[simp] theorem getTiller_setUnit (x : SubUnit) : getTiller (setUnit s n x) m = getTiller s m := rfl
@[simp] theorem getSheaf_setUnit (x : SubUnit) : getSheaf (setUnit s n x) m = getSheaf s m := rfl
@[simp] theorem getLink_setUnit (x : SubUnit) : getLink (setUnit s n x) m = getLink s m := rfl
@[simp] theorem getAtt_setUnit (x : SubUnit) : getAtt (setUnit s n x) m = getAtt s m := rfl
@[simp] theorem getPort_setUnit (x : SubUnit) : getPort (setUnit s n x) m = getPort s m := rfl

/-! ## setSheaf -/

@[simp] theorem setSheaf_pending (x : Sheaf) : (setSheaf s n x).pending = s.pending := rfl
@[simp] theorem setSheaf_out (x : Sheaf) : (setSheaf s n x).out = s.out := rfl
@[simp] theorem setSheaf_freeCtr (x : Sheaf) : (setSheaf s n x).freeCtr = s.freeCtr := rfl
@[simp] theorem setSheaf_tick (x : Sheaf) : (setSheaf s n x).tick = s.tick := rfl
@[simp] theorem setSheaf_wall (x : Sheaf) : (setSheaf s n x).wall = s.wall := rfl
@[simp] theorem setSheaf_ctb (x : Sheaf) : (setSheaf s n x).ctb = s.ctb := rfl
@[simp] theorem setSheaf_ctbQuarter (x : Sheaf) : (setSheaf s n x).ctbQuarter = s.ctbQuarter := rfl
@[simp] theorem setSheaf_stretch (x : Sheaf) : (setSheaf s n x).stretch = s.stretch := rfl
@[simp] theorem setSheaf_globalTick (x : Sheaf) : (setSheaf s n x).globalTick = s.globalTick := rfl
@[simp] theorem setSheaf_counting (x : Sheaf) : (setSheaf s n x).counting = s.counting := rfl
@[simp] theorem setSheaf_epochStart (x : Sheaf) : (setSheaf s n x).epochStart = s.epochStart := rfl
@[simp] theorem setSheaf_rootPct (x : Sheaf) : (setSheaf s n x).rootPct = s.rootPct := rfl
@[simp] theorem setSheaf_boot (x : Sheaf) : (setSheaf s n x).boot = s.boot := rfl
@[simp] theorem setSheaf_hl (x : Sheaf) : (setSheaf s n x).hl = s.hl := rfl
@[simp] theorem setSheaf_hostMem (x : Sheaf) : (setSheaf s n x).hostMem = s.hostMem := rfl
@[simp] theorem setSheaf_grg (x : Sheaf) : (setSheaf s n x).grg = s.grg := rfl
@[simp] theorem setSheaf_tr (x : Sheaf) : (setSheaf s n x).tr = s.tr := rfl
@[simp] theorem setSheaf_cache (x : Sheaf) : (setSheaf s n x).cache = s.cache := rfl
@[simp] theorem setSheaf_mem (x : Sheaf) : (setSheaf s n x).mem = s.mem := rfl
@[simp] theorem setSheaf_err (x : Sheaf) : (setSheaf s n x).err = s.err := rfl
@[simp] theorem setSheaf_slots (x : Sheaf) : (setSheaf s n x).slots = s.slots := rfl
@[simp] theorem setSheaf_tillers (x : Sheaf) : (setSheaf s n x).tillers = s.tillers := rfl
@[simp] theorem setSheaf_units (x : Sheaf) : (setSheaf s n x).units = s.units := rfl
@[simp] theorem setSheaf_reds (x : Sheaf) : (setSheaf s n x).reds = s.reds := rfl
@[simp] theorem setSheaf_wain (x : Sheaf) : (setSheaf s n x).wain = s.wain := rfl
@[simp] theorem setSheaf_ep (x : Sheaf) : (setSheaf s n x).ep = s.ep := rfl
@[simp] theorem setSheaf_crop (x : Sheaf) : (setSheaf s n x).crop = s.crop := rfl
@[simp] theorem setSheaf_margin (x : Sheaf) : (setSheaf s n x).margin = s.margin := rfl
theorem getSheaf_setSheaf (x : Sheaf) : getSheaf (setSheaf s n x) m = if m = n then x else getSheaf s m := by
  unfold getSheaf setSheaf; exact look_put _ _ _ _ _
@[simp] theorem getSheaf_setSheaf_same (x : Sheaf) : getSheaf (setSheaf s n x) n = x := by rw [getSheaf_setSheaf, if_pos rfl]
theorem getSheaf_setSheaf_ne {n m : Nat} (x : Sheaf) (h : m ≠ n) : getSheaf (setSheaf s n x) m = getSheaf s m := by rw [getSheaf_setSheaf, if_neg h]
@[simp] theorem setSheaf_setSheaf (x y : Sheaf) : setSheaf (setSheaf s n x) n y = setSheaf s n y := by
  simp [setSheaf]
@[simp] theorem getWindrow_setSheaf (x : Sheaf) : getWindrow (setSheaf s n x) m = getWindrow s m := rfl
@[simp] theorem getCtx_setSheaf (x : Sheaf) : getCtx (setSheaf s n x) m = getCtx s m := rfl
@[simp] theorem getSlot_setSheaf (x : Sheaf) : getSlot (setSheaf s n x) m = getSlot s m := rfl
@[simp] theorem getTiller_setSheaf (x : Sheaf) : getTiller (setSheaf s n x) m = getTiller s m := rfl
@[simp] theorem getUnit_setSheaf (x : Sheaf) : getUnit (setSheaf s n x) m = getUnit s m := rfl
@[simp] theorem getLink_setSheaf (x : Sheaf) : getLink (setSheaf s n x) m = getLink s m := rfl
@[simp] theorem getAtt_setSheaf (x : Sheaf) : getAtt (setSheaf s n x) m = getAtt s m := rfl
@[simp] theorem getPort_setSheaf (x : Sheaf) : getPort (setSheaf s n x) m = getPort s m := rfl

/-! ## setLink -/

@[simp] theorem setLink_pending (x : WainLink) : (setLink s n x).pending = s.pending := rfl
@[simp] theorem setLink_out (x : WainLink) : (setLink s n x).out = s.out := rfl
@[simp] theorem setLink_freeCtr (x : WainLink) : (setLink s n x).freeCtr = s.freeCtr := rfl
@[simp] theorem setLink_tick (x : WainLink) : (setLink s n x).tick = s.tick := rfl
@[simp] theorem setLink_wall (x : WainLink) : (setLink s n x).wall = s.wall := rfl
@[simp] theorem setLink_ctb (x : WainLink) : (setLink s n x).ctb = s.ctb := rfl
@[simp] theorem setLink_ctbQuarter (x : WainLink) : (setLink s n x).ctbQuarter = s.ctbQuarter := rfl
@[simp] theorem setLink_stretch (x : WainLink) : (setLink s n x).stretch = s.stretch := rfl
@[simp] theorem setLink_globalTick (x : WainLink) : (setLink s n x).globalTick = s.globalTick := rfl
@[simp] theorem setLink_counting (x : WainLink) : (setLink s n x).counting = s.counting := rfl
@[simp] theorem setLink_epochStart (x : WainLink) : (setLink s n x).epochStart = s.epochStart := rfl
@[simp] theorem setLink_rootPct (x : WainLink) : (setLink s n x).rootPct = s.rootPct := rfl
@[simp] theorem setLink_boot (x : WainLink) : (setLink s n x).boot = s.boot := rfl
@[simp] theorem setLink_hl (x : WainLink) : (setLink s n x).hl = s.hl := rfl
@[simp] theorem setLink_hostMem (x : WainLink) : (setLink s n x).hostMem = s.hostMem := rfl
@[simp] theorem setLink_grg (x : WainLink) : (setLink s n x).grg = s.grg := rfl
@[simp] theorem setLink_tr (x : WainLink) : (setLink s n x).tr = s.tr := rfl
@[simp] theorem setLink_cache (x : WainLink) : (setLink s n x).cache = s.cache := rfl
@[simp] theorem setLink_mem (x : WainLink) : (setLink s n x).mem = s.mem := rfl
@[simp] theorem setLink_err (x : WainLink) : (setLink s n x).err = s.err := rfl
@[simp] theorem setLink_slots (x : WainLink) : (setLink s n x).slots = s.slots := rfl
@[simp] theorem setLink_tillers (x : WainLink) : (setLink s n x).tillers = s.tillers := rfl
@[simp] theorem setLink_units (x : WainLink) : (setLink s n x).units = s.units := rfl
@[simp] theorem setLink_sheaves (x : WainLink) : (setLink s n x).sheaves = s.sheaves := rfl
@[simp] theorem setLink_reds (x : WainLink) : (setLink s n x).reds = s.reds := rfl
@[simp] theorem setLink_ep (x : WainLink) : (setLink s n x).ep = s.ep := rfl
@[simp] theorem setLink_crop (x : WainLink) : (setLink s n x).crop = s.crop := rfl
@[simp] theorem setLink_margin (x : WainLink) : (setLink s n x).margin = s.margin := rfl
theorem getLink_setLink (x : WainLink) : getLink (setLink s n x) m = if m = n then x else getLink s m := by
  unfold getLink setLink; exact look_put _ _ _ _ _
@[simp] theorem getLink_setLink_same (x : WainLink) : getLink (setLink s n x) n = x := by rw [getLink_setLink, if_pos rfl]
theorem getLink_setLink_ne {n m : Nat} (x : WainLink) (h : m ≠ n) : getLink (setLink s n x) m = getLink s m := by rw [getLink_setLink, if_neg h]
@[simp] theorem setLink_setLink (x y : WainLink) : setLink (setLink s n x) n y = setLink s n y := by
  simp [setLink]
@[simp] theorem getWindrow_setLink (x : WainLink) : getWindrow (setLink s n x) m = getWindrow s m := rfl
@[simp] theorem getCtx_setLink (x : WainLink) : getCtx (setLink s n x) m = getCtx s m := rfl
@[simp] theorem getSlot_setLink (x : WainLink) : getSlot (setLink s n x) m = getSlot s m := rfl
@[simp] theorem getTiller_setLink (x : WainLink) : getTiller (setLink s n x) m = getTiller s m := rfl
@[simp] theorem getUnit_setLink (x : WainLink) : getUnit (setLink s n x) m = getUnit s m := rfl
@[simp] theorem getSheaf_setLink (x : WainLink) : getSheaf (setLink s n x) m = getSheaf s m := rfl
@[simp] theorem getAtt_setLink (x : WainLink) : getAtt (setLink s n x) m = getAtt s m := rfl
@[simp] theorem getPort_setLink (x : WainLink) : getPort (setLink s n x) m = getPort s m := rfl

/-! ## setAtt -/

@[simp] theorem setAtt_pending (x : Attach) : (setAtt s n x).pending = s.pending := rfl
@[simp] theorem setAtt_out (x : Attach) : (setAtt s n x).out = s.out := rfl
@[simp] theorem setAtt_freeCtr (x : Attach) : (setAtt s n x).freeCtr = s.freeCtr := rfl
@[simp] theorem setAtt_tick (x : Attach) : (setAtt s n x).tick = s.tick := rfl
@[simp] theorem setAtt_wall (x : Attach) : (setAtt s n x).wall = s.wall := rfl
@[simp] theorem setAtt_ctb (x : Attach) : (setAtt s n x).ctb = s.ctb := rfl
@[simp] theorem setAtt_ctbQuarter (x : Attach) : (setAtt s n x).ctbQuarter = s.ctbQuarter := rfl
@[simp] theorem setAtt_stretch (x : Attach) : (setAtt s n x).stretch = s.stretch := rfl
@[simp] theorem setAtt_globalTick (x : Attach) : (setAtt s n x).globalTick = s.globalTick := rfl
@[simp] theorem setAtt_counting (x : Attach) : (setAtt s n x).counting = s.counting := rfl
@[simp] theorem setAtt_epochStart (x : Attach) : (setAtt s n x).epochStart = s.epochStart := rfl
@[simp] theorem setAtt_rootPct (x : Attach) : (setAtt s n x).rootPct = s.rootPct := rfl
@[simp] theorem setAtt_boot (x : Attach) : (setAtt s n x).boot = s.boot := rfl
@[simp] theorem setAtt_hl (x : Attach) : (setAtt s n x).hl = s.hl := rfl
@[simp] theorem setAtt_hostMem (x : Attach) : (setAtt s n x).hostMem = s.hostMem := rfl
@[simp] theorem setAtt_grg (x : Attach) : (setAtt s n x).grg = s.grg := rfl
@[simp] theorem setAtt_tr (x : Attach) : (setAtt s n x).tr = s.tr := rfl
@[simp] theorem setAtt_cache (x : Attach) : (setAtt s n x).cache = s.cache := rfl
@[simp] theorem setAtt_mem (x : Attach) : (setAtt s n x).mem = s.mem := rfl
@[simp] theorem setAtt_err (x : Attach) : (setAtt s n x).err = s.err := rfl
@[simp] theorem setAtt_slots (x : Attach) : (setAtt s n x).slots = s.slots := rfl
@[simp] theorem setAtt_tillers (x : Attach) : (setAtt s n x).tillers = s.tillers := rfl
@[simp] theorem setAtt_units (x : Attach) : (setAtt s n x).units = s.units := rfl
@[simp] theorem setAtt_sheaves (x : Attach) : (setAtt s n x).sheaves = s.sheaves := rfl
@[simp] theorem setAtt_reds (x : Attach) : (setAtt s n x).reds = s.reds := rfl
@[simp] theorem setAtt_wain (x : Attach) : (setAtt s n x).wain = s.wain := rfl
@[simp] theorem setAtt_crop (x : Attach) : (setAtt s n x).crop = s.crop := rfl
@[simp] theorem setAtt_margin (x : Attach) : (setAtt s n x).margin = s.margin := rfl
theorem getAtt_setAtt (x : Attach) : getAtt (setAtt s n x) m = if m = n then x else getAtt s m := by
  unfold getAtt setAtt; exact look_put _ _ _ _ _
@[simp] theorem getAtt_setAtt_same (x : Attach) : getAtt (setAtt s n x) n = x := by rw [getAtt_setAtt, if_pos rfl]
theorem getAtt_setAtt_ne {n m : Nat} (x : Attach) (h : m ≠ n) : getAtt (setAtt s n x) m = getAtt s m := by rw [getAtt_setAtt, if_neg h]
@[simp] theorem setAtt_setAtt (x y : Attach) : setAtt (setAtt s n x) n y = setAtt s n y := by
  simp [setAtt]
@[simp] theorem getWindrow_setAtt (x : Attach) : getWindrow (setAtt s n x) m = getWindrow s m := rfl
@[simp] theorem getCtx_setAtt (x : Attach) : getCtx (setAtt s n x) m = getCtx s m := rfl
@[simp] theorem getSlot_setAtt (x : Attach) : getSlot (setAtt s n x) m = getSlot s m := rfl
@[simp] theorem getTiller_setAtt (x : Attach) : getTiller (setAtt s n x) m = getTiller s m := rfl
@[simp] theorem getUnit_setAtt (x : Attach) : getUnit (setAtt s n x) m = getUnit s m := rfl
@[simp] theorem getSheaf_setAtt (x : Attach) : getSheaf (setAtt s n x) m = getSheaf s m := rfl
@[simp] theorem getLink_setAtt (x : Attach) : getLink (setAtt s n x) m = getLink s m := rfl
@[simp] theorem getPort_setAtt (x : Attach) : getPort (setAtt s n x) m = getPort s m := rfl

/-! ## setPort -/

@[simp] theorem setPort_pending (x : Port) : (setPort s n x).pending = s.pending := rfl
@[simp] theorem setPort_out (x : Port) : (setPort s n x).out = s.out := rfl
@[simp] theorem setPort_freeCtr (x : Port) : (setPort s n x).freeCtr = s.freeCtr := rfl
@[simp] theorem setPort_tick (x : Port) : (setPort s n x).tick = s.tick := rfl
@[simp] theorem setPort_wall (x : Port) : (setPort s n x).wall = s.wall := rfl
@[simp] theorem setPort_ctb (x : Port) : (setPort s n x).ctb = s.ctb := rfl
@[simp] theorem setPort_ctbQuarter (x : Port) : (setPort s n x).ctbQuarter = s.ctbQuarter := rfl
@[simp] theorem setPort_stretch (x : Port) : (setPort s n x).stretch = s.stretch := rfl
@[simp] theorem setPort_globalTick (x : Port) : (setPort s n x).globalTick = s.globalTick := rfl
@[simp] theorem setPort_counting (x : Port) : (setPort s n x).counting = s.counting := rfl
@[simp] theorem setPort_epochStart (x : Port) : (setPort s n x).epochStart = s.epochStart := rfl
@[simp] theorem setPort_rootPct (x : Port) : (setPort s n x).rootPct = s.rootPct := rfl
@[simp] theorem setPort_boot (x : Port) : (setPort s n x).boot = s.boot := rfl
@[simp] theorem setPort_hl (x : Port) : (setPort s n x).hl = s.hl := rfl
@[simp] theorem setPort_hostMem (x : Port) : (setPort s n x).hostMem = s.hostMem := rfl
@[simp] theorem setPort_grg (x : Port) : (setPort s n x).grg = s.grg := rfl
@[simp] theorem setPort_tr (x : Port) : (setPort s n x).tr = s.tr := rfl
@[simp] theorem setPort_cache (x : Port) : (setPort s n x).cache = s.cache := rfl
@[simp] theorem setPort_err (x : Port) : (setPort s n x).err = s.err := rfl
@[simp] theorem setPort_slots (x : Port) : (setPort s n x).slots = s.slots := rfl
@[simp] theorem setPort_tillers (x : Port) : (setPort s n x).tillers = s.tillers := rfl
@[simp] theorem setPort_units (x : Port) : (setPort s n x).units = s.units := rfl
@[simp] theorem setPort_sheaves (x : Port) : (setPort s n x).sheaves = s.sheaves := rfl
@[simp] theorem setPort_reds (x : Port) : (setPort s n x).reds = s.reds := rfl
@[simp] theorem setPort_wain (x : Port) : (setPort s n x).wain = s.wain := rfl
@[simp] theorem setPort_ep (x : Port) : (setPort s n x).ep = s.ep := rfl
@[simp] theorem setPort_crop (x : Port) : (setPort s n x).crop = s.crop := rfl
@[simp] theorem setPort_margin (x : Port) : (setPort s n x).margin = s.margin := rfl
theorem getPort_setPort (x : Port) : getPort (setPort s n x) m = if m = n then x else getPort s m := by
  unfold getPort setPort; exact look_put _ _ _ _ _
@[simp] theorem getPort_setPort_same (x : Port) : getPort (setPort s n x) n = x := by rw [getPort_setPort, if_pos rfl]
theorem getPort_setPort_ne {n m : Nat} (x : Port) (h : m ≠ n) : getPort (setPort s n x) m = getPort s m := by rw [getPort_setPort, if_neg h]
@[simp] theorem setPort_setPort (x y : Port) : setPort (setPort s n x) n y = setPort s n y := by
  simp [setPort]
@[simp] theorem getWindrow_setPort (x : Port) : getWindrow (setPort s n x) m = getWindrow s m := rfl
@[simp] theorem getCtx_setPort (x : Port) : getCtx (setPort s n x) m = getCtx s m := rfl
@[simp] theorem getSlot_setPort (x : Port) : getSlot (setPort s n x) m = getSlot s m := rfl
@[simp] theorem getTiller_setPort (x : Port) : getTiller (setPort s n x) m = getTiller s m := rfl
@[simp] theorem getUnit_setPort (x : Port) : getUnit (setPort s n x) m = getUnit s m := rfl
@[simp] theorem getSheaf_setPort (x : Port) : getSheaf (setPort s n x) m = getSheaf s m := rfl
@[simp] theorem getLink_setPort (x : Port) : getLink (setPort s n x) m = getLink s m := rfl
@[simp] theorem getAtt_setPort (x : Port) : getAtt (setPort s n x) m = getAtt s m := rfl

/-! ## emit -/

@[simp] theorem emit_pending (o : Out) : (emit s o).pending = s.pending := rfl
@[simp] theorem emitAll_pending (os : List Out) : (emitAll s os).pending = s.pending := rfl
@[simp] theorem emit_freeCtr (o : Out) : (emit s o).freeCtr = s.freeCtr := rfl
@[simp] theorem emitAll_freeCtr (os : List Out) : (emitAll s os).freeCtr = s.freeCtr := rfl
@[simp] theorem emit_tick (o : Out) : (emit s o).tick = s.tick := rfl
@[simp] theorem emitAll_tick (os : List Out) : (emitAll s os).tick = s.tick := rfl
@[simp] theorem emit_wall (o : Out) : (emit s o).wall = s.wall := rfl
@[simp] theorem emitAll_wall (os : List Out) : (emitAll s os).wall = s.wall := rfl
@[simp] theorem emit_ctb (o : Out) : (emit s o).ctb = s.ctb := rfl
@[simp] theorem emitAll_ctb (os : List Out) : (emitAll s os).ctb = s.ctb := rfl
@[simp] theorem emit_ctbQuarter (o : Out) : (emit s o).ctbQuarter = s.ctbQuarter := rfl
@[simp] theorem emitAll_ctbQuarter (os : List Out) : (emitAll s os).ctbQuarter = s.ctbQuarter := rfl
@[simp] theorem emit_stretch (o : Out) : (emit s o).stretch = s.stretch := rfl
@[simp] theorem emitAll_stretch (os : List Out) : (emitAll s os).stretch = s.stretch := rfl
@[simp] theorem emit_globalTick (o : Out) : (emit s o).globalTick = s.globalTick := rfl
@[simp] theorem emitAll_globalTick (os : List Out) : (emitAll s os).globalTick = s.globalTick := rfl
@[simp] theorem emit_counting (o : Out) : (emit s o).counting = s.counting := rfl
@[simp] theorem emitAll_counting (os : List Out) : (emitAll s os).counting = s.counting := rfl
@[simp] theorem emit_epochStart (o : Out) : (emit s o).epochStart = s.epochStart := rfl
@[simp] theorem emitAll_epochStart (os : List Out) : (emitAll s os).epochStart = s.epochStart := rfl
@[simp] theorem emit_rootPct (o : Out) : (emit s o).rootPct = s.rootPct := rfl
@[simp] theorem emitAll_rootPct (os : List Out) : (emitAll s os).rootPct = s.rootPct := rfl
@[simp] theorem emit_boot (o : Out) : (emit s o).boot = s.boot := rfl
@[simp] theorem emitAll_boot (os : List Out) : (emitAll s os).boot = s.boot := rfl
@[simp] theorem emit_hl (o : Out) : (emit s o).hl = s.hl := rfl
@[simp] theorem emitAll_hl (os : List Out) : (emitAll s os).hl = s.hl := rfl
@[simp] theorem emit_hostMem (o : Out) : (emit s o).hostMem = s.hostMem := rfl
@[simp] theorem emitAll_hostMem (os : List Out) : (emitAll s os).hostMem = s.hostMem := rfl
@[simp] theorem emit_grg (o : Out) : (emit s o).grg = s.grg := rfl
@[simp] theorem emitAll_grg (os : List Out) : (emitAll s os).grg = s.grg := rfl
@[simp] theorem emit_tr (o : Out) : (emit s o).tr = s.tr := rfl
@[simp] theorem emitAll_tr (os : List Out) : (emitAll s os).tr = s.tr := rfl
@[simp] theorem emit_cache (o : Out) : (emit s o).cache = s.cache := rfl
@[simp] theorem emitAll_cache (os : List Out) : (emitAll s os).cache = s.cache := rfl
@[simp] theorem emit_mem (o : Out) : (emit s o).mem = s.mem := rfl
@[simp] theorem emitAll_mem (os : List Out) : (emitAll s os).mem = s.mem := rfl
@[simp] theorem emit_err (o : Out) : (emit s o).err = s.err := rfl
@[simp] theorem emitAll_err (os : List Out) : (emitAll s os).err = s.err := rfl
@[simp] theorem emit_slots (o : Out) : (emit s o).slots = s.slots := rfl
@[simp] theorem emitAll_slots (os : List Out) : (emitAll s os).slots = s.slots := rfl
@[simp] theorem emit_tillers (o : Out) : (emit s o).tillers = s.tillers := rfl
@[simp] theorem emitAll_tillers (os : List Out) : (emitAll s os).tillers = s.tillers := rfl
@[simp] theorem emit_units (o : Out) : (emit s o).units = s.units := rfl
@[simp] theorem emitAll_units (os : List Out) : (emitAll s os).units = s.units := rfl
@[simp] theorem emit_sheaves (o : Out) : (emit s o).sheaves = s.sheaves := rfl
@[simp] theorem emitAll_sheaves (os : List Out) : (emitAll s os).sheaves = s.sheaves := rfl
@[simp] theorem emit_reds (o : Out) : (emit s o).reds = s.reds := rfl
@[simp] theorem emitAll_reds (os : List Out) : (emitAll s os).reds = s.reds := rfl
@[simp] theorem emit_wain (o : Out) : (emit s o).wain = s.wain := rfl
@[simp] theorem emitAll_wain (os : List Out) : (emitAll s os).wain = s.wain := rfl
@[simp] theorem emit_ep (o : Out) : (emit s o).ep = s.ep := rfl
@[simp] theorem emitAll_ep (os : List Out) : (emitAll s os).ep = s.ep := rfl
@[simp] theorem emit_crop (o : Out) : (emit s o).crop = s.crop := rfl
@[simp] theorem emitAll_crop (os : List Out) : (emitAll s os).crop = s.crop := rfl
@[simp] theorem emit_margin (o : Out) : (emit s o).margin = s.margin := rfl
@[simp] theorem emitAll_margin (os : List Out) : (emitAll s os).margin = s.margin := rfl
@[simp] theorem emit_out (o : Out) : (emit s o).out = s.out ++ [o] := rfl
@[simp] theorem emitAll_out (os : List Out) : (emitAll s os).out = s.out ++ os := rfl
@[simp] theorem getWindrow_emit (o : Out) : getWindrow (emit s o) m = getWindrow s m := rfl
@[simp] theorem getCtx_emit (o : Out) : getCtx (emit s o) m = getCtx s m := rfl
@[simp] theorem getSlot_emit (o : Out) : getSlot (emit s o) m = getSlot s m := rfl
@[simp] theorem getTiller_emit (o : Out) : getTiller (emit s o) m = getTiller s m := rfl
@[simp] theorem getUnit_emit (o : Out) : getUnit (emit s o) m = getUnit s m := rfl
@[simp] theorem getSheaf_emit (o : Out) : getSheaf (emit s o) m = getSheaf s m := rfl
@[simp] theorem getLink_emit (o : Out) : getLink (emit s o) m = getLink s m := rfl
@[simp] theorem getAtt_emit (o : Out) : getAtt (emit s o) m = getAtt s m := rfl
@[simp] theorem getPort_emit (o : Out) : getPort (emit s o) m = getPort s m := rfl

end Sys2Proof.Machine
end

