-- ==== Sys2Proof/Laws/Granger.lean ====
section
/-!
SUPPORT. What every Granger command shares: an admitted command runs its body, and a completion leaves exactly one answered reply.
-/
namespace Sys2Proof.Machine

/-- A completion answers its command and changes its Windrow only. -/
theorem complete_answered (s : State) (h : CmdHdr) (st : Byte) (d : W32) (fl : Byte) : Answered s (complete s h st d fl) h st d := by
  refine ⟨rfl, ?_, ?_, ?_⟩
  · intro w hw; exact getWindrow_setWindrow_ne _ _ hw
  · refine ⟨⟨h.seq, d, replyTime (dropOnce s (.command h.windrow h.seq)) (startOf (dropOnce s (.command h.windrow h.seq)) h.windrow h.seq), st, fl, 0, _⟩,
      congrArg Windrow.replies (getWindrow_setWindrow_same _ _ _), rfl, rfl, rfl, rfl, ?_⟩
    intro hn
    have : (getWindrow s h.windrow).inprog.find? (fun p => p.seq == h.seq) = none := by
      rw [List.find?_eq_none]; intro p hp; simpa using hn p hp
    simp only [show getWindrow (dropOnce s (.command h.windrow h.seq)) h.windrow = getWindrow s h.windrow from rfl, this]
  · intro p hp
    have e : (getWindrow (complete s h st d fl) h.windrow).inprog = (getWindrow s h.windrow).inprog.filter (fun p => p.seq != h.seq) :=
      congrArg Windrow.inprog (getWindrow_setWindrow_same _ _ _)
    rw [e] at hp
    simpa using (List.mem_filter.1 hp).2

/-- An admitted command without a reserved field runs its body. -/
theorem command_admitted {s : State} {h : CmdHdr} {priv skip : Bool} (body : State → State) (ha : Admitted s h priv skip) :
    command s h priv skip false body = .next (body s) := by
  have hc : packetCheck s h priv skip = none := by
    unfold packetCheck
    have h1 : (priv && !bitOf (getWindrow s h.windrow).cfg 2) = false := by
      cases hp : priv
      · rfl
      · simp [ha.priv hp]
    have h2 : (bitOf (getWindrow s h.windrow).cfg 3 && field (getWindrow s h.windrow).cfg 51 32 != h.context.toNat) = false := by
      cases hb : bitOf (getWindrow s h.windrow).cfg 3
      · rfl
      · simp [ha.lock hb]
    have h3 : (!skip && (getCtx s h.context.toNat).state == .unbound) = false := by
      cases hk : skip
      · simpa using ha.bound hk
      · rfl
    have h4 := ha.context
    simp [h1, h2, h3]; simpa using h4
  simp [command, ha.up, hc]

/-- A command whose conditions all hold acts. -/
@[simp] theorem guardCodes_nil (s : State) (h : CmdHdr) (act : State → State) : guardCodes s h [] act = act s := rfl
@[simp] theorem guardCodes_ok (s : State) (h : CmdHdr) (c : Nat) (rest : List (Bool × Nat)) (act : State → State) :
    guardCodes s h ((false, c) :: rest) act = guardCodes s h rest act := rfl
@[simp] theorem guardCodes_bad (s : State) (h : CmdHdr) (c : Nat) (rest : List (Bool × Nat)) (act : State → State) :
    guardCodes s h ((true, c) :: rest) act = badPacket s h c := rfl

end Sys2Proof.Machine
end

