-- ==== Sys2Proof/Laws/Keeps.lean ====
section
/-!
SUPPORT. What every operation keeps (the queue, the canonical form of the stores, the legal values of the configuration registers):
one state keeps what another has, the rules that carry it through updates and folds, and the operations of Ops.
-/
namespace Sys2Proof.Machine

section

set_option linter.all false

/-- Of two states, the second has the first's queue, canonical stores where the first has them, and legal configuration registers where the
first has them. -/
structure Keeps (s t : State) : Prop where
  pending : t.pending = s.pending
  wf : MemWf s → MemWf t
  cfg : CfgWf s → CfgWf t

theorem Keeps.refl (s : State) : Keeps s s := ⟨rfl, id, id⟩

theorem Keeps.upd {s0 t : State} {out freeCtr tick wall ctb ctbQuarter stretch globalTick counting epochStart rootPct boot hl hostMem grg tr cache
    mem err slots tillers units sheaves reds wain ep crop margin} (h : Keeps s0 t)
    (wr : t.mem.ram.wf = true → mem.ram.wf = true) (wl : t.cache.loft.wf = true → cache.loft.wf = true) (wh : t.hostMem.wf = true → hostMem.wf = true)
    (c1 : hlCfgOk t.hl.cfg → hlCfgOk hl.cfg) (c2 : trCfgOk t.tr.cfg → trCfgOk tr.cfg) (c3 : cacheCfgOk t.cache.cfg → cacheCfgOk cache.cfg)
    (c4 : cohCfgOk t.cache.cohCfg → cohCfgOk cache.cohCfg) (c5 : gleanCfgOk t.mem.gleanCfg → gleanCfgOk mem.gleanCfg)
    (c6 : wainCfgOk t.wain.cfg → wainCfgOk wain.cfg) :
    Keeps s0 (State.mk t.pending out freeCtr tick wall ctb ctbQuarter stretch globalTick counting epochStart rootPct boot hl hostMem grg tr cache
      mem err slots tillers units sheaves reds wain ep crop margin) :=
  ⟨h.pending, fun hw => let g := h.wf hw; ⟨wr g.1, wl g.2.1, wh g.2.2⟩,
    fun hc => let g := h.cfg hc; ⟨c1 g.hl, c2 g.tr, c3 g.cache, c4 g.coh, c5 g.glean, c6 g.wain⟩⟩

theorem Keeps.foldl {α : Type} {s0 s : State} {g : State → α → State} {l : List α} (h : ∀ a x, Keeps s0 a → Keeps s0 (g a x)) (hs : Keeps s0 s) :
    Keeps s0 (l.foldl g s) := by
  induction l generalizing s with
  | nil => exact hs
  | cons x l ih => exact ih (h s x hs)

theorem Keeps.fold1 {α β : Type} {s0 : State} {s : State × β} {g : State × β → α → State × β} {l : List α} (h : ∀ a x, Keeps s0 a.1 → Keeps s0 (g a x).1) (hs : Keeps s0 s.1) :
    Keeps s0 (l.foldl g s).1 := by
  induction l generalizing s with
  | nil => exact hs
  | cons x l ih => exact ih (h s x hs)

theorem Keeps.fold2 {α β : Type} {s0 : State} {s : β × State} {g : β × State → α → β × State} {l : List α} (h : ∀ a x, Keeps s0 a.2 → Keeps s0 (g a x).2) (hs : Keeps s0 s.2) :
    Keeps s0 (l.foldl g s).2 := by
  induction l generalizing s with
  | nil => exact hs
  | cons x l ih => exact ih (h s x hs)

theorem Keeps.fold3 {α β γ : Type} {s0 : State} {s : β × γ × State} {g : β × γ × State → α → β × γ × State} {l : List α} (h : ∀ a x, Keeps s0 a.2.2 → Keeps s0 (g a x).2.2) (hs : Keeps s0 s.2.2) :
    Keeps s0 (l.foldl g s).2.2 := by
  induction l generalizing s with
  | nil => exact hs
  | cons x l ih => exact ih (h s x hs)

theorem Keeps.pair2 {s0 : State} {α : Type} {x : α × State} {a : α} {t : State} (h : x = (a, t)) (hk : Keeps s0 x.2) : Keeps s0 t := by rw [h] at hk; exact hk

theorem Keeps.pair1 {s0 : State} {α : Type} {x : State × α} {a : α} {t : State} (h : x = (t, a)) (hk : Keeps s0 x.1) : Keeps s0 t := by rw [h] at hk; exact hk

theorem Keeps.pair3 {s0 : State} {α β : Type} {x : α × β × State} {a : α} {b : β} {t : State} (h : x = (a, b, t)) (hk : Keeps s0 x.2.2) : Keeps s0 t := by rw [h] at hk; exact hk

structure KeepsO (s : State) (o : Host.Outcome State Fault Refusal) : Prop where
  keeps : ∀ t, o = .next t → Keeps s t

theorem KeepsO.next {s t : State} (h : Keeps s t) : KeepsO s (.next t) := ⟨fun u hu => by injection hu with hu; rw [← hu]; exact h⟩

theorem Keeps.ite {s0 a b : State} {c : Prop} [Decidable c] (h1 : Keeps s0 a) (h2 : Keeps s0 b) : Keeps s0 (if c then a else b) := by
  split
  · exact h1
  · exact h2

theorem KeepsO.ite {s0 : State} {a b : Host.Outcome State Fault Refusal} {c : Prop} [Decidable c] (h1 : KeepsO s0 a) (h2 : KeepsO s0 b) : KeepsO s0 (if c then a else b) := by
  split
  · exact h1
  · exact h2

structure KeepsM (s : State) (o : Option State) : Prop where
  keeps : ∀ t, o = .some t → Keeps s t

theorem KeepsM.some {s t : State} (h : Keeps s t) : KeepsM s (.some t) := ⟨fun u hu => by injection hu with hu; rw [← hu]; exact h⟩

theorem KeepsM.none {s : State} : KeepsM s .none := ⟨fun u hu => nomatch hu⟩

theorem KeepsM.of {s t : State} {o : Option State} (h : o = .some t) (k : KeepsM s o) : Keeps s t := k.keeps t h

theorem KeepsM.ite {s0 : State} {a b : Option State} {c : Prop} [Decidable c] (h1 : KeepsM s0 a) (h2 : KeepsM s0 b) : KeepsM s0 (if c then a else b) := by
  split
  · exact h1
  · exact h2

theorem Keeps.pairM {s0 t u : State} {x : Option State × State} (h : x = (some t, u)) (hk : KeepsM s0 x.1) : Keeps s0 t := by rw [h] at hk; exact hk.keeps t rfl

theorem Keeps.getD {s0 : State} {o : Option State} {d : State} (h1 : KeepsM s0 o) (h2 : Keeps s0 d) : Keeps s0 (o.getD d) := by
  cases o with
  | none => exact h2
  | some t => exact h1.keeps t rfl

theorem wfIte {a b : Ram} {c : Prop} [Decidable c] (h1 : a.wf = true) (h2 : b.wf = true) : (if c then a else b).wf = true := by
  split
  · exact h1
  · exact h2

theorem ramEmpty_wf : ({} : Ram).wf = true := rfl

theorem ramFold_wf {α : Type} {g : Ram → α → Ram} {l : List α} {r : Ram} (h : ∀ r x, r.wf = true → (g r x).wf = true) (hr : r.wf = true) : (l.foldl g r).wf = true := by
  induction l generalizing r with
  | nil => exact hr
  | cons x l ih => exact ih (h r x hr)

theorem ramPutLine_wf (r : Ram) (l : Nat) (x : Line) (h : r.wf = true) : (ramPutLine r l x).wf = true := by
  unfold Ram.wf at *; simp only [Bool.and_eq_true] at *; exact ⟨tblWf_putAll _ _ _ _ h.1, tblWf_putAll _ _ _ _ h.2⟩

theorem ramPutWord_wf (r : Ram) (l : Nat) (x : Nat × Nat) (h : r.wf = true) : (ramPutWord r l x).wf = true := by
  unfold Ram.wf at *; simp only [Bool.and_eq_true] at *; exact ⟨tblWf_putAll _ _ _ _ h.1, tblWf_put _ _ _ _ h.2⟩

theorem ramPutBytes_wf (r : Ram) (l : Nat) (x : List Byte) (h : r.wf = true) : (ramPutBytes r l x).wf = true := by
  unfold Ram.wf at *; simp only [Bool.and_eq_true] at *; exact ⟨tblWf_putAll _ _ _ _ h.1, h.2⟩

/-- Folding operations that keep a table canonical keeps it so. -/
theorem tblFold_wf {α β : Type} [DecidableEq β] {d : β} {g : Tbl β → α → Tbl β} {l : List α} {t : Tbl β}
    (h : ∀ t x, tblWf d t = true → tblWf d (g t x) = true) (ht : tblWf d t = true) : tblWf d (l.foldl g t) = true := by
  induction l generalizing t with
  | nil => exact ht
  | cons x l ih => exact ih (h t x ht)

theorem tblIte_wf {β : Type} [DecidableEq β] {d : β} {a b : Tbl β} {c : Prop} [Decidable c] (h1 : tblWf d a = true) (h2 : tblWf d b = true) :
    tblWf d (if c then a else b) = true := by
  split
  · exact h1
  · exact h2

theorem Ram.wf_mk {data chk : Tbl Byte} (h1 : tblWf 0 data = true) (h2 : tblWf 0 chk = true) : (Ram.mk data chk).wf = true := by
  unfold Ram.wf
  rw [h1, h2]
  rfl

theorem Ram.wf_parts {r : Ram} (h : r.wf = true) : tblWf 0 r.data = true ∧ tblWf 0 r.chk = true := by
  simpa [Ram.wf] using h

theorem hostPutBytes_wf (r : Ram) (a : Nat) (bs : List Byte) (h : r.wf = true) : (hostPutBytes r a bs).wf = true :=
  Ram.wf_mk (tblWf_putAll _ _ _ _ (Ram.wf_parts h).1) (tblFold_wf (fun _ _ h => tblWf_put _ _ _ _ h) (Ram.wf_parts h).2)

theorem hostStores_wf (r : Ram) (stores : List (Nat × Byte)) (h : r.wf = true) : (hostStores r stores).wf = true :=
  Ram.wf_mk (tblFold_wf (fun _ _ h => tblWf_put _ _ _ _ h) (Ram.wf_parts h).1)
    (tblFold_wf (fun _ _ h => tblIte_wf (tblWf_put _ _ _ _ h) h) (Ram.wf_parts h).2)

theorem cutRam_wf (r : Ram) (n : Nat) (h : r.wf = true) : (cutRam r n).wf = true :=
  Ram.wf_mk (tblWf_filter _ _ _ (Ram.wf_parts h).1) (tblWf_filter _ _ _ (Ram.wf_parts h).2)

theorem Keeps.ofId {s0 s : State} (h : Keeps s0 s) : Keeps s0 (id s) := h


theorem hlCfgOk_resetHostLink (h : HostLink) : hlCfgOk (resetHostLink h).cfg := hlCfgOk_reset

theorem trCfgOk_resetTrans (h : Trans) : trCfgOk (resetTrans h).cfg := trCfgOk_reset

/-! ## Ops -/

theorem setWindrow_keeps {s0 : State} (s : State) (n : Nat) (w : Windrow) (k_s : Keeps s0 s) : Keeps s0 (setWindrow s n w) := by
  unfold setWindrow
  repeat' with_reducible first | assumption | intro _ | dsimp only | refine Keeps.upd ?_ ?_ ?_ ?_ ?_ ?_ ?_ ?_ ?_ ?_

theorem setCtx_keeps {s0 : State} (s : State) (n : Nat) (c : Ctx) (k_s : Keeps s0 s) : Keeps s0 (setCtx s n c) := by
  unfold setCtx
  repeat' with_reducible first | assumption | intro _ | dsimp only | refine Keeps.upd ?_ ?_ ?_ ?_ ?_ ?_ ?_ ?_ ?_ ?_

theorem setSlot_keeps {s0 : State} (s : State) (n : Nat) (a2 : Slot) (k_s : Keeps s0 s) : Keeps s0 (setSlot s n a2) := by
  unfold setSlot
  repeat' with_reducible first | assumption | intro _ | dsimp only | refine Keeps.upd ?_ ?_ ?_ ?_ ?_ ?_ ?_ ?_ ?_ ?_

theorem setTiller_keeps {s0 : State} (s : State) (n : Nat) (a2 : Tiller) (k_s : Keeps s0 s) : Keeps s0 (setTiller s n a2) := by
  unfold setTiller
  repeat' with_reducible first | assumption | intro _ | dsimp only | refine Keeps.upd ?_ ?_ ?_ ?_ ?_ ?_ ?_ ?_ ?_ ?_

theorem setUnit_keeps {s0 : State} (s : State) (n : Nat) (a2 : SubUnit) (k_s : Keeps s0 s) : Keeps s0 (setUnit s n a2) := by
  unfold setUnit
  repeat' with_reducible first | assumption | intro _ | dsimp only | refine Keeps.upd ?_ ?_ ?_ ?_ ?_ ?_ ?_ ?_ ?_ ?_

theorem setSheaf_keeps {s0 : State} (s : State) (n : Nat) (a2 : Sheaf) (k_s : Keeps s0 s) : Keeps s0 (setSheaf s n a2) := by
  unfold setSheaf
  repeat' with_reducible first | assumption | intro _ | dsimp only | refine Keeps.upd ?_ ?_ ?_ ?_ ?_ ?_ ?_ ?_ ?_ ?_

theorem setLink_keeps {s0 : State} (s : State) (n : Nat) (a2 : WainLink) (k_s : Keeps s0 s) : Keeps s0 (setLink s n a2) := by
  unfold setLink
  repeat' with_reducible first | assumption | intro _ | dsimp only | refine Keeps.upd ?_ ?_ ?_ ?_ ?_ ?_ ?_ ?_ ?_ ?_

theorem setAtt_keeps {s0 : State} (s : State) (n : Nat) (a2 : Attach) (k_s : Keeps s0 s) : Keeps s0 (setAtt s n a2) := by
  unfold setAtt
  repeat' with_reducible first | assumption | intro _ | dsimp only | refine Keeps.upd ?_ ?_ ?_ ?_ ?_ ?_ ?_ ?_ ?_ ?_

theorem setPort_keeps {s0 : State} (s : State) (n : Nat) (a2 : Port) (k_s : Keeps s0 s) : Keeps s0 (setPort s n a2) := by
  unfold setPort
  repeat' with_reducible first | assumption | intro _ | dsimp only | refine Keeps.upd ?_ ?_ ?_ ?_ ?_ ?_ ?_ ?_ ?_ ?_

theorem emit_keeps {s0 : State} (s : State) (o : Out) (k_s : Keeps s0 s) : Keeps s0 (emit s o) := by
  unfold emit
  repeat' with_reducible first | assumption | intro _ | dsimp only | refine Keeps.upd ?_ ?_ ?_ ?_ ?_ ?_ ?_ ?_ ?_ ?_

theorem emitAll_keeps {s0 : State} (s : State) (os : List Out) (k_s : Keeps s0 s) : Keeps s0 (emitAll s os) := by
  unfold emitAll
  repeat' with_reducible first | assumption | intro _ | dsimp only | refine Keeps.upd ?_ ?_ ?_ ?_ ?_ ?_ ?_ ?_ ?_ ?_

theorem hostPost_keeps {s0 : State} (s : State) (addr : W64) (bs : List Byte) (k_s : Keeps s0 s) : Keeps s0 (hostPost s addr bs) := by
  unfold hostPost
  repeat' with_reducible first | assumption | intro _ | dsimp only | apply Keeps.ite | apply linkUp_keeps | apply emit_keeps | apply hostPutBytes_wf | split | refine Keeps.upd ?_ ?_ ?_ ?_ ?_ ?_ ?_ ?_ ?_ ?_

theorem sendMsg_keeps {s0 : State} (s : State) (o : Out) (k_s : Keeps s0 s) : Keeps s0 (sendMsg s o) := by
  unfold sendMsg
  repeat' with_reducible first | assumption | intro _ | dsimp only | apply Keeps.ite | apply linkUp_keeps | apply emit_keeps | split | refine Keeps.upd ?_ ?_ ?_ ?_ ?_ ?_ ?_ ?_ ?_ ?_

theorem signalVector_keeps {s0 : State} (s : State) (v : Nat) (k_s : Keeps s0 s) : Keeps s0 (signalVector s v) := by
  unfold signalVector
  repeat' with_reducible first | assumption | intro _ | dsimp only | apply Keeps.ite | apply linkUp_keeps | apply sendMsg_keeps | refine Keeps.pair2 (by assumption) ?_ | refine Keeps.pair3 (by assumption) ?_ | refine Keeps.pair1 (by assumption) ?_ | refine KeepsM.of (by assumption) ?_ | split | refine Keeps.upd ?_ ?_ ?_ ?_ ?_ ?_ ?_ ?_ ?_ ?_

theorem logRecord_keeps {s0 : State} (s : State) (e : ErrRec) (k_s : Keeps s0 s) : Keeps s0 (logRecord s e) := by
  unfold logRecord
  repeat' with_reducible first | assumption | intro _ | dsimp only | apply Keeps.ite | apply tallyConflict_keeps | split | refine Keeps.upd ?_ ?_ ?_ ?_ ?_ ?_ ?_ ?_ ?_ ?_

theorem logError_keeps {s0 : State} (s : State) (cls : Nat) (source : Nat) (inst : Nat) (address : Nat) (ctx : Nat) (detail : Nat) (k_s : Keeps s0 s) : Keeps s0 (logError s cls source inst address ctx detail) := by
  unfold logError
  repeat' with_reducible first | assumption | intro _ | dsimp only | apply logRecord_keeps

theorem countRefuse_keeps {s0 : State} (s : State) (k_s : Keeps s0 s) : Keeps s0 (countRefuse s) := by
  unfold countRefuse
  repeat' with_reducible first | assumption | intro _ | dsimp only | refine Keeps.upd ?_ ?_ ?_ ?_ ?_ ?_ ?_ ?_ ?_ ?_

theorem refuseCtx_keeps {s0 : State} (s : State) (ctx : BitVec 20) (asked : Nat) (addr : Nat) (detail : Nat) (counted : Bool) (k_s : Keeps s0 s) : Keeps s0 (refuseCtx s ctx asked addr detail counted) := by
  unfold refuseCtx
  repeat' with_reducible first | assumption | intro _ | dsimp only | apply Keeps.ite | apply countRefuse_keeps | apply setCtx_keeps | apply logError_keeps | split

theorem freshFree_keeps {s0 : State} (s : State) (k_s : Keeps s0 s) : Keeps s0 (freshFree s).2 := by
  unfold freshFree
  repeat' with_reducible first | assumption | intro _ | dsimp only | refine Keeps.upd ?_ ?_ ?_ ?_ ?_ ?_ ?_ ?_ ?_ ?_

end

end Sys2Proof.Machine
end

