-- ==== Sys2Proof/Laws/KeepsMemory.lean ====
section
/-!
SUPPORT. What every operation keeps (the queue, the canonical form of the stores, the legal values of the configuration registers):
the reporting, memory, cache, directory, flush and translation operations.
-/
namespace Sys2Proof.Machine

section

set_option linter.all false

/-! ## Report -/

theorem finishReply_keeps {s0 : State} (s : State) (w : Nat) (r : ReplyRec) (k_s : Keeps s0 s) : Keeps s0 (finishReply s w r) := by
  unfold finishReply
  repeat' with_reducible first | assumption | intro _ | dsimp only | apply setWindrow_keeps

theorem dropOnce_keeps {s0 : State} (s : State) (who : Requester) (k_s : Keeps s0 s) : Keeps s0 (dropOnce s who) := by
  unfold dropOnce
  repeat' with_reducible first | assumption | intro _ | dsimp only | refine Keeps.upd ?_ ?_ ?_ ?_ ?_ ?_ ?_ ?_ ?_ ?_

theorem completeSeq_keeps {s0 : State} (s : State) (w : Nat) (seq : W32) (irq : Bool) (st : Byte) (detail : W32) (flags : Byte) (k_s : Keeps s0 s) : Keeps s0 (completeSeq s w seq irq st detail flags) := by
  unfold completeSeq
  repeat' with_reducible first | assumption | intro _ | dsimp only | apply dropOnce_keeps | apply finishReply_keeps | refine Keeps.pair2 (by assumption) ?_ | refine Keeps.pair3 (by assumption) ?_ | refine Keeps.pair1 (by assumption) ?_ | refine KeepsM.of (by assumption) ?_ | split

theorem complete_keeps {s0 : State} (s : State) (h : CmdHdr) (st : Byte) (detail : W32) (flags : Byte) (k_s : Keeps s0 s) : Keeps s0 (complete s h st detail flags) := by
  unfold complete
  repeat' with_reducible first | assumption | intro _ | dsimp only | apply completeSeq_keeps

theorem badPacket_keeps {s0 : State} (s : State) (h : CmdHdr) (code : Nat) (k_s : Keeps s0 s) : Keeps s0 (badPacket s h code) := by
  unfold badPacket
  repeat' with_reducible first | assumption | intro _ | dsimp only | apply complete_keeps

theorem done_keeps {s0 : State} (s : State) (h : CmdHdr) (k_s : Keeps s0 s) : Keeps s0 (done s h) := by
  unfold done
  repeat' with_reducible first | assumption | intro _ | dsimp only | apply complete_keeps

theorem haltTillers_keeps {s0 : State} (s : State) (k_s : Keeps s0 s) : Keeps s0 (haltTillers s) := by
  unfold haltTillers
  repeat' with_reducible first | assumption | intro _ | dsimp only | apply Keeps.ite | apply setTiller_keeps | apply Keeps.foldl | apply Keeps.fold1 | apply Keeps.fold2 | apply Keeps.fold3 | split

theorem sendCtrl_keeps {s0 : State} (s : State) (link : Nat) (m : CtrlMsg) (k_s : Keeps s0 s) : Keeps s0 (sendCtrl s link m) := by
  unfold sendCtrl
  repeat' with_reducible first | assumption | intro _ | dsimp only | apply setLink_keeps

theorem reportToRoot_keeps {s0 : State} (s : State) (m : StopMsg) (k_s : Keeps s0 s) : Keeps s0 (reportToRoot s m) := by
  unfold reportToRoot
  repeat' with_reducible first | assumption | intro _ | dsimp only | apply Keeps.ite | apply sendCtrl_keeps | split | refine Keeps.upd ?_ ?_ ?_ ?_ ?_ ?_ ?_ ?_ ?_ ?_

theorem reportError_keeps {s0 : State} (s : State) (e : ErrRec) (k_s : Keeps s0 s) : Keeps s0 (reportError s e) := by
  unfold reportError
  repeat' with_reducible first | assumption | intro _ | dsimp only | apply logRecord_keeps | refine Keeps.upd ?_ ?_ ?_ ?_ ?_ ?_ ?_ ?_ ?_ ?_

theorem raiseReplayed_keeps {s0 : State} (s : State) (source : Nat) (inst : Nat) (addr : Nat) (ctx : Nat) (detail : Nat) (k_s : Keeps s0 s) : Keeps s0 (raiseReplayed s source inst addr ctx detail) := by
  unfold raiseReplayed
  repeat' with_reducible first | assumption | intro _ | dsimp only | apply Keeps.ite | apply reportToRoot_keeps | apply haltTillers_keeps | apply reportError_keeps | apply logRecord_keeps | split

theorem dropSurplus_keeps {s0 : State} (s : State) (link : Nat) (k_s : Keeps s0 s) : Keeps s0 (dropSurplus s link) := by
  unfold dropSurplus
  repeat' with_reducible first | assumption | intro _ | dsimp only | apply raiseReplayed_keeps | apply setLink_keeps | refine Keeps.pair2 (by assumption) ?_ | refine Keeps.pair3 (by assumption) ?_ | refine Keeps.pair1 (by assumption) ?_ | refine KeepsM.of (by assumption) ?_ | split

theorem raiseReplanned_keeps {s0 : State} (s : State) (source : Nat) (inst : Nat) (addr : Nat) (ctx : Nat) (detail : Nat) (suspect : Option Nat) (k_s : Keeps s0 s) : Keeps s0 (raiseReplanned s source inst addr ctx detail suspect) := by
  unfold raiseReplanned
  repeat' with_reducible first | assumption | intro _ | dsimp only | apply Keeps.ite | apply reportToRoot_keeps | apply reportError_keeps | apply logRecord_keeps | split

theorem planContained_keeps {s0 : State} (s : State) (status : Byte) (k_s : Keeps s0 s) : Keeps s0 (planContained s status) := by
  unfold planContained
  repeat' with_reducible first | assumption | intro _ | dsimp only | apply Keeps.ite | apply reportToRoot_keeps | apply haltTillers_keeps | split

theorem markPreempted_keeps {s0 : State} (s : State) (k_s : Keeps s0 s) : Keeps s0 (markPreempted s) := by
  unfold markPreempted
  repeat' with_reducible first | assumption | intro _ | dsimp only | apply Keeps.ite | refine Keeps.pair2 (by assumption) ?_ | refine Keeps.pair3 (by assumption) ?_ | refine Keeps.pair1 (by assumption) ?_ | refine KeepsM.of (by assumption) ?_ | split | refine Keeps.upd ?_ ?_ ?_ ?_ ?_ ?_ ?_ ?_ ?_ ?_

theorem parkRequester_keeps {s0 : State} (s : State) (r : Requester) (faultId : W16) (k_s : Keeps s0 s) : Keeps s0 (parkRequester s r faultId) := by
  unfold parkRequester
  repeat' with_reducible first | assumption | intro _ | dsimp only | apply setWindrow_keeps | apply setAtt_keeps | refine Keeps.pair2 (by assumption) ?_ | refine Keeps.pair3 (by assumption) ?_ | refine Keeps.pair1 (by assumption) ?_ | refine KeepsM.of (by assumption) ?_ | split

theorem resumeRequester_keeps {s0 : State} (s : State) (r : Requester) (faultId : W16) (k_s : Keeps s0 s) : Keeps s0 (resumeRequester s r faultId) := by
  unfold resumeRequester
  repeat' with_reducible first | assumption | intro _ | dsimp only | apply setWindrow_keeps | apply emit_keeps | apply setAtt_keeps | refine Keeps.pair2 (by assumption) ?_ | refine Keeps.pair3 (by assumption) ?_ | refine Keeps.pair1 (by assumption) ?_ | refine KeepsM.of (by assumption) ?_ | split

theorem failRequester_keeps {s0 : State} (s : State) (r : Requester) (faultId : W16) (status : Byte) (k_s : Keeps s0 s) : Keeps s0 (failRequester s r faultId status) := by
  unfold failRequester
  repeat' with_reducible first | assumption | intro _ | dsimp only | apply Keeps.ite | apply completeSeq_keeps | apply emit_keeps | apply setAtt_keeps | apply planContained_keeps | refine Keeps.pair2 (by assumption) ?_ | refine Keeps.pair3 (by assumption) ?_ | refine Keeps.pair1 (by assumption) ?_ | refine KeepsM.of (by assumption) ?_ | split | refine Keeps.upd ?_ ?_ ?_ ?_ ?_ ?_ ?_ ?_ ?_ ?_

/-! ## Cache -/

theorem storeWays_keeps {s0 : State} (s : State) (c : Nat) (l : LineAddr) (ws : List Way) (k_s : Keeps s0 s) : Keeps s0 (storeWays s c l ws) := by
  unfold storeWays
  repeat' with_reducible first | assumption | intro _ | dsimp only | apply Keeps.ite | split | refine Keeps.upd ?_ ?_ ?_ ?_ ?_ ?_ ?_ ?_ ?_ ?_

theorem setWays_keeps {s0 : State} (s : State) (c : Nat) (l : LineAddr) (ws : List Way) (k_s : Keeps s0 s) : Keeps s0 (setWays s c l ws) := by
  unfold setWays
  repeat' with_reducible first | assumption | intro _ | dsimp only | apply storeWays_keeps

theorem cacheModify_keeps {s0 : State} (s : State) (c : Nat) (l : LineAddr) (f : Way → Way) (k_s : Keeps s0 s) : Keeps s0 (cacheModify s c l f) := by
  unfold cacheModify
  repeat' with_reducible first | assumption | intro _ | dsimp only | apply setWays_keeps | apply k_f | refine Keeps.pair2 (by assumption) ?_ | refine Keeps.pair3 (by assumption) ?_ | refine Keeps.pair1 (by assumption) ?_ | refine KeepsM.of (by assumption) ?_ | split

theorem cacheDrop_keeps {s0 : State} (s : State) (c : Nat) (l : LineAddr) (k_s : Keeps s0 s) : Keeps s0 (cacheDrop s c l) := by
  unfold cacheDrop
  repeat' with_reducible first | assumption | intro _ | dsimp only | apply cacheModify_keeps

theorem bumpCacheErr_keeps {s0 : State} (s : State) (hi : Nat) (lo : Nat) (k : Nat) (k_s : Keeps s0 s) : Keeps s0 (bumpCacheErr s hi lo k) := by
  unfold bumpCacheErr
  repeat' with_reducible first | assumption | intro _ | dsimp only | refine Keeps.upd ?_ ?_ ?_ ?_ ?_ ?_ ?_ ?_ ?_ ?_

theorem bumpCoh_keeps {s0 : State} (s : State) (hi : Nat) (lo : Nat) (k : Nat) (k_s : Keeps s0 s) : Keeps s0 (bumpCoh s hi lo k) := by
  unfold bumpCoh
  repeat' with_reducible first | assumption | intro _ | dsimp only | refine Keeps.upd ?_ ?_ ?_ ?_ ?_ ?_ ?_ ?_ ?_ ?_

theorem tagReport_keeps {s0 : State} (s : State) (inst : Nat) (addr : Nat) (f : TagFind) (k_s : Keeps s0 s) : Keeps s0 (tagReport s inst addr f) := by
  unfold tagReport
  repeat' with_reducible first | assumption | intro _ | dsimp only | apply raiseReplanned_keeps | apply logError_keeps | apply bumpCacheErr_keeps | refine Keeps.pair2 (by assumption) ?_ | refine Keeps.pair3 (by assumption) ?_ | refine Keeps.pair1 (by assumption) ?_ | refine KeepsM.of (by assumption) ?_ | split

theorem checkSet_keeps {s0 : State} (s : State) (c : Nat) (l : LineAddr) (k_s : Keeps s0 s) : Keeps s0 (checkSet s c l) := by
  unfold checkSet
  repeat' with_reducible first | assumption | intro _ | dsimp only | apply Keeps.ite | apply tagReport_keeps | apply storeWays_keeps | apply Keeps.foldl | apply Keeps.fold1 | apply Keeps.fold2 | apply Keeps.fold3 | split

theorem bumpMemErr_keeps {s0 : State} (s : State) (n : Nat) (hi : Nat) (lo : Nat) (k : Nat) (k_s : Keeps s0 s) : Keeps s0 (bumpMemErr s n hi lo k) := by
  unfold bumpMemErr
  repeat' with_reducible first | assumption | intro _ | dsimp only | refine Keeps.upd ?_ ?_ ?_ ?_ ?_ ?_ ?_ ?_ ?_ ?_

theorem memWordRead_keeps {s0 : State} (s : State) (w : Nat) (k_s : Keeps s0 s) : Keeps s0 (memWordRead s w) := by
  unfold memWordRead
  repeat' with_reducible first | assumption | intro _ | dsimp only | apply bumpMemErr_keeps | apply logError_keeps | refine Keeps.pair2 (by assumption) ?_ | refine Keeps.pair3 (by assumption) ?_ | refine Keeps.pair1 (by assumption) ?_ | refine KeepsM.of (by assumption) ?_ | split | refine Keeps.upd ?_ ?_ ?_ ?_ ?_ ?_ ?_ ?_ ?_ ?_

theorem memReadLine_keeps {s0 : State} (s : State) (n : Nat) (k_s : Keeps s0 s) : Keeps s0 (memReadLine s n).2 := by
  unfold memReadLine
  repeat' with_reducible first | assumption | intro _ | dsimp only | apply memWordRead_keeps | apply Keeps.foldl | apply Keeps.fold1 | apply Keeps.fold2 | apply Keeps.fold3

theorem cancelCorr_keeps {s0 : State} (s : State) (n : Nat) (k_s : Keeps s0 s) : Keeps s0 (cancelCorr s n) := by
  unfold cancelCorr
  repeat' with_reducible first | assumption | intro _ | dsimp only | refine Keeps.upd ?_ ?_ ?_ ?_ ?_ ?_ ?_ ?_ ?_ ?_

theorem memPutLine_keeps {s0 : State} (s : State) (n : Nat) (a2 : Line) (k_s : Keeps s0 s) : Keeps s0 (memPutLine s n a2) := by
  unfold memPutLine
  repeat' with_reducible first | assumption | intro _ | dsimp only | apply cancelCorr_keeps | apply ramPutLine_wf | apply ramFold_wf | apply wfIte | refine Keeps.upd ?_ ?_ ?_ ?_ ?_ ?_ ?_ ?_ ?_ ?_

theorem memWriteLine_keeps {s0 : State} (s : State) (n : Nat) (data : List Byte) (mask : Nat) (k_s : Keeps s0 s) : Keeps s0 (memWriteLine s n data mask) := by
  unfold memWriteLine
  repeat' with_reducible first | assumption | intro _ | dsimp only | apply memPutLine_keeps

theorem hostPutMasked_keeps {s0 : State} (s : State) (n : Nat) (data : List Byte) (mask : Nat) (k_s : Keeps s0 s) : Keeps s0 (hostPutMasked s n data mask) := by
  unfold hostPutMasked
  repeat' with_reducible first | assumption | intro _ | dsimp only | apply Keeps.ite | refine Ram.wf_mk (tblFold_wf ?_ ?_) (tblFold_wf ?_ ?_) | apply tblIte_wf | apply tblWf_put | exact (Ram.wf_parts (by assumption)).1 | exact (Ram.wf_parts (by assumption)).2 | apply Keeps.foldl | apply Keeps.fold1 | apply Keeps.fold2 | apply Keeps.fold3 | split | refine Keeps.upd ?_ ?_ ?_ ?_ ?_ ?_ ?_ ?_ ?_ ?_

theorem hostPutWhole_keeps {s0 : State} (s : State) (n : Nat) (a2 : Line) (k_s : Keeps s0 s) : Keeps s0 (hostPutWhole s n a2) := by
  unfold hostPutWhole
  repeat' with_reducible first | assumption | intro _ | dsimp only | apply hostPutMasked_keeps | refine Ram.wf_mk ?_ (tblFold_wf ?_ ?_) | apply tblWf_put | exact (Ram.wf_parts (by assumption)).1 | exact (Ram.wf_parts (by assumption)).2 | apply Keeps.foldl | apply Keeps.fold1 | apply Keeps.fold2 | apply Keeps.fold3 | refine Keeps.upd ?_ ?_ ?_ ?_ ?_ ?_ ?_ ?_ ?_ ?_

theorem openHostReq_keeps {s0 : State} (s : State) (k : HostReqKind) (ctx : BitVec 20) (who : Requester) (k_s : Keeps s0 s) : Keeps s0 (openHostReq s k ctx who) := by
  unfold openHostReq
  repeat' with_reducible first | assumption | intro _ | dsimp only | apply freshFree_keeps | apply linkUp_keeps | refine Keeps.pair2 (by assumption) ?_ | refine Keeps.pair3 (by assumption) ?_ | refine Keeps.pair1 (by assumption) ?_ | refine KeepsM.of (by assumption) ?_ | split | refine Keeps.upd ?_ ?_ ?_ ?_ ?_ ?_ ?_ ?_ ?_ ?_

theorem hostPutLine_keeps {s0 : State} (s : State) (n : Nat) (a2 : Line) (k_s : Keeps s0 s) : Keeps s0 (hostPutLine s n a2) := by
  unfold hostPutLine
  repeat' with_reducible first | assumption | intro _ | dsimp only | apply emit_keeps | apply hostPutWhole_keeps

theorem arrayRead_keeps {s0 : State} (s : State) (inst : Nat) (addr : Nat) (a3 : Line) (k_s : Keeps s0 s) : Keeps s0 (arrayRead s inst addr a3).2 := by
  unfold arrayRead
  repeat' with_reducible first | assumption | intro _ | dsimp only | apply logError_keeps | apply bumpCacheErr_keeps | apply Keeps.foldl | apply Keeps.fold1 | apply Keeps.fold2 | apply Keeps.fold3 | refine Keeps.pair2 (by assumption) ?_ | refine Keeps.pair3 (by assumption) ?_ | refine Keeps.pair1 (by assumption) ?_ | refine KeepsM.of (by assumption) ?_ | split

theorem loftRead_keeps {s0 : State} (s : State) (l : LineAddr) (k_s : Keeps s0 s) : Keeps s0 (loftRead s l).2 := by
  unfold loftRead
  repeat' with_reducible first | assumption | intro _ | dsimp only | apply arrayRead_keeps | apply ramPutLine_wf | apply ramFold_wf | apply wfIte | refine Keeps.upd ?_ ?_ ?_ ?_ ?_ ?_ ?_ ?_ ?_ ?_

theorem backRead_keeps {s0 : State} (s : State) (l : LineAddr) (forWrite : Bool) (k_s : Keeps s0 s) : Keeps s0 (backRead s l forWrite).2 := by
  unfold backRead
  repeat' with_reducible first | assumption | intro _ | dsimp only | apply Keeps.ite | apply memReadLine_keeps | apply emit_keeps | apply loftRead_keeps | split

theorem ownHostLine_keeps {s0 : State} (s : State) (l : LineAddr) (k_s : Keeps s0 s) : Keeps s0 (ownHostLine s l) := by
  unfold ownHostLine
  repeat' with_reducible first | assumption | intro _ | dsimp only | apply Keeps.ite | apply emit_keeps | apply cacheModify_keeps | refine Keeps.pair2 (by assumption) ?_ | refine Keeps.pair3 (by assumption) ?_ | refine Keeps.pair1 (by assumption) ?_ | refine KeepsM.of (by assumption) ?_ | split

theorem backPut_keeps {s0 : State} (s : State) (l : LineAddr) (a2 : Line) (k_s : Keeps s0 s) : Keeps s0 (backPut s l a2) := by
  unfold backPut
  repeat' with_reducible first | assumption | intro _ | dsimp only | apply Keeps.ite | apply memPutLine_keeps | apply hostPutLine_keeps | apply ramPutLine_wf | apply ramFold_wf | apply wfIte | split | refine Keeps.upd ?_ ?_ ?_ ?_ ?_ ?_ ?_ ?_ ?_ ?_

theorem backWrite_keeps {s0 : State} (s : State) (l : LineAddr) (data : List Byte) (mask : Nat) (ctx : BitVec 20) (k_s : Keeps s0 s) : Keeps s0 (backWrite s l data mask ctx) := by
  unfold backWrite
  repeat' with_reducible first | assumption | intro _ | dsimp only | apply Keeps.ite | apply memWriteLine_keeps | apply openHostReq_keeps | apply emit_keeps | apply ramPutLine_wf | apply ramFold_wf | apply wfIte | split | refine Keeps.upd ?_ ?_ ?_ ?_ ?_ ?_ ?_ ?_ ?_ ?_

theorem granaryEvict_keeps {s0 : State} (s : State) (w : Way) (k_s : Keeps s0 s) : Keeps s0 (granaryEvict s w) := by
  unfold granaryEvict
  repeat' with_reducible first | assumption | intro _ | dsimp only | apply Keeps.ite | apply backPut_keeps | apply emit_keeps | split

theorem granaryInsert_keeps {s0 : State} (s : State) (l : LineAddr) (a2 : Line) (dirty : Bool) (own : Bool) (age : Nat) (k_s : Keeps s0 s) : Keeps s0 (granaryInsert s l a2 dirty own age) := by
  unfold granaryInsert
  repeat' with_reducible first | assumption | intro _ | dsimp only | apply Keeps.ite | apply setWays_keeps | apply granaryEvict_keeps | apply backPut_keeps | refine Keeps.pair2 (by assumption) ?_ | refine Keeps.pair3 (by assumption) ?_ | refine Keeps.pair1 (by assumption) ?_ | refine KeepsM.of (by assumption) ?_ | split

theorem homeTakeDirty_keeps {s0 : State} (s : State) (l : LineAddr) (a2 : Line) (k_s : Keeps s0 s) : Keeps s0 (homeTakeDirty s l a2) := by
  unfold homeTakeDirty
  repeat' with_reducible first | assumption | intro _ | dsimp only | apply Keeps.ite | apply backPut_keeps | apply cacheModify_keeps | apply granaryInsert_keeps | refine Keeps.pair2 (by assumption) ?_ | refine Keeps.pair3 (by assumption) ?_ | refine Keeps.pair1 (by assumption) ?_ | refine KeepsM.of (by assumption) ?_ | split

theorem granaryHit_keeps {s0 : State} (s : State) (l : LineAddr) (a2 : Line) (k_s : Keeps s0 s) : Keeps s0 (granaryHit s l a2).2 := by
  unfold granaryHit
  repeat' with_reducible first | assumption | intro _ | dsimp only | apply arrayRead_keeps | apply cacheModify_keeps

theorem homeFetch_keeps {s0 : State} (s : State) (l : LineAddr) (how : FillHow) (forWrite : Bool) (k_s : Keeps s0 s) : Keeps s0 (homeFetch s l how forWrite).2 := by
  unfold homeFetch
  repeat' with_reducible first | assumption | intro _ | dsimp only | apply Keeps.ite | apply backRead_keeps | apply granaryHit_keeps | apply ownHostLine_keeps | apply granaryInsert_keeps | refine Keeps.pair2 (by assumption) ?_ | refine Keeps.pair3 (by assumption) ?_ | refine Keeps.pair1 (by assumption) ?_ | refine KeepsM.of (by assumption) ?_ | split

theorem detectWrite_keeps {s0 : State} (s : State) (c : Nat) (writer : Nat) (l : LineAddr) (k_s : Keeps s0 s) : Keeps s0 (detectWrite s c writer l).2 := by
  unfold detectWrite
  repeat' with_reducible first | assumption | intro _ | dsimp only | apply Keeps.ite | apply Keeps.foldl | apply Keeps.fold1 | apply Keeps.fold2 | apply Keeps.fold3 | refine Keeps.pair2 (by assumption) ?_ | refine Keeps.pair3 (by assumption) ?_ | refine Keeps.pair1 (by assumption) ?_ | refine KeepsM.of (by assumption) ?_ | split | refine Keeps.upd ?_ ?_ ?_ ?_ ?_ ?_ ?_ ?_ ?_ ?_

theorem homeStore_keeps {s0 : State} (s : State) (l : LineAddr) (data : List Byte) (mask : Nat) (streaming : Bool) (ctx : BitVec 20) (k_s : Keeps s0 s) : Keeps s0 (homeStore s l data mask streaming ctx) := by
  unfold homeStore
  repeat' with_reducible first | assumption | intro _ | dsimp only | apply Keeps.ite | apply backWrite_keeps | apply loftRead_keeps | apply ownHostLine_keeps | apply arrayRead_keeps | apply cacheModify_keeps | apply granaryInsert_keeps | apply emit_keeps | apply backRead_keeps | refine Keeps.pair2 (by assumption) ?_ | refine Keeps.pair3 (by assumption) ?_ | refine Keeps.pair1 (by assumption) ?_ | refine KeepsM.of (by assumption) ?_ | split

/-! ## Coherence -/

theorem storeDirSet_keeps {s0 : State} (s : State) (l : LineAddr) (es : List DirEntry) (k_s : Keeps s0 s) : Keeps s0 (storeDirSet s l es) := by
  unfold storeDirSet
  repeat' with_reducible first | assumption | intro _ | dsimp only | apply Keeps.ite | split | refine Keeps.upd ?_ ?_ ?_ ?_ ?_ ?_ ?_ ?_ ?_ ?_

theorem setDirSet_keeps {s0 : State} (s : State) (l : LineAddr) (es : List DirEntry) (k_s : Keeps s0 s) : Keeps s0 (setDirSet s l es) := by
  unfold setDirSet
  repeat' with_reducible first | assumption | intro _ | dsimp only | apply storeDirSet_keeps

theorem checkDir_keeps {s0 : State} (s : State) (l : LineAddr) (k_s : Keeps s0 s) : Keeps s0 (checkDir s l) := by
  unfold checkDir
  repeat' with_reducible first | assumption | intro _ | dsimp only | apply Keeps.ite | apply tagReport_keeps | apply storeDirSet_keeps | apply Keeps.foldl | apply Keeps.fold1 | apply Keeps.fold2 | apply Keeps.fold3 | split | refine Keeps.upd ?_ ?_ ?_ ?_ ?_ ?_ ?_ ?_ ?_ ?_

theorem checkHome_keeps {s0 : State} (s : State) (l : LineAddr) (k_s : Keeps s0 s) : Keeps s0 (checkHome s l) := by
  unfold checkHome
  repeat' with_reducible first | assumption | intro _ | dsimp only | apply Keeps.ite | apply checkDir_keeps | apply checkSet_keeps | split

theorem dirPut_keeps {s0 : State} (s : State) (l : LineAddr) (e : DirEntry) (k_s : Keeps s0 s) : Keeps s0 (dirPut s l e) := by
  unfold dirPut
  repeat' with_reducible first | assumption | intro _ | dsimp only | apply Keeps.ite | apply setDirSet_keeps | refine Keeps.pair2 (by assumption) ?_ | refine Keeps.pair3 (by assumption) ?_ | refine Keeps.pair1 (by assumption) ?_ | refine KeepsM.of (by assumption) ?_ | split | refine Keeps.upd ?_ ?_ ?_ ?_ ?_ ?_ ?_ ?_ ?_ ?_

theorem agentSet_keeps {s0 : State} (s : State) (a : Nat) (l : LineAddr) (c : Coh) (k_s : Keeps s0 s) : Keeps s0 (agentSet s a l c) := by
  unfold agentSet
  repeat' with_reducible first | assumption | intro _ | dsimp only | apply Keeps.ite | apply cacheDrop_keeps | apply cacheModify_keeps | split | refine Keeps.upd ?_ ?_ ?_ ?_ ?_ ?_ ?_ ?_ ?_ ?_

theorem copyRead_keeps {s0 : State} (s : State) (a : Nat) (l : LineAddr) (k_s : Keeps s0 s) : Keeps s0 (copyRead s a l).2 := by
  unfold copyRead
  repeat' with_reducible first | assumption | intro _ | dsimp only | apply arrayRead_keeps | apply cacheModify_keeps | refine Keeps.pair2 (by assumption) ?_ | refine Keeps.pair3 (by assumption) ?_ | refine Keeps.pair1 (by assumption) ?_ | refine KeepsM.of (by assumption) ?_ | split

theorem snoopAct_keeps {s0 : State} (s : State) (k : SnoopKind) (a : Nat) (l : LineAddr) (k_s : Keeps s0 s) : Keeps s0 (snoopAct s k a l).1 := by
  unfold snoopAct
  repeat' with_reducible first | assumption | intro _ | dsimp only | apply Keeps.ite | apply checkSet_keeps | apply agentSet_keeps | apply copyRead_keeps | refine Keeps.pair2 (by assumption) ?_ | refine Keeps.pair3 (by assumption) ?_ | refine Keeps.pair1 (by assumption) ?_ | refine KeepsM.of (by assumption) ?_ | split

theorem recallEntry_keeps {s0 : State} (s : State) (e : DirEntry) (k_s : Keeps s0 s) : Keeps s0 (recallEntry s e) := by
  unfold recallEntry
  repeat' with_reducible first | assumption | intro _ | dsimp only | apply snoopAct_keeps | apply homeTakeDirty_keeps | apply bumpCoh_keeps | apply dirPut_keeps | apply Keeps.foldl | apply Keeps.fold1 | apply Keeps.fold2 | apply Keeps.fold3 | refine Keeps.pair2 (by assumption) ?_ | refine Keeps.pair3 (by assumption) ?_ | refine Keeps.pair1 (by assumption) ?_ | refine KeepsM.of (by assumption) ?_ | split

theorem dirReserve_keeps {s0 : State} (s : State) (l : LineAddr) (k_s : Keeps s0 s) : KeepsM s0 (dirReserve s l) := by
  unfold dirReserve
  repeat' with_reducible first | assumption | intro _ | dsimp only | apply Keeps.ite | apply KeepsM.some | exact KeepsM.none | apply KeepsM.ite | apply recallEntry_keeps | apply setDirSet_keeps | apply Keeps.foldl | apply Keeps.fold1 | apply Keeps.fold2 | apply Keeps.fold3 | refine Keeps.pair2 (by assumption) ?_ | refine Keeps.pair3 (by assumption) ?_ | refine Keeps.pair1 (by assumption) ?_ | refine KeepsM.of (by assumption) ?_ | split

theorem homeOffer_keeps {s0 : State} (s : State) (a : Nat) (w : Way) (k_s : Keeps s0 s) : Keeps s0 (homeOffer s a w) := by
  unfold homeOffer
  repeat' with_reducible first | assumption | intro _ | dsimp only | apply Keeps.ite | apply cacheDrop_keeps | apply homeTakeDirty_keeps | apply bumpCacheErr_keeps | apply granaryInsert_keeps | apply dirPut_keeps | split

theorem agentPlace_keeps {s0 : State} (s : State) (a : Nat) (l : LineAddr) (c : Coh) (a4 : Line) (ctx : BitVec 20) (how : FillHow) (k_s : Keeps s0 s) : Keeps s0 (agentPlace s a l c a4 ctx how) := by
  unfold agentPlace
  repeat' with_reducible first | assumption | intro _ | dsimp only | apply Keeps.ite | apply setWays_keeps | apply homeOffer_keeps | refine Keeps.pair2 (by assumption) ?_ | refine Keeps.pair3 (by assumption) ?_ | refine Keeps.pair1 (by assumption) ?_ | refine KeepsM.of (by assumption) ?_ | split

theorem noteRecent_keeps {s0 : State} (s : State) (r : HomeReq) (k_s : Keeps s0 s) : Keeps s0 (noteRecent s r) := by
  unfold noteRecent
  repeat' with_reducible first | assumption | intro _ | dsimp only | apply Keeps.ite | split | refine Keeps.upd ?_ ?_ ?_ ?_ ?_ ?_ ?_ ?_ ?_ ?_

theorem frontStreaming_keeps {s0 : State} (s : State) (r : HomeReq) (k_s : Keeps s0 s) : Keeps s0 (frontStreaming s r).2 := by
  unfold frontStreaming
  repeat' with_reducible first | assumption | intro _ | dsimp only | apply Keeps.ite | apply detectWrite_keeps | split

theorem homeFinish_keeps {s0 : State} (s : State) (r : HomeReq) (content : Option Line) (dirty : Bool) (held : Bool) (k_s : Keeps s0 s) : Keeps s0 (homeFinish s r content dirty held).2 := by
  unfold homeFinish
  repeat' with_reducible first | assumption | intro _ | dsimp only | apply Keeps.ite | apply homeTakeDirty_keeps | apply homeFetch_keeps | apply dirPut_keeps | apply emit_keeps | apply noteRecent_keeps | apply agentSet_keeps | apply ownHostLine_keeps | apply frontStreaming_keeps | apply homeStore_keeps | refine Keeps.pair2 (by assumption) ?_ | refine Keeps.pair3 (by assumption) ?_ | refine Keeps.pair1 (by assumption) ?_ | refine KeepsM.of (by assumption) ?_ | split

theorem snoopAll_keeps {s0 : State} (s : State) (l : LineAddr) (ks : List (Nat × SnoopKind)) (k_s : Keeps s0 s) : Keeps s0 (snoopAll s l ks).1 := by
  unfold snoopAll
  repeat' with_reducible first | assumption | intro _ | dsimp only | apply snoopAct_keeps | apply Keeps.foldl | apply Keeps.fold1 | apply Keeps.fold2 | apply Keeps.fold3 | refine Keeps.pair2 (by assumption) ?_ | refine Keeps.pair3 (by assumption) ?_ | refine Keeps.pair1 (by assumption) ?_ | refine KeepsM.of (by assumption) ?_ | split

theorem predMove_keeps {s0 : State} (s : State) (a : Nat) (l : LineAddr) (up : Bool) (k_s : Keeps s0 s) : Keeps s0 (predMove s a l up) := by
  unfold predMove
  repeat' with_reducible first | assumption | intro _ | dsimp only | apply Keeps.ite | split | refine Keeps.upd ?_ ?_ ?_ ?_ ?_ ?_ ?_ ?_ ?_ ?_

theorem coherentRefuse_keeps {s0 : State} (s : State) (a : Nat) (l : LineAddr) (ctx : BitVec 20) (row : Nat) (k_s : Keeps s0 s) : Keeps s0 (coherentRefuse s a l ctx row) := by
  unfold coherentRefuse
  repeat' with_reducible first | assumption | intro _ | dsimp only | apply Keeps.ite | apply logError_keeps | apply countRefuse_keeps | apply refuseCtx_keeps | split

theorem nackNote_keeps {s0 : State} (s : State) (r : HomeReq) (k_s : Keeps s0 s) : Keeps s0 (nackNote s r) := by
  unfold nackNote
  repeat' with_reducible first | assumption | intro _ | dsimp only | apply Keeps.ite | apply bumpCoh_keeps | apply emit_keeps | refine Keeps.pair2 (by assumption) ?_ | refine Keeps.pair3 (by assumption) ?_ | refine Keeps.pair1 (by assumption) ?_ | refine KeepsM.of (by assumption) ?_ | split | refine Keeps.upd ?_ ?_ ?_ ?_ ?_ ?_ ?_ ?_ ?_ ?_

theorem nackClear_keeps {s0 : State} (s : State) (r : HomeReq) (k_s : Keeps s0 s) : Keeps s0 (nackClear s r) := by
  unfold nackClear
  repeat' with_reducible first | assumption | intro _ | dsimp only | refine Keeps.upd ?_ ?_ ?_ ?_ ?_ ?_ ?_ ?_ ?_ ?_

theorem askHost_keeps {s0 : State} (s : State) (l : LineAddr) (own : Bool) (ctx : BitVec 20) (k_s : Keeps s0 s) : Keeps s0 (askHost s l own ctx) := by
  unfold askHost
  repeat' with_reducible first | assumption | intro _ | dsimp only | apply Keeps.ite | apply openHostReq_keeps | apply emit_keeps | split

theorem prefetchLine_keeps {s0 : State} (s : State) (c : Nat) (ctx : BitVec 20) (l : LineAddr) (streaming : Bool) (k_s : Keeps s0 s) : Keeps s0 (prefetchLine s c ctx l streaming) := by
  unfold prefetchLine
  repeat' with_reducible first | assumption | intro _ | dsimp only | apply Keeps.ite | apply askHost_keeps | split | refine Keeps.upd ?_ ?_ ?_ ?_ ?_ ?_ ?_ ?_ ?_ ?_

theorem fetchAhead_keeps {s0 : State} (s : State) (c : Nat) (ctx : BitVec 20) (p : PrefStream) (k_s : Keeps s0 s) : Keeps s0 (fetchAhead s c ctx p) := by
  unfold fetchAhead
  repeat' with_reducible first | assumption | intro _ | dsimp only | apply Keeps.ite | apply prefetchLine_keeps | apply Keeps.foldl | apply Keeps.fold1 | apply Keeps.fold2 | apply Keeps.fold3 | split

theorem prefetchNote_keeps {s0 : State} (s : State) (c : Nat) (port : Nat) (ctx : BitVec 20) (l : LineAddr) (miss : Bool) (k_s : Keeps s0 s) : Keeps s0 (prefetchNote s c port ctx l miss) := by
  unfold prefetchNote
  repeat' with_reducible first | assumption | intro _ | dsimp only | apply Keeps.ite | apply fetchAhead_keeps | refine Keeps.pair2 (by assumption) ?_ | refine Keeps.pair3 (by assumption) ?_ | refine Keeps.pair1 (by assumption) ?_ | refine KeepsM.of (by assumption) ?_ | split | refine Keeps.upd ?_ ?_ ?_ ?_ ?_ ?_ ?_ ?_ ?_ ?_

theorem frontNote_keeps {s0 : State} (s : State) (r : HomeReq) (k_s : Keeps s0 s) : Keeps s0 (frontNote s r) := by
  unfold frontNote
  repeat' with_reducible first | assumption | intro _ | dsimp only | apply Keeps.ite | apply prefetchNote_keeps | split

theorem sendAnswer_keeps {s0 : State} (s : State) (r : HomeReq) (a : Answer) (k_s : Keeps s0 s) : Keeps s0 (sendAnswer s r a) := by
  unfold sendAnswer
  repeat' with_reducible first | assumption | intro _ | dsimp only | apply Keeps.ite | apply emit_keeps | apply predMove_keeps | refine Keeps.pair2 (by assumption) ?_ | refine Keeps.pair3 (by assumption) ?_ | refine Keeps.pair1 (by assumption) ?_ | refine KeepsM.of (by assumption) ?_ | split | refine Keeps.upd ?_ ?_ ?_ ?_ ?_ ?_ ?_ ?_ ?_ ?_

theorem joinSlice_keeps {s0 : State} (s : State) (r : HomeReq) (kept : Bool) (k_s : Keeps s0 s) : Keeps s0 (joinSlice s r kept) := by
  unfold joinSlice
  repeat' with_reducible first | assumption | intro _ | dsimp only | apply Keeps.ite | apply askHost_keeps | split | refine Keeps.upd ?_ ?_ ?_ ?_ ?_ ?_ ?_ ?_ ?_ ?_

theorem roomFor_keeps {s0 : State} (s : State) (r : HomeReq) (k_s : Keeps s0 s) : KeepsM s0 (roomFor s r) := by
  unfold roomFor
  repeat' with_reducible first | assumption | intro _ | dsimp only | apply Keeps.ite | apply KeepsM.some | exact KeepsM.none | apply KeepsM.ite | apply dirReserve_keeps | split

theorem serveWaiter_keeps {s0 : State} (s : State) (r : HomeReq) (k_s : Keeps s0 s) : Keeps s0 (serveWaiter s r) := by
  unfold serveWaiter
  repeat' with_reducible first | assumption | intro _ | dsimp only | apply roomFor_keeps | apply nackNote_keeps | apply snoopAll_keeps | apply homeFinish_keeps | apply sendAnswer_keeps | refine Keeps.pair2 (by assumption) ?_ | refine Keeps.pair3 (by assumption) ?_ | refine Keeps.pair1 (by assumption) ?_ | refine KeepsM.of (by assumption) ?_ | split

theorem fillRead_keeps {s0 : State} (s : State) (f : Fill) (k_s : Keeps s0 s) : Keeps s0 (fillRead s f).2 := by
  unfold fillRead
  repeat' with_reducible first | assumption | intro _ | dsimp only | apply Keeps.ite | apply linkUp_keeps | apply emit_keeps | apply backRead_keeps | refine Keeps.pair2 (by assumption) ?_ | refine Keeps.pair3 (by assumption) ?_ | refine Keeps.pair1 (by assumption) ?_ | refine KeepsM.of (by assumption) ?_ | split | refine Keeps.upd ?_ ?_ ?_ ?_ ?_ ?_ ?_ ?_ ?_ ?_

theorem granaryFillArrive_keeps {s0 : State} (s : State) (f : Fill) (k_s : Keeps s0 s) : Keeps s0 (granaryFillArrive s f) := by
  unfold granaryFillArrive
  repeat' with_reducible first | assumption | intro _ | dsimp only | apply Keeps.ite | apply fillRead_keeps | apply granaryInsert_keeps | apply serveWaiter_keeps | apply Keeps.foldl | apply Keeps.fold1 | apply Keeps.fold2 | apply Keeps.fold3 | refine Keeps.pair2 (by assumption) ?_ | refine Keeps.pair3 (by assumption) ?_ | refine Keeps.pair1 (by assumption) ?_ | refine KeepsM.of (by assumption) ?_ | split | refine Keeps.upd ?_ ?_ ?_ ?_ ?_ ?_ ?_ ?_ ?_ ?_

theorem finishTxn_keeps {s0 : State} (s : State) (t : Txn) (k_s : Keeps s0 s) : Keeps s0 (finishTxn s t) := by
  unfold finishTxn
  repeat' with_reducible first | assumption | intro _ | dsimp only | apply Keeps.ite | apply dirPut_keeps | apply joinSlice_keeps | apply homeFinish_keeps | apply sendAnswer_keeps | split | refine Keeps.upd ?_ ?_ ?_ ?_ ?_ ?_ ?_ ?_ ?_ ?_

theorem settleLine_keeps {s0 : State} (s : State) (l : LineAddr) (k_s : Keeps s0 s) : Keeps s0 (settleLine s l) := by
  unfold settleLine
  repeat' with_reducible first | assumption | intro _ | dsimp only | apply Keeps.ite | apply done_keeps | apply snoopAll_keeps | apply finishTxn_keeps | apply granaryFillArrive_keeps | apply Keeps.foldl | apply Keeps.fold1 | apply Keeps.fold2 | apply Keeps.fold3 | refine Keeps.pair2 (by assumption) ?_ | refine Keeps.pair3 (by assumption) ?_ | refine Keeps.pair1 (by assumption) ?_ | refine KeepsM.of (by assumption) ?_ | split | refine Keeps.upd ?_ ?_ ?_ ?_ ?_ ?_ ?_ ?_ ?_ ?_

theorem serveStarving_keeps {s0 : State} (s : State) (a : Nat) (l : LineAddr) (k_s : Keeps s0 s) : Keeps s0 (serveStarving s a l) := by
  unfold serveStarving
  repeat' with_reducible first | assumption | intro _ | dsimp only | apply serveWaiter_keeps | apply nackClear_keeps | apply Keeps.foldl | apply Keeps.fold1 | apply Keeps.fold2 | apply Keeps.fold3

theorem reachHome_keeps {s0 : State} (s : State) (a : Nat) (l : LineAddr) (r : HomeReq) (k_s : Keeps s0 s) : Keeps s0 (reachHome s a l r) := by
  unfold reachHome
  repeat' with_reducible first | assumption | intro _ | dsimp only | apply Keeps.ite | apply checkHome_keeps | apply serveStarving_keeps | apply settleLine_keeps | apply nackNote_keeps | apply nackClear_keeps | split

theorem makeRoom_keeps {s0 : State} (s : State) (c : Nat) (l : LineAddr) (k_s : Keeps s0 s) : Keeps s0 (makeRoom s c l) := by
  unfold makeRoom
  repeat' with_reducible first | assumption | intro _ | dsimp only | apply Keeps.ite | apply settleLine_keeps | apply Keeps.foldl | apply Keeps.fold1 | apply Keeps.fold2 | apply Keeps.fold3 | split

theorem makeDirRoom_keeps {s0 : State} (s : State) (r : HomeReq) (k_s : Keeps s0 s) : Keeps s0 (makeDirRoom s r) := by
  unfold makeDirRoom
  repeat' with_reducible first | assumption | intro _ | dsimp only | apply roomFor_keeps | apply settleLine_keeps | apply Keeps.foldl | apply Keeps.fold1 | apply Keeps.fold2 | apply Keeps.fold3 | apply Keeps.getD | refine Keeps.pair2 (by assumption) ?_ | refine Keeps.pair3 (by assumption) ?_ | refine Keeps.pair1 (by assumption) ?_ | refine KeepsM.of (by assumption) ?_ | split

theorem homeRun_keeps {s0 : State} (s : State) (r : HomeReq) (k_s : Keeps s0 s) : Keeps s0 (homeRun s r).2 := by
  unfold homeRun
  repeat' with_reducible first | assumption | intro _ | dsimp only | apply Keeps.ite | apply makeDirRoom_keeps | apply makeRoom_keeps | apply reachHome_keeps | apply frontNote_keeps | apply bumpCoh_keeps | apply snoopAll_keeps | apply homeFinish_keeps | split

theorem readCur_keeps {s0 : State} (s : State) (a : Nat) (l : LineAddr) (ctx : BitVec 20) (stream : Bool) (k_s : Keeps s0 s) : Keeps s0 (readCur s a l ctx stream).2 := by
  unfold readCur
  repeat' with_reducible first | assumption | intro _ | dsimp only | apply homeRun_keeps | apply Keeps.getD

theorem writeLine_keeps {s0 : State} (s : State) (a : Nat) (l : LineAddr) (data : List Byte) (mask : Nat) (ctx : BitVec 20) (stream : Bool) (k_s : Keeps s0 s) : Keeps s0 (writeLine s a l data mask ctx stream) := by
  unfold writeLine
  repeat' with_reducible first | assumption | intro _ | dsimp only | apply homeRun_keeps

theorem placeFill_keeps {s0 : State} (s : State) (f : Fill) (c : Coh) (a3 : Line) (k_s : Keeps s0 s) : Keeps s0 (placeFill s f c a3) := by
  unfold placeFill
  repeat' with_reducible first | assumption | intro _ | dsimp only | apply Keeps.ite | apply agentPlace_keeps | apply emit_keeps | split | refine Keeps.upd ?_ ?_ ?_ ?_ ?_ ?_ ?_ ?_ ?_ ?_

theorem agentFillArrive_keeps {s0 : State} (s : State) (f : Fill) (k_s : Keeps s0 s) : Keeps s0 (agentFillArrive s f) := by
  unfold agentFillArrive
  repeat' with_reducible first | assumption | intro _ | dsimp only | apply Keeps.ite | apply placeFill_keeps | apply emit_keeps | apply coherentRefuse_keeps | apply homeRun_keeps | apply Keeps.getD | refine Keeps.pair2 (by assumption) ?_ | refine Keeps.pair3 (by assumption) ?_ | refine Keeps.pair1 (by assumption) ?_ | refine KeepsM.of (by assumption) ?_ | split | refine Keeps.upd ?_ ?_ ?_ ?_ ?_ ?_ ?_ ?_ ?_ ?_

theorem joinFill_keeps {s0 : State} (s : State) (a : Nat) (l : LineAddr) (how : FillHow) (k_s : Keeps s0 s) : Keeps s0 (joinFill s a l how) := by
  unfold joinFill
  repeat' with_reducible first | assumption | intro _ | dsimp only | apply Keeps.ite | apply settleLine_keeps | apply agentFillArrive_keeps | refine Keeps.pair2 (by assumption) ?_ | refine Keeps.pair3 (by assumption) ?_ | refine Keeps.pair1 (by assumption) ?_ | refine KeepsM.of (by assumption) ?_ | split | refine Keeps.upd ?_ ?_ ?_ ?_ ?_ ?_ ?_ ?_ ?_ ?_

theorem agentRead_keeps {s0 : State} (s : State) (a : Nat) (port : Nat) (l : LineAddr) (ctx : BitVec 20) (how : FillHow) (k_s : Keeps s0 s) : Keeps s0 (agentRead s a port l ctx how).2 := by
  unfold agentRead
  repeat' with_reducible first | assumption | intro _ | dsimp only | apply Keeps.ite | apply readCur_keeps | apply joinFill_keeps | apply checkSet_keeps | apply prefetchNote_keeps | apply arrayRead_keeps | apply cacheModify_keeps | apply homeRun_keeps | apply agentPlace_keeps | apply makeRoom_keeps | apply Keeps.getD | refine Keeps.pair2 (by assumption) ?_ | refine Keeps.pair3 (by assumption) ?_ | refine Keeps.pair1 (by assumption) ?_ | refine KeepsM.of (by assumption) ?_ | split

theorem storeOwned_keeps {s0 : State} (s : State) (a : Nat) (l : LineAddr) (data : List Byte) (mask : Nat) (ctx : BitVec 20) (k_s : Keeps s0 s) : Keeps s0 (storeOwned s a l data mask ctx) := by
  unfold storeOwned
  repeat' with_reducible first | assumption | intro _ | dsimp only | apply Keeps.ite | apply copyRead_keeps | apply cacheModify_keeps | split

theorem agentWrite_keeps {s0 : State} (s : State) (a : Nat) (writer : Nat) (l : LineAddr) (data : List Byte) (mask : Nat) (ctx : BitVec 20) (stream : Bool) (k_s : Keeps s0 s) : Keeps s0 (agentWrite s a writer l data mask ctx stream) := by
  unfold agentWrite
  repeat' with_reducible first | assumption | intro _ | dsimp only | apply Keeps.ite | apply writeLine_keeps | apply joinFill_keeps | apply checkSet_keeps | apply detectWrite_keeps | apply storeOwned_keeps | apply reachHome_keeps | apply homeRun_keeps | apply agentPlace_keeps | apply makeRoom_keeps | apply Keeps.getD | refine Keeps.pair2 (by assumption) ?_ | refine Keeps.pair3 (by assumption) ?_ | refine Keeps.pair1 (by assumption) ?_ | refine KeepsM.of (by assumption) ?_ | split

theorem farAtomic_keeps {s0 : State} (s : State) (a : Nat) (l : LineAddr) (ctx : BitVec 20) (args : AtomArgs) (k_s : Keeps s0 s) : Keeps s0 (farAtomic s a l ctx args).after := by
  unfold farAtomic
  repeat' with_reducible first | assumption | intro _ | dsimp only | apply homeRun_keeps

theorem farRun_keeps {s0 : State} (s : State) (a : Nat) (l : LineAddr) (ctx : BitVec 20) (args : AtomArgs) (k_s : Keeps s0 s) : Keeps s0 (farRun s a l ctx args).after := by
  unfold farRun
  repeat' with_reducible first | assumption | intro _ | dsimp only | apply Keeps.ite | apply farAtomic_keeps | apply predMove_keeps | split

theorem takeOwned_keeps {s0 : State} (s : State) (a : Nat) (l : LineAddr) (ctx : BitVec 20) (k_s : Keeps s0 s) : Keeps s0 (takeOwned s a l ctx) := by
  unfold takeOwned
  repeat' with_reducible first | assumption | intro _ | dsimp only | apply Keeps.ite | apply predMove_keeps | apply reachHome_keeps | apply homeRun_keeps | apply agentPlace_keeps | apply makeRoom_keeps | refine Keeps.pair2 (by assumption) ?_ | refine Keeps.pair3 (by assumption) ?_ | refine Keeps.pair1 (by assumption) ?_ | refine KeepsM.of (by assumption) ?_ | split

theorem nearAtomicRun_keeps {s0 : State} (s : State) (a : Nat) (l : LineAddr) (ctx : BitVec 20) (args : AtomArgs) (k_s : Keeps s0 s) : Keeps s0 (nearAtomicRun s a l ctx args).after := by
  unfold nearAtomicRun
  repeat' with_reducible first | assumption | intro _ | dsimp only | apply Keeps.ite | apply takeOwned_keeps | apply joinFill_keeps | apply checkSet_keeps | apply copyRead_keeps | apply cacheModify_keeps | apply farRun_keeps | refine Keeps.pair2 (by assumption) ?_ | refine Keeps.pair3 (by assumption) ?_ | refine Keeps.pair1 (by assumption) ?_ | refine KeepsM.of (by assumption) ?_ | split

theorem atomicAccess_keeps {s0 : State} (s : State) (a : Nat) (l : LineAddr) (ctx : BitVec 20) (args : AtomArgs) (k_s : Keeps s0 s) : Keeps s0 (atomicAccess s a l ctx args).after := by
  unfold atomicAccess
  repeat' with_reducible first | assumption | intro _ | dsimp only | apply Keeps.ite | apply farRun_keeps | apply nearAtomicRun_keeps | split

theorem openAgentFill_keeps {s0 : State} (s : State) (r : HomeReq) (k_s : Keeps s0 s) : Keeps s0 (openAgentFill s r) := by
  unfold openAgentFill
  repeat' with_reducible first | assumption | intro _ | dsimp only | apply Keeps.ite | apply prefetchNote_keeps | split | refine Keeps.upd ?_ ?_ ?_ ?_ ?_ ?_ ?_ ?_ ?_ ?_

theorem joinAgentFill_keeps {s0 : State} (s : State) (r : HomeReq) (k_s : Keeps s0 s) : Keeps s0 (joinAgentFill s r) := by
  unfold joinAgentFill
  repeat' with_reducible first | assumption | intro _ | dsimp only | apply Keeps.ite | split | refine Keeps.upd ?_ ?_ ?_ ?_ ?_ ?_ ?_ ?_ ?_ ?_

theorem admitReq_keeps {s0 : State} (s : State) (r : HomeReq) (kept : Bool) (k_s : Keeps s0 s) : Keeps s0 (admitReq s r kept) := by
  unfold admitReq
  repeat' with_reducible first | assumption | intro _ | dsimp only | apply Keeps.ite | apply roomFor_keeps | apply nackNote_keeps | apply frontNote_keeps | apply nackClear_keeps | apply joinSlice_keeps | apply homeFinish_keeps | apply sendAnswer_keeps | apply bumpCoh_keeps | apply dirPut_keeps | refine Keeps.pair2 (by assumption) ?_ | refine Keeps.pair3 (by assumption) ?_ | refine Keeps.pair1 (by assumption) ?_ | refine KeepsM.of (by assumption) ?_ | split | refine Keeps.upd ?_ ?_ ?_ ?_ ?_ ?_ ?_ ?_ ?_ ?_

theorem requestHome_keeps {s0 : State} (s : State) (r : HomeReq) (retry : Bool) (k_s : Keeps s0 s) : Keeps s0 (requestHome s r retry) := by
  unfold requestHome
  repeat' with_reducible first | assumption | intro _ | dsimp only | apply Keeps.ite | apply emit_keeps | apply coherentRefuse_keeps | apply joinAgentFill_keeps | apply openAgentFill_keeps | apply checkHome_keeps | apply nackNote_keeps | apply admitReq_keeps | refine Keeps.pair2 (by assumption) ?_ | refine Keeps.pair3 (by assumption) ?_ | refine Keeps.pair1 (by assumption) ?_ | refine KeepsM.of (by assumption) ?_ | split

theorem snoopArrive_keeps {s0 : State} (s : State) (k : SnoopKind) (a : Nat) (l : LineAddr) (k_s : Keeps s0 s) : Keeps s0 (snoopArrive s k a l) := by
  unfold snoopArrive
  repeat' with_reducible first | assumption | intro _ | dsimp only | apply Keeps.ite | apply done_keeps | apply snoopAct_keeps | apply Keeps.getD | refine Keeps.pair2 (by assumption) ?_ | refine Keeps.pair3 (by assumption) ?_ | refine Keeps.pair1 (by assumption) ?_ | refine KeepsM.of (by assumption) ?_ | split | refine Keeps.upd ?_ ?_ ?_ ?_ ?_ ?_ ?_ ?_ ?_ ?_

theorem snoopAnswered_keeps {s0 : State} (s : State) (a : Nat) (l : LineAddr) (k_s : Keeps s0 s) : Keeps s0 (snoopAnswered s a l) := by
  unfold snoopAnswered
  repeat' with_reducible first | assumption | intro _ | dsimp only | apply Keeps.ite | apply done_keeps | apply finishTxn_keeps | refine Keeps.pair2 (by assumption) ?_ | refine Keeps.pair3 (by assumption) ?_ | refine Keeps.pair1 (by assumption) ?_ | refine KeepsM.of (by assumption) ?_ | split | refine Keeps.upd ?_ ?_ ?_ ?_ ?_ ?_ ?_ ?_ ?_ ?_

theorem execRds_keeps {s0 : State} (agent : Nat) (l : LineAddr) (q : ReqInfo) (s : State) (k_s : Keeps s0 s) : KeepsO s0 (execRds agent l q s) := by
  unfold execRds
  repeat' with_reducible first | assumption | intro _ | dsimp only | apply KeepsO.next | apply requestHome_keeps

theorem execRdo_keeps {s0 : State} (agent : Nat) (l : LineAddr) (q : ReqInfo) (s : State) (k_s : Keeps s0 s) : KeepsO s0 (execRdo agent l q s) := by
  unfold execRdo
  repeat' with_reducible first | assumption | intro _ | dsimp only | apply KeepsO.next | apply requestHome_keeps

theorem execUpg_keeps {s0 : State} (agent : Nat) (l : LineAddr) (q : ReqInfo) (s : State) (k_s : Keeps s0 s) : KeepsO s0 (execUpg agent l q s) := by
  unfold execUpg
  repeat' with_reducible first | assumption | intro _ | dsimp only | apply KeepsO.next | apply requestHome_keeps

theorem execRdcur_keeps {s0 : State} (agent : Nat) (l : LineAddr) (q : ReqInfo) (s : State) (k_s : Keeps s0 s) : KeepsO s0 (execRdcur agent l q s) := by
  unfold execRdcur
  repeat' with_reducible first | assumption | intro _ | dsimp only | apply KeepsO.next | apply requestHome_keeps

theorem execWrline_keeps {s0 : State} (agent : Nat) (l : LineAddr) (q : ReqInfo) (data : List Byte) (mask : W64) (s : State) (k_s : Keeps s0 s) : KeepsO s0 (execWrline agent l q data mask s) := by
  unfold execWrline
  repeat' with_reducible first | assumption | intro _ | dsimp only | apply KeepsO.next | apply requestHome_keeps

theorem execAtom_keeps {s0 : State} (agent : Nat) (l : LineAddr) (q : ReqInfo) (args : AtomArgs) (s : State) (k_s : Keeps s0 s) : KeepsO s0 (execAtom agent l q args s) := by
  unfold execAtom
  repeat' with_reducible first | assumption | intro _ | dsimp only | apply KeepsO.next | apply requestHome_keeps

theorem execOffer_keeps {s0 : State} (agent : Nat) (l : LineAddr) (s : State) (k_s : Keeps s0 s) : KeepsO s0 (execOffer agent l s) := by
  unfold execOffer
  repeat' with_reducible first | assumption | intro _ | dsimp only | apply Keeps.ite | apply KeepsO.next | apply KeepsO.ite | apply checkHome_keeps | apply checkSet_keeps | apply homeOffer_keeps | refine Keeps.pair2 (by assumption) ?_ | refine Keeps.pair3 (by assumption) ?_ | refine Keeps.pair1 (by assumption) ?_ | refine KeepsM.of (by assumption) ?_ | split

theorem execFwdS_keeps {s0 : State} (holder : Nat) (l : LineAddr) (s : State) (k_s : Keeps s0 s) : KeepsO s0 (execFwdS holder l s) := by
  unfold execFwdS
  repeat' with_reducible first | assumption | intro _ | dsimp only | apply KeepsO.next | apply snoopArrive_keeps

theorem execFwdI_keeps {s0 : State} (holder : Nat) (l : LineAddr) (s : State) (k_s : Keeps s0 s) : KeepsO s0 (execFwdI holder l s) := by
  unfold execFwdI
  repeat' with_reducible first | assumption | intro _ | dsimp only | apply KeepsO.next | apply snoopArrive_keeps

theorem execInv_keeps {s0 : State} (holder : Nat) (l : LineAddr) (s : State) (k_s : Keeps s0 s) : KeepsO s0 (execInv holder l s) := by
  unfold execInv
  repeat' with_reducible first | assumption | intro _ | dsimp only | apply KeepsO.next | apply snoopArrive_keeps

theorem execInvD_keeps {s0 : State} (holder : Nat) (l : LineAddr) (s : State) (k_s : Keeps s0 s) : KeepsO s0 (execInvD holder l s) := by
  unfold execInvD
  repeat' with_reducible first | assumption | intro _ | dsimp only | apply KeepsO.next | apply snoopArrive_keeps

theorem execCur_keeps {s0 : State} (holder : Nat) (l : LineAddr) (s : State) (k_s : Keeps s0 s) : KeepsO s0 (execCur holder l s) := by
  unfold execCur
  repeat' with_reducible first | assumption | intro _ | dsimp only | apply KeepsO.next | apply snoopArrive_keeps

theorem execSnoopResponse_keeps {s0 : State} (holder : Nat) (l : LineAddr) (s : State) (k_s : Keeps s0 s) : KeepsO s0 (execSnoopResponse holder l s) := by
  unfold execSnoopResponse
  repeat' with_reducible first | assumption | intro _ | dsimp only | apply KeepsO.next | apply snoopAnswered_keeps

theorem execNackRetry_keeps {s0 : State} (agent : Nat) (l : LineAddr) (s : State) (k_s : Keeps s0 s) : KeepsO s0 (execNackRetry agent l s) := by
  unfold execNackRetry
  repeat' with_reducible first | assumption | intro _ | dsimp only | apply KeepsO.next | apply requestHome_keeps | refine Keeps.pair2 (by assumption) ?_ | refine Keeps.pair3 (by assumption) ?_ | refine Keeps.pair1 (by assumption) ?_ | refine KeepsM.of (by assumption) ?_ | split

theorem execNearAtomic_keeps {s0 : State} (agent : Nat) (l : LineAddr) (q : ReqInfo) (args : AtomArgs) (s : State) (k_s : Keeps s0 s) : KeepsO s0 (execNearAtomic agent l q args s) := by
  unfold execNearAtomic
  repeat' with_reducible first | assumption | intro _ | dsimp only | apply Keeps.ite | apply KeepsO.next | apply KeepsO.ite | apply emit_keeps | apply coherentRefuse_keeps | apply farRun_keeps | apply nearAtomicRun_keeps | refine Keeps.pair2 (by assumption) ?_ | refine Keeps.pair3 (by assumption) ?_ | refine Keeps.pair1 (by assumption) ?_ | refine KeepsM.of (by assumption) ?_ | split

theorem execFillArrival_keeps {s0 : State} (cache : Nat) (l : LineAddr) (s : State) (k_s : Keeps s0 s) : KeepsO s0 (execFillArrival cache l s) := by
  unfold execFillArrival
  repeat' with_reducible first | assumption | intro _ | dsimp only | apply Keeps.ite | apply KeepsO.next | apply KeepsO.ite | apply granaryFillArrive_keeps | apply agentFillArrive_keeps | refine Keeps.pair2 (by assumption) ?_ | refine Keeps.pair3 (by assumption) ?_ | refine Keeps.pair1 (by assumption) ?_ | refine KeepsM.of (by assumption) ?_ | split

/-! ## Flush -/

theorem writeBack_keeps {s0 : State} (s : State) (l : LineAddr) (k_s : Keeps s0 s) : Keeps s0 (writeBack s l) := by
  unfold writeBack
  repeat' with_reducible first | assumption | intro _ | dsimp only | apply Keeps.ite | apply copyRead_keeps | apply cacheModify_keeps | apply backPut_keeps | apply agentSet_keeps | apply arrayRead_keeps | refine Keeps.pair2 (by assumption) ?_ | refine Keeps.pair3 (by assumption) ?_ | refine Keeps.pair1 (by assumption) ?_ | refine KeepsM.of (by assumption) ?_ | split

theorem dropLine_keeps {s0 : State} (s : State) (l : LineAddr) (k_s : Keeps s0 s) : Keeps s0 (dropLine s l) := by
  unfold dropLine
  repeat' with_reducible first | assumption | intro _ | dsimp only | apply Keeps.ite | apply agentSet_keeps | apply dirPut_keeps | apply cacheDrop_keeps | apply Keeps.foldl | apply Keeps.fold1 | apply Keeps.fold2 | apply Keeps.fold3 | split

theorem flushLine_keeps {s0 : State} (s : State) (l : LineAddr) (inval : Bool) (k_s : Keeps s0 s) : Keeps s0 (flushLine s l inval) := by
  unfold flushLine
  repeat' with_reducible first | assumption | intro _ | dsimp only | apply Keeps.ite | apply writeBack_keeps | apply settleLine_keeps | apply checkHome_keeps | apply dropLine_keeps | split

theorem flushWhere_keeps {s0 : State} (s : State) (p : LineAddr → Bool) (inval : Bool) (k_s : Keeps s0 s) : Keeps s0 (flushWhere s p inval) := by
  unfold flushWhere
  repeat' with_reducible first | assumption | intro _ | dsimp only | apply flushLine_keeps | apply k_p | apply Keeps.foldl | apply Keeps.fold1 | apply Keeps.fold2 | apply Keeps.fold3

theorem flushHostLines_keeps {s0 : State} (s : State) (k_s : Keeps s0 s) : Keeps s0 (flushHostLines s) := by
  unfold flushHostLines
  repeat' with_reducible first | assumption | intro _ | dsimp only | apply flushWhere_keeps

theorem dropHostLines_keeps {s0 : State} (s : State) (onlyDirty : Bool) (k_s : Keeps s0 s) : Keeps s0 (dropHostLines s onlyDirty) := by
  unfold dropHostLines
  repeat' with_reducible first | assumption | intro _ | dsimp only | apply Keeps.ite | apply dropLine_keeps | apply linkUp_keeps | apply Keeps.foldl | apply Keeps.fold1 | apply Keeps.fold2 | apply Keeps.fold3 | split | refine Keeps.upd ?_ ?_ ?_ ?_ ?_ ?_ ?_ ?_ ?_ ?_

theorem homeReadBytes_keeps {s0 : State} (s : State) (a : Nat) (space : Nat) (off : Nat) (n : Nat) (ctx : BitVec 20) (k_s : Keeps s0 s) : Keeps s0 (homeReadBytes s a space off n ctx).2.2 := by
  unfold homeReadBytes
  repeat' with_reducible first | assumption | intro _ | dsimp only | apply Keeps.ite | apply readCur_keeps | apply Keeps.foldl | apply Keeps.fold1 | apply Keeps.fold2 | apply Keeps.fold3 | split

theorem homeWriteBytes_keeps {s0 : State} (s : State) (a : Nat) (space : Nat) (off : Nat) (bs : List Byte) (ctx : BitVec 20) (k_s : Keeps s0 s) : Keeps s0 (homeWriteBytes s a space off bs ctx) := by
  unfold homeWriteBytes
  repeat' with_reducible first | assumption | intro _ | dsimp only | apply Keeps.ite | apply writeLine_keeps | apply Keeps.foldl | apply Keeps.fold1 | apply Keeps.fold2 | apply Keeps.fold3 | split

theorem logPoison_keeps {s0 : State} (s : State) (place : Nat × Nat) (l : LineAddr) (a3 : Line) (ctx : Nat) (k_s : Keeps s0 s) : Keeps s0 (logPoison s place l a3 ctx) := by
  unfold logPoison
  repeat' with_reducible first | assumption | intro _ | dsimp only | apply logError_keeps | refine Keeps.pair2 (by assumption) ?_ | refine Keeps.pair3 (by assumption) ?_ | refine Keeps.pair1 (by assumption) ?_ | refine KeepsM.of (by assumption) ?_ | split

/-! ## Operands -/

theorem tableRead_keeps {s0 : State} (s : State) (a : Nat) (k_s : Keeps s0 s) : Keeps s0 (tableRead s a) := by
  unfold tableRead
  repeat' with_reducible first | assumption | intro _ | dsimp only | apply Keeps.ite | apply memReadLine_keeps | apply emit_keeps | split

theorem setPteBit_keeps {s0 : State} (s : State) (ea : Nat) (k : Nat) (k_s : Keeps s0 s) : Keeps s0 (setPteBit s ea k) := by
  unfold setPteBit
  repeat' with_reducible first | assumption | intro _ | dsimp only | apply Keeps.ite | apply memWriteLine_keeps | apply emit_keeps | apply hostPutBytes_wf | refine Keeps.pair2 (by assumption) ?_ | refine Keeps.pair3 (by assumption) ?_ | refine Keeps.pair1 (by assumption) ?_ | refine KeepsM.of (by assumption) ?_ | split | refine Keeps.upd ?_ ?_ ?_ ?_ ?_ ?_ ?_ ?_ ?_ ?_

theorem markPte_keeps {s0 : State} (s : State) (ea : Nat) (e : Nat) (ad : Bool) (write : Bool) (k_s : Keeps s0 s) : Keeps s0 (markPte s ea e ad write) := by
  unfold markPte
  repeat' with_reducible first | assumption | intro _ | dsimp only | apply Keeps.ite | apply setPteBit_keeps | split

theorem setTlb_keeps {s0 : State} (s : State) (n : Option Nat) (es : List TlbEntry) (k_s : Keeps s0 s) : Keeps s0 (setTlb s n es) := by
  unfold setTlb
  repeat' with_reducible first | assumption | intro _ | dsimp only | refine Keeps.pair2 (by assumption) ?_ | refine Keeps.pair3 (by assumption) ?_ | refine Keeps.pair1 (by assumption) ?_ | refine KeepsM.of (by assumption) ?_ | split | refine Keeps.upd ?_ ?_ ?_ ?_ ?_ ?_ ?_ ?_ ?_ ?_

theorem tlbInsert_keeps {s0 : State} (s : State) (n : Option Nat) (e : TlbEntry) (k_s : Keeps s0 s) : Keeps s0 (tlbInsert s n e) := by
  unfold tlbInsert
  repeat' with_reducible first | assumption | intro _ | dsimp only | apply Keeps.ite | apply setTlb_keeps | split

theorem tlbFill_keeps {s0 : State} (s : State) (n : Option Nat) (e : TlbEntry) (k_s : Keeps s0 s) : Keeps s0 (tlbFill s n e) := by
  unfold tlbFill
  repeat' with_reducible first | assumption | intro _ | dsimp only | apply Keeps.ite | apply tlbInsert_keeps | split

theorem tlbLookup_keeps {s0 : State} (s : State) (n : Option Nat) (ctx : BitVec 20) (va : Nat) (acc : AccessKind) (ad : Bool) (k_s : Keeps s0 s) : Keeps s0 (tlbLookup s n ctx va acc ad).2 := by
  unfold tlbLookup
  repeat' with_reducible first | assumption | intro _ | dsimp only | apply Keeps.ite | apply tlbInsert_keeps | refine Keeps.pair2 (by assumption) ?_ | refine Keeps.pair3 (by assumption) ?_ | refine Keeps.pair1 (by assumption) ?_ | refine KeepsM.of (by assumption) ?_ | split

theorem invalidate_keeps {s0 : State} (s : State) (ctx : Option (BitVec 20)) (lo : Nat) (hi : Nat) (k_s : Keeps s0 s) : Keeps s0 (invalidate s ctx lo hi) := by
  unfold invalidate
  repeat' with_reducible first | assumption | intro _ | dsimp only | apply Keeps.ite | apply Keeps.foldl | apply Keeps.fold1 | apply Keeps.fold2 | apply Keeps.fold3 | split | refine Keeps.upd ?_ ?_ ?_ ?_ ?_ ?_ ?_ ?_ ?_ ?_

theorem countInval_keeps {s0 : State} (s : State) (k_s : Keeps s0 s) : Keeps s0 (countInval s) := by
  unfold countInval
  repeat' with_reducible first | assumption | intro _ | dsimp only | refine Keeps.upd ?_ ?_ ?_ ?_ ?_ ?_ ?_ ?_ ?_ ?_

theorem finishInval_keeps {s0 : State} (s : State) (v : Inval) (reply : State → State) (k_s : Keeps s0 s) (k_reply : ∀ (x0 : State), Keeps s0 x0 → Keeps s0 (reply x0)) : Keeps s0 (finishInval s v reply) := by
  unfold finishInval
  repeat' with_reducible first | assumption | intro _ | dsimp only | apply Keeps.ite | apply countInval_keeps | apply k_reply | split | refine Keeps.upd ?_ ?_ ?_ ?_ ?_ ?_ ?_ ?_ ?_ ?_

theorem invalidateFor_keeps {s0 : State} (s : State) (h : CmdHdr) (lo : Nat) (hi : Nat) (k_s : Keeps s0 s) : Keeps s0 (invalidateFor s h lo hi) := by
  unfold invalidateFor
  repeat' with_reducible first | assumption | intro _ | dsimp only | apply finishInval_keeps | apply invalidate_keeps | apply command_keeps | apply done_keeps

theorem setFault_keeps {s0 : State} (s : State) (n : Nat) (f : Option Fault1) (k_s : Keeps s0 s) : Keeps s0 (setFault s n f) := by
  unfold setFault
  repeat' with_reducible first | assumption | intro _ | dsimp only | refine Keeps.upd ?_ ?_ ?_ ?_ ?_ ?_ ?_ ?_ ?_ ?_

theorem recordFault_keeps {s0 : State} (s : State) (slot : Nat) (f : Fault1) (k_s : Keeps s0 s) : Keeps s0 (recordFault s slot f) := by
  unfold recordFault
  repeat' with_reducible first | assumption | intro _ | dsimp only | apply Keeps.ite | apply hostPost_keeps | apply setCtx_keeps | apply setFault_keeps | split | refine Keeps.upd ?_ ?_ ?_ ?_ ?_ ?_ ?_ ?_ ?_ ?_

theorem holdMiss_keeps {s0 : State} (s : State) (m : Miss) (k_s : Keeps s0 s) : Keeps s0 (holdMiss s m) := by
  unfold holdMiss
  repeat' with_reducible first | assumption | intro _ | dsimp only | apply Keeps.ite | split | refine Keeps.upd ?_ ?_ ?_ ?_ ?_ ?_ ?_ ?_ ?_ ?_

theorem joinMiss_keeps {s0 : State} (s : State) (m : Miss) (w : Requester × AccessKind) (k_s : Keeps s0 s) : Keeps s0 (joinMiss s m w) := by
  unfold joinMiss
  repeat' with_reducible first | assumption | intro _ | dsimp only | apply Keeps.ite | refine Keeps.pair2 (by assumption) ?_ | refine Keeps.pair3 (by assumption) ?_ | refine Keeps.pair1 (by assumption) ?_ | refine KeepsM.of (by assumption) ?_ | split | refine Keeps.upd ?_ ?_ ?_ ?_ ?_ ?_ ?_ ?_ ?_ ?_

theorem enterFault_keeps {s0 : State} (s : State) (n : Nat) (who : Requester) (ctx : BitVec 20) (va : Nat) (acc : AccessKind) (reason : Byte) (level : Nat) (k_s : Keeps s0 s) : Keeps s0 (enterFault s n who ctx va acc reason level) := by
  unfold enterFault
  repeat' with_reducible first | assumption | intro _ | dsimp only | apply Keeps.ite | apply setFault_keeps | apply parkRequester_keeps | apply emit_keeps | apply setCtx_keeps | apply recordFault_keeps | split | refine Keeps.upd ?_ ?_ ?_ ?_ ?_ ?_ ?_ ?_ ?_ ?_

theorem chainFault_keeps {s0 : State} (s : State) (n : Nat) (who : Requester) (k_s : Keeps s0 s) : Keeps s0 (chainFault s n who) := by
  unfold chainFault
  repeat' with_reducible first | assumption | intro _ | dsimp only | apply Keeps.ite | apply parkRequester_keeps | apply setFault_keeps | refine Keeps.pair2 (by assumption) ?_ | refine Keeps.pair3 (by assumption) ?_ | refine Keeps.pair1 (by assumption) ?_ | refine KeepsM.of (by assumption) ?_ | split

theorem raiseFault_keeps {s0 : State} (s : State) (who : Requester) (ctx : BitVec 20) (va : Nat) (acc : AccessKind) (reason : Byte) (level : Nat) (k_s : Keeps s0 s) : Keeps s0 (raiseFault s who ctx va acc reason level).2 := by
  unfold raiseFault
  repeat' with_reducible first | assumption | intro _ | dsimp only | apply Keeps.ite | apply holdMiss_keeps | apply setCtx_keeps | apply chainFault_keeps | apply freshFree_keeps | apply joinMiss_keeps | apply enterFault_keeps | refine Keeps.pair2 (by assumption) ?_ | refine Keeps.pair3 (by assumption) ?_ | refine Keeps.pair1 (by assumption) ?_ | refine KeepsM.of (by assumption) ?_ | split

theorem refuseWaiter_keeps {s0 : State} (s : State) (r : Requester) (ctx : BitVec 20) (va : Nat) (reason : Byte) (status : Byte) (k_s : Keeps s0 s) : Keeps s0 (refuseWaiter s r ctx va reason status) := by
  unfold refuseWaiter
  repeat' with_reducible first | assumption | intro _ | dsimp only | apply failRequester_keeps | apply refuseCtx_keeps

theorem stopWaiter_keeps {s0 : State} (s : State) (m : Miss) (reason : Byte) (level : Nat) (w : Requester × AccessKind) (k_s : Keeps s0 s) : Keeps s0 (stopWaiter s m reason level w) := by
  unfold stopWaiter
  repeat' with_reducible first | assumption | intro _ | dsimp only | apply Keeps.ite | apply raiseFault_keeps | apply refuseWaiter_keeps | refine Keeps.pair2 (by assumption) ?_ | refine Keeps.pair3 (by assumption) ?_ | refine Keeps.pair1 (by assumption) ?_ | refine KeepsM.of (by assumption) ?_ | split

theorem enterWaiting_keeps {s0 : State} (s : State) (m : Miss) (k_s : Keeps s0 s) : Keeps s0 (enterWaiting s m) := by
  unfold enterWaiting
  repeat' with_reducible first | assumption | intro _ | dsimp only | apply stopWaiter_keeps | apply Keeps.foldl | apply Keeps.fold1 | apply Keeps.fold2 | apply Keeps.fold3 | refine Keeps.pair2 (by assumption) ?_ | refine Keeps.pair3 (by assumption) ?_ | refine Keeps.pair1 (by assumption) ?_ | refine KeepsM.of (by assumption) ?_ | split | refine Keeps.upd ?_ ?_ ?_ ?_ ?_ ?_ ?_ ?_ ?_ ?_

theorem enterFaults_keeps {s0 : State} (s : State) (k_s : Keeps s0 s) : Keeps s0 (enterFaults s) := by
  unfold enterFaults
  repeat' with_reducible first | assumption | intro _ | dsimp only | apply enterWaiting_keeps | apply Keeps.foldl | apply Keeps.fold1 | apply Keeps.fold2 | apply Keeps.fold3

theorem countWalk_keeps {s0 : State} (s : State) (k_s : Keeps s0 s) : Keeps s0 (countWalk s) := by
  unfold countWalk
  repeat' with_reducible first | assumption | intro _ | dsimp only | refine Keeps.upd ?_ ?_ ?_ ?_ ?_ ?_ ?_ ?_ ?_ ?_

theorem leafFill_keeps {s0 : State} (s : State) (tlb : Option Nat) (ctx : BitVec 20) (va : Nat) (acc : AccessKind) (ea : Nat) (e : Nat) (sh : Nat) (w : Bool) (k_s : Keeps s0 s) : Keeps s0 (leafFill s tlb ctx va acc ea e sh w) := by
  unfold leafFill
  repeat' with_reducible first | assumption | intro _ | dsimp only | apply tableRead_keeps | apply markPte_keeps | apply tlbFill_keeps | apply Keeps.foldl | apply Keeps.fold1 | apply Keeps.fold2 | apply Keeps.fold3 | apply Keeps.getD | refine Keeps.upd ?_ ?_ ?_ ?_ ?_ ?_ ?_ ?_ ?_ ?_

theorem walkNow_keeps {s0 : State} (s : State) (tlb : Option Nat) (who : Requester) (ctx : BitVec 20) (va : Nat) (acc : AccessKind) (k_s : Keeps s0 s) : Keeps s0 (walkNow s tlb who ctx va acc).2 := by
  unfold walkNow
  repeat' with_reducible first | assumption | intro _ | dsimp only | apply Keeps.ite | apply tableRead_keeps | apply raiseFault_keeps | apply leafFill_keeps | apply Keeps.foldl | apply Keeps.fold1 | apply Keeps.fold2 | apply Keeps.fold3 | refine Keeps.pair2 (by assumption) ?_ | refine Keeps.pair3 (by assumption) ?_ | refine Keeps.pair1 (by assumption) ?_ | refine KeepsM.of (by assumption) ?_ | split

theorem startWalk_keeps {s0 : State} (s : State) (i : Nat) (k_s : Keeps s0 s) : Keeps s0 (startWalk s i) := by
  unfold startWalk
  repeat' with_reducible first | assumption | intro _ | dsimp only | apply Keeps.ite | apply countWalk_keeps | apply emit_keeps | apply openHostReq_keeps | refine Keeps.pair2 (by assumption) ?_ | refine Keeps.pair3 (by assumption) ?_ | refine Keeps.pair1 (by assumption) ?_ | refine KeepsM.of (by assumption) ?_ | split | refine Keeps.upd ?_ ?_ ?_ ?_ ?_ ?_ ?_ ?_ ?_ ?_

theorem startWalks_keeps {s0 : State} (s : State) (k_s : Keeps s0 s) : Keeps s0 (startWalks s) := by
  unfold startWalks
  repeat' with_reducible first | assumption | intro _ | dsimp only | apply startWalk_keeps | apply Keeps.foldl | apply Keeps.fold1 | apply Keeps.fold2 | apply Keeps.fold3

theorem eraseMiss_keeps {s0 : State} (s : State) (i : Nat) (k_s : Keeps s0 s) : Keeps s0 (eraseMiss s i) := by
  unfold eraseMiss
  repeat' with_reducible first | assumption | intro _ | dsimp only | apply linkUp_keeps | refine Keeps.pair2 (by assumption) ?_ | refine Keeps.pair3 (by assumption) ?_ | refine Keeps.pair1 (by assumption) ?_ | refine KeepsM.of (by assumption) ?_ | split | refine Keeps.upd ?_ ?_ ?_ ?_ ?_ ?_ ?_ ?_ ?_ ?_

theorem dropMiss_keeps {s0 : State} (s : State) (i : Nat) (k_s : Keeps s0 s) : Keeps s0 (dropMiss s i) := by
  unfold dropMiss
  repeat' with_reducible first | assumption | intro _ | dsimp only | apply startWalks_keeps | apply eraseMiss_keeps

theorem missWait_keeps {s0 : State} (s : State) (tlb : Option Nat) (who : Requester) (ctx : BitVec 20) (va : Nat) (acc : AccessKind) (k_s : Keeps s0 s) : Keeps s0 (missWait s tlb who ctx va acc) := by
  unfold missWait
  repeat' with_reducible first | assumption | intro _ | dsimp only | apply Keeps.ite | apply holdMiss_keeps | apply startWalks_keeps | apply joinMiss_keeps | apply Keeps.getD | split

theorem translate_keeps {s0 : State} (s : State) (tlb : Option Nat) (who : Requester) (ctx : BitVec 20) (a : Nat) (n : Nat) (acc : AccessKind) (k_s : Keeps s0 s) : Keeps s0 (translate s tlb who ctx a n acc).2 := by
  unfold translate
  repeat' with_reducible first | assumption | intro _ | dsimp only | apply Keeps.ite | apply tlbLookup_keeps | apply missWait_keeps | apply walkNow_keeps | apply countWalk_keeps | refine Keeps.pair2 (by assumption) ?_ | refine Keeps.pair3 (by assumption) ?_ | refine Keeps.pair1 (by assumption) ?_ | refine KeepsM.of (by assumption) ?_ | split

theorem translatePlanHost_keeps {s0 : State} (s : State) (tlb : Option Nat) (t : Nat) (ctx : BitVec 20) (dpa : Nat) (n : Nat) (acc : AccessKind) (k_s : Keeps s0 s) : Keeps s0 (translatePlanHost s tlb t ctx dpa n acc).2 := by
  unfold translatePlanHost
  repeat' with_reducible first | assumption | intro _ | dsimp only | apply Keeps.ite | apply translate_keeps | split

end

end Sys2Proof.Machine
end

