-- ==== Sys2Proof/Laws/KeepsCore.lean ====
section
/-!
SUPPORT. What every operation keeps (the queue, the canonical form of the stores, the legal values of the configuration registers):
command admission, accesses and store buffers.
-/
namespace Sys2Proof.Machine

section

set_option linter.all false

/-! ## Granger -/

theorem command_keeps {s0 : State} (s : State) (h : CmdHdr) (priv : Bool) (skip6 : Bool) (rsv : Bool) (body : State → State) (k_s : Keeps s0 s) (k_body : ∀ (x0 : State), Keeps s0 x0 → Keeps s0 (body x0)) : KeepsO s0 (command s h priv skip6 rsv body) := by
  unfold command
  repeat' with_reducible first | assumption | intro _ | dsimp only | apply Keeps.ite | apply KeepsO.next | apply KeepsO.ite | apply badPacket_keeps | apply complete_keeps | apply k_body | refine Keeps.pair2 (by assumption) ?_ | refine Keeps.pair3 (by assumption) ?_ | refine Keeps.pair1 (by assumption) ?_ | refine KeepsM.of (by assumption) ?_ | split

theorem guardCodes_keeps {s0 : State} (s : State) (h : CmdHdr) (a2 : List (Bool × Nat)) (a3 : State → State) (k_s : Keeps s0 s) (k_a3 : ∀ (x0 : State), Keeps s0 x0 → Keeps s0 (a3 x0)) : Keeps s0 (guardCodes s h a2 a3) := by
  fun_induction guardCodes s h a2 a3
  all_goals (repeat' with_reducible first | assumption | intro _ | dsimp only | apply Keeps.ite | apply badPacket_keeps | apply k_a3 | apply_assumption | refine Keeps.pair2 (by assumption) ?_ | refine Keeps.pair3 (by assumption) ?_ | refine Keeps.pair1 (by assumption) ?_ | refine KeepsM.of (by assumption) ?_ | split)

theorem bindCtx_keeps {s0 : State} (s : State) (h : CmdHdr) (seg : Bool) (lv5 : Bool) (ad : Bool) (k_s : Keeps s0 s) : Keeps s0 (bindCtx s h seg lv5 ad) := by
  unfold bindCtx
  repeat' with_reducible first | assumption | intro _ | dsimp only | apply Keeps.ite | apply complete_keeps | apply badPacket_keeps | apply done_keeps | apply setCtx_keeps | apply freshFree_keeps | refine Keeps.pair2 (by assumption) ?_ | refine Keeps.pair3 (by assumption) ?_ | refine Keeps.pair1 (by assumption) ?_ | refine KeepsM.of (by assumption) ?_ | split | refine Keeps.upd ?_ ?_ ?_ ?_ ?_ ?_ ?_ ?_ ?_ ?_

theorem unbindCtx_keeps {s0 : State} (s : State) (h : CmdHdr) (k_s : Keeps s0 s) : Keeps s0 (unbindCtx s h) := by
  unfold unbindCtx
  repeat' with_reducible first | assumption | intro _ | dsimp only | apply Keeps.ite | apply badPacket_keeps | apply invalidate_keeps | apply setCtx_keeps | apply finishInval_keeps | apply command_keeps | apply done_keeps | split | refine Keeps.upd ?_ ?_ ?_ ?_ ?_ ?_ ?_ ?_ ?_ ?_

theorem execCtxBind_keeps {s0 : State} (h : CmdHdr) (action : Byte) (mode : Bool) (levels5 : Bool) (adUpdate : Bool) (s : State) (k_s : Keeps s0 s) : KeepsO s0 (execCtxBind h action mode levels5 adUpdate s) := by
  unfold execCtxBind
  repeat' with_reducible first | assumption | intro _ | dsimp only | apply Keeps.ite | apply KeepsO.next | apply KeepsO.ite | apply command_keeps | apply bindCtx_keeps | apply unbindCtx_keeps | apply badPacket_keeps | split

theorem execSegSet_keeps {s0 : State} (h : CmdHdr) (seg : Byte) (entry : BitVec 128) (s : State) (k_s : Keeps s0 s) : KeepsO s0 (execSegSet h seg entry s) := by
  unfold execSegSet
  repeat' with_reducible first | assumption | intro _ | dsimp only | apply KeepsO.next | apply command_keeps | apply guardCodes_keeps | apply done_keeps | refine Keeps.upd ?_ ?_ ?_ ?_ ?_ ?_ ?_ ?_ ?_ ?_

theorem execPtRootSet_keeps {s0 : State} (h : CmdHdr) (root : W64) (s : State) (k_s : Keeps s0 s) : KeepsO s0 (execPtRootSet h root s) := by
  unfold execPtRootSet
  repeat' with_reducible first | assumption | intro _ | dsimp only | apply KeepsO.next | apply command_keeps | apply guardCodes_keeps | apply invalidateFor_keeps | apply setCtx_keeps

theorem execTlbInval_keeps {s0 : State} (h : CmdHdr) (base : W64) (length : W64) (s : State) (k_s : Keeps s0 s) : KeepsO s0 (execTlbInval h base length s) := by
  unfold execTlbInval
  repeat' with_reducible first | assumption | intro _ | dsimp only | apply Keeps.ite | apply KeepsO.next | apply KeepsO.ite | apply command_keeps | apply guardCodes_keeps | apply invalidateFor_keeps | split

theorem grantRange_keeps {s0 : State} (s : State) (first : Nat) (count : Nat) (e : W32) (k_s : Keeps s0 s) : Keeps s0 (grantRange s first count e) := by
  unfold grantRange
  repeat' with_reducible first | assumption | intro _ | dsimp only | apply Keeps.ite | apply flushWhere_keeps | split | refine Keeps.upd ?_ ?_ ?_ ?_ ?_ ?_ ?_ ?_ ?_ ?_

theorem execGrant_keeps {s0 : State} (h : CmdHdr) (first : W32) (count : W32) (entry : W32) (s : State) (k_s : Keeps s0 s) : KeepsO s0 (execGrant h first count entry s) := by
  unfold execGrant
  repeat' with_reducible first | assumption | intro _ | dsimp only | apply Keeps.ite | apply KeepsO.next | apply KeepsO.ite | apply command_keeps | apply guardCodes_keeps | apply complete_keeps | apply done_keeps | apply grantRange_keeps | split

theorem execRegionRegister_keeps {s0 : State} (h : CmdHdr) (key : W16) (wr : Bool) (base : W64) (length : W64) (s : State) (k_s : Keeps s0 s) : KeepsO s0 (execRegionRegister h key wr base length s) := by
  unfold execRegionRegister
  repeat' with_reducible first | assumption | intro _ | dsimp only | apply KeepsO.next | apply command_keeps | apply guardCodes_keeps | apply done_keeps | apply linkUp_keeps | refine Keeps.upd ?_ ?_ ?_ ?_ ?_ ?_ ?_ ?_ ?_ ?_

theorem execRegionRevoke_keeps {s0 : State} (h : CmdHdr) (key : W16) (s : State) (k_s : Keeps s0 s) : KeepsO s0 (execRegionRevoke h key s) := by
  unfold execRegionRevoke
  repeat' with_reducible first | assumption | intro _ | dsimp only | apply KeepsO.next | apply command_keeps | apply guardCodes_keeps | apply done_keeps | apply linkUp_keeps | refine Keeps.upd ?_ ?_ ?_ ?_ ?_ ?_ ?_ ?_ ?_ ?_

theorem releaseHeld_keeps {s0 : State} (s : State) (k_s : Keeps s0 s) : Keeps s0 (releaseHeld s) := by
  unfold releaseHeld
  repeat' with_reducible first | assumption | intro _ | dsimp only | refine Keeps.upd ?_ ?_ ?_ ?_ ?_ ?_ ?_ ?_ ?_ ?_

theorem unblock_keeps {s0 : State} (s : State) (ctx : BitVec 20) (k_s : Keeps s0 s) : Keeps s0 (unblock s ctx) := by
  unfold unblock
  repeat' with_reducible first | assumption | intro _ | dsimp only | apply Keeps.ite | apply releaseHeld_keeps | apply setCtx_keeps | refine Keeps.pair2 (by assumption) ?_ | refine Keeps.pair3 (by assumption) ?_ | refine Keeps.pair1 (by assumption) ?_ | refine KeepsM.of (by assumption) ?_ | split

theorem freeFault_keeps {s0 : State} (s : State) (slot : Nat) (k_s : Keeps s0 s) : Keeps s0 (freeFault s slot) := by
  unfold freeFault
  repeat' with_reducible first | assumption | intro _ | dsimp only | apply setFault_keeps | refine Keeps.upd ?_ ?_ ?_ ?_ ?_ ?_ ?_ ?_ ?_ ?_

theorem failFault_keeps {s0 : State} (s : State) (slot : Nat) (f : Fault1) (k_s : Keeps s0 s) : Keeps s0 (failFault s slot f) := by
  unfold failFault
  repeat' with_reducible first | assumption | intro _ | dsimp only | apply freeFault_keeps | apply logError_keeps | apply failRequester_keeps | apply enterFaults_keeps | apply unblock_keeps | apply Keeps.foldl | apply Keeps.fold1 | apply Keeps.fold2 | apply Keeps.fold3

theorem retryFault_keeps {s0 : State} (s : State) (slot : Nat) (f : Fault1) (k_s : Keeps s0 s) : Keeps s0 (retryFault s slot f) := by
  unfold retryFault
  repeat' with_reducible first | assumption | intro _ | dsimp only | apply freeFault_keeps | apply invalidate_keeps | apply resumeRequester_keeps | apply enterFaults_keeps | apply unblock_keeps | apply Keeps.foldl | apply Keeps.fold1 | apply Keeps.fold2 | apply Keeps.fold3

theorem retryResolved_keeps {s0 : State} (s : State) (slot : Nat) (f : Fault1) (dest : InvalFor) (reply : State → State) (k_s : Keeps s0 s) (k_reply : ∀ (x0 : State), Keeps s0 x0 → Keeps s0 (reply x0)) : Keeps s0 (retryResolved s slot f dest reply) := by
  unfold retryResolved
  repeat' with_reducible first | assumption | intro _ | dsimp only | apply finishInval_keeps | apply retryFault_keeps | apply k_reply

theorem execFaultResolve_keeps {s0 : State} (h : CmdHdr) (faultId : W16) (outcome : Byte) (s : State) (k_s : Keeps s0 s) : KeepsO s0 (execFaultResolve h faultId outcome s) := by
  unfold execFaultResolve
  repeat' with_reducible first | assumption | intro _ | dsimp only | apply Keeps.ite | apply KeepsO.next | apply KeepsO.ite | apply command_keeps | apply guardCodes_keeps | apply badPacket_keeps | apply retryResolved_keeps | apply done_keeps | apply failFault_keeps | refine Keeps.pair2 (by assumption) ?_ | refine Keeps.pair3 (by assumption) ?_ | refine Keeps.pair1 (by assumption) ?_ | refine KeepsM.of (by assumption) ?_ | split

/-! ## Access -/

theorem setTask_keeps {s0 : State} (s : State) (t : RemoteTask) (k_s : Keeps s0 s) : Keeps s0 (setTask s t) := by
  unfold setTask
  repeat' with_reducible first | assumption | intro _ | dsimp only | apply Keeps.ite | split | refine Keeps.upd ?_ ?_ ?_ ?_ ?_ ?_ ?_ ?_ ?_ ?_

theorem endTask_keeps {s0 : State} (s : State) (who : Requester) (k_s : Keeps s0 s) : Keeps s0 (endTask s who) := by
  unfold endTask
  repeat' with_reducible first | assumption | intro _ | dsimp only | apply setTask_keeps | apply dropOnce_keeps

theorem queueVc1_keeps {s0 : State} (s : State) (link : Nat) (ls : List (List Byte)) (k_s : Keeps s0 s) : Keeps s0 (queueVc1 s link ls) := by
  unfold queueVc1
  repeat' with_reducible first | assumption | intro _ | dsimp only | apply setLink_keeps

theorem queueVc2_keeps {s0 : State} (s : State) (link : Nat) (ls : List (List Byte)) (k_s : Keeps s0 s) : Keeps s0 (queueVc2 s link ls) := by
  unfold queueVc2
  repeat' with_reducible first | assumption | intro _ | dsimp only | apply setLink_keeps

theorem sendRemote_keeps {s0 : State} (s : State) (who : Requester) (ctx : BitVec 20) (op : Byte) (dpa : Nat) (asked : Nat) (mask : Nat) (data : List (List Byte)) (k_s : Keeps s0 s) : KeepsM s0 (sendRemote s who ctx op dpa asked mask data) := by
  unfold sendRemote
  repeat' with_reducible first | assumption | intro _ | dsimp only | apply KeepsM.some | exact KeepsM.none | apply freshFree_keeps | apply queueVc1_keeps | refine Keeps.pair2 (by assumption) ?_ | refine Keeps.pair3 (by assumption) ?_ | refine Keeps.pair1 (by assumption) ?_ | refine KeepsM.of (by assumption) ?_ | split | refine Keeps.upd ?_ ?_ ?_ ?_ ?_ ?_ ?_ ?_ ?_ ?_

theorem wantRemote_keeps {s0 : State} (s : State) (iss : Issuer) (o : LineOp) (k_s : Keeps s0 s) : Keeps s0 (wantRemote s iss o) := by
  unfold wantRemote
  repeat' with_reducible first | assumption | intro _ | dsimp only | apply Keeps.ite | apply sendRemote_keeps | apply Keeps.getD | split

theorem putRemote_keeps {s0 : State} (s : State) (iss : Issuer) (o : LineOp) (data : List Byte) (mask : Nat) (k_s : Keeps s0 s) : Keeps s0 (putRemote s iss o data mask) := by
  unfold putRemote
  repeat' with_reducible first | assumption | intro _ | dsimp only | apply Keeps.ite | apply sendRemote_keeps | apply setTask_keeps | refine Keeps.pair2 (by assumption) ?_ | refine Keeps.pair3 (by assumption) ?_ | refine Keeps.pair1 (by assumption) ?_ | refine KeepsM.of (by assumption) ?_ | split

theorem lineRefuse_keeps {s0 : State} (s : State) (iss : Issuer) (o : LineOp) (row : Nat) (k_s : Keeps s0 s) : Keeps s0 (lineRefuse s iss o row) := by
  unfold lineRefuse
  repeat' with_reducible first | assumption | intro _ | dsimp only | apply refuseCtx_keeps

theorem hostStrictRead_keeps {s0 : State} (s : State) (n : Nat) (k_s : Keeps s0 s) : Keeps s0 (hostStrictRead s n).2 := by
  unfold hostStrictRead
  repeat' with_reducible first | assumption | intro _ | dsimp only | apply emit_keeps

theorem lineGet_keeps {s0 : State} (s : State) (iss : Issuer) (o : LineOp) (k_s : Keeps s0 s) : Keeps s0 (lineGet s iss o).2 := by
  unfold lineGet
  repeat' with_reducible first | assumption | intro _ | dsimp only | apply Keeps.ite | apply memReadLine_keeps | apply hostStrictRead_keeps | apply agentRead_keeps | split

theorem linePut_keeps {s0 : State} (s : State) (iss : Issuer) (o : LineOp) (data : List Byte) (mask : Nat) (k_s : Keeps s0 s) : Keeps s0 (linePut s iss o data mask) := by
  unfold linePut
  repeat' with_reducible first | assumption | intro _ | dsimp only | apply Keeps.ite | apply backWrite_keeps | apply agentWrite_keeps | split

theorem poisonWords_keeps {s0 : State} (s : State) (l : LineAddr) (ws : List Nat) (k_s : Keeps s0 s) : Keeps s0 (poisonWords s l ws) := by
  unfold poisonWords
  repeat' with_reducible first | assumption | intro _ | dsimp only | apply Keeps.ite | apply cacheModify_keeps | apply hostPutWhole_keeps | apply ramPutLine_wf | apply ramFold_wf | apply wfIte | refine Keeps.pair2 (by assumption) ?_ | refine Keeps.pair3 (by assumption) ?_ | refine Keeps.pair1 (by assumption) ?_ | refine KeepsM.of (by assumption) ?_ | split | refine Keeps.upd ?_ ?_ ?_ ?_ ?_ ?_ ?_ ?_ ?_ ?_

theorem linePutWhole_keeps {s0 : State} (s : State) (iss : Issuer) (o : LineOp) (a3 : Line) (k_s : Keeps s0 s) : Keeps s0 (linePutWhole s iss o a3) := by
  unfold linePutWhole
  repeat' with_reducible first | assumption | intro _ | dsimp only | apply linePut_keeps | apply poisonWords_keeps

theorem resolveLine_keeps {s0 : State} (s : State) (iss : Issuer) (tlb : Option Nat) (a : Nat) (acc : AccessKind) (k_s : Keeps s0 s) : Keeps s0 (resolveLine s iss tlb a acc).2 := by
  unfold resolveLine
  repeat' with_reducible first | assumption | intro _ | dsimp only | apply translate_keeps | apply refuseCtx_keeps | apply lineRefuse_keeps | refine Keeps.pair2 (by assumption) ?_ | refine Keeps.pair3 (by assumption) ?_ | refine Keeps.pair1 (by assumption) ?_ | refine KeepsM.of (by assumption) ?_ | split

theorem resolveLines_keeps {s0 : State} (s : State) (iss : Issuer) (acc : AccessKind) (a3 : Nat) (a4 : Nat) (k_s : Keeps s0 s) : Keeps s0 (resolveLines s iss acc a3 a4).2.2 := by
  fun_induction resolveLines s iss acc a3 a4
  all_goals (repeat' with_reducible first | assumption | intro _ | dsimp only | apply resolveLine_keeps | apply_assumption | refine Keeps.pair2 (by assumption) ?_ | refine Keeps.pair3 (by assumption) ?_ | refine Keeps.pair1 (by assumption) ?_ | refine KeepsM.of (by assumption) ?_ | split)

/-! ## StoreBuf -/

theorem setBuf_keeps {s0 : State} (s : State) (k : Nat) (es : List SbEntry) (k_s : Keeps s0 s) : Keeps s0 (setBuf s k es) := by
  unfold setBuf
  repeat' with_reducible first | assumption | intro _ | dsimp only | refine Keeps.upd ?_ ?_ ?_ ?_ ?_ ?_ ?_ ?_ ?_ ?_

theorem noteLost_keeps {s0 : State} (s : State) (att : Nat) (g : BitVec 30) (k_s : Keeps s0 s) : Keeps s0 (noteLost s att g) := by
  unfold noteLost
  repeat' with_reducible first | assumption | intro _ | dsimp only | apply Keeps.ite | apply setAtt_keeps | split

theorem performEntry_keeps {s0 : State} (s : State) (k : Nat) (e : SbEntry) (k_s : Keeps s0 s) : Keeps s0 (performEntry s k e) := by
  unfold performEntry
  repeat' with_reducible first | assumption | intro _ | dsimp only | apply Keeps.ite | apply lineRefuse_keeps | apply noteLost_keeps | apply sendRemote_keeps | apply linePut_keeps | apply linkUp_keeps | apply Keeps.getD | refine Keeps.pair2 (by assumption) ?_ | refine Keeps.pair3 (by assumption) ?_ | refine Keeps.pair1 (by assumption) ?_ | refine KeepsM.of (by assumption) ?_ | split | refine Keeps.upd ?_ ?_ ?_ ?_ ?_ ?_ ?_ ?_ ?_ ?_

theorem freeBuf_keeps {s0 : State} (s : State) (k : Nat) (k_s : Keeps s0 s) : Keeps s0 (freeBuf s k) := by
  unfold freeBuf
  repeat' with_reducible first | assumption | intro _ | dsimp only | apply Keeps.ite | apply setAtt_keeps | split

theorem performAt_keeps {s0 : State} (s : State) (k : Nat) (i : Nat) (k_s : Keeps s0 s) : Keeps s0 (performAt s k i) := by
  unfold performAt
  repeat' with_reducible first | assumption | intro _ | dsimp only | apply Keeps.ite | apply freeBuf_keeps | apply performEntry_keeps | apply setBuf_keeps | refine Keeps.pair2 (by assumption) ?_ | refine Keeps.pair3 (by assumption) ?_ | refine Keeps.pair1 (by assumption) ?_ | refine KeepsM.of (by assumption) ?_ | split

theorem drainBuf_keeps {s0 : State} (s : State) (k : Nat) (k_s : Keeps s0 s) : Keeps s0 (drainBuf s k) := by
  unfold drainBuf
  repeat' with_reducible first | assumption | intro _ | dsimp only | apply performAt_keeps | apply Keeps.foldl | apply Keeps.fold1 | apply Keeps.fold2 | apply Keeps.fold3

theorem drainAll_keeps {s0 : State} (s : State) (k_s : Keeps s0 s) : Keeps s0 (drainAll s) := by
  unfold drainAll
  repeat' with_reducible first | assumption | intro _ | dsimp only | apply drainBuf_keeps | apply Keeps.foldl | apply Keeps.fold1 | apply Keeps.fold2 | apply Keeps.fold3

theorem pushStore_keeps {s0 : State} (s : State) (k : Nat) (l : LineAddr) (off : Nat) (bs : List Byte) (asked : Nat) (ctx : BitVec 20) (release : Bool) (strict : Bool) (stream : Bool) (k_s : Keeps s0 s) : Keeps s0 (pushStore s k l off bs asked ctx release strict stream) := by
  unfold pushStore
  repeat' with_reducible first | assumption | intro _ | dsimp only | apply Keeps.ite | apply setBuf_keeps | apply performAt_keeps | refine Keeps.pair2 (by assumption) ?_ | refine Keeps.pair3 (by assumption) ?_ | refine Keeps.pair1 (by assumption) ?_ | refine KeepsM.of (by assumption) ?_ | split

theorem epAnswer_keeps {s0 : State} (s : State) (att : Nat) (tag : BitVec 12) (status : BitVec 4) (lanes : List (Nat × BitVec 128)) (faultId : W16) (flags : Byte) (k_s : Keeps s0 s) : Keeps s0 (epAnswer s att tag status lanes faultId flags) := by
  unfold epAnswer
  repeat' with_reducible first | assumption | intro _ | dsimp only | apply Keeps.ite | apply setAtt_keeps | apply emit_keeps | apply freeBuf_keeps | refine Keeps.pair2 (by assumption) ?_ | refine Keeps.pair3 (by assumption) ?_ | refine Keeps.pair1 (by assumption) ?_ | refine KeepsM.of (by assumption) ?_ | split

theorem execStoreBufferPerform_keeps {s0 : State} (issuer : Nat) (index : Nat) (s : State) (k_s : Keeps s0 s) : KeepsO s0 (execStoreBufferPerform issuer index s) := by
  unfold execStoreBufferPerform
  repeat' with_reducible first | assumption | intro _ | dsimp only | apply KeepsO.next | apply performAt_keeps

end

end Sys2Proof.Machine
end

