-- ==== Sys2Proof/Laws/KeepsUnits.lean ====
section
/-!
SUPPORT. What every operation keeps (the queue, the canonical form of the stores, the legal values of the configuration registers):
the clocks, the Tillers and the sub-operations of their units.
-/
namespace Sys2Proof.Machine

section

set_option linter.all false

/-! ## Tick -/

theorem foldSignals_keeps {s0 : State} (s : State) (n : Nat) (t : Tiller) (k_s : Keeps s0 s) : Keeps s0 (foldSignals s n t) := by
  unfold foldSignals
  repeat' with_reducible first | assumption | intro _ | dsimp only | apply Keeps.ite | apply setTiller_keeps | apply raiseReplayed_keeps | apply Keeps.getD | split

theorem clockTick_keeps {s0 : State} (s : State) (k_s : Keeps s0 s) : Keeps s0 (clockTick s) := by
  unfold clockTick
  repeat' with_reducible first | assumption | intro _ | dsimp only | apply Keeps.ite | apply foldSignals_keeps | apply Keeps.foldl | apply Keeps.fold1 | apply Keeps.fold2 | apply Keeps.fold3 | split | refine Keeps.upd ?_ ?_ ?_ ?_ ?_ ?_ ?_ ?_ ?_ ?_

/-! ## Tiller -/

theorem storeNote_keeps {s0 : State} (s : State) (t : Nat) (ws : List (Nat × Nat)) (k_s : Keeps s0 s) : Keeps s0 (storeNote s t ws) := by
  unfold storeNote
  repeat' with_reducible first | assumption | intro _ | dsimp only | apply logError_keeps | apply Keeps.foldl | apply Keeps.fold1 | apply Keeps.fold2 | apply Keeps.fold3

theorem readStore_keeps {s0 : State} (s : State) (t : Nat) (ws : List (Nat × Nat)) (k : State → State) (k_s : Keeps s0 s) (k_k : ∀ (x0 : State), Keeps s0 x0 → Keeps s0 (k x0)) : Keeps s0 (readStore s t ws k) := by
  unfold readStore
  repeat' with_reducible first | assumption | intro _ | dsimp only | apply Keeps.ite | apply raiseReplayed_keeps | apply storeNote_keeps | apply k_k | split

theorem signalAdd_keeps {s0 : State} (s : State) (n : Nat) (c : Nat) (amount : Nat) (k_s : Keeps s0 s) : Keeps s0 (signalAdd s n c amount) := by
  unfold signalAdd
  repeat' with_reducible first | assumption | intro _ | dsimp only | apply Keeps.ite | apply setTiller_keeps | split

theorem tillerExec_keeps {s0 : State} (s : State) (t : Nat) (op : Nat) (k : State → State) (k_s : Keeps s0 s) (k_k : ∀ (x0 : State), Keeps s0 x0 → Keeps s0 (k x0)) : KeepsO s0 (tillerExec s t op k) := by
  unfold tillerExec
  repeat' with_reducible first | assumption | intro _ | dsimp only | apply Keeps.ite | apply KeepsO.next | apply KeepsO.ite | apply readStore_keeps | apply k_k | split

theorem execHalt_keeps {s0 : State} (t : Nat) (s : State) (k_s : Keeps s0 s) : KeepsO s0 (execHalt t s) := by
  unfold execHalt
  repeat' with_reducible first | assumption | intro _ | dsimp only | apply Keeps.ite | apply KeepsO.next | apply KeepsO.ite | apply tillerExec_keeps | apply setTiller_keeps | split

theorem execTillerNop_keeps {s0 : State} (t : Nat) (s : State) (k_s : Keeps s0 s) : KeepsO s0 (execTillerNop t s) := by
  unfold execTillerNop
  repeat' with_reducible first | assumption | intro _ | dsimp only | apply KeepsO.next | apply tillerExec_keeps | apply setTiller_keeps

theorem execLoop_keeps {s0 : State} (t : Nat) (s : State) (k_s : Keeps s0 s) : KeepsO s0 (execLoop t s) := by
  unfold execLoop
  repeat' with_reducible first | assumption | intro _ | dsimp only | apply KeepsO.next | apply tillerExec_keeps | apply setTiller_keeps

theorem execEndl_keeps {s0 : State} (t : Nat) (s : State) (k_s : Keeps s0 s) : KeepsO s0 (execEndl t s) := by
  unfold execEndl
  repeat' with_reducible first | assumption | intro _ | dsimp only | apply KeepsO.next | apply tillerExec_keeps | apply setTiller_keeps

theorem execAgset_keeps {s0 : State} (t : Nat) (s : State) (k_s : Keeps s0 s) : KeepsO s0 (execAgset t s) := by
  unfold execAgset
  repeat' with_reducible first | assumption | intro _ | dsimp only | apply KeepsO.next | apply tillerExec_keeps | apply readStore_keeps | apply setTiller_keeps

theorem execAgskip_keeps {s0 : State} (t : Nat) (s : State) (k_s : Keeps s0 s) : KeepsO s0 (execAgskip t s) := by
  unfold execAgskip
  repeat' with_reducible first | assumption | intro _ | dsimp only | apply KeepsO.next | apply tillerExec_keeps | apply setTiller_keeps

theorem execAgrst_keeps {s0 : State} (t : Nat) (s : State) (k_s : Keeps s0 s) : KeepsO s0 (execAgrst t s) := by
  unfold execAgrst
  repeat' with_reducible first | assumption | intro _ | dsimp only | apply KeepsO.next | apply tillerExec_keeps | apply setTiller_keeps

theorem execTwait_keeps {s0 : State} (t : Nat) (s : State) (k_s : Keeps s0 s) : KeepsO s0 (execTwait t s) := by
  unfold execTwait
  repeat' with_reducible first | assumption | intro _ | dsimp only | apply Keeps.ite | apply KeepsO.next | apply KeepsO.ite | apply tillerExec_keeps | apply setTiller_keeps | split

theorem execTwaitExpiry_keeps {s0 : State} (t : Nat) (s : State) (k_s : Keeps s0 s) : KeepsO s0 (execTwaitExpiry t s) := by
  unfold execTwaitExpiry
  repeat' with_reducible first | assumption | intro _ | dsimp only | apply Keeps.ite | apply KeepsO.next | apply KeepsO.ite | apply setTiller_keeps | refine Keeps.pair2 (by assumption) ?_ | refine Keeps.pair3 (by assumption) ?_ | refine Keeps.pair1 (by assumption) ?_ | refine KeepsM.of (by assumption) ?_ | split

theorem execSig_keeps {s0 : State} (t : Nat) (s : State) (k_s : Keeps s0 s) : KeepsO s0 (execSig t s) := by
  unfold execSig
  repeat' with_reducible first | assumption | intro _ | dsimp only | apply KeepsO.next | apply tillerExec_keeps | apply signalAdd_keeps | apply setTiller_keeps

theorem execWaits_keeps {s0 : State} (t : Nat) (s : State) (k_s : Keeps s0 s) : KeepsO s0 (execWaits t s) := by
  unfold execWaits
  repeat' with_reducible first | assumption | intro _ | dsimp only | apply Keeps.ite | apply KeepsO.next | apply KeepsO.ite | apply tillerExec_keeps | apply setTiller_keeps | split

theorem execWaitsPass_keeps {s0 : State} (t : Nat) (s : State) (k_s : Keeps s0 s) : KeepsO s0 (execWaitsPass t s) := by
  unfold execWaitsPass
  repeat' with_reducible first | assumption | intro _ | dsimp only | apply Keeps.ite | apply KeepsO.next | apply KeepsO.ite | apply setTiller_keeps | split

theorem execStep_keeps {s0 : State} (t : Nat) (s : State) (k_s : Keeps s0 s) : KeepsO s0 (execStep t s) := by
  unfold execStep
  repeat' with_reducible first | assumption | intro _ | dsimp only | apply KeepsO.next | apply tillerExec_keeps | apply setTiller_keeps

theorem execEbar_keeps {s0 : State} (t : Nat) (s : State) (k_s : Keeps s0 s) : KeepsO s0 (execEbar t s) := by
  unfold execEbar
  repeat' with_reducible first | assumption | intro _ | dsimp only | apply Keeps.ite | apply KeepsO.next | apply KeepsO.ite | apply tillerExec_keeps | apply setTiller_keeps | split

theorem issueNow_keeps {s0 : State} (s : State) (n : Nat) (k_s : Keeps s0 s) : Keeps s0 (issueNow s n) := by
  unfold issueNow
  repeat' with_reducible first | assumption | intro _ | dsimp only | apply setTiller_keeps | apply setUnit_keeps | apply Keeps.getD

theorem execIssue_keeps {s0 : State} (t : Nat) (s : State) (k_s : Keeps s0 s) : KeepsO s0 (execIssue t s) := by
  unfold execIssue
  repeat' with_reducible first | assumption | intro _ | dsimp only | apply Keeps.ite | apply KeepsO.next | apply KeepsO.ite | apply tillerExec_keeps | apply readStore_keeps | apply issueNow_keeps | apply setTiller_keeps | split

theorem execQueueEntry_keeps {s0 : State} (t : Nat) (s : State) (k_s : Keeps s0 s) : KeepsO s0 (execQueueEntry t s) := by
  unfold execQueueEntry
  repeat' with_reducible first | assumption | intro _ | dsimp only | apply Keeps.ite | apply KeepsO.next | apply KeepsO.ite | apply issueNow_keeps | split

/-! ## PlanAccess -/

theorem beginOp_keeps {s0 : State} (s : State) (u : Nat) (o : SubOp) (done : Option Nat) (earliest : Nat) (k_s : Keeps s0 s) : Keeps s0 (beginOp s u o done earliest) := by
  unfold beginOp
  repeat' with_reducible first | assumption | intro _ | dsimp only | apply Keeps.ite | apply setUnit_keeps | split

theorem beginDone_keeps {s0 : State} (s : State) (u : Nat) (o : SubOp) (done : Nat) (k_s : Keeps s0 s) : Keeps s0 (beginDone s u o done) := by
  unfold beginDone
  repeat' with_reducible first | assumption | intro _ | dsimp only | apply beginOp_keeps

theorem occupy_keeps {s0 : State} (s : State) (u : Nat) (tick : Nat) (k_s : Keeps s0 s) : Keeps s0 (occupy s u tick) := by
  unfold occupy
  repeat' with_reducible first | assumption | intro _ | dsimp only | apply setUnit_keeps

theorem setBegun_keeps {s0 : State} (s : State) (u : Nat) (b : Begun) (b' : Begun) (k_s : Keeps s0 s) : Keeps s0 (setBegun s u b b') := by
  unfold setBegun
  repeat' with_reducible first | assumption | intro _ | dsimp only | apply Keeps.ite | apply setUnit_keeps | split

theorem noteStep_keeps {s0 : State} (s : State) (step : Nat) (flags : Nat) (vanish : Nat) (k_s : Keeps s0 s) : Keeps s0 (noteStep s step flags vanish) := by
  unfold noteStep
  repeat' with_reducible first | assumption | intro _ | dsimp only | refine Keeps.upd ?_ ?_ ?_ ?_ ?_ ?_ ?_ ?_ ?_ ?_

theorem planLine_keeps {s0 : State} (s : State) (iss : Issuer) (tlb : Option Nat) (dpa : Nat) (acc : AccessKind) (k_s : Keeps s0 s) : Keeps s0 (planLine s iss tlb dpa acc).2 := by
  unfold planLine
  repeat' with_reducible first | assumption | intro _ | dsimp only | apply Keeps.ite | apply lineRefuse_keeps | apply translatePlanHost_keeps | apply refuseCtx_keeps | refine Keeps.pair2 (by assumption) ?_ | refine Keeps.pair3 (by assumption) ?_ | refine Keeps.pair1 (by assumption) ?_ | refine KeepsM.of (by assumption) ?_ | split

theorem planLines_keeps {s0 : State} (s : State) (iss : Issuer) (tlb : Option Nat) (acc : AccessKind) (a4 : List Nat) (k_s : Keeps s0 s) : Keeps s0 (planLines s iss tlb acc a4).2.2 := by
  fun_induction planLines s iss tlb acc a4
  all_goals (repeat' with_reducible first | assumption | intro _ | dsimp only | apply planLine_keeps | apply_assumption | refine Keeps.pair2 (by assumption) ?_ | refine Keeps.pair3 (by assumption) ?_ | refine Keeps.pair1 (by assumption) ?_ | refine KeepsM.of (by assumption) ?_ | split)

theorem planStops_keeps {s0 : State} (s : State) (e : RangeEnd) (k_s : Keeps s0 s) : Keeps s0 (planStops s e) := by
  unfold planStops
  repeat' with_reducible first | assumption | intro _ | dsimp only | apply planContained_keeps | refine Keeps.pair2 (by assumption) ?_ | refine Keeps.pair3 (by assumption) ?_ | refine Keeps.pair1 (by assumption) ?_ | refine KeepsM.of (by assumption) ?_ | split

theorem claimTiller_keeps {s0 : State} (before : State) (t : Nat) (s : State) (k_before : Keeps s0 before) (k_s : Keeps s0 s) : Keeps s0 (claimTiller before t s) := by
  unfold claimTiller
  repeat' with_reducible first | assumption | intro _ | dsimp only | apply linkUp_keeps | refine Keeps.upd ?_ ?_ ?_ ?_ ?_ ?_ ?_ ?_ ?_ ?_

theorem planRead_keeps {s0 : State} (s : State) (u : Nat) (o : SubOp) (source : Nat) (rs : List (Nat × Nat)) (k_s : Keeps s0 s) : Keeps s0 (planRead s u o source rs).2 := by
  unfold planRead
  repeat' with_reducible first | assumption | intro _ | dsimp only | apply Keeps.ite | apply planLines_keeps | apply wantRemote_keeps | apply lineGet_keeps | apply claimTiller_keeps | apply raiseReplayed_keeps | apply planStops_keeps | apply Keeps.foldl | apply Keeps.fold1 | apply Keeps.fold2 | apply Keeps.fold3 | apply Keeps.getD | refine Keeps.pair2 (by assumption) ?_ | refine Keeps.pair3 (by assumption) ?_ | refine Keeps.pair1 (by assumption) ?_ | refine KeepsM.of (by assumption) ?_ | split

theorem planWrite_keeps1 {s0 : State} (s : State) (u : Nat) (o : SubOp) (ws : List (Nat × List Byte)) (k_s : Keeps s0 s) : KeepsM s0 (planWrite s u o ws).1 := by
  unfold planWrite
  repeat' with_reducible first | assumption | intro _ | dsimp only | apply Keeps.ite | apply KeepsM.some | exact KeepsM.none | apply KeepsM.ite | apply planLines_keeps | apply claimTiller_keeps | apply linePut_keeps | apply putRemote_keeps | apply planContained_keeps | apply Keeps.foldl | apply Keeps.fold1 | apply Keeps.fold2 | apply Keeps.fold3 | refine Keeps.pair2 (by assumption) ?_ | refine Keeps.pair3 (by assumption) ?_ | refine Keeps.pair1 (by assumption) ?_ | refine KeepsM.of (by assumption) ?_ | split

theorem planWrite_keeps2 {s0 : State} (s : State) (u : Nat) (o : SubOp) (ws : List (Nat × List Byte)) (k_s : Keeps s0 s) : Keeps s0 (planWrite s u o ws).2 := by
  unfold planWrite
  repeat' with_reducible first | assumption | intro _ | dsimp only | apply Keeps.ite | apply KeepsM.some | exact KeepsM.none | apply KeepsM.ite | apply planLines_keeps | apply claimTiller_keeps | apply linePut_keeps | apply putRemote_keeps | apply planContained_keeps | apply Keeps.foldl | apply Keeps.fold1 | apply Keeps.fold2 | apply Keeps.fold3 | refine Keeps.pair2 (by assumption) ?_ | refine Keeps.pair3 (by assumption) ?_ | refine Keeps.pair1 (by assumption) ?_ | refine KeepsM.of (by assumption) ?_ | split

theorem planOp_keeps {s0 : State} (s : State) (u : Nat) (o : SubOp) (source : Nat) (rs : List (Nat × Nat)) (f : LineMap → List (Nat × List Byte) × Nat × Nat) (times : State → Nat × Nat) (fin : LineMap → State → State) (k_s : Keeps s0 s) (k_fin : ∀ (x0 : LineMap) (x1 : State), Keeps s0 x1 → Keeps s0 (fin x0 x1)) : Keeps s0 (planOp s u o source rs f times fin) := by
  unfold planOp
  repeat' with_reducible first | assumption | intro _ | dsimp only | apply planRead_keeps | apply planWrite_keeps1 | apply planWrite_keeps2 | apply endTask_keeps | apply occupy_keeps | apply beginDone_keeps | apply noteStep_keeps | apply k_f | apply k_times | apply k_fin | refine Keeps.pairM (by assumption) ?_ | refine Keeps.pair2 (by assumption) ?_ | refine Keeps.pair3 (by assumption) ?_ | refine Keeps.pair1 (by assumption) ?_ | refine KeepsM.of (by assumption) ?_ | split

/-! ## SheafOps -/

theorem execLoadTile_keeps {s0 : State} (sheaf : Nat) (s : State) (k_s : Keeps s0 s) : KeepsO s0 (execLoadTile sheaf s) := by
  unfold execLoadTile
  repeat' with_reducible first | assumption | intro _ | dsimp only | apply Keeps.ite | apply KeepsO.next | apply KeepsO.ite | apply planRead_keeps | apply endTask_keeps | apply setSheaf_keeps | apply beginDone_keeps | refine Keeps.pair2 (by assumption) ?_ | refine Keeps.pair3 (by assumption) ?_ | refine Keeps.pair1 (by assumption) ?_ | refine KeepsM.of (by assumption) ?_ | split

theorem entryNote_keeps {s0 : State} (s : State) (n : Nat) (ws : List (Nat × Nat)) (k_s : Keeps s0 s) : Keeps s0 (entryNote s n ws) := by
  unfold entryNote
  repeat' with_reducible first | assumption | intro _ | dsimp only | apply logError_keeps | apply Keeps.foldl | apply Keeps.fold1 | apply Keeps.fold2 | apply Keeps.fold3

theorem readEntries_keeps {s0 : State} (s : State) (n : Nat) (addrs : List Nat) (k : State → State) (k_s : Keeps s0 s) (k_k : ∀ (x0 : State), Keeps s0 x0 → Keeps s0 (k x0)) : Keeps s0 (readEntries s n addrs k) := by
  unfold readEntries
  repeat' with_reducible first | assumption | intro _ | dsimp only | apply Keeps.ite | apply raiseReplayed_keeps | apply entryNote_keeps | apply k_k | split

theorem readOpEntry_keeps {s0 : State} (s : State) (o : SubOp) (k : State → State) (k_s : Keeps s0 s) (k_k : ∀ (x0 : State), Keeps s0 x0 → Keeps s0 (k x0)) : Keeps s0 (readOpEntry s o k) := by
  unfold readOpEntry
  repeat' with_reducible first | assumption | intro _ | dsimp only | apply readStore_keeps | apply k_k

theorem execOpenRegion_keeps {s0 : State} (sheaf : Nat) (s : State) (k_s : Keeps s0 s) : KeepsO s0 (execOpenRegion sheaf s) := by
  unfold execOpenRegion
  repeat' with_reducible first | assumption | intro _ | dsimp only | apply Keeps.ite | apply KeepsO.next | apply KeepsO.ite | apply readOpEntry_keeps | apply setSheaf_keeps | apply beginDone_keeps | apply planRead_keeps | apply endTask_keeps | refine Keeps.pair2 (by assumption) ?_ | refine Keeps.pair3 (by assumption) ?_ | refine Keeps.pair1 (by assumption) ?_ | refine KeepsM.of (by assumption) ?_ | split

theorem execFreeRegion_keeps {s0 : State} (sheaf : Nat) (s : State) (k_s : Keeps s0 s) : KeepsO s0 (execFreeRegion sheaf s) := by
  unfold execFreeRegion
  repeat' with_reducible first | assumption | intro _ | dsimp only | apply KeepsO.next | apply readOpEntry_keeps | apply setSheaf_keeps | apply beginDone_keeps | refine Keeps.pair2 (by assumption) ?_ | refine Keeps.pair3 (by assumption) ?_ | refine Keeps.pair1 (by assumption) ?_ | refine KeepsM.of (by assumption) ?_ | split

theorem freezeSheaf_keeps {s0 : State} (s : State) (n : Nat) (k : Nat) (k_s : Keeps s0 s) : Keeps s0 (freezeSheaf s n k) := by
  unfold freezeSheaf
  repeat' with_reducible first | assumption | intro _ | dsimp only | apply Keeps.ite | apply setUnit_keeps | apply setSheaf_keeps | split | refine Keeps.upd ?_ ?_ ?_ ?_ ?_ ?_ ?_ ?_ ?_ ?_

theorem runPass_keeps {s0 : State} (m : LineMap) (hold : Nat) (s : State) (p : Nat × SubOp) (k_s : Keeps s0 s) : Keeps s0 (runPass m hold s p) := by
  unfold runPass
  repeat' with_reducible first | assumption | intro _ | dsimp only | apply Keeps.ite | apply freezeSheaf_keeps | apply setSheaf_keeps | apply noteStep_keeps | apply beginDone_keeps | refine Keeps.pair2 (by assumption) ?_ | refine Keeps.pair3 (by assumption) ?_ | refine Keeps.pair1 (by assumption) ?_ | refine KeepsM.of (by assumption) ?_ | split

theorem passChecked_keeps {s0 : State} (a0 : List (Nat × SubOp)) (a1 : State) (a2 : State → State) (k_a1 : Keeps s0 a1) (k_a2 : ∀ (x0 : State), Keeps s0 x0 → Keeps s0 (a2 x0)) : Keeps s0 (passChecked a0 a1 a2) := by
  fun_induction passChecked a0 a1 a2
  all_goals (repeat' with_reducible first | assumption | intro _ | dsimp only | apply Keeps.ite | apply readOpEntry_keeps | apply raiseReplayed_keeps | apply readEntries_keeps | apply k_a2 | apply_assumption | refine Keeps.pair2 (by assumption) ?_ | refine Keeps.pair3 (by assumption) ?_ | refine Keeps.pair1 (by assumption) ?_ | refine KeepsM.of (by assumption) ?_ | split)

theorem execPassRows_keeps {s0 : State} (sheaf : Nat) (s : State) (k_s : Keeps s0 s) : KeepsO s0 (execPassRows sheaf s) := by
  unfold execPassRows
  repeat' with_reducible first | assumption | intro _ | dsimp only | apply Keeps.ite | apply KeepsO.next | apply KeepsO.ite | apply raiseReplayed_keeps | apply planRead_keeps | apply passChecked_keeps | apply freshFree_keeps | apply endTask_keeps | apply runPass_keeps | apply Keeps.foldl | apply Keeps.fold1 | apply Keeps.fold2 | apply Keeps.fold3 | refine Keeps.pair2 (by assumption) ?_ | refine Keeps.pair3 (by assumption) ?_ | refine Keeps.pair1 (by assumption) ?_ | refine KeepsM.of (by assumption) ?_ | split

theorem execRegionFinish_keeps {s0 : State} (sheaf : Nat) (rbase : Nat) (s : State) (k_s : Keeps s0 s) : KeepsO s0 (execRegionFinish sheaf rbase s) := by
  unfold execRegionFinish
  repeat' with_reducible first | assumption | intro _ | dsimp only | apply Keeps.ite | apply KeepsO.next | apply KeepsO.ite | apply readEntries_keeps | apply noteStep_keeps | apply setSheaf_keeps | apply signalAdd_keeps | refine Keeps.pair2 (by assumption) ?_ | refine Keeps.pair3 (by assumption) ?_ | refine Keeps.pair1 (by assumption) ?_ | refine KeepsM.of (by assumption) ?_ | split

/-! ## ThresherOps -/

theorem setReduction_keeps {s0 : State} (s : State) (r : Reduction) (k_s : Keeps s0 s) : Keeps s0 (setReduction s r) := by
  unfold setReduction
  repeat' with_reducible first | assumption | intro _ | dsimp only | refine Keeps.upd ?_ ?_ ?_ ?_ ?_ ?_ ?_ ?_ ?_ ?_

theorem dropReduction_keeps {s0 : State} (s : State) (r : Reduction) (k_s : Keeps s0 s) : Keeps s0 (dropReduction s r) := by
  unfold dropReduction
  repeat' with_reducible first | assumption | intro _ | dsimp only | refine Keeps.upd ?_ ?_ ?_ ?_ ?_ ?_ ?_ ?_ ?_ ?_

theorem pushSet_keeps {s0 : State} (s : State) (u : Nat) (o : SubOp) (r : Reduction) (whole : Bool) (rs : List (Nat × Nat)) (hi : Nat) (count : Nat) (sets : LineMap → (Nat → List Node) × Nat) (k_s : Keeps s0 s) : Keeps s0 (pushSet s u o r whole rs hi count sets) := by
  unfold pushSet
  repeat' with_reducible first | assumption | intro _ | dsimp only | apply Keeps.ite | apply planOp_keeps | apply setReduction_keeps | apply k_sets | split

theorem setMismatch_keeps {s0 : State} (s : State) (u : Nat) (o : SubOp) (addr : Nat) (k_s : Keeps s0 s) : Keeps s0 (setMismatch s u o addr) := by
  unfold setMismatch
  repeat' with_reducible first | assumption | intro _ | dsimp only | apply raiseReplayed_keeps | apply beginDone_keeps

theorem npushMemory_keeps {s0 : State} (s : State) (u : Nat) (o : SubOp) (r : Reduction) (k_s : Keeps s0 s) : Keeps s0 (npushMemory s u o r) := by
  unfold npushMemory
  repeat' with_reducible first | assumption | intro _ | dsimp only | apply Keeps.ite | apply planRead_keeps | apply setMismatch_keeps | apply pushSet_keeps | refine Keeps.pair2 (by assumption) ?_ | refine Keeps.pair3 (by assumption) ?_ | refine Keeps.pair1 (by assumption) ?_ | refine KeepsM.of (by assumption) ?_ | split

theorem npushStore_keeps {s0 : State} (s : State) (u : Nat) (o : SubOp) (r : Reduction) (k_s : Keeps s0 s) : Keeps s0 (npushStore s u o r) := by
  unfold npushStore
  repeat' with_reducible first | assumption | intro _ | dsimp only | apply Keeps.ite | apply setMismatch_keeps | apply readEntries_keeps | apply pushSet_keeps | refine Keeps.pair2 (by assumption) ?_ | refine Keeps.pair3 (by assumption) ?_ | refine Keeps.pair1 (by assumption) ?_ | refine KeepsM.of (by assumption) ?_ | split

theorem execNpush_keeps {s0 : State} (rick : Nat) (s : State) (k_s : Keeps s0 s) : KeepsO s0 (execNpush rick s) := by
  unfold execNpush
  repeat' with_reducible first | assumption | intro _ | dsimp only | apply Keeps.ite | apply KeepsO.next | apply KeepsO.ite | apply readOpEntry_keeps | apply npushStore_keeps | apply npushMemory_keeps | refine Keeps.pair2 (by assumption) ?_ | refine Keeps.pair3 (by assumption) ?_ | refine Keeps.pair1 (by assumption) ?_ | refine KeepsM.of (by assumption) ?_ | split

theorem execLpush_keeps {s0 : State} (rick : Nat) (s : State) (k_s : Keeps s0 s) : KeepsO s0 (execLpush rick s) := by
  unfold execLpush
  repeat' with_reducible first | assumption | intro _ | dsimp only | apply KeepsO.next | apply readOpEntry_keeps | apply pushSet_keeps | apply Keeps.foldl | apply Keeps.fold1 | apply Keeps.fold2 | apply Keeps.fold3 | refine Keeps.pair2 (by assumption) ?_ | refine Keeps.pair3 (by assumption) ?_ | refine Keeps.pair1 (by assumption) ?_ | refine KeepsM.of (by assumption) ?_ | split

theorem execNsend_keeps {s0 : State} (rick : Nat) (s : State) (k_s : Keeps s0 s) : KeepsO s0 (execNsend rick s) := by
  unfold execNsend
  repeat' with_reducible first | assumption | intro _ | dsimp only | apply KeepsO.next | apply readOpEntry_keeps | apply planOp_keeps | apply dropReduction_keeps | refine Keeps.pair2 (by assumption) ?_ | refine Keeps.pair3 (by assumption) ?_ | refine Keeps.pair1 (by assumption) ?_ | refine KeepsM.of (by assumption) ?_ | split

theorem execRfin_keeps {s0 : State} (rick : Nat) (s : State) (k_s : Keeps s0 s) : KeepsO s0 (execRfin rick s) := by
  unfold execRfin
  repeat' with_reducible first | assumption | intro _ | dsimp only | apply KeepsO.next | apply readOpEntry_keeps | apply planOp_keeps | apply dropReduction_keeps | apply Keeps.foldl | apply Keeps.fold1 | apply Keeps.fold2 | apply Keeps.fold3 | refine Keeps.pair2 (by assumption) ?_ | refine Keeps.pair3 (by assumption) ?_ | refine Keeps.pair1 (by assumption) ?_ | refine KeepsM.of (by assumption) ?_ | split

theorem readStores_keeps {s0 : State} (a0 : List (Nat × List Nat)) (a1 : State) (a2 : State → State) (k_a1 : Keeps s0 a1) (k_a2 : ∀ (x0 : State), Keeps s0 x0 → Keeps s0 (a2 x0)) : Keeps s0 (readStores a0 a1 a2) := by
  fun_induction readStores a0 a1 a2
  all_goals (repeat' with_reducible first | assumption | intro _ | dsimp only | apply readEntries_keeps | apply k_a2 | apply_assumption | refine Keeps.pair2 (by assumption) ?_ | refine Keeps.pair3 (by assumption) ?_ | refine Keeps.pair1 (by assumption) ?_ | refine KeepsM.of (by assumption) ?_ | split)

theorem execWin_keeps {s0 : State} (rick : Nat) (s : State) (k_s : Keeps s0 s) : KeepsO s0 (execWin rick s) := by
  unfold execWin
  repeat' with_reducible first | assumption | intro _ | dsimp only | apply Keeps.ite | apply KeepsO.next | apply KeepsO.ite | apply readStores_keeps | apply planOp_keeps | apply Keeps.foldl | apply Keeps.fold1 | apply Keeps.fold2 | apply Keeps.fold3 | refine Keeps.pair2 (by assumption) ?_ | refine Keeps.pair3 (by assumption) ?_ | refine Keeps.pair1 (by assumption) ?_ | refine KeepsM.of (by assumption) ?_ | split

/-! ## MoveOps -/

theorem sendRuns_keeps {s0 : State} (s : State) (u : Nat) (o : SubOp) (link : Nat) (runs : Nat) (crop : Bool) (k_s : Keeps s0 s) : Keeps s0 (sendRuns s u o link runs crop) := by
  unfold sendRuns
  repeat' with_reducible first | assumption | intro _ | dsimp only | apply planRead_keeps | apply endTask_keeps | apply setLink_keeps | apply beginOp_keeps | refine Keeps.pair2 (by assumption) ?_ | refine Keeps.pair3 (by assumption) ?_ | refine Keeps.pair1 (by assumption) ?_ | refine KeepsM.of (by assumption) ?_ | split

theorem execSend_keeps {s0 : State} (link : Nat) (s : State) (k_s : Keeps s0 s) : KeepsO s0 (execSend link s) := by
  unfold execSend
  repeat' with_reducible first | assumption | intro _ | dsimp only | apply Keeps.ite | apply KeepsO.next | apply KeepsO.ite | apply sendRuns_keeps | refine Keeps.pair2 (by assumption) ?_ | refine Keeps.pair3 (by assumption) ?_ | refine Keeps.pair1 (by assumption) ?_ | refine KeepsM.of (by assumption) ?_ | split

theorem execXsend_keeps {s0 : State} (s : State) (k_s : Keeps s0 s) : KeepsO s0 (execXsend s) := by
  unfold execXsend
  repeat' with_reducible first | assumption | intro _ | dsimp only | apply Keeps.ite | apply KeepsO.next | apply KeepsO.ite | apply sendRuns_keeps | refine Keeps.pair2 (by assumption) ?_ | refine Keeps.pair3 (by assumption) ?_ | refine Keeps.pair1 (by assumption) ?_ | refine KeepsM.of (by assumption) ?_ | split

theorem sendDone_keeps {s0 : State} (s : State) (link : Nat) (k_s : Keeps s0 s) : Keeps s0 (sendDone s link) := by
  unfold sendDone
  repeat' with_reducible first | assumption | intro _ | dsimp only | apply setBegun_keeps | refine Keeps.pair2 (by assumption) ?_ | refine Keeps.pair3 (by assumption) ?_ | refine Keeps.pair1 (by assumption) ?_ | refine KeepsM.of (by assumption) ?_ | split

theorem receiveDone_keeps {s0 : State} (s : State) (u : Nat) (link : Nat) (crop : Bool) (b : Begun) (k_s : Keeps s0 s) : Keeps s0 (receiveDone s u link crop b) := by
  unfold receiveDone
  repeat' with_reducible first | assumption | intro _ | dsimp only | apply Keeps.ite | apply setBegun_keeps | apply setLink_keeps | apply Keeps.getD | split

theorem placeLines_keeps {s0 : State} (fuel : Nat) (s : State) (u link : Nat) (crop : Bool) (b : Begun) (ds : List Nat) (k_s : Keeps s0 s) :
    Keeps s0 (placeLines fuel s u link crop b ds) := by
  induction fuel generalizing s b with
  | zero => exact k_s
  | succ n ih =>
    rw [placeLines]
    dsimp only
    split
    · split
      · have k := Keeps.pairM (by assumption) (planWrite_keeps1 s u b.op _ k_s)
        with_reducible apply Keeps.ite
        · exact receiveDone_keeps _ _ _ _ _ (setLink_keeps _ _ _ (setBegun_keeps _ _ _ _ (endTask_keeps _ _ k)))
        · exact ih _ _ (setLink_keeps _ _ _ (setBegun_keeps _ _ _ _ (endTask_keeps _ _ k)))
      · exact Keeps.pair2 (by assumption) (planWrite_keeps2 s u b.op _ k_s)
    · exact k_s

theorem receiveLines_keeps {s0 : State} (s : State) (u : Nat) (link : Nat) (crop : Bool) (k_s : Keeps s0 s) : Keeps s0 (receiveLines s u link crop) := by
  unfold receiveLines
  repeat' with_reducible first | assumption | intro _ | dsimp only | apply Keeps.ite | apply placeLines_keeps | refine Keeps.pair2 (by assumption) ?_ | refine Keeps.pair3 (by assumption) ?_ | refine Keeps.pair1 (by assumption) ?_ | refine KeepsM.of (by assumption) ?_ | split

theorem execRecv_keeps {s0 : State} (link : Nat) (s : State) (k_s : Keeps s0 s) : KeepsO s0 (execRecv link s) := by
  unfold execRecv
  repeat' with_reducible first | assumption | intro _ | dsimp only | apply KeepsO.next | apply beginOp_keeps | apply receiveLines_keeps | refine Keeps.pair2 (by assumption) ?_ | refine Keeps.pair3 (by assumption) ?_ | refine Keeps.pair1 (by assumption) ?_ | refine KeepsM.of (by assumption) ?_ | split

theorem execXrecv_keeps {s0 : State} (s : State) (k_s : Keeps s0 s) : KeepsO s0 (execXrecv s) := by
  unfold execXrecv
  repeat' with_reducible first | assumption | intro _ | dsimp only | apply KeepsO.next | apply beginOp_keeps | apply receiveLines_keeps | refine Keeps.pair2 (by assumption) ?_ | refine Keeps.pair3 (by assumption) ?_ | refine Keeps.pair1 (by assumption) ?_ | refine KeepsM.of (by assumption) ?_ | split

theorem execTillerCopy_keeps {s0 : State} (engine : Nat) (s : State) (k_s : Keeps s0 s) : KeepsO s0 (execTillerCopy engine s) := by
  unfold execTillerCopy
  repeat' with_reducible first | assumption | intro _ | dsimp only | apply KeepsO.next | apply planOp_keeps | refine Keeps.pair2 (by assumption) ?_ | refine Keeps.pair3 (by assumption) ?_ | refine Keeps.pair1 (by assumption) ?_ | refine KeepsM.of (by assumption) ?_ | split

theorem prefetchPlan_keeps {s0 : State} (s : State) (iss : Issuer) (bin : Option Nat) (o : LineOp) (k_s : Keeps s0 s) : Keeps s0 (prefetchPlan s iss bin o) := by
  unfold prefetchPlan
  repeat' with_reducible first | assumption | intro _ | dsimp only | apply Keeps.ite | apply agentRead_keeps | apply homeFetch_keeps | apply makeRoom_keeps | apply settleLine_keeps | apply checkHome_keeps | refine Keeps.pair2 (by assumption) ?_ | refine Keeps.pair3 (by assumption) ?_ | refine Keeps.pair1 (by assumption) ?_ | refine KeepsM.of (by assumption) ?_ | split

theorem execPref_keeps {s0 : State} (engine : Nat) (s : State) (k_s : Keeps s0 s) : KeepsO s0 (execPref engine s) := by
  unfold execPref
  repeat' with_reducible first | assumption | intro _ | dsimp only | apply Keeps.ite | apply KeepsO.next | apply KeepsO.ite | apply planLines_keeps | apply prefetchPlan_keeps | apply beginDone_keeps | apply planStops_keeps | apply Keeps.foldl | apply Keeps.fold1 | apply Keeps.fold2 | apply Keeps.fold3 | refine Keeps.pair2 (by assumption) ?_ | refine Keeps.pair3 (by assumption) ?_ | refine Keeps.pair1 (by assumption) ?_ | refine KeepsM.of (by assumption) ?_ | split

theorem execZero_keeps {s0 : State} (engine : Nat) (s : State) (k_s : Keeps s0 s) : KeepsO s0 (execZero engine s) := by
  unfold execZero
  repeat' with_reducible first | assumption | intro _ | dsimp only | apply KeepsO.next | apply planOp_keeps | refine Keeps.pair2 (by assumption) ?_ | refine Keeps.pair3 (by assumption) ?_ | refine Keeps.pair1 (by assumption) ?_ | refine KeepsM.of (by assumption) ?_ | split

theorem execSubopCompletion_keeps {s0 : State} (unit : Nat) (s : State) (k_s : Keeps s0 s) : KeepsO s0 (execSubopCompletion unit s) := by
  unfold execSubopCompletion
  repeat' with_reducible first | assumption | intro _ | dsimp only | apply Keeps.ite | apply KeepsO.next | apply KeepsO.ite | apply setUnit_keeps | apply signalAdd_keeps | refine Keeps.pair2 (by assumption) ?_ | refine Keeps.pair3 (by assumption) ?_ | refine Keeps.pair1 (by assumption) ?_ | refine KeepsM.of (by assumption) ?_ | split

/-! ## PlanSched -/

theorem rowState_keeps {s0 : State} (s : State) (o : Host.Outcome State Fault Refusal) (k_s : Keeps s0 s) (k_o : KeepsO s0 o) : Keeps s0 (rowState s o) := by
  unfold rowState
  split
  · exact k_o.keeps _ rfl
  · exact k_s

theorem idealTiller_keeps {s0 : State} (s : State) (t : Nat) (k_s : Keeps s0 s) : Keeps s0 (idealTiller s t) := by
  unfold idealTiller
  repeat' with_reducible first | assumption | intro _ | dsimp only | apply KeepsO.next | apply rowState_keeps | apply execTwaitExpiry_keeps | apply execWaitsPass_keeps | apply execQueueEntry_keeps | apply execHalt_keeps | apply execTillerNop_keeps | apply execLoop_keeps | apply execEndl_keeps | apply execAgset_keeps | apply execAgskip_keeps | apply execAgrst_keeps | apply execTwait_keeps | apply execSig_keeps | apply execWaits_keeps | apply execStep_keeps | apply execEbar_keeps | apply execIssue_keeps | refine Keeps.pair2 (by assumption) ?_ | refine Keeps.pair3 (by assumption) ?_ | refine Keeps.pair1 (by assumption) ?_ | refine KeepsM.of (by assumption) ?_ | split

theorem idealPass_keeps {s0 : State} (s : State) (p : Nat × SubOp) (k_s : Keeps s0 s) : Keeps s0 (idealPass s p) := by
  unfold idealPass
  repeat' with_reducible first | assumption | intro _ | dsimp only | apply setSheaf_keeps | apply beginDone_keeps | refine Keeps.pair2 (by assumption) ?_ | refine Keeps.pair3 (by assumption) ?_ | refine Keeps.pair1 (by assumption) ?_ | refine KeepsM.of (by assumption) ?_ | split

theorem idealFinish_keeps {s0 : State} (v1 : Bool) (s : State) (n : Nat) (k_s : Keeps s0 s) : Keeps s0 (idealFinish v1 s n) := by
  unfold idealFinish
  repeat' with_reducible first | assumption | intro _ | dsimp only | apply Keeps.ite | apply setSheaf_keeps | apply signalAdd_keeps | apply Keeps.foldl | apply Keeps.fold1 | apply Keeps.fold2 | apply Keeps.fold3 | split

end

end Sys2Proof.Machine
end

