-- ==== Sys2Proof/Laws/KeepsRuns.lean ====
section
/-!
SUPPORT. What every operation keeps (the queue, the canonical form of the stores, the legal values of the configuration registers):
the Loft and the leases, Crops, plans, runs and barriers.
-/
namespace Sys2Proof.Machine

section

set_option linter.all false

/-! ## Loft -/

theorem stayInProgress_keeps {s0 : State} (s : State) (h : CmdHdr) (c : Instr) (k_s : Keeps s0 s) : Keeps s0 (stayInProgress s h c) := by
  unfold stayInProgress
  repeat' with_reducible first | assumption | intro _ | dsimp only | apply Keeps.ite | apply setWindrow_keeps | split

theorem evictCopy_keeps {s0 : State} (s : State) (a : Nat) (l : LineAddr) (k_s : Keeps s0 s) : Keeps s0 (evictCopy s a l) := by
  unfold evictCopy
  repeat' with_reducible first | assumption | intro _ | dsimp only | apply homeOffer_keeps | apply agentSet_keeps | apply Keeps.getD | refine Keeps.pair2 (by assumption) ?_ | refine Keeps.pair3 (by assumption) ?_ | refine Keeps.pair1 (by assumption) ?_ | refine KeepsM.of (by assumption) ?_ | split

theorem loseWay_keeps {s0 : State} (s : State) (l : LineAddr) (k_s : Keeps s0 s) : Keeps s0 (loseWay s l) := by
  unfold loseWay
  repeat' with_reducible first | assumption | intro _ | dsimp only | apply settleLine_keeps | apply evictCopy_keeps | apply granaryEvict_keeps | apply cacheDrop_keeps | apply Keeps.foldl | apply Keeps.fold1 | apply Keeps.fold2 | apply Keeps.fold3 | refine Keeps.pair2 (by assumption) ?_ | refine Keeps.pair3 (by assumption) ?_ | refine Keeps.pair1 (by assumption) ?_ | refine KeepsM.of (by assumption) ?_ | split

theorem loseLoftLine_keeps {s0 : State} (s : State) (l : LineAddr) (k_s : Keeps s0 s) : Keeps s0 (loseLoftLine s l) := by
  unfold loseLoftLine
  repeat' with_reducible first | assumption | intro _ | dsimp only | apply settleLine_keeps | apply dirPut_keeps | apply agentSet_keeps | apply Keeps.foldl | apply Keeps.fold1 | apply Keeps.fold2 | apply Keeps.fold3

theorem resizeLoft_keeps {s0 : State} (s : State) (w : Nat) (k_s : Keeps s0 s) : Keeps s0 (resizeLoft s w) := by
  unfold resizeLoft
  repeat' with_reducible first | assumption | intro _ | dsimp only | apply Keeps.ite | apply loseWay_keeps | apply loseLoftLine_keeps | apply cutRam_wf | apply Keeps.foldl | apply Keeps.fold1 | apply Keeps.fold2 | apply Keeps.fold3 | split | refine Keeps.upd ?_ ?_ ?_ ?_ ?_ ?_ ?_ ?_ ?_ ?_

theorem execLoftConfig_keeps {s0 : State} (h : CmdHdr) (action : Byte) (ways : Byte) (first : Byte) (count : Byte) (entry : W32) (s : State) (k_s : Keeps s0 s) : KeepsO s0 (execLoftConfig h action ways first count entry s) := by
  unfold execLoftConfig
  repeat' with_reducible first | assumption | intro _ | dsimp only | apply Keeps.ite | apply KeepsO.next | apply KeepsO.ite | apply command_keeps | apply guardCodes_keeps | apply complete_keeps | apply done_keeps | apply resizeLoft_keeps | apply badPacket_keeps | refine Keeps.pair2 (by assumption) ?_ | refine Keeps.pair3 (by assumption) ?_ | refine Keeps.pair1 (by assumption) ?_ | refine KeepsM.of (by assumption) ?_ | split | refine Keeps.upd ?_ ?_ ?_ ?_ ?_ ?_ ?_ ?_ ?_ ?_

theorem clearSheaf_keeps {s0 : State} (s : State) (n : Nat) (k_s : Keeps s0 s) : Keeps s0 (clearSheaf s n) := by
  unfold clearSheaf
  repeat' with_reducible first | assumption | intro _ | dsimp only | apply setSheaf_keeps

theorem leaseEnd_keeps {s0 : State} (s : State) (n : Nat) (k_s : Keeps s0 s) : Keeps s0 (leaseEnd s n) := by
  unfold leaseEnd
  repeat' with_reducible first | assumption | intro _ | dsimp only | apply clearSheaf_keeps | apply epAnswer_keeps | apply setSheaf_keeps | apply emit_keeps | apply Keeps.foldl | apply Keeps.fold1 | apply Keeps.fold2 | apply Keeps.fold3 | refine Keeps.pair2 (by assumption) ?_ | refine Keeps.pair3 (by assumption) ?_ | refine Keeps.pair1 (by assumption) ?_ | refine KeepsM.of (by assumption) ?_ | split

theorem leaseTake_keeps {s0 : State} (s : State) (n : Nat) (l : Lease) (k_s : Keeps s0 s) : Keeps s0 (leaseTake s n l) := by
  unfold leaseTake
  repeat' with_reducible first | assumption | intro _ | dsimp only | apply setSheaf_keeps

theorem leaseBegins_keeps {s0 : State} (s : State) (n : Nat) (k_s : Keeps s0 s) : Keeps s0 (leaseBegins s n) := by
  unfold leaseBegins
  repeat' with_reducible first | assumption | intro _ | dsimp only | apply clearSheaf_keeps | apply setSheaf_keeps | apply emit_keeps | refine Keeps.pair2 (by assumption) ?_ | refine Keeps.pair3 (by assumption) ?_ | refine Keeps.pair1 (by assumption) ?_ | refine KeepsM.of (by assumption) ?_ | split

theorem execEngineLease_keeps {s0 : State} (h : CmdHdr) (action : Byte) (attach : Byte) (sheaves : W16) (s : State) (k_s : Keeps s0 s) : KeepsO s0 (execEngineLease h action attach sheaves s) := by
  unfold execEngineLease
  repeat' with_reducible first | assumption | intro _ | dsimp only | apply Keeps.ite | apply KeepsO.next | apply KeepsO.ite | apply command_keeps | apply guardCodes_keeps | apply complete_keeps | apply done_keeps | apply stayInProgress_keeps | apply leaseTake_keeps | apply leaseEnd_keeps | apply badPacket_keeps | apply Keeps.foldl | apply Keeps.fold1 | apply Keeps.fold2 | apply Keeps.fold3 | refine Keeps.pair2 (by assumption) ?_ | refine Keeps.pair3 (by assumption) ?_ | refine Keeps.pair1 (by assumption) ?_ | refine KeepsM.of (by assumption) ?_ | split

theorem execLeaseBegin_keeps {s0 : State} (sheaf : Nat) (s : State) (k_s : Keeps s0 s) : KeepsO s0 (execLeaseBegin sheaf s) := by
  unfold execLeaseBegin
  repeat' with_reducible first | assumption | intro _ | dsimp only | apply Keeps.ite | apply KeepsO.next | apply KeepsO.ite | apply leaseBegins_keeps | apply done_keeps | apply Keeps.foldl | apply Keeps.fold1 | apply Keeps.fold2 | apply Keeps.fold3 | refine Keeps.pair2 (by assumption) ?_ | refine Keeps.pair3 (by assumption) ?_ | refine Keeps.pair1 (by assumption) ?_ | refine KeepsM.of (by assumption) ?_ | split

theorem execMarginPolicy_keeps {s0 : State} (h : CmdHdr) (ceilMv : W16) (fmin : Byte) (enable : Bool) (fmax : Byte) (s : State) (k_s : Keeps s0 s) : KeepsO s0 (execMarginPolicy h ceilMv fmin enable fmax s) := by
  unfold execMarginPolicy
  repeat' with_reducible first | assumption | intro _ | dsimp only | apply Keeps.ite | apply KeepsO.next | apply KeepsO.ite | apply command_keeps | apply guardCodes_keeps | apply done_keeps | split | refine Keeps.upd ?_ ?_ ?_ ?_ ?_ ?_ ?_ ?_ ?_ ?_

/-! ## Member -/

theorem loseRemote_keeps {s0 : State} (s : State) (r : RemoteReq) (k_s : Keeps s0 s) : Keeps s0 (loseRemote s r) := by
  unfold loseRemote
  repeat' with_reducible first | assumption | intro _ | dsimp only | apply Keeps.ite | apply raiseReplanned_keeps | apply logError_keeps | apply setTask_keeps | apply setWindrow_keeps | apply noteLost_keeps | apply Keeps.getD | refine Keeps.pair2 (by assumption) ?_ | refine Keeps.pair3 (by assumption) ?_ | refine Keeps.pair1 (by assumption) ?_ | refine KeepsM.of (by assumption) ?_ | split | refine Keeps.upd ?_ ?_ ?_ ?_ ?_ ?_ ?_ ?_ ?_ ?_

theorem loseRemoteOver_keeps {s0 : State} (s : State) (link : Nat) (k_s : Keeps s0 s) : Keeps s0 (loseRemoteOver s link) := by
  unfold loseRemoteOver
  repeat' with_reducible first | assumption | intro _ | dsimp only | apply loseRemote_keeps | apply Keeps.foldl | apply Keeps.fold1 | apply Keeps.fold2 | apply Keeps.fold3

theorem transmit_keeps {s0 : State} (s : State) (link : Nat) (f : SentFrame) (k_s : Keeps s0 s) : Keeps s0 (transmit s link f) := by
  unfold transmit
  repeat' with_reducible first | assumption | intro _ | dsimp only | apply setLink_keeps | apply emit_keeps

theorem sendNew_keeps {s0 : State} (s : State) (link : Nat) (body : FrameBody) (resending : Bool) (k_s : Keeps s0 s) : Keeps s0 (sendNew s link body resending) := by
  unfold sendNew
  repeat' with_reducible first | assumption | intro _ | dsimp only | apply Keeps.ite | apply transmit_keeps | apply setLink_keeps | split

theorem sendControl_keeps {s0 : State} (s : State) (link : Nat) (k_s : Keeps s0 s) : Keeps s0 (sendControl s link) := by
  unfold sendControl
  repeat' with_reducible first | assumption | intro _ | dsimp only | apply sendNew_keeps | apply setLink_keeps

theorem linkDown_keeps {s0 : State} (s : State) (n : Nat) (k_s : Keeps s0 s) : Keeps s0 (linkDown s n) := by
  unfold linkDown
  repeat' with_reducible first | assumption | intro _ | dsimp only | apply Keeps.ite | apply sendControl_keeps | apply setLink_keeps | apply loseRemoteOver_keeps | apply Keeps.foldl | apply Keeps.fold1 | apply Keeps.fold2 | apply Keeps.fold3 | split

theorem linksDown_keeps {s0 : State} (s : State) (k_s : Keeps s0 s) : Keeps s0 (linksDown s) := by
  unfold linksDown
  repeat' with_reducible first | assumption | intro _ | dsimp only | apply linkDown_keeps | apply Keeps.foldl | apply Keeps.fold1 | apply Keeps.fold2 | apply Keeps.fold3

theorem endMembership_keeps {s0 : State} (s : State) (k_s : Keeps s0 s) : Keeps s0 (endMembership s) := by
  unfold endMembership
  repeat' with_reducible first | assumption | intro _ | dsimp only | apply linksDown_keeps | refine Keeps.upd ?_ ?_ ?_ ?_ ?_ ?_ ?_ ?_ ?_ ?_

theorem checkMembership_keeps {s0 : State} (s : State) (k_s : Keeps s0 s) : Keeps s0 (checkMembership s) := by
  unfold checkMembership
  repeat' with_reducible first | assumption | intro _ | dsimp only | apply Keeps.ite | apply endMembership_keeps | split

theorem dissolve_keeps {s0 : State} (s : State) (k_s : Keeps s0 s) : Keeps s0 (dissolve s) := by
  unfold dissolve
  repeat' with_reducible first | assumption | intro _ | dsimp only | apply Keeps.ite | apply checkMembership_keeps | apply setSlot_keeps | apply Keeps.foldl | apply Keeps.fold1 | apply Keeps.fold2 | apply Keeps.fold3 | split

theorem clearRun_keeps {s0 : State} (s : State) (k_s : Keeps s0 s) : Keeps s0 (clearRun s) := by
  unfold clearRun
  repeat' with_reducible first | assumption | intro _ | dsimp only | apply setSheaf_keeps | apply Keeps.foldl | apply Keeps.fold1 | apply Keeps.fold2 | apply Keeps.fold3 | refine Keeps.upd ?_ ?_ ?_ ?_ ?_ ?_ ?_ ?_ ?_ ?_

/-! ## PlanLoad -/

theorem readDevice_keeps {s0 : State} (s : State) (off : Nat) (n : Nat) (ctx : BitVec 20) (k_s : Keeps s0 s) : Keeps s0 (readDevice s off n ctx).2 := by
  unfold readDevice
  repeat' with_reducible first | assumption | intro _ | dsimp only | apply refuseCtx_keeps | apply homeReadBytes_keeps | apply readCur_keeps | apply logPoison_keeps | refine Keeps.pair2 (by assumption) ?_ | refine Keeps.pair3 (by assumption) ?_ | refine Keeps.pair1 (by assumption) ?_ | refine KeepsM.of (by assumption) ?_ | split

theorem loadImage_keeps {s0 : State} (s : State) (ctx : BitVec 20) (image : Nat) (bindList : Nat) (position : Nat) (k_s : Keeps s0 s) : Keeps s0 (loadImage s ctx image bindList position).2 := by
  unfold loadImage
  repeat' with_reducible first | assumption | intro _ | dsimp only | apply Keeps.ite | apply readDevice_keeps | refine Keeps.pair2 (by assumption) ?_ | refine Keeps.pair3 (by assumption) ?_ | refine Keeps.pair1 (by assumption) ?_ | refine KeepsM.of (by assumption) ?_ | split

theorem execPlanLoad_keeps {s0 : State} (h : CmdHdr) (slot : Byte) (position : W16) (image : W64) (bindList : W64) (s : State) (k_s : Keeps s0 s) : KeepsO s0 (execPlanLoad h slot position image bindList s) := by
  unfold execPlanLoad
  repeat' with_reducible first | assumption | intro _ | dsimp only | apply Keeps.ite | apply KeepsO.next | apply KeepsO.ite | apply command_keeps | apply guardCodes_keeps | apply complete_keeps | apply done_keeps | apply loadImage_keeps | apply checkMembership_keeps | apply setSlot_keeps | refine Keeps.pair2 (by assumption) ?_ | refine Keeps.pair3 (by assumption) ?_ | refine Keeps.pair1 (by assumption) ?_ | refine KeepsM.of (by assumption) ?_ | split

/-! ## Formation -/

theorem takeFrom_keeps {s0 : State} (s : State) (link : Nat) (m : CtrlMsg) (k_s : Keeps s0 s) : Keeps s0 (takeFrom s link m) := by
  unfold takeFrom
  repeat' with_reducible first | assumption | intro _ | dsimp only | apply Keeps.ite | apply setLink_keeps | split

theorem takeMsg_keeps {s0 : State} (s : State) (m : CtrlMsg) (k_s : Keeps s0 s) : Keeps s0 (takeMsg s m) := by
  unfold takeMsg
  repeat' with_reducible first | assumption | intro _ | dsimp only | apply takeFrom_keeps | refine Keeps.pair2 (by assumption) ?_ | refine Keeps.pair3 (by assumption) ?_ | refine Keeps.pair1 (by assumption) ?_ | refine KeepsM.of (by assumption) ?_ | split

theorem sendAll_keeps {s0 : State} (s : State) (links : List Nat) (m : CtrlMsg) (k_s : Keeps s0 s) : Keeps s0 (sendAll s links m) := by
  unfold sendAll
  repeat' with_reducible first | assumption | intro _ | dsimp only | apply sendCtrl_keeps | apply Keeps.foldl | apply Keeps.fold1 | apply Keeps.fold2 | apply Keeps.fold3

theorem setForming_keeps {s0 : State} (s : State) (f : Forming) (k_s : Keeps s0 s) : Keeps s0 (setForming s f) := by
  unfold setForming
  repeat' with_reducible first | assumption | intro _ | dsimp only | refine Keeps.upd ?_ ?_ ?_ ?_ ?_ ?_ ?_ ?_ ?_ ?_

theorem replyForming_keeps {s0 : State} (s : State) (st : Byte) (detail : W32) (k_s : Keeps s0 s) : Keeps s0 (replyForming s st detail) := by
  unfold replyForming
  repeat' with_reducible first | assumption | intro _ | dsimp only | apply setForming_keeps | apply completeSeq_keeps | refine Keeps.pair2 (by assumption) ?_ | refine Keeps.pair3 (by assumption) ?_ | refine Keeps.pair1 (by assumption) ?_ | refine KeepsM.of (by assumption) ?_ | split

theorem endForming_keeps {s0 : State} (s : State) (st : Byte) (detail : W32) (k_s : Keeps s0 s) : Keeps s0 (endForming s st detail) := by
  unfold endForming
  repeat' with_reducible first | assumption | intro _ | dsimp only | apply Keeps.ite | apply replyForming_keeps | apply setSlot_keeps | apply checkMembership_keeps | split | refine Keeps.upd ?_ ?_ ?_ ?_ ?_ ?_ ?_ ?_ ?_ ?_

theorem rootAbort_keeps {s0 : State} (s : State) (code : Nat) (position : Nat) (k_s : Keeps s0 s) : Keeps s0 (rootAbort s code position) := by
  unfold rootAbort
  repeat' with_reducible first | assumption | intro _ | dsimp only | apply sendAll_keeps | apply endForming_keeps

theorem joinTree_keeps {s0 : State} (s : State) (k_s : Keeps s0 s) : Keeps s0 (joinTree s) := by
  unfold joinTree
  repeat' with_reducible first | assumption | intro _ | dsimp only | apply Keeps.ite | apply Keeps.foldl | apply Keeps.fold1 | apply Keeps.fold2 | apply Keeps.fold3 | refine Keeps.pair2 (by assumption) ?_ | refine Keeps.pair3 (by assumption) ?_ | refine Keeps.pair1 (by assumption) ?_ | refine KeepsM.of (by assumption) ?_ | split | refine Keeps.upd ?_ ?_ ?_ ?_ ?_ ?_ ?_ ?_ ?_ ?_

theorem dropSamples_keeps {s0 : State} (s : State) (k_s : Keeps s0 s) : Keeps s0 (dropSamples s) := by
  unfold dropSamples
  repeat' with_reducible first | assumption | intro _ | dsimp only | apply setLink_keeps | apply Keeps.foldl | apply Keeps.fold1 | apply Keeps.fold2 | apply Keeps.fold3

theorem bindForming_keeps {s0 : State} (s : State) (k_s : Keeps s0 s) : Keeps s0 (bindForming s) := by
  unfold bindForming
  repeat' with_reducible first | assumption | intro _ | dsimp only | apply setSlot_keeps | refine Keeps.upd ?_ ?_ ?_ ?_ ?_ ?_ ?_ ?_ ?_ ?_

theorem confirmForming_keeps {s0 : State} (s : State) (startTo : Nat) (k_s : Keeps s0 s) : Keeps s0 (confirmForming s startTo) := by
  unfold confirmForming
  repeat' with_reducible first | assumption | intro _ | dsimp only | apply setSlot_keeps | apply replyForming_keeps | refine Keeps.upd ?_ ?_ ?_ ?_ ?_ ?_ ?_ ?_ ?_ ?_

theorem reportFigures_keeps {s0 : State} (s : State) (k_s : Keeps s0 s) : Keeps s0 (reportFigures s) := by
  unfold reportFigures
  repeat' with_reducible first | assumption | intro _ | dsimp only | apply emit_keeps | refine Keeps.pair2 (by assumption) ?_ | refine Keeps.pair3 (by assumption) ?_ | refine Keeps.pair1 (by assumption) ?_ | refine KeepsM.of (by assumption) ?_ | split

theorem rootComplete_keeps {s0 : State} (s : State) (k_s : Keeps s0 s) : Keeps s0 (rootComplete s) := by
  unfold rootComplete
  repeat' with_reducible first | assumption | intro _ | dsimp only | apply Keeps.ite | apply aligned_keeps | apply confirmForming_keeps | apply reportFigures_keeps | apply sendAll_keeps | split

theorem reportBound_keeps {s0 : State} (s : State) (k_s : Keeps s0 s) : Keeps s0 (reportBound s) := by
  unfold reportBound
  repeat' with_reducible first | assumption | intro _ | dsimp only | apply Keeps.ite | apply rootComplete_keeps | apply sendCtrl_keeps | split

theorem alignCtb_keeps {s0 : State} (s : State) (q : Nat) (k_s : Keeps s0 s) : Keeps s0 (alignCtb s q) := by
  unfold alignCtb
  repeat' with_reducible first | assumption | intro _ | dsimp only | refine Keeps.upd ?_ ?_ ?_ ?_ ?_ ?_ ?_ ?_ ?_ ?_

theorem sendTime_keeps {s0 : State} (s : State) (k_s : Keeps s0 s) : Keeps s0 (sendTime s) := by
  unfold sendTime
  repeat' with_reducible first | assumption | intro _ | dsimp only | apply sendAll_keeps

theorem alignForming_keeps {s0 : State} (s : State) (q : Nat) (k_s : Keeps s0 s) : Keeps s0 (alignForming s q) := by
  unfold alignForming
  repeat' with_reducible first | assumption | intro _ | dsimp only | apply Keeps.ite | apply reportBound_keeps | apply bindForming_keeps | apply setForming_keeps | apply joinTree_keeps | apply alignCtb_keeps | apply sendAll_keeps | apply sendTime_keeps | apply dropSamples_keeps | split

theorem judgeForming_keeps {s0 : State} (s : State) (k_s : Keeps s0 s) : Keeps s0 (judgeForming s) := by
  unfold judgeForming
  repeat' with_reducible first | assumption | intro _ | dsimp only | apply Keeps.ite | apply aligned_keeps | apply rootAbort_keeps | apply alignForming_keeps | refine Keeps.pair2 (by assumption) ?_ | refine Keeps.pair3 (by assumption) ?_ | refine Keeps.pair1 (by assumption) ?_ | refine KeepsM.of (by assumption) ?_ | split

theorem reportChecks_keeps {s0 : State} (s : State) (k_s : Keeps s0 s) : Keeps s0 (reportChecks s) := by
  unfold reportChecks
  repeat' with_reducible first | assumption | intro _ | dsimp only | apply Keeps.ite | apply aligned_keeps | apply judgeForming_keeps | apply setForming_keeps | apply sendAll_keeps | split

theorem trainLinks_keeps {s0 : State} (s : State) (a1 : Slot) (k_s : Keeps s0 s) : Keeps s0 (trainLinks s a1) := by
  unfold trainLinks
  repeat' with_reducible first | assumption | intro _ | dsimp only | apply loseRemoteOver_keeps | apply setLink_keeps | apply Keeps.foldl | apply Keeps.fold1 | apply Keeps.fold2 | apply Keeps.fold3

theorem startForming_keeps {s0 : State} (s : State) (h : CmdHdr) (c : Instr) (isRoot : Bool) (slot : Nat) (nmember : Nat) (cropId : W32) (table : List Nat) (startTo : Nat) (k_s : Keeps s0 s) : Keeps s0 (startForming s h c isRoot slot nmember cropId table startTo) := by
  unfold startForming
  repeat' with_reducible first | assumption | intro _ | dsimp only | apply Keeps.ite | apply stayInProgress_keeps | apply setSlot_keeps | apply reportChecks_keeps | apply setForming_keeps | apply trainLinks_keeps | split | refine Keeps.upd ?_ ?_ ?_ ?_ ?_ ?_ ?_ ?_ ?_ ?_

theorem formCommand_keeps {s0 : State} (s : State) (h : CmdHdr) (c : Instr) (isRoot : Bool) (slot : Nat) (nmember : Nat) (cropId : W32) (table : List Nat) (timeouts : List Nat) (k_s : Keeps s0 s) : Keeps s0 (formCommand s h c isRoot slot nmember cropId table timeouts) := by
  unfold formCommand
  repeat' with_reducible first | assumption | intro _ | dsimp only | apply Keeps.ite | apply guardCodes_keeps | apply badPacket_keeps | apply complete_keeps | apply sendAll_keeps | apply stayInProgress_keeps | apply readDevice_keeps | apply startForming_keeps | refine Keeps.pair2 (by assumption) ?_ | refine Keeps.pair3 (by assumption) ?_ | refine Keeps.pair1 (by assumption) ?_ | refine KeepsM.of (by assumption) ?_ | split

theorem execCropForm_keeps {s0 : State} (h : CmdHdr) (slot : Byte) (nmember : W16) (cropId : W32) (table : W64) (formTo : W32) (startTo : W32) (s : State) (k_s : Keeps s0 s) : KeepsO s0 (execCropForm h slot nmember cropId table formTo startTo s) := by
  unfold execCropForm
  repeat' with_reducible first | assumption | intro _ | dsimp only | apply Keeps.ite | apply KeepsO.next | apply KeepsO.ite | apply command_keeps | apply formCommand_keeps | split

theorem execCropJoin_keeps {s0 : State} (h : CmdHdr) (slot : Byte) (nmember : W16) (cropId : W32) (table : W64) (joinTo : W32) (s : State) (k_s : Keeps s0 s) : KeepsO s0 (execCropJoin h slot nmember cropId table joinTo s) := by
  unfold execCropJoin
  repeat' with_reducible first | assumption | intro _ | dsimp only | apply Keeps.ite | apply KeepsO.next | apply KeepsO.ite | apply command_keeps | apply formCommand_keeps | split

theorem linkUp_keeps {s0 : State} (s : State) (link : Nat) (k_s : Keeps s0 s) : Keeps s0 (linkUp s link) := by
  unfold linkUp
  repeat' with_reducible first | assumption | intro _ | dsimp only | apply Keeps.ite | apply setLink_keeps | apply sendCtrl_keeps | apply reportChecks_keeps | apply Keeps.foldl | apply Keeps.fold1 | apply Keeps.fold2 | apply Keeps.fold3 | split

theorem execIdent_keeps {s0 : State} (link : Nat) (m : IdentMsg) (s : State) (k_s : Keeps s0 s) : KeepsO s0 (execIdent link m s) := by
  unfold execIdent
  repeat' with_reducible first | assumption | intro _ | dsimp only | apply Keeps.ite | apply KeepsO.next | apply KeepsO.ite | apply takeFrom_keeps | apply setLink_keeps | apply sendCtrl_keeps | apply reportChecks_keeps | apply Keeps.foldl | apply Keeps.fold1 | apply Keeps.fold2 | apply Keeps.fold3 | split

theorem refreshLate_keeps {s0 : State} (s : State) (k_s : Keeps s0 s) : Keeps s0 (refreshLate s) := by
  unfold refreshLate
  repeat' with_reducible first | assumption | intro _ | dsimp only | apply Keeps.ite | refine Keeps.pair2 (by assumption) ?_ | refine Keeps.pair3 (by assumption) ?_ | refine Keeps.pair1 (by assumption) ?_ | refine KeepsM.of (by assumption) ?_ | split | refine Keeps.upd ?_ ?_ ?_ ?_ ?_ ?_ ?_ ?_ ?_ ?_

theorem recordTrip_keeps {s0 : State} (s : State) (link : Nat) (roundTrip : Nat) (k_s : Keeps s0 s) : Keeps s0 (recordTrip s link roundTrip) := by
  unfold recordTrip
  repeat' with_reducible first | assumption | intro _ | dsimp only | apply Keeps.ite | apply refreshLate_keeps | apply setLink_keeps | split

theorem execBindReport_keeps {s0 : State} (link : Nat) (m : BindMsg) (s : State) (k_s : Keeps s0 s) : KeepsO s0 (execBindReport link m s) := by
  unfold execBindReport
  repeat' with_reducible first | assumption | intro _ | dsimp only | apply Keeps.ite | apply KeepsO.next | apply KeepsO.ite | apply takeFrom_keeps | apply aligned_keeps | apply setForming_keeps | apply judgeForming_keeps | apply sendAll_keeps | apply rootComplete_keeps | apply sendCtrl_keeps | refine Keeps.pair2 (by assumption) ?_ | refine Keeps.pair3 (by assumption) ?_ | refine Keeps.pair1 (by assumption) ?_ | refine KeepsM.of (by assumption) ?_ | split

theorem execBindNotice_keeps {s0 : State} (startTo : Nat) (s : State) (k_s : Keeps s0 s) : KeepsO s0 (execBindNotice startTo s) := by
  unfold execBindNotice
  repeat' with_reducible first | assumption | intro _ | dsimp only | apply Keeps.ite | apply KeepsO.next | apply KeepsO.ite | apply takeMsg_keeps | apply aligned_keeps | apply confirmForming_keeps | apply sendAll_keeps | split

theorem execAbort_keeps {s0 : State} (link : Nat) (cropId : W32) (code : Byte) (position : Nat) (fromRoot : Bool) (s : State) (k_s : Keeps s0 s) : KeepsO s0 (execAbort link cropId code position fromRoot s) := by
  unfold execAbort
  repeat' with_reducible first | assumption | intro _ | dsimp only | apply Keeps.ite | apply KeepsO.next | apply KeepsO.ite | apply takeFrom_keeps | apply endForming_keeps | apply sendAll_keeps | apply rootAbort_keeps | apply setForming_keeps | apply aligned_keeps | split

theorem execFormTimeout_keeps {s0 : State} (s : State) (k_s : Keeps s0 s) : KeepsO s0 (execFormTimeout s) := by
  unfold execFormTimeout
  repeat' with_reducible first | assumption | intro _ | dsimp only | apply Keeps.ite | apply KeepsO.next | apply KeepsO.ite | apply aligned_keeps | apply rootAbort_keeps | split

theorem execJoinTimeout_keeps {s0 : State} (s : State) (k_s : Keeps s0 s) : KeepsO s0 (execJoinTimeout s) := by
  unfold execJoinTimeout
  repeat' with_reducible first | assumption | intro _ | dsimp only | apply Keeps.ite | apply KeepsO.next | apply KeepsO.ite | apply aligned_keeps | apply sendAll_keeps | apply setForming_keeps | apply endForming_keeps | split

/-! ## RunOps -/

theorem restoreTillers_keeps {s0 : State} (s : State) (a1 : Slot) (p : Plan) (epoch : Nat) (recs : List TillerRec) (keepSlip : Bool) (k_s : Keeps s0 s) : Keeps s0 (restoreTillers s a1 p epoch recs keepSlip) := by
  unfold restoreTillers
  repeat' with_reducible first | assumption | intro _ | dsimp only | apply Keeps.ite | apply setTiller_keeps | apply Keeps.foldl | apply Keeps.fold1 | apply Keeps.fold2 | apply Keeps.fold3 | split

theorem restoreSheaves_keeps {s0 : State} (s : State) (counts : List (Nat × Nat)) (keepHold : Bool) (k_s : Keeps s0 s) : Keeps s0 (restoreSheaves s counts keepHold) := by
  unfold restoreSheaves
  repeat' with_reducible first | assumption | intro _ | dsimp only | apply Keeps.ite | apply setSheaf_keeps | apply Keeps.foldl | apply Keeps.fold1 | apply Keeps.fold2 | apply Keeps.fold3 | split

theorem endPlanLeases_keeps {s0 : State} (s : State) (k_s : Keeps s0 s) : Keeps s0 (endPlanLeases s) := by
  unfold endPlanLeases
  repeat' with_reducible first | assumption | intro _ | dsimp only | apply leaseEnd_keeps | apply Keeps.foldl | apply Keeps.fold1 | apply Keeps.fold2 | apply Keeps.fold3

theorem turnLeases_keeps {s0 : State} (s : State) (a1 : Slot) (p : Plan) (from_ : Option Nat) (epoch : Nat) (k_s : Keeps s0 s) : Keeps s0 (turnLeases s a1 p from_ epoch) := by
  unfold turnLeases
  repeat' with_reducible first | assumption | intro _ | dsimp only | apply Keeps.ite | apply leaseEnd_keeps | apply leaseTake_keeps | apply Keeps.foldl | apply Keeps.fold1 | apply Keeps.fold2 | apply Keeps.fold3 | split

theorem beginPlanLeases_keeps {s0 : State} (s : State) (k_s : Keeps s0 s) : Keeps s0 (beginPlanLeases s) := by
  unfold beginPlanLeases
  repeat' with_reducible first | assumption | intro _ | dsimp only | apply Keeps.ite | apply leaseBegins_keeps | apply Keeps.foldl | apply Keeps.fold1 | apply Keeps.fold2 | apply Keeps.fold3 | refine Keeps.pair2 (by assumption) ?_ | refine Keeps.pair3 (by assumption) ?_ | refine Keeps.pair1 (by assumption) ?_ | refine KeepsM.of (by assumption) ?_ | split

theorem takePolicy_keeps {s0 : State} (s : State) (k_s : Keeps s0 s) : Keeps s0 (takePolicy s) := by
  unfold takePolicy
  repeat' with_reducible first | assumption | intro _ | dsimp only | refine Keeps.pair2 (by assumption) ?_ | refine Keeps.pair3 (by assumption) ?_ | refine Keeps.pair1 (by assumption) ?_ | refine KeepsM.of (by assumption) ?_ | split | refine Keeps.upd ?_ ?_ ?_ ?_ ?_ ?_ ?_ ?_ ?_ ?_

theorem countRelax_keeps {s0 : State} (s : State) (k_s : Keeps s0 s) : Keeps s0 (countRelax s) := by
  unfold countRelax
  repeat' with_reducible first | assumption | intro _ | dsimp only | apply Keeps.ite | split | refine Keeps.upd ?_ ?_ ?_ ?_ ?_ ?_ ?_ ?_ ?_ ?_

theorem formRequest_keeps {s0 : State} (s : State) (closes : Bool) (k_s : Keeps s0 s) : Keeps s0 (formRequest s closes) := by
  unfold formRequest
  repeat' with_reducible first | assumption | intro _ | dsimp only | apply Keeps.ite | apply takePolicy_keeps | apply countRelax_keeps | split | refine Keeps.upd ?_ ?_ ?_ ?_ ?_ ?_ ?_ ?_ ?_ ?_

theorem driveVid_keeps {s0 : State} (s : State) (k_s : Keeps s0 s) : Keeps s0 (driveVid s) := by
  unfold driveVid
  repeat' with_reducible first | assumption | intro _ | dsimp only | apply Keeps.ite | apply emit_keeps | split | refine Keeps.upd ?_ ?_ ?_ ?_ ?_ ?_ ?_ ?_ ?_ ?_

theorem stepVdd_keeps {s0 : State} (s : State) (k_s : Keeps s0 s) : Keeps s0 (stepVdd s) := by
  unfold stepVdd
  repeat' with_reducible first | assumption | intro _ | dsimp only | apply Keeps.ite | apply driveVid_keeps | refine Keeps.pair2 (by assumption) ?_ | refine Keeps.pair3 (by assumption) ?_ | refine Keeps.pair1 (by assumption) ?_ | refine KeepsM.of (by assumption) ?_ | split | refine Keeps.upd ?_ ?_ ?_ ?_ ?_ ?_ ?_ ?_ ?_ ?_

theorem marginRelease_keeps {s0 : State} (s : State) (opens : Bool) (k_s : Keeps s0 s) : Keeps s0 (marginRelease s opens) := by
  unfold marginRelease
  repeat' with_reducible first | assumption | intro _ | dsimp only | apply Keeps.ite | apply stepVdd_keeps | split | refine Keeps.upd ?_ ?_ ?_ ?_ ?_ ?_ ?_ ?_ ?_ ?_

theorem flushArenas_keeps {s0 : State} (s : State) (rs : List (Nat × Nat)) (inval : Bool) (k_s : Keeps s0 s) : Keeps s0 (flushArenas s rs inval) := by
  unfold flushArenas
  repeat' with_reducible first | assumption | intro _ | dsimp only | apply flushWhere_keeps

theorem enterStart_keeps {s0 : State} (s : State) (h : CmdHdr) (c : Instr) (n : Nat) (p : Plan) (a5 : Slot) (k_s : Keeps s0 s) : Keeps s0 (enterStart s h c n p a5) := by
  unfold enterStart
  repeat' with_reducible first | assumption | intro _ | dsimp only | apply flushArenas_keeps | apply restoreSheaves_keeps | apply clearRun_keeps | apply setSlot_keeps | apply stayInProgress_keeps | apply Keeps.getD | refine Keeps.upd ?_ ?_ ?_ ?_ ?_ ?_ ?_ ?_ ?_ ?_

theorem replyRun_keeps {s0 : State} (s : State) (a1 : Slot) (st : Byte) (detail : W32) (k_s : Keeps s0 s) : Keeps s0 (replyRun s a1 st detail) := by
  unfold replyRun
  repeat' with_reducible first | assumption | intro _ | dsimp only | apply Keeps.ite | apply finishReply_keeps | refine Keeps.pair2 (by assumption) ?_ | refine Keeps.pair3 (by assumption) ?_ | refine Keeps.pair1 (by assumption) ?_ | refine KeepsM.of (by assumption) ?_ | split

theorem endRun_keeps {s0 : State} (s : State) (n : Nat) (y : Slot) (st : Byte) (detail : W32) (k_s : Keeps s0 s) : Keeps s0 (endRun s n y st detail) := by
  unfold endRun
  repeat' with_reducible first | assumption | intro _ | dsimp only | apply replyRun_keeps | apply setSlot_keeps | apply done_keeps | apply clearRun_keeps | apply endPlanLeases_keeps | apply checkMembership_keeps | apply Keeps.foldl | apply Keeps.fold1 | apply Keeps.fold2 | apply Keeps.fold3 | refine Keeps.upd ?_ ?_ ?_ ?_ ?_ ?_ ?_ ?_ ?_ ?_

theorem failParkedPlan_keeps {s0 : State} (s : State) (k_s : Keeps s0 s) : Keeps s0 (failParkedPlan s) := by
  unfold failParkedPlan
  repeat' with_reducible first | assumption | intro _ | dsimp only | apply Keeps.ite | apply enterFaults_keeps | apply setFault_keeps | apply unblock_keeps | apply freeFault_keeps | apply Keeps.foldl | apply Keeps.fold1 | apply Keeps.fold2 | apply Keeps.fold3 | refine Keeps.pair2 (by assumption) ?_ | refine Keeps.pair3 (by assumption) ?_ | refine Keeps.pair1 (by assumption) ?_ | refine KeepsM.of (by assumption) ?_ | split | refine Keeps.upd ?_ ?_ ?_ ?_ ?_ ?_ ?_ ?_ ?_ ?_

/-! ## Barrier -/

theorem discardTransfers_keeps {s0 : State} (s : State) (k_s : Keeps s0 s) : Keeps s0 (discardTransfers s) := by
  unfold discardTransfers
  repeat' with_reducible first | assumption | intro _ | dsimp only | apply setLink_keeps | apply Keeps.foldl | apply Keeps.fold1 | apply Keeps.fold2 | apply Keeps.fold3

theorem discardWork_keeps {s0 : State} (s : State) (k_s : Keeps s0 s) : Keeps s0 (discardWork s) := by
  unfold discardWork
  repeat' with_reducible first | assumption | intro _ | dsimp only | apply discardTransfers_keeps | apply setSheaf_keeps | apply Keeps.foldl | apply Keeps.fold1 | apply Keeps.fold2 | apply Keeps.fold3 | refine Keeps.upd ?_ ?_ ?_ ?_ ?_ ?_ ?_ ?_ ?_ ?_

theorem finishEnding_keeps {s0 : State} (s : State) (k_s : Keeps s0 s) : Keeps s0 (finishEnding s) := by
  unfold finishEnding
  repeat' with_reducible first | assumption | intro _ | dsimp only | apply Keeps.ite | apply endRun_keeps | apply Keeps.getD | refine Keeps.pair2 (by assumption) ?_ | refine Keeps.pair3 (by assumption) ?_ | refine Keeps.pair1 (by assumption) ?_ | refine KeepsM.of (by assumption) ?_ | split

theorem endingLeases_keeps {s0 : State} (s : State) (e : RunEnding) (k_s : Keeps s0 s) : Keeps s0 (endingLeases s e) := by
  unfold endingLeases
  repeat' with_reducible first | assumption | intro _ | dsimp only | apply endPlanLeases_keeps | refine Keeps.pair2 (by assumption) ?_ | refine Keeps.pair3 (by assumption) ?_ | refine Keeps.pair1 (by assumption) ?_ | refine KeepsM.of (by assumption) ?_ | split

theorem endingFaults_keeps {s0 : State} (s : State) (e : RunEnding) (k_s : Keeps s0 s) : Keeps s0 (endingFaults s e) := by
  unfold endingFaults
  repeat' with_reducible first | assumption | intro _ | dsimp only | apply failParkedPlan_keeps | refine Keeps.pair2 (by assumption) ?_ | refine Keeps.pair3 (by assumption) ?_ | refine Keeps.pair1 (by assumption) ?_ | refine KeepsM.of (by assumption) ?_ | split

theorem beginEnding_keeps {s0 : State} (s : State) (e : RunEnding) (k_s : Keeps s0 s) : Keeps s0 (beginEnding s e) := by
  unfold beginEnding
  repeat' with_reducible first | assumption | intro _ | dsimp only | apply Keeps.ite | apply endingFaults_keeps | apply endingLeases_keeps | apply discardWork_keeps | apply haltTillers_keeps | apply setSlot_keeps | apply finishEnding_keeps | refine Keeps.pair2 (by assumption) ?_ | refine Keeps.pair3 (by assumption) ?_ | refine Keeps.pair1 (by assumption) ?_ | refine KeepsM.of (by assumption) ?_ | split | refine Keeps.upd ?_ ?_ ?_ ?_ ?_ ?_ ?_ ?_ ?_ ?_

theorem startProbes_keeps {s0 : State} (s : State) (k_s : Keeps s0 s) : Keeps s0 (startProbes s) := by
  unfold startProbes
  repeat' with_reducible first | assumption | intro _ | dsimp only | apply sendCtrl_keeps | apply setLink_keeps | apply Keeps.foldl | apply Keeps.fold1 | apply Keeps.fold2 | apply Keeps.fold3

theorem aligned_keeps {s0 : State} (s : State) (k_s : Keeps s0 s) : Keeps s0 (aligned s) := by
  unfold aligned
  repeat' with_reducible first | assumption | intro _ | dsimp only | apply sendTime_keeps | refine Keeps.upd ?_ ?_ ?_ ?_ ?_ ?_ ?_ ?_ ?_ ?_

theorem realign_keeps {s0 : State} (s : State) (k_s : Keeps s0 s) : Keeps s0 (realign s) := by
  unfold realign
  repeat' with_reducible first | assumption | intro _ | dsimp only | apply Keeps.ite | apply aligned_keeps | apply alignCtb_keeps | refine Keeps.pair2 (by assumption) ?_ | refine Keeps.pair3 (by assumption) ?_ | refine Keeps.pair1 (by assumption) ?_ | refine KeepsM.of (by assumption) ?_ | split | refine Keeps.upd ?_ ?_ ?_ ?_ ?_ ?_ ?_ ?_ ?_ ?_

theorem startSettle_keeps {s0 : State} (s : State) (pct : Nat) (k_s : Keeps s0 s) : Keeps s0 (startSettle s pct) := by
  unfold startSettle
  repeat' with_reducible first | assumption | intro _ | dsimp only | apply Keeps.ite | apply realign_keeps | apply startProbes_keeps | split | refine Keeps.upd ?_ ?_ ?_ ?_ ?_ ?_ ?_ ?_ ?_ ?_

theorem applyRoot_keeps {s0 : State} (s : State) (pct : Nat) (k_s : Keeps s0 s) : Keeps s0 (applyRoot s pct) := by
  unfold applyRoot
  repeat' with_reducible first | assumption | intro _ | dsimp only | apply Keeps.ite | split | refine Keeps.upd ?_ ?_ ?_ ?_ ?_ ?_ ?_ ?_ ?_ ?_

theorem execRootSettled_keeps {s0 : State} (s : State) (k_s : Keeps s0 s) : KeepsO s0 (execRootSettled s) := by
  unfold execRootSettled
  repeat' with_reducible first | assumption | intro _ | dsimp only | apply Keeps.ite | apply KeepsO.next | apply KeepsO.ite | apply realign_keeps | apply startProbes_keeps | split | refine Keeps.upd ?_ ?_ ?_ ?_ ?_ ?_ ?_ ?_ ?_ ?_

theorem execProbe_keeps {s0 : State} (link : Nat) (echo : Bool) (index : Nat) (roundTrip : Nat) (s : State) (k_s : Keeps s0 s) : KeepsO s0 (execProbe link echo index roundTrip s) := by
  unfold execProbe
  repeat' with_reducible first | assumption | intro _ | dsimp only | apply Keeps.ite | apply KeepsO.next | apply KeepsO.ite | apply takeFrom_keeps | apply emit_keeps | apply setLink_keeps | apply recordTrip_keeps | apply realign_keeps | apply reportChecks_keeps | split

theorem execTime_keeps {s0 : State} (link : Nat) (at_ : CropTime) (s : State) (k_s : Keeps s0 s) : KeepsO s0 (execTime link at_ s) := by
  unfold execTime
  repeat' with_reducible first | assumption | intro _ | dsimp only | apply Keeps.ite | apply KeepsO.next | apply KeepsO.ite | apply takeFrom_keeps | apply aligned_keeps | apply joinTree_keeps | apply alignForming_keeps | apply realign_keeps | split | refine Keeps.upd ?_ ?_ ?_ ?_ ?_ ?_ ?_ ?_ ?_ ?_

theorem execDriftCheck_keeps {s0 : State} (link : Nat) (departure : Nat) (s : State) (k_s : Keeps s0 s) : KeepsO s0 (execDriftCheck link departure s) := by
  unfold execDriftCheck
  repeat' with_reducible first | assumption | intro _ | dsimp only | apply Keeps.ite | apply KeepsO.next | apply KeepsO.ite | split | refine Keeps.upd ?_ ?_ ?_ ?_ ?_ ?_ ?_ ?_ ?_ ?_

theorem namedTick_keeps {s0 : State} (s : State) (n : Nat) (t : W64) (replay : Bool) (k_s : Keeps s0 s) : Keeps s0 (namedTick s n t replay) := by
  unfold namedTick
  repeat' with_reducible first | assumption | intro _ | dsimp only | apply Keeps.ite | apply setSlot_keeps | apply raiseReplanned_keeps | split | refine Keeps.upd ?_ ?_ ?_ ?_ ?_ ?_ ?_ ?_ ?_ ?_

theorem onRelease_keeps {s0 : State} (s : State) (n : Nat) (a2 : Slot) (p : Plan) (t : W64) (epoch : W64) (pct : Nat) (settle : Bool) (gather : List StepGather) (k_s : Keeps s0 s) : Keeps s0 (onRelease s n a2 p t epoch pct settle gather) := by
  unfold onRelease
  repeat' with_reducible first | assumption | intro _ | dsimp only | apply Keeps.ite | apply namedTick_keeps | apply setSlot_keeps | apply setTiller_keeps | apply turnLeases_keeps | apply startSettle_keeps | apply Keeps.foldl | apply Keeps.fold1 | apply Keeps.fold2 | apply Keeps.fold3 | apply Keeps.getD | split | refine Keeps.upd ?_ ?_ ?_ ?_ ?_ ?_ ?_ ?_ ?_ ?_

theorem onReplay_keeps {s0 : State} (s : State) (n : Nat) (a2 : Slot) (k_s : Keeps s0 s) : Keeps s0 (onReplay s n a2) := by
  unfold onReplay
  repeat' with_reducible first | assumption | intro _ | dsimp only | apply Keeps.ite | apply dropSamples_keeps | apply endPlanLeases_keeps | apply discardWork_keeps | apply haltTillers_keeps | apply setSlot_keeps | split | refine Keeps.upd ?_ ?_ ?_ ?_ ?_ ?_ ?_ ?_ ?_ ?_

theorem onReplayTick_keeps {s0 : State} (s : State) (n : Nat) (a2 : Slot) (p : Plan) (tick : Option W64) (pct : Nat) (k_s : Keeps s0 s) : Keeps s0 (onReplayTick s n a2 p tick pct) := by
  unfold onReplayTick
  repeat' with_reducible first | assumption | intro _ | dsimp only | apply Keeps.ite | apply startSettle_keeps | apply namedTick_keeps | apply turnLeases_keeps | refine Keeps.pair2 (by assumption) ?_ | refine Keeps.pair3 (by assumption) ?_ | refine Keeps.pair1 (by assumption) ?_ | refine KeepsM.of (by assumption) ?_ | split

theorem onStop_keeps {s0 : State} (s : State) (n : Nat) (a2 : Slot) (pct : Nat) (gather : List StepGather) (k_s : Keeps s0 s) : Keeps s0 (onStop s n a2 pct gather) := by
  unfold onStop
  repeat' with_reducible first | assumption | intro _ | dsimp only | apply Keeps.ite | apply endRun_keeps | apply applyRoot_keeps | apply Keeps.getD | split

theorem onAbandon_keeps {s0 : State} (s : State) (pos : Option Nat) (k_s : Keeps s0 s) : Keeps s0 (onAbandon s pos) := by
  unfold onAbandon
  repeat' with_reducible first | assumption | intro _ | dsimp only | apply Keeps.ite | apply endRun_keeps | apply Keeps.getD | refine Keeps.pair2 (by assumption) ?_ | refine Keeps.pair3 (by assumption) ?_ | refine Keeps.pair1 (by assumption) ?_ | refine KeepsM.of (by assumption) ?_ | split | refine Keeps.upd ?_ ?_ ?_ ?_ ?_ ?_ ?_ ?_ ?_ ?_

theorem reportCompletion_keeps {s0 : State} (s : State) (pos : Nat) (flag : Bool) (k_s : Keeps s0 s) : Keeps s0 (reportCompletion s pos flag) := by
  unfold reportCompletion
  repeat' with_reducible first | assumption | intro _ | dsimp only | apply Keeps.ite | apply sendCtrl_keeps | split | refine Keeps.upd ?_ ?_ ?_ ?_ ?_ ?_ ?_ ?_ ?_ ?_

theorem writeFlag_keeps {s0 : State} (s : State) (a1 : Slot) (p : Plan) (k_s : Keeps s0 s) : Keeps s0 (writeFlag s a1 p) := by
  unfold writeFlag
  repeat' with_reducible first | assumption | intro _ | dsimp only | apply Keeps.ite | apply reportCompletion_keeps | apply homeWriteBytes_keeps | apply flushLine_keeps | apply planLine_keeps | apply linePut_keeps | apply planStops_keeps | refine Keeps.pair2 (by assumption) ?_ | refine Keeps.pair3 (by assumption) ?_ | refine Keeps.pair1 (by assumption) ?_ | refine KeepsM.of (by assumption) ?_ | split

theorem onComplete_keeps {s0 : State} (s : State) (n : Nat) (a2 : Slot) (p : Plan) (stage : Nat) (pct : Nat) (gather : List StepGather) (k_s : Keeps s0 s) : Keeps s0 (onComplete s n a2 p stage pct gather) := by
  unfold onComplete
  repeat' with_reducible first | assumption | intro _ | dsimp only | apply Keeps.ite | apply setSlot_keeps | apply applyRoot_keeps | apply complete_keeps | apply reportCompletion_keeps | apply flushArenas_keeps | apply writeFlag_keeps | apply endRun_keeps | apply done_keeps | split | refine Keeps.upd ?_ ?_ ?_ ?_ ?_ ?_ ?_ ?_ ?_ ?_

theorem applyDecide_keeps {s0 : State} (s : State) (m : DecideMsg) (k_s : Keeps s0 s) : Keeps s0 (applyDecide s m) := by
  unfold applyDecide
  repeat' with_reducible first | assumption | intro _ | dsimp only | apply Keeps.ite | apply onAbandon_keeps | apply onRelease_keeps | apply onReplay_keeps | apply onReplayTick_keeps | apply beginEnding_keeps | apply markPreempted_keeps | apply onStop_keeps | apply onComplete_keeps | refine Keeps.pair2 (by assumption) ?_ | refine Keeps.pair3 (by assumption) ?_ | refine Keeps.pair1 (by assumption) ?_ | refine KeepsM.of (by assumption) ?_ | split

theorem decide__keeps {s0 : State} (s : State) (m : DecideMsg) (k_s : Keeps s0 s) : Keeps s0 (decide_ s m) := by
  unfold decide_
  repeat' with_reducible first | assumption | intro _ | dsimp only | apply applyDecide_keeps | apply sendAll_keeps

theorem takeDecide_keeps {s0 : State} (s : State) (m : DecideMsg) (k_s : Keeps s0 s) : Keeps s0 (takeDecide s m) := by
  unfold takeDecide
  repeat' with_reducible first | assumption | intro _ | dsimp only | apply Keeps.ite | apply takeMsg_keeps | apply finishEnding_keeps | apply onComplete_keeps | apply decide__keeps | refine Keeps.pair2 (by assumption) ?_ | refine Keeps.pair3 (by assumption) ?_ | refine Keeps.pair1 (by assumption) ?_ | refine KeepsM.of (by assumption) ?_ | split

theorem decideBarrier_keeps {s0 : State} (s : State) (a1 : Slot) (p : Plan) (m : ArriveMsg) (k_s : Keeps s0 s) : Keeps s0 (decideBarrier s a1 p m) := by
  unfold decideBarrier
  repeat' with_reducible first | assumption | intro _ | dsimp only | apply Keeps.ite | apply decide__keeps | split

theorem decideReplayTick_keeps {s0 : State} (s : State) (a1 : Slot) (p : Plan) (m : ArriveMsg) (k_s : Keeps s0 s) : Keeps s0 (decideReplayTick s a1 p m) := by
  unfold decideReplayTick
  repeat' with_reducible first | assumption | intro _ | dsimp only | apply Keeps.ite | apply decide__keeps | refine Keeps.pair2 (by assumption) ?_ | refine Keeps.pair3 (by assumption) ?_ | refine Keeps.pair1 (by assumption) ?_ | refine KeepsM.of (by assumption) ?_ | split

theorem decideSecond_keeps {s0 : State} (s : State) (a1 : Slot) (p : Plan) (k_s : Keeps s0 s) : Keeps s0 (decideSecond s a1 p) := by
  unfold decideSecond
  repeat' with_reducible first | assumption | intro _ | dsimp only | apply Keeps.ite | apply decide__keeps | refine Keeps.pair2 (by assumption) ?_ | refine Keeps.pair3 (by assumption) ?_ | refine Keeps.pair1 (by assumption) ?_ | refine KeepsM.of (by assumption) ?_ | split

theorem decideExhausted_keeps {s0 : State} (s : State) (a1 : Slot) (pos : Nat) (k_s : Keeps s0 s) : Keeps s0 (decideExhausted s a1 pos) := by
  unfold decideExhausted
  repeat' with_reducible first | assumption | intro _ | dsimp only | apply decide__keeps | apply logError_keeps

theorem rootTry_keeps {s0 : State} (s : State) (k_s : Keeps s0 s) : Keeps s0 (rootTry s) := by
  unfold rootTry
  repeat' with_reducible first | assumption | intro _ | dsimp only | apply Keeps.ite | apply decideExhausted_keeps | apply decideBarrier_keeps | apply decideReplayTick_keeps | apply decideSecond_keeps | apply Keeps.foldl | apply Keeps.fold1 | apply Keeps.fold2 | apply Keeps.fold3 | refine Keeps.pair2 (by assumption) ?_ | refine Keeps.pair3 (by assumption) ?_ | refine Keeps.pair1 (by assumption) ?_ | refine KeepsM.of (by assumption) ?_ | split

theorem execSendArrive_keeps {s0 : State} (s : State) (k_s : Keeps s0 s) : KeepsO s0 (execSendArrive s) := by
  unfold execSendArrive
  repeat' with_reducible first | assumption | intro _ | dsimp only | apply Keeps.ite | apply KeepsO.next | apply KeepsO.ite | apply formRequest_keeps | apply rootTry_keeps | apply sendCtrl_keeps | apply dropSurplus_keeps | apply Keeps.foldl | apply Keeps.fold1 | apply Keeps.fold2 | apply Keeps.fold3 | refine Keeps.pair2 (by assumption) ?_ | refine Keeps.pair3 (by assumption) ?_ | refine Keeps.pair1 (by assumption) ?_ | refine KeepsM.of (by assumption) ?_ | split | refine Keeps.upd ?_ ?_ ?_ ?_ ?_ ?_ ?_ ?_ ?_ ?_

theorem execArrive_keeps {s0 : State} (link : Nat) (m : ArriveMsg) (s : State) (k_s : Keeps s0 s) : KeepsO s0 (execArrive link m s) := by
  unfold execArrive
  repeat' with_reducible first | assumption | intro _ | dsimp only | apply Keeps.ite | apply KeepsO.next | apply KeepsO.ite | apply takeFrom_keeps | apply decide__keeps | apply sendCtrl_keeps | apply rootTry_keeps | refine Keeps.pair2 (by assumption) ?_ | refine Keeps.pair3 (by assumption) ?_ | refine Keeps.pair1 (by assumption) ?_ | refine KeepsM.of (by assumption) ?_ | split | refine Keeps.upd ?_ ?_ ?_ ?_ ?_ ?_ ?_ ?_ ?_ ?_

theorem agreeReplay_keeps {s0 : State} (s : State) (a1 : Slot) (pos : Nat) (k_s : Keeps s0 s) : Keeps s0 (agreeReplay s a1 pos) := by
  unfold agreeReplay
  repeat' with_reducible first | assumption | intro _ | dsimp only | apply Keeps.ite | apply decide__keeps | apply logRecord_keeps | split | refine Keeps.upd ?_ ?_ ?_ ?_ ?_ ?_ ?_ ?_ ?_ ?_

theorem rootStop_keeps {s0 : State} (s : State) (m : StopMsg) (k_s : Keeps s0 s) : Keeps s0 (rootStop s m) := by
  unfold rootStop
  repeat' with_reducible first | assumption | intro _ | dsimp only | apply Keeps.ite | apply decide__keeps | apply complete_keeps | apply setSlot_keeps | apply agreeReplay_keeps | refine Keeps.pair2 (by assumption) ?_ | refine Keeps.pair3 (by assumption) ?_ | refine Keeps.pair1 (by assumption) ?_ | refine KeepsM.of (by assumption) ?_ | split | refine Keeps.upd ?_ ?_ ?_ ?_ ?_ ?_ ?_ ?_ ?_ ?_

theorem execStop_keeps {s0 : State} (m : StopMsg) (s : State) (k_s : Keeps s0 s) : KeepsO s0 (execStop m s) := by
  unfold execStop
  repeat' with_reducible first | assumption | intro _ | dsimp only | apply Keeps.ite | apply KeepsO.next | apply KeepsO.ite | apply takeMsg_keeps | apply rootTry_keeps | apply rootStop_keeps | apply sendCtrl_keeps | split | refine Keeps.upd ?_ ?_ ?_ ?_ ?_ ?_ ?_ ?_ ?_ ?_

theorem execStartTimeout_keeps {s0 : State} (s : State) (k_s : Keeps s0 s) : KeepsO s0 (execStartTimeout s) := by
  unfold execStartTimeout
  repeat' with_reducible first | assumption | intro _ | dsimp only | apply Keeps.ite | apply KeepsO.next | apply KeepsO.ite | apply decide__keeps | apply reportToRoot_keeps | refine Keeps.pair2 (by assumption) ?_ | refine Keeps.pair3 (by assumption) ?_ | refine Keeps.pair1 (by assumption) ?_ | refine KeepsM.of (by assumption) ?_ | split

theorem execDecideRelease_keeps {s0 : State} (tick : W64) (epoch : W64) (rootPct : Nat) (settle : Bool) (gather : List StepGather) (s : State) (k_s : Keeps s0 s) : KeepsO s0 (execDecideRelease tick epoch rootPct settle gather s) := by
  unfold execDecideRelease
  repeat' with_reducible first | assumption | intro _ | dsimp only | apply KeepsO.next | apply takeDecide_keeps

theorem execDecideReplay_keeps {s0 : State} (tick : Option W64) (rootPct : Nat) (settle : Bool) (s : State) (k_s : Keeps s0 s) : KeepsO s0 (execDecideReplay tick rootPct settle s) := by
  unfold execDecideReplay
  repeat' with_reducible first | assumption | intro _ | dsimp only | apply KeepsO.next | apply takeDecide_keeps

theorem execDecideReplan_keeps {s0 : State} (epoch : W64) (suspect : Option Nat) (s : State) (k_s : Keeps s0 s) : KeepsO s0 (execDecideReplan epoch suspect s) := by
  unfold execDecideReplan
  repeat' with_reducible first | assumption | intro _ | dsimp only | apply KeepsO.next | apply takeDecide_keeps

theorem execDecideStop_keeps {s0 : State} (now : Bool) (rootPct : Nat) (gather : List StepGather) (s : State) (k_s : Keeps s0 s) : KeepsO s0 (execDecideStop now rootPct gather s) := by
  unfold execDecideStop
  repeat' with_reducible first | assumption | intro _ | dsimp only | apply KeepsO.next | apply takeDecide_keeps

theorem execDecideComplete_keeps {s0 : State} (stage : Nat) (rootPct : Nat) (gather : List StepGather) (s : State) (k_s : Keeps s0 s) : KeepsO s0 (execDecideComplete stage rootPct gather s) := by
  unfold execDecideComplete
  repeat' with_reducible first | assumption | intro _ | dsimp only | apply KeepsO.next | apply takeDecide_keeps

theorem execDecideAbandon_keeps {s0 : State} (position : Option Nat) (s : State) (k_s : Keeps s0 s) : KeepsO s0 (execDecideAbandon position s) := by
  unfold execDecideAbandon
  repeat' with_reducible first | assumption | intro _ | dsimp only | apply KeepsO.next | apply takeDecide_keeps

theorem execDecideFailure_keeps {s0 : State} (status : Byte) (position : Nat) (s : State) (k_s : Keeps s0 s) : KeepsO s0 (execDecideFailure status position s) := by
  unfold execDecideFailure
  repeat' with_reducible first | assumption | intro _ | dsimp only | apply KeepsO.next | apply takeDecide_keeps

theorem rootCompletion_keeps {s0 : State} (s : State) (k_s : Keeps s0 s) : Keeps s0 (rootCompletion s) := by
  unfold rootCompletion
  repeat' with_reducible first | assumption | intro _ | dsimp only | apply Keeps.ite | apply complete_keeps | apply decide__keeps | split

theorem execCompletionReport_keeps {s0 : State} (position : Nat) (flagDone : Bool) (s : State) (k_s : Keeps s0 s) : KeepsO s0 (execCompletionReport position flagDone s) := by
  unfold execCompletionReport
  repeat' with_reducible first | assumption | intro _ | dsimp only | apply Keeps.ite | apply KeepsO.next | apply KeepsO.ite | apply takeMsg_keeps | apply complete_keeps | apply rootCompletion_keeps | apply sendCtrl_keeps | split | refine Keeps.upd ?_ ?_ ?_ ?_ ?_ ?_ ?_ ?_ ?_ ?_

theorem restartLinks_keeps {s0 : State} (s : State) (k_s : Keeps s0 s) : Keeps s0 (restartLinks s) := by
  unfold restartLinks
  repeat' with_reducible first | assumption | intro _ | dsimp only | apply setLink_keeps | apply Keeps.foldl | apply Keeps.fold1 | apply Keeps.fold2 | apply Keeps.fold3

theorem barrierOver_keeps {s0 : State} (s : State) (startRelease : Bool) (k_s : Keeps s0 s) : Keeps s0 (barrierOver s startRelease) := by
  unfold barrierOver
  repeat' with_reducible first | assumption | intro _ | dsimp only | apply Keeps.ite | apply restartLinks_keeps | apply dropSamples_keeps | split | refine Keeps.upd ?_ ?_ ?_ ?_ ?_ ?_ ?_ ?_ ?_ ?_

theorem commitRelease_keeps {s0 : State} (s : State) (n : Nat) (a2 : Slot) (p : Plan) (k_s : Keeps s0 s) : Keeps s0 (commitRelease s n a2 p) := by
  unfold commitRelease
  repeat' with_reducible first | assumption | intro _ | dsimp only | apply Keeps.ite | apply barrierOver_keeps | apply setSlot_keeps | apply restoreTillers_keeps | apply setTiller_keeps | apply marginRelease_keeps | apply beginPlanLeases_keeps | apply Keeps.foldl | apply Keeps.fold1 | apply Keeps.fold2 | apply Keeps.fold3 | refine Keeps.pair2 (by assumption) ?_ | refine Keeps.pair3 (by assumption) ?_ | refine Keeps.pair1 (by assumption) ?_ | refine KeepsM.of (by assumption) ?_ | split | refine Keeps.upd ?_ ?_ ?_ ?_ ?_ ?_ ?_ ?_ ?_ ?_

theorem commitReplay_keeps {s0 : State} (s : State) (n : Nat) (a2 : Slot) (p : Plan) (k_s : Keeps s0 s) : Keeps s0 (commitReplay s n a2 p) := by
  unfold commitReplay
  repeat' with_reducible first | assumption | intro _ | dsimp only | apply barrierOver_keeps | apply setSlot_keeps | apply discardWork_keeps | apply restoreSheaves_keeps | apply restoreTillers_keeps | apply marginRelease_keeps | apply beginPlanLeases_keeps | apply Keeps.getD

theorem execBarrierRelease_keeps {s0 : State} (s : State) (k_s : Keeps s0 s) : KeepsO s0 (execBarrierRelease s) := by
  unfold execBarrierRelease
  repeat' with_reducible first | assumption | intro _ | dsimp only | apply Keeps.ite | apply KeepsO.next | apply KeepsO.ite | apply commitRelease_keeps | apply commitReplay_keeps | refine Keeps.pair2 (by assumption) ?_ | refine Keeps.pair3 (by assumption) ?_ | refine Keeps.pair1 (by assumption) ?_ | refine KeepsM.of (by assumption) ?_ | split

theorem isolateRun_keeps {s0 : State} (s : State) (n : Nat) (k_s : Keeps s0 s) : Keeps s0 (isolateRun s n) := by
  unfold isolateRun
  repeat' with_reducible first | assumption | intro _ | dsimp only | apply logError_keeps | apply markPreempted_keeps | apply beginEnding_keeps | apply setSlot_keeps

theorem execRootRouteLoss_keeps {s0 : State} (s : State) (k_s : Keeps s0 s) : KeepsO s0 (execRootRouteLoss s) := by
  unfold execRootRouteLoss
  repeat' with_reducible first | assumption | intro _ | dsimp only | apply Keeps.ite | apply KeepsO.next | apply KeepsO.ite | apply finishEnding_keeps | apply endForming_keeps | apply isolateRun_keeps | apply dissolve_keeps | refine Keeps.pair2 (by assumption) ?_ | refine Keeps.pair3 (by assumption) ?_ | refine Keeps.pair1 (by assumption) ?_ | refine KeepsM.of (by assumption) ?_ | split

end

end Sys2Proof.Machine
end

