-- ==== Sys2Proof/Laws/KeepsHost.lean ====
section
/-!
SUPPORT. What every operation keeps (the queue, the canonical form of the stores, the legal values of the configuration registers):
translation traffic, registers, the host link, margins and boot.
-/
namespace Sys2Proof.Machine

section

set_option linter.all false

/-! ## Translation -/

theorem execTlbMiss_keeps {s0 : State} (req : Requester) (ctx : BitVec 20) (va : W64) (acc : AccessKind) (s : State) (k_s : Keeps s0 s) : KeepsO s0 (execTlbMiss req ctx va acc s) := by
  unfold execTlbMiss
  repeat' with_reducible first | assumption | intro _ | dsimp only | apply Keeps.ite | apply KeepsO.next | apply KeepsO.ite | apply missWait_keeps | split

theorem walkEnd_keeps {s0 : State} (s : State) (m : Miss) (k_s : Keeps s0 s) : Keeps s0 (walkEnd s m) := by
  unfold walkEnd
  repeat' with_reducible first | assumption | intro _ | dsimp only | apply Keeps.ite | apply refuseWaiter_keeps | apply tableRead_keeps | apply stopWaiter_keeps | apply leafFill_keeps | apply Keeps.foldl | apply Keeps.fold1 | apply Keeps.fold2 | apply Keeps.fold3 | refine Keeps.pair2 (by assumption) ?_ | refine Keeps.pair3 (by assumption) ?_ | refine Keeps.pair1 (by assumption) ?_ | refine KeepsM.of (by assumption) ?_ | split

theorem restartWalk_keeps {s0 : State} (s : State) (miss : Nat) (m : Miss) (k_s : Keeps s0 s) : Keeps s0 (restartWalk s miss m) := by
  unfold restartWalk
  repeat' with_reducible first | assumption | intro _ | dsimp only | apply Keeps.ite | apply countWalk_keeps | apply emit_keeps | split | refine Keeps.upd ?_ ?_ ?_ ?_ ?_ ?_ ?_ ?_ ?_ ?_

theorem execWalkComplete_keeps {s0 : State} (miss : Nat) (s : State) (k_s : Keeps s0 s) : KeepsO s0 (execWalkComplete miss s) := by
  unfold execWalkComplete
  repeat' with_reducible first | assumption | intro _ | dsimp only | apply Keeps.ite | apply KeepsO.next | apply KeepsO.ite | apply restartWalk_keeps | apply startWalks_keeps | apply walkEnd_keeps | apply eraseMiss_keeps | refine Keeps.pair2 (by assumption) ?_ | refine Keeps.pair3 (by assumption) ?_ | refine Keeps.pair1 (by assumption) ?_ | refine KeepsM.of (by assumption) ?_ | split

theorem onceFill_keeps {s0 : State} (s : State) (m : Miss) (r : TransResult) (k_s : Keeps s0 s) : Keeps s0 (onceFill s m r) := by
  unfold onceFill
  repeat' with_reducible first | assumption | intro _ | dsimp only | refine Keeps.upd ?_ ?_ ?_ ?_ ?_ ?_ ?_ ?_ ?_ ?_

theorem answerMiss_keeps {s0 : State} (s : State) (m : Miss) (r : TransResult) (k_s : Keeps s0 s) : Keeps s0 (answerMiss s m r) := by
  unfold answerMiss
  repeat' with_reducible first | assumption | intro _ | dsimp only | apply Keeps.ite | apply stopWaiter_keeps | apply tlbFill_keeps | apply onceFill_keeps | apply Keeps.foldl | apply Keeps.fold1 | apply Keeps.fold2 | apply Keeps.fold3 | split

theorem execTranslationCompletion_keeps {s0 : State} (miss : Nat) (r : TransResult) (s : State) (k_s : Keeps s0 s) : KeepsO s0 (execTranslationCompletion miss r s) := by
  unfold execTranslationCompletion
  repeat' with_reducible first | assumption | intro _ | dsimp only | apply Keeps.ite | apply KeepsO.next | apply KeepsO.ite | apply restartWalk_keeps | apply startWalks_keeps | apply answerMiss_keeps | apply eraseMiss_keeps | refine Keeps.pair2 (by assumption) ?_ | refine Keeps.pair3 (by assumption) ?_ | refine Keeps.pair1 (by assumption) ?_ | refine KeepsM.of (by assumption) ?_ | split

theorem execInvalidationRequest_keeps {s0 : State} (itag : BitVec 5) (pasid : Option (BitVec 20)) (addr : W64) (size : Nat) (s : State) (k_s : Keeps s0 s) : KeepsO s0 (execInvalidationRequest itag pasid addr size s) := by
  unfold execInvalidationRequest
  repeat' with_reducible first | assumption | intro _ | dsimp only | apply KeepsO.next | apply invalidate_keeps | refine Keeps.upd ?_ ?_ ?_ ?_ ?_ ?_ ?_ ?_ ?_ ?_

theorem execInvalidationComplete_keeps {s0 : State} (index : Nat) (s : State) (k_s : Keeps s0 s) : KeepsO s0 (execInvalidationComplete index s) := by
  unfold execInvalidationComplete
  repeat' with_reducible first | assumption | intro _ | dsimp only | apply Keeps.ite | apply KeepsO.next | apply KeepsO.ite | apply releaseHeld_keeps | apply countInval_keeps | apply emit_keeps | apply completeSeq_keeps | apply command_keeps | refine Keeps.pair2 (by assumption) ?_ | refine Keeps.pair3 (by assumption) ?_ | refine Keeps.pair1 (by assumption) ?_ | refine KeepsM.of (by assumption) ?_ | split | refine Keeps.upd ?_ ?_ ?_ ?_ ?_ ?_ ?_ ?_ ?_ ?_

theorem execPageResponse_keeps {s0 : State} (faultId : W16) (success : Bool) (s : State) (k_s : Keeps s0 s) : KeepsO s0 (execPageResponse faultId success s) := by
  unfold execPageResponse
  repeat' with_reducible first | assumption | intro _ | dsimp only | apply Keeps.ite | apply KeepsO.next | apply KeepsO.ite | apply retryResolved_keeps | apply failFault_keeps | apply Keeps.ofId | refine Keeps.pair2 (by assumption) ?_ | refine Keeps.pair3 (by assumption) ?_ | refine Keeps.pair1 (by assumption) ?_ | refine KeepsM.of (by assumption) ?_ | split

theorem execFaultRingSignal_keeps {s0 : State} (s : State) (k_s : Keeps s0 s) : KeepsO s0 (execFaultRingSignal s) := by
  unfold execFaultRingSignal
  repeat' with_reducible first | assumption | intro _ | dsimp only | apply Keeps.ite | apply KeepsO.next | apply KeepsO.ite | apply signalVector_keeps | refine Keeps.pair2 (by assumption) ?_ | refine Keeps.pair3 (by assumption) ?_ | refine Keeps.pair1 (by assumption) ?_ | refine KeepsM.of (by assumption) ?_ | split | refine Keeps.upd ?_ ?_ ?_ ?_ ?_ ?_ ?_ ?_ ?_ ?_

theorem execFaultTimeout_keeps {s0 : State} (slot : Nat) (s : State) (k_s : Keeps s0 s) : KeepsO s0 (execFaultTimeout slot s) := by
  unfold execFaultTimeout
  repeat' with_reducible first | assumption | intro _ | dsimp only | apply Keeps.ite | apply KeepsO.next | apply KeepsO.ite | apply failFault_keeps | refine Keeps.pair2 (by assumption) ?_ | refine Keeps.pair3 (by assumption) ?_ | refine Keeps.pair1 (by assumption) ?_ | refine KeepsM.of (by assumption) ?_ | split

theorem writeUnrecorded_keeps {s0 : State} (n : Nat) (s : State) (k_s : Keeps s0 s) : Keeps s0 (writeUnrecorded n s) := by
  induction n generalizing s with
  | zero => exact k_s
  | succ n ih =>
    rw [writeUnrecorded]
    split
    · exact k_s
    · with_reducible apply Keeps.ite
      · exact k_s
      · dsimp only
        split
        · exact ih _ (unblock_keeps _ _ (recordFault_keeps _ _ _ (Keeps.upd k_s id id id id id id id id id)))
        · exact ih _ (Keeps.upd k_s id id id id id id id id id)

theorem writeFrHead_keeps {s0 : State} (s : State) (v : W32) (k_s : Keeps s0 s) : Keeps s0 (writeFrHead s v) := by
  unfold writeFrHead
  repeat' with_reducible first | assumption | intro _ | dsimp only | apply Keeps.ite | apply writeUnrecorded_keeps | split | refine Keeps.upd ?_ ?_ ?_ ?_ ?_ ?_ ?_ ?_ ?_ ?_

theorem stopRecording_keeps {s0 : State} (s : State) (k_s : Keeps s0 s) : Keeps s0 (stopRecording s) := by
  unfold stopRecording
  repeat' with_reducible first | assumption | intro _ | dsimp only | apply Keeps.ite | apply failFault_keeps | apply setCtx_keeps | apply releaseHeld_keeps | apply Keeps.foldl | apply Keeps.fold1 | apply Keeps.fold2 | apply Keeps.fold3 | refine Keeps.pair2 (by assumption) ?_ | refine Keeps.pair3 (by assumption) ?_ | refine Keeps.pair1 (by assumption) ?_ | refine KeepsM.of (by assumption) ?_ | split

theorem writeTrCfg_keeps {s0 : State} (s : State) (v : W32) (k_s : Keeps s0 s) : Keeps s0 (writeTrCfg s v) := by
  unfold writeTrCfg
  have hc : Keeps s0 { s with tr := { s.tr with cfg := setField (setField (setField s.tr.cfg 10 0 (field v 10 0)) 11 11 (field v 11 11)) 31 16 (if field v 31 16 = 0 then field s.tr.cfg 31 16 else field v 31 16) } } := by
    refine Keeps.upd k_s id id id id (fun h => ?_) id id id id
    refine trCfgOk_write _ _ _ h ?_ ?_
    · have := h.1
      split <;> omega
    · have h1 := field_lt s.tr.cfg 31 16
      have h2 := field_lt v 31 16
      split <;> omega
  dsimp only
  with_reducible apply Keeps.ite
  · exact stopRecording_keeps _ hc
  · exact hc

theorem execFrHeadWrite_keeps {s0 : State} (value : W32) (s : State) (k_s : Keeps s0 s) : KeepsO s0 (execFrHeadWrite value s) := by
  unfold execFrHeadWrite
  repeat' with_reducible first | assumption | intro _ | dsimp only | apply Keeps.ite | apply KeepsO.next | apply KeepsO.ite | apply writeFrHead_keeps | split

theorem execFrEnableClear_keeps {s0 : State} (value : W32) (s : State) (k_s : Keeps s0 s) : KeepsO s0 (execFrEnableClear value s) := by
  unfold execFrEnableClear
  repeat' with_reducible first | assumption | intro _ | dsimp only | apply Keeps.ite | apply KeepsO.next | apply KeepsO.ite | apply writeTrCfg_keeps | split

theorem execFrEnableSet_keeps {s0 : State} (value : W32) (s : State) (k_s : Keeps s0 s) : KeepsO s0 (execFrEnableSet value s) := by
  unfold execFrEnableSet
  repeat' with_reducible first | assumption | intro _ | dsimp only | apply Keeps.ite | apply KeepsO.next | apply KeepsO.ite | apply writeTrCfg_keeps | split

/-! ## Regs -/

theorem clearRc_keeps {s0 : State} (s : State) (off : Nat) (k_s : Keeps s0 s) : Keeps s0 (clearRc s off) := by
  unfold clearRc
  repeat' with_reducible first | assumption | intro _ | dsimp only | apply Keeps.ite | apply linkUp_keeps | apply setLink_keeps | apply setAtt_keeps | split | refine Keeps.upd ?_ ?_ ?_ ?_ ?_ ?_ ?_ ?_ ?_ ?_

theorem keepHigh_keeps {s0 : State} (s : State) (side : Side) (off : Nat) (k_s : Keeps s0 s) : Keeps s0 (keepHigh s side off) := by
  unfold keepHigh
  repeat' with_reducible first | assumption | intro _ | dsimp only | apply linkUp_keeps | refine Keeps.pair2 (by assumption) ?_ | refine Keeps.pair3 (by assumption) ?_ | refine Keeps.pair1 (by assumption) ?_ | refine KeepsM.of (by assumption) ?_ | split | refine Keeps.upd ?_ ?_ ?_ ?_ ?_ ?_ ?_ ?_ ?_ ?_

theorem read32_keeps {s0 : State} (s : State) (side : Side) (off : Nat) (k_s : Keeps s0 s) : Keeps s0 (read32 s side off).2 := by
  unfold read32
  repeat' with_reducible first | assumption | intro _ | dsimp only | apply Keeps.ite | apply keepHigh_keeps | refine Keeps.pair2 (by assumption) ?_ | refine Keeps.pair3 (by assumption) ?_ | refine Keeps.pair1 (by assumption) ?_ | refine KeepsM.of (by assumption) ?_ | split

theorem countBad_keeps {s0 : State} (s : State) (k_s : Keeps s0 s) : Keeps s0 (countBad s) := by
  unfold countBad
  repeat' with_reducible first | assumption | intro _ | dsimp only | apply linkUp_keeps | refine Keeps.upd ?_ ?_ ?_ ?_ ?_ ?_ ?_ ?_ ?_ ?_

theorem badAccess_keeps {s0 : State} (s : State) (width : Nat) (write : Bool) (k_s : Keeps s0 s) : Keeps s0 (badAccess s width write) := by
  unfold badAccess
  repeat' with_reducible first | assumption | intro _ | dsimp only | apply Keeps.ite | apply countBad_keeps | apply emit_keeps | split

theorem hostRegRead_keeps {s0 : State} (s : State) (off : Nat) (width : Nat) (k_s : Keeps s0 s) : Keeps s0 (hostRegRead s off width) := by
  unfold hostRegRead
  repeat' with_reducible first | assumption | intro _ | dsimp only | apply Keeps.ite | apply badAccess_keeps | apply read32_keeps | apply emit_keeps | apply clearRc_keeps | split

theorem drainPending_keeps {s0 : State} (s : State) (k_s : Keeps s0 s) : Keeps s0 (drainPending s) := by
  unfold drainPending
  repeat' with_reducible first | assumption | intro _ | dsimp only | apply Keeps.ite | apply sendMsg_keeps | apply linkUp_keeps | apply Keeps.foldl | apply Keeps.fold1 | apply Keeps.fold2 | apply Keeps.fold3 | refine Keeps.pair2 (by assumption) ?_ | refine Keeps.pair3 (by assumption) ?_ | refine Keeps.pair1 (by assumption) ?_ | refine KeepsM.of (by assumption) ?_ | split | refine Keeps.upd ?_ ?_ ?_ ?_ ?_ ?_ ?_ ?_ ?_ ?_

theorem writeHlCfg_keeps {s0 : State} (s : State) (v : W32) (k_s : Keeps s0 s) : Keeps s0 (writeHlCfg s v) := by
  unfold writeHlCfg
  refine Keeps.upd k_s id id id (fun h => ?_) id id id id id
  refine hlCfgOk_write _ _ _ h ?_ ?_
  · have := h.1
    split <;> omega
  · have := h.2.1
    split <;> omega

theorem releasePort_keeps {s0 : State} (s : State) (k_s : Keeps s0 s) : Keeps s0 (releasePort s) := by
  unfold releasePort
  repeat' with_reducible first | assumption | intro _ | dsimp only | apply Keeps.ite | apply linkUp_keeps | apply hostPost_keeps | apply emit_keeps | apply Keeps.foldl | apply Keeps.fold1 | apply Keeps.fold2 | apply Keeps.fold3 | refine Keeps.pair2 (by assumption) ?_ | refine Keeps.pair3 (by assumption) ?_ | refine Keeps.pair1 (by assumption) ?_ | refine KeepsM.of (by assumption) ?_ | split | refine Keeps.upd ?_ ?_ ?_ ?_ ?_ ?_ ?_ ?_ ?_ ?_

theorem writeContain_keeps {s0 : State} (s : State) (v : W32) (k_s : Keeps s0 s) : Keeps s0 (writeContain s v) := by
  unfold writeContain
  repeat' with_reducible first | assumption | intro _ | dsimp only | apply Keeps.ite | apply linkUp_keeps | apply releasePort_keeps | split | refine Keeps.upd ?_ ?_ ?_ ?_ ?_ ?_ ?_ ?_ ?_ ?_

theorem writeHatchBase_keeps {s0 : State} (s : State) (v : W64) (k_s : Keeps s0 s) : Keeps s0 (writeHatchBase s v) := by
  unfold writeHatchBase
  repeat' with_reducible first | assumption | intro _ | dsimp only | apply Keeps.ite | apply linkUp_keeps | split | refine Keeps.upd ?_ ?_ ?_ ?_ ?_ ?_ ?_ ?_ ?_ ?_

theorem writeFrBase_keeps {s0 : State} (s : State) (v : W64) (k_s : Keeps s0 s) : Keeps s0 (writeFrBase s v) := by
  unfold writeFrBase
  repeat' with_reducible first | assumption | intro _ | dsimp only | apply Keeps.ite | split | refine Keeps.upd ?_ ?_ ?_ ?_ ?_ ?_ ?_ ?_ ?_ ?_

theorem writeCacheCfg_keeps {s0 : State} (s : State) (v : W32) (k_s : Keeps s0 s) : Keeps s0 (writeCacheCfg s v) := by
  unfold writeCacheCfg
  refine Keeps.upd k_s id id id id id (fun h => ?_) id id id
  refine cacheCfgOk_write _ _ _ h ?_ ?_
  · have := h.1
    split <;> omega
  · have := h.2.1
    split <;> omega

theorem writeCohCfg_keeps {s0 : State} (s : State) (v : W32) (k_s : Keeps s0 s) : Keeps s0 (writeCohCfg s v) := by
  unfold writeCohCfg
  split
  · exact k_s
  · refine Keeps.upd k_s id id id id id id (fun h => ?_) id id
    have := field_lt v 1 0
    exact cohCfgOk_write _ _ h (by omega)

theorem writeGleanCfg_keeps {s0 : State} (s : State) (v : W32) (k_s : Keeps s0 s) : Keeps s0 (writeGleanCfg s v) := by
  unfold writeGleanCfg
  refine Keeps.upd k_s id id id id id id id (fun h => ?_) id
  refine gleanCfgOk_write _ _ _ h ?_ ?_
  · have := h.1
    split <;> omega
  · have := h.2.1
    split <;> omega

theorem writeWainCfg_keeps {s0 : State} (s : State) (v : W32) (k_s : Keeps s0 s) : Keeps s0 (writeWainCfg s v) := by
  unfold writeWainCfg
  refine Keeps.upd k_s id id id id id id id id (fun h => ?_)
  refine wainCfgOk_write _ _ _ ?_ ?_ ?_ ?_
  · have := h.1
    split <;> omega
  · have := h.2.1
    split <;> omega
  · have := h.2.2
    split <;> omega
  · have h1 := field_lt s.wain.cfg 31 16
    have h2 := field_lt v 31 16
    split <;> omega

theorem writeErrStat_keeps {s0 : State} (s : State) (v : W32) (k_s : Keeps s0 s) : Keeps s0 (writeErrStat s v) := by
  unfold writeErrStat
  repeat' with_reducible first | assumption | intro _ | dsimp only | apply Keeps.ite | split | refine Keeps.upd ?_ ?_ ?_ ?_ ?_ ?_ ?_ ?_ ?_ ?_

theorem writeBootStatus_keeps {s0 : State} (s : State) (v : W32) (k_s : Keeps s0 s) : Keeps s0 (writeBootStatus s v) := by
  unfold writeBootStatus
  repeat' with_reducible first | assumption | intro _ | dsimp only | apply tallyConflict_keeps | refine Keeps.upd ?_ ?_ ?_ ?_ ?_ ?_ ?_ ?_ ?_ ?_

theorem writeArriveBase_keeps {s0 : State} (s : State) (a : Nat) (v : W64) (k_s : Keeps s0 s) : Keeps s0 (writeArriveBase s a v) := by
  unfold writeArriveBase
  repeat' with_reducible first | assumption | intro _ | dsimp only | apply Keeps.ite | apply setAtt_keeps | split

theorem writeWindrowCfg_keeps {s0 : State} (s : State) (n : Nat) (v : W64) (k_s : Keeps s0 s) : Keeps s0 (writeWindrowCfg s n v) := by
  unfold writeWindrowCfg
  repeat' with_reducible first | assumption | intro _ | dsimp only | apply Keeps.ite | apply setWindrow_keeps | split

theorem writeWindrowBase_keeps {s0 : State} (s : State) (n : Nat) (reply : Bool) (v : W64) (k_s : Keeps s0 s) : Keeps s0 (writeWindrowBase s n reply v) := by
  unfold writeWindrowBase
  repeat' with_reducible first | assumption | intro _ | dsimp only | apply Keeps.ite | apply setWindrow_keeps | split

theorem writeReplyHead_keeps {s0 : State} (s : State) (n : Nat) (v : W32) (k_s : Keeps s0 s) : Keeps s0 (writeReplyHead s n v) := by
  unfold writeReplyHead
  repeat' with_reducible first | assumption | intro _ | dsimp only | apply Keeps.ite | apply setWindrow_keeps | split

theorem writeMsix_keeps {s0 : State} (s : State) (k : Nat) (v : W32) (k_s : Keeps s0 s) : Keeps s0 (writeMsix s k v) := by
  unfold writeMsix
  repeat' with_reducible first | assumption | intro _ | dsimp only | apply drainPending_keeps | apply linkUp_keeps | refine Keeps.pair2 (by assumption) ?_ | refine Keeps.pair3 (by assumption) ?_ | refine Keeps.pair1 (by assumption) ?_ | refine KeepsM.of (by assumption) ?_ | split | refine Keeps.upd ?_ ?_ ?_ ?_ ?_ ?_ ?_ ?_ ?_ ?_

theorem writeHdm_keeps {s0 : State} (s : State) (k : Nat) (v : W32) (k_s : Keeps s0 s) : Keeps s0 (writeHdm s k v) := by
  unfold writeHdm
  repeat' with_reducible first | assumption | intro _ | dsimp only | apply Keeps.ite | apply linkUp_keeps | split | refine Keeps.upd ?_ ?_ ?_ ?_ ?_ ?_ ?_ ?_ ?_ ?_

theorem write64_keeps {s0 : State} (s : State) (off : Nat) (lo : Option W32) (hi : Option W32) (k_s : Keeps s0 s) : KeepsM s0 (write64 s off lo hi) := by
  unfold write64
  repeat' with_reducible first | assumption | intro _ | dsimp only | apply Keeps.ite | apply KeepsM.some | exact KeepsM.none | apply KeepsM.ite | apply writeHatchBase_keeps | apply writeFrBase_keeps | apply writeArriveBase_keeps | apply writeWindrowCfg_keeps | apply writeWindrowBase_keeps | refine Keeps.pair2 (by assumption) ?_ | refine Keeps.pair3 (by assumption) ?_ | refine Keeps.pair1 (by assumption) ?_ | refine KeepsM.of (by assumption) ?_ | split

theorem write32_keeps {s0 : State} (s : State) (off : Nat) (v : W32) (k_s : Keeps s0 s) : Keeps s0 (write32 s off v) := by
  unfold write32
  repeat' with_reducible first | assumption | intro _ | dsimp only | apply Keeps.ite | apply writeHdm_keeps | apply writeMsix_keeps | apply writeHlCfg_keeps | apply writeContain_keeps | apply writeTrCfg_keeps | apply writeFrHead_keeps | apply writeCacheCfg_keeps | apply writeCohCfg_keeps | apply writeGleanCfg_keeps | apply writeWainCfg_keeps | apply writeErrStat_keeps | apply writeReplyHead_keeps | split

theorem writeWord_keeps {s0 : State} (s : State) (off : Nat) (v : W32) (k_s : Keeps s0 s) : Keeps s0 (writeWord s off v) := by
  unfold writeWord
  repeat' with_reducible first | assumption | intro _ | dsimp only | apply Keeps.ite | apply writeBootStatus_keeps | apply write64_keeps | apply write32_keeps | apply Keeps.getD | split

theorem regWrite_keeps {s0 : State} (s : State) (off : Nat) (width : Nat) (v : W64) (k_s : Keeps s0 s) : Keeps s0 (regWrite s off width v) := by
  unfold regWrite
  repeat' with_reducible first | assumption | intro _ | dsimp only | apply Keeps.ite | apply writeWord_keeps | apply write64_keeps | exact KeepsM.none | refine Keeps.pair2 (by assumption) ?_ | refine Keeps.pair3 (by assumption) ?_ | refine Keeps.pair1 (by assumption) ?_ | refine KeepsM.of (by assumption) ?_ | split

theorem cfgWrite_keeps {s0 : State} (s : State) (r : CfgReg) (v : W64) (k_s : Keeps s0 s) : Keeps s0 (cfgWrite s r v) := by
  unfold cfgWrite
  repeat' with_reducible first | assumption | intro _ | dsimp only | apply drainPending_keeps | apply linkUp_keeps | refine Keeps.pair2 (by assumption) ?_ | refine Keeps.pair3 (by assumption) ?_ | refine Keeps.pair1 (by assumption) ?_ | refine KeepsM.of (by assumption) ?_ | split | refine Keeps.upd ?_ ?_ ?_ ?_ ?_ ?_ ?_ ?_ ?_ ?_

theorem execRegisterWrite_keeps {s0 : State} (target : RegTarget) (width : Nat) (value : W64) (s : State) (k_s : Keeps s0 s) : KeepsO s0 (execRegisterWrite target width value s) := by
  unfold execRegisterWrite
  repeat' with_reducible first | assumption | intro _ | dsimp only | apply Keeps.ite | apply KeepsO.next | apply KeepsO.ite | apply badAccess_keeps | apply regWrite_keeps | apply cfgWrite_keeps | refine Keeps.pair2 (by assumption) ?_ | refine Keeps.pair3 (by assumption) ?_ | refine Keeps.pair1 (by assumption) ?_ | refine KeepsM.of (by assumption) ?_ | split

theorem doorbellRead_keeps {s0 : State} (s : State) (off : Nat) (width : Nat) (k_s : Keeps s0 s) : Keeps s0 (doorbellRead s off width) := by
  unfold doorbellRead
  repeat' with_reducible first | assumption | intro _ | dsimp only | apply Keeps.ite | apply emit_keeps | apply badAccess_keeps | split

theorem execReadToClear_keeps {s0 : State} (target : ReadTarget) (width : Nat) (s : State) (k_s : Keeps s0 s) : KeepsO s0 (execReadToClear target width s) := by
  unfold execReadToClear
  repeat' with_reducible first | assumption | intro _ | dsimp only | apply Keeps.ite | apply KeepsO.next | apply KeepsO.ite | apply emit_keeps | apply hostRegRead_keeps | apply doorbellRead_keeps | refine Keeps.pair2 (by assumption) ?_ | refine Keeps.pair3 (by assumption) ?_ | refine Keeps.pair1 (by assumption) ?_ | refine KeepsM.of (by assumption) ?_ | split

theorem execLowHalfRead_keeps {s0 : State} (side : Side) (off : Nat) (s : State) (k_s : Keeps s0 s) : KeepsO s0 (execLowHalfRead side off s) := by
  unfold execLowHalfRead
  repeat' with_reducible first | assumption | intro _ | dsimp only | apply Keeps.ite | apply KeepsO.next | apply KeepsO.ite | apply read32_keeps | apply emit_keeps | apply clearRc_keeps | refine Keeps.pair2 (by assumption) ?_ | refine Keeps.pair3 (by assumption) ?_ | refine Keeps.pair1 (by assumption) ?_ | refine KeepsM.of (by assumption) ?_ | split

theorem execBadAccess_keeps {s0 : State} (bar : Nat) (off : Nat) (width : Nat) (write : Bool) (s : State) (k_s : Keeps s0 s) : KeepsO s0 (execBadAccess bar off width write s) := by
  unfold execBadAccess
  repeat' with_reducible first | assumption | intro _ | dsimp only | apply Keeps.ite | apply KeepsO.next | apply KeepsO.ite | apply emit_keeps | apply badAccess_keeps | split

theorem execVectorUnmask_keeps {s0 : State} (v : Nat) (s : State) (k_s : Keeps s0 s) : KeepsO s0 (execVectorUnmask v s) := by
  unfold execVectorUnmask
  repeat' with_reducible first | assumption | intro _ | dsimp only | apply Keeps.ite | apply KeepsO.next | apply KeepsO.ite | apply drainPending_keeps | apply linkUp_keeps | split | refine Keeps.upd ?_ ?_ ?_ ?_ ?_ ?_ ?_ ?_ ?_ ?_

theorem execHlContainRelease_keeps {s0 : State} (value : W32) (s : State) (k_s : Keeps s0 s) : KeepsO s0 (execHlContainRelease value s) := by
  unfold execHlContainRelease
  repeat' with_reducible first | assumption | intro _ | dsimp only | apply Keeps.ite | apply KeepsO.next | apply KeepsO.ite | apply writeContain_keeps | split

theorem execWindrowEnable_keeps {s0 : State} (w : Nat) (value : W64) (s : State) (k_s : Keeps s0 s) : KeepsO s0 (execWindrowEnable w value s) := by
  unfold execWindrowEnable
  repeat' with_reducible first | assumption | intro _ | dsimp only | apply Keeps.ite | apply KeepsO.next | apply KeepsO.ite | apply writeWindrowCfg_keeps | split

theorem execWindrowDisable_keeps {s0 : State} (w : Nat) (value : W64) (s : State) (k_s : Keeps s0 s) : KeepsO s0 (execWindrowDisable w value s) := by
  unfold execWindrowDisable
  repeat' with_reducible first | assumption | intro _ | dsimp only | apply Keeps.ite | apply KeepsO.next | apply KeepsO.ite | apply writeWindrowCfg_keeps | split

theorem execGrgReplyHeadWrite_keeps {s0 : State} (w : Nat) (value : W32) (s : State) (k_s : Keeps s0 s) : KeepsO s0 (execGrgReplyHeadWrite w value s) := by
  unfold execGrgReplyHeadWrite
  repeat' with_reducible first | assumption | intro _ | dsimp only | apply Keeps.ite | apply KeepsO.next | apply KeepsO.ite | apply writeReplyHead_keeps | split

/-! ## HostLink -/

theorem countPoison_keeps {s0 : State} (s : State) (k_s : Keeps s0 s) : Keeps s0 (countPoison s) := by
  unfold countPoison
  repeat' with_reducible first | assumption | intro _ | dsimp only | apply linkUp_keeps | refine Keeps.upd ?_ ?_ ?_ ?_ ?_ ?_ ?_ ?_ ?_ ?_

theorem hostCompletion_keeps {s0 : State} (s : State) (bs : List Byte) (poison : Bool) (k_s : Keeps s0 s) : Keeps s0 (hostCompletion s bs poison) := by
  unfold hostCompletion
  repeat' with_reducible first | assumption | intro _ | dsimp only | apply Keeps.ite | apply emit_keeps | apply countPoison_keeps | split

theorem execHatchWrite_keeps {s0 : State} (off : Nat) (data : List Byte) (s : State) (k_s : Keeps s0 s) : KeepsO s0 (execHatchWrite off data s) := by
  unfold execHatchWrite
  repeat' with_reducible first | assumption | intro _ | dsimp only | apply Keeps.ite | apply KeepsO.next | apply KeepsO.ite | apply coherentRefuse_keeps | apply writeLine_keeps | apply Keeps.foldl | apply Keeps.fold1 | apply Keeps.fold2 | apply Keeps.fold3 | refine Keeps.pair2 (by assumption) ?_ | refine Keeps.pair3 (by assumption) ?_ | refine Keeps.pair1 (by assumption) ?_ | refine KeepsM.of (by assumption) ?_ | split

theorem execHatchRead_keeps {s0 : State} (off : Nat) (n : Nat) (s : State) (k_s : Keeps s0 s) : KeepsO s0 (execHatchRead off n s) := by
  unfold execHatchRead
  repeat' with_reducible first | assumption | intro _ | dsimp only | apply Keeps.ite | apply KeepsO.next | apply KeepsO.ite | apply emit_keeps | apply coherentRefuse_keeps | apply readCur_keeps | apply hostCompletion_keeps | apply Keeps.foldl | apply Keeps.fold1 | apply Keeps.fold2 | apply Keeps.fold3 | refine Keeps.pair2 (by assumption) ?_ | refine Keeps.pair3 (by assumption) ?_ | refine Keeps.pair1 (by assumption) ?_ | refine KeepsM.of (by assumption) ?_ | split

theorem memRead_keeps {s0 : State} (s : State) (hpa : W64) (k_s : Keeps s0 s) : Keeps s0 (memRead s hpa) := by
  unfold memRead
  repeat' with_reducible first | assumption | intro _ | dsimp only | apply Keeps.ite | apply emit_keeps | apply countPoison_keeps | apply coherentRefuse_keeps | apply memReadLine_keeps | refine Keeps.pair2 (by assumption) ?_ | refine Keeps.pair3 (by assumption) ?_ | refine Keeps.pair1 (by assumption) ?_ | refine KeepsM.of (by assumption) ?_ | split

theorem memWrite_keeps {s0 : State} (s : State) (hpa : W64) (data : List Byte) (mask : Nat) (k_s : Keeps s0 s) : Keeps s0 (memWrite s hpa data mask) := by
  unfold memWrite
  repeat' with_reducible first | assumption | intro _ | dsimp only | apply Keeps.ite | apply emit_keeps | apply coherentRefuse_keeps | apply memWriteLine_keeps | refine Keeps.pair2 (by assumption) ?_ | refine Keeps.pair3 (by assumption) ?_ | refine Keeps.pair1 (by assumption) ?_ | refine KeepsM.of (by assumption) ?_ | split

theorem execMemRd_keeps {s0 : State} (hpa : W64) (s : State) (k_s : Keeps s0 s) : KeepsO s0 (execMemRd hpa s) := by
  unfold execMemRd
  repeat' with_reducible first | assumption | intro _ | dsimp only | apply KeepsO.next | apply memRead_keeps

theorem execMemRdData_keeps {s0 : State} (hpa : W64) (s : State) (k_s : Keeps s0 s) : KeepsO s0 (execMemRdData hpa s) := by
  unfold execMemRdData
  repeat' with_reducible first | assumption | intro _ | dsimp only | apply KeepsO.next | apply memRead_keeps

theorem execMemWr_keeps {s0 : State} (hpa : W64) (data : List Byte) (s : State) (k_s : Keeps s0 s) : KeepsO s0 (execMemWr hpa data s) := by
  unfold execMemWr
  repeat' with_reducible first | assumption | intro _ | dsimp only | apply KeepsO.next | apply memWrite_keeps

theorem execMemWrPtl_keeps {s0 : State} (hpa : W64) (data : List Byte) (mask : W64) (s : State) (k_s : Keeps s0 s) : KeepsO s0 (execMemWrPtl hpa data mask s) := by
  unfold execMemWrPtl
  repeat' with_reducible first | assumption | intro _ | dsimp only | apply KeepsO.next | apply memWrite_keeps

theorem execMemInv_keeps {s0 : State} (hpa : W64) (s : State) (k_s : Keeps s0 s) : KeepsO s0 (execMemInv hpa s) := by
  unfold execMemInv
  repeat' with_reducible first | assumption | intro _ | dsimp only | apply Keeps.ite | apply KeepsO.next | apply KeepsO.ite | apply emit_keeps | split

theorem execMemSpecRd_keeps {s0 : State} (_hpa : W64) (s : State) (k_s : Keeps s0 s) : KeepsO s0 (execMemSpecRd _hpa s) := by
  unfold execMemSpecRd
  repeat' with_reducible first | assumption | intro _ | dsimp only | apply KeepsO.next

theorem snoopHome_keeps {s0 : State} (s : State) (l : LineAddr) (k_s : Keeps s0 s) : Keeps s0 (snoopHome s l).after := by
  unfold snoopHome
  repeat' with_reducible first | assumption | intro _ | dsimp only | apply Keeps.ite | apply settleLine_keeps | apply checkHome_keeps | apply snoopAct_keeps | apply granaryHit_keeps | refine Keeps.pair2 (by assumption) ?_ | refine Keeps.pair3 (by assumption) ?_ | refine Keeps.pair1 (by assumption) ?_ | refine KeepsM.of (by assumption) ?_ | split

theorem execSnpData_keeps {s0 : State} (hpa : W64) (s : State) (k_s : Keeps s0 s) : KeepsO s0 (execSnpData hpa s) := by
  unfold execSnpData
  repeat' with_reducible first | assumption | intro _ | dsimp only | apply Keeps.ite | apply KeepsO.next | apply KeepsO.ite | apply snoopHome_keeps | apply emit_keeps | apply cacheModify_keeps | apply hostPutWhole_keeps | split

theorem execSnpInv_keeps {s0 : State} (hpa : W64) (s : State) (k_s : Keeps s0 s) : KeepsO s0 (execSnpInv hpa s) := by
  unfold execSnpInv
  repeat' with_reducible first | assumption | intro _ | dsimp only | apply Keeps.ite | apply KeepsO.next | apply KeepsO.ite | apply settleLine_keeps | apply checkHome_keeps | apply homeRun_keeps | apply granaryHit_keeps | apply emit_keeps | apply hostPutWhole_keeps | apply cacheDrop_keeps | refine Keeps.pair2 (by assumption) ?_ | refine Keeps.pair3 (by assumption) ?_ | refine Keeps.pair1 (by assumption) ?_ | refine KeepsM.of (by assumption) ?_ | split

theorem execSnpCur_keeps {s0 : State} (hpa : W64) (s : State) (k_s : Keeps s0 s) : KeepsO s0 (execSnpCur hpa s) := by
  unfold execSnpCur
  repeat' with_reducible first | assumption | intro _ | dsimp only | apply Keeps.ite | apply KeepsO.next | apply KeepsO.ite | apply snoopHome_keeps | apply emit_keeps | split

theorem execGo_keeps {s0 : State} (tag : Nat) (s : State) (k_s : Keeps s0 s) : KeepsO s0 (execGo tag s) := by
  unfold execGo
  repeat' with_reducible first | assumption | intro _ | dsimp only | apply KeepsO.next | apply hostPutMasked_keeps | apply linkUp_keeps | refine Keeps.pair2 (by assumption) ?_ | refine Keeps.pair3 (by assumption) ?_ | refine Keeps.pair1 (by assumption) ?_ | refine KeepsM.of (by assumption) ?_ | split | refine Keeps.upd ?_ ?_ ?_ ?_ ?_ ?_ ?_ ?_ ?_ ?_

theorem placeDrop_keeps {s0 : State} (s : State) (key : W16) (requester : W16) (reason : Nat) (o : Nat) (n : Nat) (k_s : Keeps s0 s) : Keeps s0 (placeDrop s key requester reason o n) := by
  unfold placeDrop
  repeat' with_reducible first | assumption | intro _ | dsimp only | apply linkUp_keeps | apply refuseCtx_keeps | refine Keeps.pair2 (by assumption) ?_ | refine Keeps.pair3 (by assumption) ?_ | refine Keeps.pair1 (by assumption) ?_ | refine KeepsM.of (by assumption) ?_ | split | refine Keeps.upd ?_ ?_ ?_ ?_ ?_ ?_ ?_ ?_ ?_ ?_

theorem execPlacementWrite_keeps {s0 : State} (direct : Bool) (addr : W64) (key : W16) (requester : W16) (data : List Byte) (s : State) (k_s : Keeps s0 s) : KeepsO s0 (execPlacementWrite direct addr key requester data s) := by
  unfold execPlacementWrite
  repeat' with_reducible first | assumption | intro _ | dsimp only | apply Keeps.ite | apply KeepsO.next | apply KeepsO.ite | apply placeDrop_keeps | apply memWriteLine_keeps | apply writeLine_keeps | apply Keeps.foldl | apply Keeps.fold1 | apply Keeps.fold2 | apply Keeps.fold3 | split

theorem loseFill_keeps {s0 : State} (s : State) (l : LineAddr) (k_s : Keeps s0 s) : Keeps s0 (loseFill s l) := by
  unfold loseFill
  repeat' with_reducible first | assumption | intro _ | dsimp only | apply emit_keeps | apply logError_keeps | apply Keeps.foldl | apply Keeps.fold1 | apply Keeps.fold2 | apply Keeps.fold3 | refine Keeps.pair2 (by assumption) ?_ | refine Keeps.pair3 (by assumption) ?_ | refine Keeps.pair1 (by assumption) ?_ | refine KeepsM.of (by assumption) ?_ | split | refine Keeps.upd ?_ ?_ ?_ ?_ ?_ ?_ ?_ ?_ ?_ ?_

theorem loseStore_keeps {s0 : State} (s : State) (line : Nat) (r : HostReq) (k_s : Keeps s0 s) : Keeps s0 (loseStore s line r) := by
  unfold loseStore
  repeat' with_reducible first | assumption | intro _ | dsimp only | apply logError_keeps | apply setWindrow_keeps | apply noteLost_keeps | apply planContained_keeps | refine Keeps.pair2 (by assumption) ?_ | refine Keeps.pair3 (by assumption) ?_ | refine Keeps.pair1 (by assumption) ?_ | refine KeepsM.of (by assumption) ?_ | split

theorem loseMiss_keeps {s0 : State} (status : Byte) (s : State) (m : Miss) (k_s : Keeps s0 s) : Keeps s0 (loseMiss status s m) := by
  unfold loseMiss
  repeat' with_reducible first | assumption | intro _ | dsimp only | apply refuseWaiter_keeps | apply Keeps.foldl | apply Keeps.fold1 | apply Keeps.fold2 | apply Keeps.fold3

theorem loseRequest_keeps {s0 : State} (s : State) (r : HostReq) (k_s : Keeps s0 s) : Keeps s0 (loseRequest s r) := by
  unfold loseRequest
  repeat' with_reducible first | assumption | intro _ | dsimp only | apply loseStore_keeps | apply loseFill_keeps | refine Keeps.pair2 (by assumption) ?_ | refine Keeps.pair3 (by assumption) ?_ | refine Keeps.pair1 (by assumption) ?_ | refine KeepsM.of (by assumption) ?_ | split

theorem failOutbound_keeps {s0 : State} (s : State) (k_s : Keeps s0 s) : Keeps s0 (failOutbound s) := by
  unfold failOutbound
  repeat' with_reducible first | assumption | intro _ | dsimp only | apply dropHostLines_keeps | apply linkUp_keeps | apply startWalks_keeps | apply loseMiss_keeps | apply loseRequest_keeps | apply Keeps.foldl | apply Keeps.fold1 | apply Keeps.fold2 | apply Keeps.fold3 | refine Keeps.upd ?_ ?_ ?_ ?_ ?_ ?_ ?_ ?_ ?_ ?_

theorem freezePort_keeps {s0 : State} (s : State) (cause : FreezeCause) (k_s : Keeps s0 s) : Keeps s0 (freezePort s cause) := by
  unfold freezePort
  repeat' with_reducible first | assumption | intro _ | dsimp only | apply linkUp_keeps | apply signalVector_keeps | apply failOutbound_keeps | refine Keeps.pair2 (by assumption) ?_ | refine Keeps.pair3 (by assumption) ?_ | refine Keeps.pair1 (by assumption) ?_ | refine KeepsM.of (by assumption) ?_ | split | refine Keeps.upd ?_ ?_ ?_ ?_ ?_ ?_ ?_ ?_ ?_ ?_

theorem execPortFreeze_keeps {s0 : State} (cause : FreezeCause) (s : State) (k_s : Keeps s0 s) : KeepsO s0 (execPortFreeze cause s) := by
  unfold execPortFreeze
  repeat' with_reducible first | assumption | intro _ | dsimp only | apply Keeps.ite | apply KeepsO.next | apply KeepsO.ite | apply freezePort_keeps | split

theorem aerError_keeps {s0 : State} (s : State) (b : Nat) (k_s : Keeps s0 s) : Keeps s0 (aerError s b) := by
  unfold aerError
  repeat' with_reducible first | assumption | intro _ | dsimp only | apply Keeps.ite | apply signalVector_keeps | apply linkUp_keeps | apply freezePort_keeps | split | refine Keeps.upd ?_ ?_ ?_ ?_ ?_ ?_ ?_ ?_ ?_ ?_

theorem timeOut_keeps {s0 : State} (s : State) (r : HostReq) (k_s : Keeps s0 s) : Keeps s0 (timeOut s r) := by
  unfold timeOut
  repeat' with_reducible first | assumption | intro _ | dsimp only | apply loseMiss_keeps | apply dropMiss_keeps | apply loseRequest_keeps | refine Keeps.pair2 (by assumption) ?_ | refine Keeps.pair3 (by assumption) ?_ | refine Keeps.pair1 (by assumption) ?_ | refine KeepsM.of (by assumption) ?_ | split

theorem execCompletionTimeout_keeps {s0 : State} (tag : Nat) (s : State) (k_s : Keeps s0 s) : KeepsO s0 (execCompletionTimeout tag s) := by
  unfold execCompletionTimeout
  repeat' with_reducible first | assumption | intro _ | dsimp only | apply KeepsO.next | apply linkUp_keeps | apply aerError_keeps | apply timeOut_keeps | refine Keeps.pair2 (by assumption) ?_ | refine Keeps.pair3 (by assumption) ?_ | refine Keeps.pair1 (by assumption) ?_ | refine KeepsM.of (by assumption) ?_ | split | refine Keeps.upd ?_ ?_ ?_ ?_ ?_ ?_ ?_ ?_ ?_ ?_

theorem execUnexpectedCompletion_keeps {s0 : State} (_tag : Nat) (s : State) (k_s : Keeps s0 s) : KeepsO s0 (execUnexpectedCompletion _tag s) := by
  unfold execUnexpectedCompletion
  repeat' with_reducible first | assumption | intro _ | dsimp only | apply KeepsO.next

theorem execPtmSample_keeps {s0 : State} (hostTime : W64) (s : State) (k_s : Keeps s0 s) : KeepsO s0 (execPtmSample hostTime s) := by
  unfold execPtmSample
  repeat' with_reducible first | assumption | intro _ | dsimp only | apply Keeps.ite | apply KeepsO.next | apply KeepsO.ite | apply linkUp_keeps | split | refine Keeps.upd ?_ ?_ ?_ ?_ ?_ ?_ ?_ ?_ ?_ ?_

theorem execHostLinkTrained_keeps {s0 : State} (t : HostTraining) (s : State) (k_s : Keeps s0 s) : KeepsO s0 (execHostLinkTrained t s) := by
  unfold execHostLinkTrained
  repeat' with_reducible first | assumption | intro _ | dsimp only | apply Keeps.ite | apply KeepsO.next | apply KeepsO.ite | apply tallyConflict_keeps | split | refine Keeps.upd ?_ ?_ ?_ ?_ ?_ ?_ ?_ ?_ ?_ ?_

theorem setPme_keeps {s0 : State} (s : State) (k_s : Keeps s0 s) : Keeps s0 (setPme s) := by
  unfold setPme
  repeat' with_reducible first | assumption | intro _ | dsimp only | apply Keeps.ite | apply linkUp_keeps | apply emit_keeps | split | refine Keeps.upd ?_ ?_ ?_ ?_ ?_ ?_ ?_ ?_ ?_ ?_

theorem execWakeWain_keeps {s0 : State} (_link : Nat) (s : State) (k_s : Keeps s0 s) : KeepsO s0 (execWakeWain _link s) := by
  unfold execWakeWain
  repeat' with_reducible first | assumption | intro _ | dsimp only | apply Keeps.ite | apply KeepsO.next | apply KeepsO.ite | apply setPme_keeps | split

theorem enterD3_keeps {s0 : State} (s : State) (k_s : Keeps s0 s) : Keeps s0 (enterD3 s) := by
  unfold enterD3
  repeat' with_reducible first | assumption | intro _ | dsimp only | apply drainAll_keeps | apply flushWhere_keeps | apply setSlot_keeps | apply endMembership_keeps | apply linkUp_keeps | apply Keeps.foldl | apply Keeps.fold1 | apply Keeps.fold2 | apply Keeps.fold3 | refine Keeps.upd ?_ ?_ ?_ ?_ ?_ ?_ ?_ ?_ ?_ ?_

theorem execD3hotEntry_keeps {s0 : State} (s : State) (k_s : Keeps s0 s) : KeepsO s0 (execD3hotEntry s) := by
  unfold execD3hotEntry
  repeat' with_reducible first | assumption | intro _ | dsimp only | apply Keeps.ite | apply KeepsO.next | apply KeepsO.ite | apply linkUp_keeps | apply reportToRoot_keeps | apply enterD3_keeps | split | refine Keeps.upd ?_ ?_ ?_ ?_ ?_ ?_ ?_ ?_ ?_ ?_

theorem execD0Return_keeps {s0 : State} (s : State) (k_s : Keeps s0 s) : KeepsO s0 (execD0Return s) := by
  unfold execD0Return
  repeat' with_reducible first | assumption | intro _ | dsimp only | apply Keeps.ite | apply KeepsO.next | apply KeepsO.ite | apply linkUp_keeps | split | refine Keeps.upd ?_ ?_ ?_ ?_ ?_ ?_ ?_ ?_ ?_ ?_

theorem resetEngines_keeps {s0 : State} (s : State) (k_s : Keeps s0 s) : Keeps s0 (resetEngines s) := by
  unfold resetEngines
  repeat' with_reducible first | assumption | intro _ | dsimp only | apply Keeps.ite | apply clearSheaf_keeps | apply setSheaf_keeps | apply emit_keeps | apply setAtt_keeps | apply Keeps.foldl | apply Keeps.fold1 | apply Keeps.fold2 | apply Keeps.fold3 | split | refine Keeps.upd ?_ ?_ ?_ ?_ ?_ ?_ ?_ ?_ ?_ ?_

theorem resetBlock_keeps {s0 : State} (s : State) (keepHost : Bool) (self : Bool) (k_s : Keeps s0 s) : Keeps s0 (resetBlock s keepHost self) := by
  unfold resetBlock
  repeat' with_reducible first | assumption | intro _ | dsimp only | apply Keeps.ite | apply drainAll_keeps | apply linkUp_keeps | apply hostPutMasked_keeps | apply flushHostLines_keeps | apply dropHostLines_keeps | apply flushWhere_keeps | apply clearRun_keeps | apply resetEngines_keeps | apply setSlot_keeps | apply endMembership_keeps | exact hlCfgOk_reset | exact trCfgOk_reset | exact cacheCfgOk_reset | exact cohCfgOk_reset | exact gleanCfgOk_reset | exact wainCfgOk_reset | apply hlCfgOk_resetHostLink | apply trCfgOk_resetTrans | apply Keeps.foldl | apply Keeps.fold1 | apply Keeps.fold2 | apply Keeps.fold3 | refine Keeps.pair2 (by assumption) ?_ | refine Keeps.pair3 (by assumption) ?_ | refine Keeps.pair1 (by assumption) ?_ | refine KeepsM.of (by assumption) ?_ | split | refine Keeps.upd ?_ ?_ ?_ ?_ ?_ ?_ ?_ ?_ ?_ ?_

theorem fatalReset_keeps {s0 : State} (s : State) (source : Nat) (k_s : Keeps s0 s) : Keeps s0 (fatalReset s source) := by
  unfold fatalReset
  repeat' with_reducible first | assumption | intro _ | dsimp only | apply resetBlock_keeps | apply logError_keeps | apply markPreempted_keeps

theorem execSelfReset_keeps {s0 : State} (s : State) (k_s : Keeps s0 s) : KeepsO s0 (execSelfReset s) := by
  unfold execSelfReset
  repeat' with_reducible first | assumption | intro _ | dsimp only | apply Keeps.ite | apply KeepsO.next | apply KeepsO.ite | apply linkUp_keeps | apply fatalReset_keeps | split

theorem execHotReset_keeps {s0 : State} (s : State) (k_s : Keeps s0 s) : KeepsO s0 (execHotReset s) := by
  unfold execHotReset
  repeat' with_reducible first | assumption | intro _ | dsimp only | apply Keeps.ite | apply KeepsO.next | apply KeepsO.ite | apply resetBlock_keeps | split

theorem execFunctionLevelReset_keeps {s0 : State} (s : State) (k_s : Keeps s0 s) : KeepsO s0 (execFunctionLevelReset s) := by
  unfold execFunctionLevelReset
  repeat' with_reducible first | assumption | intro _ | dsimp only | apply Keeps.ite | apply KeepsO.next | apply KeepsO.ite | apply resetBlock_keeps | split

/-! ## Margin -/

theorem keepSample_keeps {s0 : State} (s : State) (monitor : Nat) (slack : Nat) (k_s : Keeps s0 s) : Keeps s0 (keepSample s monitor slack) := by
  unfold keepSample
  repeat' with_reducible first | assumption | intro _ | dsimp only | refine Keeps.upd ?_ ?_ ?_ ?_ ?_ ?_ ?_ ?_ ?_ ?_

theorem execRipenessSample_keeps {s0 : State} (monitor : Nat) (slack : Nat) (s : State) (k_s : Keeps s0 s) : KeepsO s0 (execRipenessSample monitor slack s) := by
  unfold execRipenessSample
  repeat' with_reducible first | assumption | intro _ | dsimp only | apply Keeps.ite | apply KeepsO.next | apply KeepsO.ite | apply keepSample_keeps | apply raiseReplayed_keeps | split | refine Keeps.upd ?_ ?_ ?_ ?_ ?_ ?_ ?_ ?_ ?_ ?_

theorem execWatchdogExpiry_keeps {s0 : State} (s : State) (k_s : Keeps s0 s) : KeepsO s0 (execWatchdogExpiry s) := by
  unfold execWatchdogExpiry
  repeat' with_reducible first | assumption | intro _ | dsimp only | apply Keeps.ite | apply KeepsO.next | apply KeepsO.ite | apply fatalReset_keeps | split

theorem execVidAck_keeps {s0 : State} (s : State) (k_s : Keeps s0 s) : KeepsO s0 (execVidAck s) := by
  unfold execVidAck
  repeat' with_reducible first | assumption | intro _ | dsimp only | apply KeepsO.next | apply driveVid_keeps | refine Keeps.upd ?_ ?_ ?_ ?_ ?_ ?_ ?_ ?_ ?_ ?_

theorem execVidAckTimeout_keeps {s0 : State} (s : State) (k_s : Keeps s0 s) : KeepsO s0 (execVidAckTimeout s) := by
  unfold execVidAckTimeout
  repeat' with_reducible first | assumption | intro _ | dsimp only | apply Keeps.ite | apply KeepsO.next | apply KeepsO.ite | apply logError_keeps | split | refine Keeps.upd ?_ ?_ ?_ ?_ ?_ ?_ ?_ ?_ ?_ ?_

/-! ## Boot -/

theorem fundamentalState_keeps {s0 : State} (s : State) (k_s : Keeps s0 s) : Keeps s0 (fundamentalState s) := by
  unfold fundamentalState
  repeat' with_reducible first | assumption | intro _ | dsimp only | exact ramEmpty_wf | exact hlCfgOk_reset | exact trCfgOk_reset | exact cacheCfgOk_reset | exact cohCfgOk_reset | exact gleanCfgOk_reset | exact wainCfgOk_reset | apply hlCfgOk_resetHostLink | apply trCfgOk_resetTrans | refine Keeps.upd ?_ ?_ ?_ ?_ ?_ ?_ ?_ ?_ ?_ ?_

theorem execPerstNAsserted_keeps {s0 : State} (s : State) (k_s : Keeps s0 s) : KeepsO s0 (execPerstNAsserted s) := by
  unfold execPerstNAsserted
  repeat' with_reducible first | assumption | intro _ | dsimp only | apply Keeps.ite | apply KeepsO.next | apply KeepsO.ite | apply fundamentalState_keeps | split

theorem execPwrOkFall_keeps {s0 : State} (s : State) (k_s : Keeps s0 s) : KeepsO s0 (execPwrOkFall s) := by
  unfold execPwrOkFall
  repeat' with_reducible first | assumption | intro _ | dsimp only | apply Keeps.ite | apply KeepsO.next | apply KeepsO.ite | apply fundamentalState_keeps | split

theorem execThermtrip_keeps {s0 : State} (s : State) (k_s : Keeps s0 s) : KeepsO s0 (execThermtrip s) := by
  unfold execThermtrip
  repeat' with_reducible first | assumption | intro _ | dsimp only | apply KeepsO.next | apply tallyConflict_keeps | refine Keeps.upd ?_ ?_ ?_ ?_ ?_ ?_ ?_ ?_ ?_ ?_

theorem execFundamentalReset_keeps {s0 : State} (straps : W16) (s : State) (k_s : Keeps s0 s) : KeepsO s0 (execFundamentalReset straps s) := by
  unfold execFundamentalReset
  repeat' with_reducible first | assumption | intro _ | dsimp only | apply Keeps.ite | apply KeepsO.next | apply KeepsO.ite | apply tallyConflict_keeps | refine Keeps.pair2 (by assumption) ?_ | refine Keeps.pair3 (by assumption) ?_ | refine Keeps.pair1 (by assumption) ?_ | refine KeepsM.of (by assumption) ?_ | split | refine Keeps.upd ?_ ?_ ?_ ?_ ?_ ?_ ?_ ?_ ?_ ?_

theorem bootFail_keeps {s0 : State} (s : State) (code : Nat) (k_s : Keeps s0 s) : Keeps s0 (bootFail s code) := by
  unfold bootFail
  repeat' with_reducible first | assumption | intro _ | dsimp only | apply tallyConflict_keeps | refine Keeps.upd ?_ ?_ ?_ ?_ ?_ ?_ ?_ ?_ ?_ ?_

theorem execPllLock_keeps {s0 : State} (locked : Bool) (s : State) (k_s : Keeps s0 s) : KeepsO s0 (execPllLock locked s) := by
  unfold execPllLock
  repeat' with_reducible first | assumption | intro _ | dsimp only | apply Keeps.ite | apply KeepsO.next | apply KeepsO.ite | apply tallyConflict_keeps | apply bootFail_keeps | split | refine Keeps.upd ?_ ?_ ?_ ?_ ?_ ?_ ?_ ?_ ?_ ?_

theorem loadConfig_keeps {s0 : State} (s : State) (r : AuthResult) (copyB : Bool) (k_s : Keeps s0 s) : Keeps s0 (loadConfig s r copyB) := by
  unfold loadConfig
  repeat' with_reducible first | assumption | intro _ | dsimp only | apply Keeps.ite | apply tallyConflict_keeps | apply driveVid_keeps | split | refine Keeps.upd ?_ ?_ ?_ ?_ ?_ ?_ ?_ ?_ ?_ ?_

theorem execFirmwareAuthentication_keeps {s0 : State} (r : AuthResult) (s : State) (k_s : Keeps s0 s) : KeepsO s0 (execFirmwareAuthentication r s) := by
  unfold execFirmwareAuthentication
  repeat' with_reducible first | assumption | intro _ | dsimp only | apply Keeps.ite | apply KeepsO.next | apply KeepsO.ite | apply bootFail_keeps | apply loadConfig_keeps | split

theorem execStackTraining_keeps {s0 : State} (ports : List PortTrain) (s : State) (k_s : Keeps s0 s) : KeepsO s0 (execStackTraining ports s) := by
  unfold execStackTraining
  repeat' with_reducible first | assumption | intro _ | dsimp only | apply Keeps.ite | apply KeepsO.next | apply KeepsO.ite | apply setPort_keeps | apply tallyConflict_keeps | apply Keeps.foldl | apply Keeps.fold1 | apply Keeps.fold2 | apply Keeps.fold3 | split | refine Keeps.upd ?_ ?_ ?_ ?_ ?_ ?_ ?_ ?_ ?_ ?_

theorem execPoolClear_keeps {s0 : State} (s : State) (k_s : Keeps s0 s) : KeepsO s0 (execPoolClear s) := by
  unfold execPoolClear
  repeat' with_reducible first | assumption | intro _ | dsimp only | apply Keeps.ite | apply KeepsO.next | apply KeepsO.ite | apply tallyConflict_keeps | exact ramEmpty_wf | exact hlCfgOk_reset | exact trCfgOk_reset | exact cacheCfgOk_reset | exact cohCfgOk_reset | exact gleanCfgOk_reset | exact wainCfgOk_reset | apply hlCfgOk_resetHostLink | apply trCfgOk_resetTrans | split | refine Keeps.upd ?_ ?_ ?_ ?_ ?_ ?_ ?_ ?_ ?_ ?_

theorem execTapInstruction_keeps {s0 : State} (op : TapOp) (s : State) (k_s : Keeps s0 s) : KeepsO s0 (execTapInstruction op s) := by
  unfold execTapInstruction
  repeat' with_reducible first | assumption | intro _ | dsimp only | apply Keeps.ite | apply KeepsO.next | apply KeepsO.ite | apply tallyConflict_keeps | apply emit_keeps | apply fundamentalState_keeps | refine Keeps.pair2 (by assumption) ?_ | refine Keeps.pair3 (by assumption) ?_ | refine Keeps.pair1 (by assumption) ?_ | refine KeepsM.of (by assumption) ?_ | split | refine Keeps.upd ?_ ?_ ?_ ?_ ?_ ?_ ?_ ?_ ?_ ?_

end

end Sys2Proof.Machine
end

