-- ==== Sys2Proof/Laws/KeepsCommands.lean ====
section
/-!
SUPPORT. What every operation keeps (the queue, the canonical form of the stores, the legal values of the configuration registers):
memory commands, the engine port, plan commands, the Seedcorn and QUERY.
-/
namespace Sys2Proof.Machine

section

set_option linter.all false

/-! ## MemCmds -/

theorem execNop_keeps {s0 : State} (h : CmdHdr) (s : State) (k_s : Keeps s0 s) : KeepsO s0 (execNop h s) := by
  unfold execNop
  repeat' with_reducible first | assumption | intro _ | dsimp only | apply KeepsO.next | apply command_keeps | apply done_keeps

theorem claimReqs_keeps {s0 : State} (before : State) (h : CmdHdr) (s : State) (k_before : Keeps s0 before) (k_s : Keeps s0 s) : Keeps s0 (claimReqs before h s) := by
  unfold claimReqs
  repeat' with_reducible first | assumption | intro _ | dsimp only | apply linkUp_keeps | refine Keeps.upd ?_ ?_ ?_ ?_ ?_ ?_ ?_ ?_ ?_ ?_

theorem execFence_keeps {s0 : State} (h : CmdHdr) (kind : Byte) (s : State) (k_s : Keeps s0 s) : KeepsO s0 (execFence h kind s) := by
  unfold execFence
  repeat' with_reducible first | assumption | intro _ | dsimp only | apply Keeps.ite | apply KeepsO.next | apply KeepsO.ite | apply command_keeps | apply guardCodes_keeps | apply complete_keeps | apply setWindrow_keeps | apply done_keeps | split

theorem flushRange_keeps {s0 : State} (iss : Issuer) (inval : Bool) (a2 : Nat) (a3 : Nat) (a4 : State) (k_a4 : Keeps s0 a4) : Keeps s0 (flushRange iss inval a2 a3 a4).2 := by
  fun_induction flushRange iss inval a2 a3 a4
  all_goals (repeat' with_reducible first | assumption | intro _ | dsimp only | apply Keeps.ite | apply translate_keeps | apply refuseCtx_keeps | apply lineRefuse_keeps | apply flushLine_keeps | apply_assumption | refine Keeps.pair2 (by assumption) ?_ | refine Keeps.pair3 (by assumption) ?_ | refine Keeps.pair1 (by assumption) ?_ | refine KeepsM.of (by assumption) ?_ | split)

theorem execFlushPublish_keeps {s0 : State} (h : CmdHdr) (base : W64) (length : W64) (mode : Byte) (s : State) (k_s : Keeps s0 s) : KeepsO s0 (execFlushPublish h base length mode s) := by
  unfold execFlushPublish
  repeat' with_reducible first | assumption | intro _ | dsimp only | apply KeepsO.next | apply command_keeps | apply guardCodes_keeps | apply flushRange_keeps | apply complete_keeps | apply done_keeps | refine Keeps.pair2 (by assumption) ?_ | refine Keeps.pair3 (by assumption) ?_ | refine Keeps.pair1 (by assumption) ?_ | refine KeepsM.of (by assumption) ?_ | split

theorem resolvePairs_keeps {s0 : State} (iss : Issuer) (c : CopyShape) (src : Nat) (dst : Nat → State → Except RangeEnd LineOp × State) (a4 : Nat) (a5 : Nat) (a6 : State) (k_dst : ∀ (x0 : Nat) (x1 : State), Keeps s0 x1 → Keeps s0 (dst x0 x1).2) (k_a6 : Keeps s0 a6) : Keeps s0 (resolvePairs iss c src dst a4 a5 a6).2.2 := by
  fun_induction resolvePairs iss c src dst a4 a5 a6
  all_goals (repeat' with_reducible first | assumption | intro _ | dsimp only | apply resolveLines_keeps | apply k_dst | apply_assumption | refine Keeps.pair2 (by assumption) ?_ | refine Keeps.pair3 (by assumption) ?_ | refine Keeps.pair1 (by assumption) ?_ | refine KeepsM.of (by assumption) ?_ | split)

theorem sourceLine_keeps {s0 : State} (s : State) (iss : Issuer) (o : LineOp) (k_s : Keeps s0 s) : Keeps s0 (sourceLine s iss o).2 := by
  unfold sourceLine
  repeat' with_reducible first | assumption | intro _ | dsimp only | apply Keeps.ite | apply lineGet_keeps | apply Keeps.getD | split

theorem sourceLines_keeps {s0 : State} (s : State) (iss : Issuer) (os : List LineOp) (k_s : Keeps s0 s) : Keeps s0 (sourceLines s iss os).2 := by
  unfold sourceLines
  repeat' with_reducible first | assumption | intro _ | dsimp only | apply sourceLine_keeps | apply Keeps.foldl | apply Keeps.fold1 | apply Keeps.fold2 | apply Keeps.fold3

theorem notePoison_keeps {s0 : State} (before : State) (iss : Issuer) (os : List LineOp) (xs : List Line) (s : State) (k_before : Keeps s0 before) (k_s : Keeps s0 s) : Keeps s0 (notePoison before iss os xs s) := by
  unfold notePoison
  repeat' with_reducible first | assumption | intro _ | dsimp only | apply Keeps.ite | apply logError_keeps | apply logPoison_keeps | apply Keeps.foldl | apply Keeps.fold1 | apply Keeps.fold2 | apply Keeps.fold3 | split

theorem sendPairs_keeps {s0 : State} (iss : Issuer) (data : Nat → List Line → Line × Nat) (s : State) (ps : List CopyPair) (k_s : Keeps s0 s) : Keeps s0 (sendPairs iss data s ps).1 := by
  unfold sendPairs
  repeat' with_reducible first | assumption | intro _ | dsimp only | apply Keeps.ite | apply sourceLines_keeps | apply notePoison_keeps | apply putRemote_keeps | apply k_data | apply Keeps.foldl | apply Keeps.fold1 | apply Keeps.fold2 | apply Keeps.fold3 | split

theorem writePairs_keeps {s0 : State} (iss : Issuer) (data : Nat → List Line → Line × Nat) (s : State) (ps : List CopyPair) (k_s : Keeps s0 s) : Keeps s0 (writePairs iss data s ps).1 := by
  unfold writePairs
  repeat' with_reducible first | assumption | intro _ | dsimp only | apply Keeps.ite | apply sourceLines_keeps | apply notePoison_keeps | apply linePutWhole_keeps | apply k_data | apply Keeps.foldl | apply Keeps.fold1 | apply Keeps.fold2 | apply Keeps.fold3 | split

theorem copyRun_keeps {s0 : State} (before : State) (h : CmdHdr) (detail : W32) (data : Nat → List Line → Line × Nat) (r : List CopyPair × RangeEnd × State) (k_before : Keeps s0 before) (k_r : Keeps s0 r.2.2) : Keeps s0 (copyRun before h detail data r) := by
  unfold copyRun
  repeat' with_reducible first | assumption | intro _ | dsimp only | apply Keeps.ite | apply complete_keeps | apply endTask_keeps | apply wantRemote_keeps | apply sendPairs_keeps | apply writePairs_keeps | apply claimReqs_keeps | apply sourceLines_keeps | apply k_data | apply Keeps.foldl | apply Keeps.fold1 | apply Keeps.fold2 | apply Keeps.fold3 | refine Keeps.pair2 (by assumption) ?_ | refine Keeps.pair3 (by assumption) ?_ | refine Keeps.pair1 (by assumption) ?_ | refine KeepsM.of (by assumption) ?_ | split

theorem caDst_keeps {s0 : State} (iss : Issuer) (dst : Nat) (j : Nat) (s : State) (k_s : Keeps s0 s) : Keeps s0 (caDst iss dst j s).2 := by
  unfold caDst
  repeat' with_reducible first | assumption | intro _ | dsimp only | apply resolveLine_keeps

theorem execCopy_keeps {s0 : State} (h : CmdHdr) (src : W64) (dst : W64) (bytes : W64) (conv : Byte) (sfmt : BitVec 4) (dfmt : BitVec 4) (sat : Bool) (rnd : BitVec 2) (tensor : W32) (seed : W64) (s : State) (k_s : Keeps s0 s) : KeepsO s0 (execCopy h src dst bytes conv sfmt dfmt sat rnd tensor seed s) := by
  unfold execCopy
  repeat' with_reducible first | assumption | intro _ | dsimp only | apply Keeps.ite | apply KeepsO.next | apply KeepsO.ite | apply command_keeps | apply guardCodes_keeps | apply copyRun_keeps | apply resolvePairs_keeps | apply caDst_keeps | split

theorem execFill_keeps {s0 : State} (h : CmdHdr) (dst : W64) (bytes : W64) (pattern : W64) (s : State) (k_s : Keeps s0 s) : KeepsO s0 (execFill h dst bytes pattern s) := by
  unfold execFill
  repeat' with_reducible first | assumption | intro _ | dsimp only | apply KeepsO.next | apply command_keeps | apply guardCodes_keeps | apply copyRun_keeps | apply resolvePairs_keeps | apply caDst_keeps

theorem remoteDst_keeps {s0 : State} (iss : Issuer) (tally : Nat) (doff : Nat) (j : Nat) (s : State) (k_s : Keeps s0 s) : Keeps s0 (remoteDst iss tally doff j s).2 := by
  unfold remoteDst
  repeat' with_reducible first | assumption | intro _ | dsimp only | apply lineRefuse_keeps | refine Keeps.pair2 (by assumption) ?_ | refine Keeps.pair3 (by assumption) ?_ | refine Keeps.pair1 (by assumption) ?_ | refine KeepsM.of (by assumption) ?_ | split

theorem execCopyRemote_keeps {s0 : State} (h : CmdHdr) (src : W64) (doff : W64) (bytes : W32) (tally : BitVec 10) (s : State) (k_s : Keeps s0 s) : KeepsO s0 (execCopyRemote h src doff bytes tally s) := by
  unfold execCopyRemote
  repeat' with_reducible first | assumption | intro _ | dsimp only | apply KeepsO.next | apply command_keeps | apply guardCodes_keeps | apply copyRun_keeps | apply resolvePairs_keeps | apply remoteDst_keeps

/-! ## EnginePort -/

theorem epSay_keeps {s0 : State} (s : State) (r : EpReq) (status : BitVec 4) (k_s : Keeps s0 s) : Keeps s0 (epSay s r status) := by
  unfold epSay
  repeat' with_reducible first | assumption | intro _ | dsimp only | apply epAnswer_keeps

theorem epFault_keeps {s0 : State} (s : State) (r : EpReq) (id : W16) (k_s : Keeps s0 s) : Keeps s0 (epFault s r id) := by
  unfold epFault
  repeat' with_reducible first | assumption | intro _ | dsimp only | apply epAnswer_keeps | apply endTask_keeps | apply Keeps.foldl | apply Keeps.fold1 | apply Keeps.fold2 | apply Keeps.fold3

theorem epParked_keeps {s0 : State} (s : State) (r : EpReq) (k_s : Keeps s0 s) : Keeps s0 (epParked s r) := by
  unfold epParked
  repeat' with_reducible first | assumption | intro _ | dsimp only | apply Keeps.ite | apply epFault_keeps | refine Keeps.pair2 (by assumption) ?_ | refine Keeps.pair3 (by assumption) ?_ | refine Keeps.pair1 (by assumption) ?_ | refine KeepsM.of (by assumption) ?_ | split

theorem epBegin_keeps {s0 : State} (s : State) (r : EpReq) (due : Nat) (pass : Bool) (k_s : Keeps s0 s) : Keeps s0 (epBegin s r due pass) := by
  unfold epBegin
  repeat' with_reducible first | assumption | intro _ | dsimp only | apply Keeps.ite | apply setAtt_keeps | split

theorem epRequest_keeps {s0 : State} (r : EpReq) (sheaf : Option Nat) (body : State → State) (s : State) (k_body : ∀ (x0 : State), Keeps s0 x0 → Keeps s0 (body x0)) (k_s : Keeps s0 s) : KeepsO s0 (epRequest r sheaf body s) := by
  unfold epRequest
  repeat' with_reducible first | assumption | intro _ | dsimp only | apply Keeps.ite | apply KeepsO.next | apply KeepsO.ite | apply setAtt_keeps | apply epSay_keeps | apply epParked_keeps | apply endTask_keeps | apply k_body | refine Keeps.pair2 (by assumption) ?_ | refine Keeps.pair3 (by assumption) ?_ | refine Keeps.pair1 (by assumption) ?_ | refine KeepsM.of (by assumption) ?_ | split

theorem epResolve_keeps {s0 : State} (s : State) (r : EpReq) (acc : AccessKind) (a3 : List (Nat × Nat)) (k_s : Keeps s0 s) : Keeps s0 (epResolve s r acc a3).2.2 := by
  fun_induction epResolve s r acc a3
  all_goals (repeat' with_reducible first | assumption | intro _ | dsimp only | apply translate_keeps | apply refuseCtx_keeps | apply lineRefuse_keeps | apply_assumption | refine Keeps.pair2 (by assumption) ?_ | refine Keeps.pair3 (by assumption) ?_ | refine Keeps.pair1 (by assumption) ?_ | refine KeepsM.of (by assumption) ?_ | split)

theorem epAccess_keeps {s0 : State} (s : State) (r : EpReq) (acc : AccessKind) (parts : List (Nat × Nat)) (k : State → List LineOp → State) (cut : State → List LineOp → State) (k_s : Keeps s0 s) (k_k : ∀ (x0 : State) (x1 : List LineOp), Keeps s0 x0 → Keeps s0 (k x0 x1)) (k_cut : ∀ (x0 : State) (x1 : List LineOp), Keeps s0 x0 → Keeps s0 (cut x0 x1)) : Keeps s0 (epAccess s r acc parts k cut) := by
  unfold epAccess
  repeat' with_reducible first | assumption | intro _ | dsimp only | apply epResolve_keeps | apply epParked_keeps | apply epSay_keeps | apply endTask_keeps | apply k_k | apply k_cut | refine Keeps.pair2 (by assumption) ?_ | refine Keeps.pair3 (by assumption) ?_ | refine Keeps.pair1 (by assumption) ?_ | refine KeepsM.of (by assumption) ?_ | split

theorem claimGroup_keeps {s0 : State} (before : State) (r : EpReq) (s : State) (k_before : Keeps s0 before) (k_s : Keeps s0 s) : Keeps s0 (claimGroup before r s) := by
  unfold claimGroup
  repeat' with_reducible first | assumption | intro _ | dsimp only | apply linkUp_keeps | refine Keeps.upd ?_ ?_ ?_ ?_ ?_ ?_ ?_ ?_ ?_ ?_

theorem epReadLines_keeps {s0 : State} (s : State) (iss : LineOp → Issuer) (os : List LineOp) (k_s : Keeps s0 s) : Keeps s0 (epReadLines s iss os).2 := by
  unfold epReadLines
  repeat' with_reducible first | assumption | intro _ | dsimp only | apply Keeps.ite | apply lineGet_keeps | apply k_iss | apply Keeps.foldl | apply Keeps.fold1 | apply Keeps.fold2 | apply Keeps.fold3 | apply Keeps.getD | split

theorem epFetch_keeps {s0 : State} (s : State) (r : EpReq) (os : List LineOp) (k : State → State) (k_s : Keeps s0 s) (k_k : ∀ (x0 : State), Keeps s0 x0 → Keeps s0 (k x0)) : Keeps s0 (epFetch s r os k) := by
  unfold epFetch
  repeat' with_reducible first | assumption | intro _ | dsimp only | apply Keeps.ite | apply epSay_keeps | apply endTask_keeps | apply wantRemote_keeps | apply k_k | apply Keeps.foldl | apply Keeps.fold1 | apply Keeps.fold2 | apply Keeps.fold3 | refine Keeps.pair2 (by assumption) ?_ | refine Keeps.pair3 (by assumption) ?_ | refine Keeps.pair1 (by assumption) ?_ | refine KeepsM.of (by assumption) ?_ | split

theorem execEpLoad_keeps {s0 : State} (r : EpReq) (s : State) (k_s : Keeps s0 s) : KeepsO s0 (execEpLoad r s) := by
  unfold execEpLoad
  repeat' with_reducible first | assumption | intro _ | dsimp only | apply Keeps.ite | apply KeepsO.next | apply KeepsO.ite | apply epRequest_keeps | apply epAccess_keeps | apply drainBuf_keeps | apply epFetch_keeps | apply epReadLines_keeps | apply endTask_keeps | apply claimGroup_keeps | apply epAnswer_keeps | apply Keeps.getD | split

theorem takeBuf_keeps {s0 : State} (s : State) (att : Nat) (g : BitVec 30) (k_s : Keeps s0 s) : KeepsM s0 (takeBuf s att g) := by
  unfold takeBuf
  repeat' with_reducible first | assumption | intro _ | dsimp only | apply Keeps.ite | apply KeepsM.some | exact KeepsM.none | apply KeepsM.ite | apply setAtt_keeps | apply freeBuf_keeps | apply drainBuf_keeps | apply Keeps.foldl | apply Keeps.fold1 | apply Keeps.fold2 | apply Keeps.fold3 | refine Keeps.pair2 (by assumption) ?_ | refine Keeps.pair3 (by assumption) ?_ | refine Keeps.pair1 (by assumption) ?_ | refine KeepsM.of (by assumption) ?_ | split

theorem storeLanes_keeps {s0 : State} (s : State) (r : EpReq) (lanes : List (Nat × Lane)) (ps : List LanePlace) (k_s : Keeps s0 s) : Keeps s0 (storeLanes s r lanes ps) := by
  unfold storeLanes
  repeat' with_reducible first | assumption | intro _ | dsimp only | apply pushStore_keeps | apply Keeps.foldl | apply Keeps.fold1 | apply Keeps.fold2 | apply Keeps.fold3

theorem execEpStore_keeps {s0 : State} (r : EpReq) (s : State) (k_s : Keeps s0 s) : KeepsO s0 (execEpStore r s) := by
  unfold execEpStore
  repeat' with_reducible first | assumption | intro _ | dsimp only | apply Keeps.ite | apply KeepsO.next | apply KeepsO.ite | apply epRequest_keeps | apply epAccess_keeps | apply takeBuf_keeps | apply storeLanes_keeps | apply epSay_keeps | apply drainBuf_keeps | refine Keeps.pair2 (by assumption) ?_ | refine Keeps.pair3 (by assumption) ?_ | refine Keeps.pair1 (by assumption) ?_ | refine KeepsM.of (by assumption) ?_ | split

theorem runSet_keeps {s0 : State} (s : State) (r : EpReq) (os : List (LineOp × Nat)) (lanes : List (Nat × Lane)) (k_s : Keeps s0 s) : Keeps s0 (runSet s r os lanes).after := by
  unfold runSet
  repeat' with_reducible first | assumption | intro _ | dsimp only | apply Keeps.ite | apply atomicAccess_keeps | apply farRun_keeps | apply epReadLines_keeps | apply linePut_keeps | apply Keeps.foldl | apply Keeps.fold1 | apply Keeps.fold2 | apply Keeps.fold3 | refine Keeps.pair2 (by assumption) ?_ | refine Keeps.pair3 (by assumption) ?_ | refine Keeps.pair1 (by assumption) ?_ | refine KeepsM.of (by assumption) ?_ | split

theorem runSets_keeps {s0 : State} (s : State) (r : EpReq) (sets : List (LanePlace × Nat × List (Nat × Lane))) (k_s : Keeps s0 s) : Keeps s0 (runSets s r sets).2.2 := by
  unfold runSets
  repeat' with_reducible first | assumption | intro _ | dsimp only | apply Keeps.ite | apply runSet_keeps | apply setAtt_keeps | apply Keeps.foldl | apply Keeps.fold1 | apply Keeps.fold2 | apply Keeps.fold3 | split

theorem execEpAtomic_keeps {s0 : State} (r : EpReq) (s : State) (k_s : Keeps s0 s) : KeepsO s0 (execEpAtomic r s) := by
  unfold execEpAtomic
  repeat' with_reducible first | assumption | intro _ | dsimp only | apply Keeps.ite | apply KeepsO.next | apply KeepsO.ite | apply epRequest_keeps | apply epSay_keeps | apply epAccess_keeps | apply lineRefuse_keeps | apply drainBuf_keeps | apply runSets_keeps | apply epAnswer_keeps | apply claimGroup_keeps | refine Keeps.pair2 (by assumption) ?_ | refine Keeps.pair3 (by assumption) ?_ | refine Keeps.pair1 (by assumption) ?_ | refine KeepsM.of (by assumption) ?_ | split

theorem execEpFence_keeps {s0 : State} (r : EpReq) (s : State) (k_s : Keeps s0 s) : KeepsO s0 (execEpFence r s) := by
  unfold execEpFence
  repeat' with_reducible first | assumption | intro _ | dsimp only | apply Keeps.ite | apply KeepsO.next | apply KeepsO.ite | apply epRequest_keeps | apply epSay_keeps | apply drainBuf_keeps | apply setAtt_keeps | split

theorem execAcopy_keeps {s0 : State} (r : EpReq) (s : State) (k_s : Keeps s0 s) : KeepsO s0 (execAcopy r s) := by
  unfold execAcopy
  repeat' with_reducible first | assumption | intro _ | dsimp only | apply Keeps.ite | apply KeepsO.next | apply KeepsO.ite | apply epRequest_keeps | apply epSay_keeps | apply refuseCtx_keeps | refine Keeps.pair2 (by assumption) ?_ | refine Keeps.pair3 (by assumption) ?_ | refine Keeps.pair1 (by assumption) ?_ | refine KeepsM.of (by assumption) ?_ | split | refine Keeps.upd ?_ ?_ ?_ ?_ ?_ ?_ ?_ ?_ ?_ ?_

theorem execAcopyStart_keeps {s0 : State} (s : State) (k_s : Keeps s0 s) : KeepsO s0 (execAcopyStart s) := by
  unfold execAcopyStart
  repeat' with_reducible first | assumption | intro _ | dsimp only | apply Keeps.ite | apply KeepsO.next | apply KeepsO.ite | refine Keeps.pair2 (by assumption) ?_ | refine Keeps.pair3 (by assumption) ?_ | refine Keeps.pair1 (by assumption) ?_ | refine KeepsM.of (by assumption) ?_ | split | refine Keeps.upd ?_ ?_ ?_ ?_ ?_ ?_ ?_ ?_ ?_ ?_

theorem endCopy_keeps {s0 : State} (s : State) (c : Nat) (ok : Bool) (k_s : Keeps s0 s) : Keeps s0 (endCopy s c ok) := by
  unfold endCopy
  repeat' with_reducible first | assumption | intro _ | dsimp only | apply Keeps.ite | split | refine Keeps.upd ?_ ?_ ?_ ?_ ?_ ?_ ?_ ?_ ?_ ?_

theorem claimEngine_keeps {s0 : State} (before : State) (c : Nat) (s : State) (k_before : Keeps s0 before) (k_s : Keeps s0 s) : Keeps s0 (claimEngine before c s) := by
  unfold claimEngine
  repeat' with_reducible first | assumption | intro _ | dsimp only | apply linkUp_keeps | refine Keeps.upd ?_ ?_ ?_ ?_ ?_ ?_ ?_ ?_ ?_ ?_

theorem copyStep_keeps {s0 : State} (s : State) (c : Nat) (j : AcopyJob) (k_s : Keeps s0 s) : Keeps s0 (copyStep s c j) := by
  unfold copyStep
  repeat' with_reducible first | assumption | intro _ | dsimp only | apply Keeps.ite | apply resolvePairs_keeps | apply caDst_keeps | apply endCopy_keeps | apply endTask_keeps | apply wantRemote_keeps | apply sendPairs_keeps | apply writePairs_keeps | apply claimEngine_keeps | apply Keeps.foldl | apply Keeps.fold1 | apply Keeps.fold2 | apply Keeps.fold3 | refine Keeps.pair2 (by assumption) ?_ | refine Keeps.pair3 (by assumption) ?_ | refine Keeps.pair1 (by assumption) ?_ | refine KeepsM.of (by assumption) ?_ | split

theorem countCopy_keeps {s0 : State} (s : State) (c : Nat) (j : AcopyJob) (ok : Bool) (k_s : Keeps s0 s) : Keeps s0 (countCopy s c j ok) := by
  unfold countCopy
  repeat' with_reducible first | assumption | intro _ | dsimp only | apply Keeps.ite | apply refuseCtx_keeps | apply farAtomic_keeps | refine Keeps.pair2 (by assumption) ?_ | refine Keeps.pair3 (by assumption) ?_ | refine Keeps.pair1 (by assumption) ?_ | refine KeepsM.of (by assumption) ?_ | split | refine Keeps.upd ?_ ?_ ?_ ?_ ?_ ?_ ?_ ?_ ?_ ?_

theorem execAcopyComplete_keeps {s0 : State} (engine : Nat) (s : State) (k_s : Keeps s0 s) : KeepsO s0 (execAcopyComplete engine s) := by
  unfold execAcopyComplete
  repeat' with_reducible first | assumption | intro _ | dsimp only | apply Keeps.ite | apply KeepsO.next | apply KeepsO.ite | apply countCopy_keeps | apply copyStep_keeps | refine Keeps.pair2 (by assumption) ?_ | refine Keeps.pair3 (by assumption) ?_ | refine Keeps.pair1 (by assumption) ?_ | refine KeepsM.of (by assumption) ?_ | split

theorem gmRequest_keeps {s0 : State} (r : EpReq) (body : GmParam → State → State) (s : State) (k_body : ∀ (x0 : GmParam) (x1 : State), Keeps s0 x1 → Keeps s0 (body x0 x1)) (k_s : Keeps s0 s) : KeepsO s0 (gmRequest r body s) := by
  unfold gmRequest
  repeat' with_reducible first | assumption | intro _ | dsimp only | apply Keeps.ite | apply KeepsO.next | apply KeepsO.ite | apply epRequest_keeps | apply epSay_keeps | apply k_body | split

theorem gmRead_keeps {s0 : State} (s : State) (r : EpReq) (p : GmParam) (ranges : List (Nat × Nat)) (k : State → LineMap → State) (k_s : Keeps s0 s) (k_k : ∀ (x0 : State) (x1 : LineMap), Keeps s0 x0 → Keeps s0 (k x0 x1)) : Keeps s0 (gmRead s r p ranges k) := by
  unfold gmRead
  repeat' with_reducible first | assumption | intro _ | dsimp only | apply Keeps.ite | apply epAccess_keeps | apply epFetch_keeps | apply epReadLines_keeps | apply endTask_keeps | apply claimGroup_keeps | apply epSay_keeps | apply k_k | split

theorem gmSound_keeps {s0 : State} (s : State) (r : EpReq) (n : Nat) (tiles : List Tile) (addrs : List Nat) (k : State → State) (k_s : Keeps s0 s) (k_k : ∀ (x0 : State), Keeps s0 x0 → Keeps s0 (k x0)) : Keeps s0 (gmSound s r n tiles addrs k) := by
  unfold gmSound
  repeat' with_reducible first | assumption | intro _ | dsimp only | apply Keeps.ite | apply raiseReplayed_keeps | apply epSay_keeps | apply readEntries_keeps | apply k_k | refine Keeps.pair2 (by assumption) ?_ | refine Keeps.pair3 (by assumption) ?_ | refine Keeps.pair1 (by assumption) ?_ | refine KeepsM.of (by assumption) ?_ | split

theorem execGmLoad_keeps {s0 : State} (r : EpReq) (s : State) (k_s : Keeps s0 s) : KeepsO s0 (execGmLoad r s) := by
  unfold execGmLoad
  repeat' with_reducible first | assumption | intro _ | dsimp only | apply Keeps.ite | apply KeepsO.next | apply KeepsO.ite | apply gmRequest_keeps | apply epSay_keeps | apply gmRead_keeps | apply epBegin_keeps | apply setSheaf_keeps | split

theorem execGmPass_keeps {s0 : State} (r : EpReq) (s : State) (k_s : Keeps s0 s) : KeepsO s0 (execGmPass r s) := by
  unfold execGmPass
  repeat' with_reducible first | assumption | intro _ | dsimp only | apply Keeps.ite | apply KeepsO.next | apply KeepsO.ite | apply gmRequest_keeps | apply epSay_keeps | apply gmRead_keeps | apply gmSound_keeps | apply freshFree_keeps | apply freezeSheaf_keeps | apply epBegin_keeps | apply setSheaf_keeps | refine Keeps.pair2 (by assumption) ?_ | refine Keeps.pair3 (by assumption) ?_ | refine Keeps.pair1 (by assumption) ?_ | refine KeepsM.of (by assumption) ?_ | split

theorem gmWrite_keeps {s0 : State} (s : State) (r : EpReq) (p : GmParam) (ws : List (Nat × List Byte)) (k : State → State) (k_s : Keeps s0 s) (k_k : ∀ (x0 : State), Keeps s0 x0 → Keeps s0 (k x0)) : Keeps s0 (gmWrite s r p ws k) := by
  unfold gmWrite
  repeat' with_reducible first | assumption | intro _ | dsimp only | apply Keeps.ite | apply putRemote_keeps | apply linePut_keeps | apply epAccess_keeps | apply endTask_keeps | apply claimGroup_keeps | apply k_k | apply Keeps.foldl | apply Keeps.fold1 | apply Keeps.fold2 | apply Keeps.fold3 | split

theorem execGmStore_keeps {s0 : State} (r : EpReq) (s : State) (k_s : Keeps s0 s) : KeepsO s0 (execGmStore r s) := by
  unfold execGmStore
  repeat' with_reducible first | assumption | intro _ | dsimp only | apply Keeps.ite | apply KeepsO.next | apply KeepsO.ite | apply gmRequest_keeps | apply epSay_keeps | apply gmSound_keeps | apply gmWrite_keeps | apply drainBuf_keeps | apply setSheaf_keeps | apply epAnswer_keeps | apply Keeps.foldl | apply Keeps.fold1 | apply Keeps.fold2 | apply Keeps.fold3 | refine Keeps.pair2 (by assumption) ?_ | refine Keeps.pair3 (by assumption) ?_ | refine Keeps.pair1 (by assumption) ?_ | refine KeepsM.of (by assumption) ?_ | split

/-! ## MemEvents -/

theorem gleanLog_keeps {s0 : State} (s : State) (stack : Nat) (word : Nat) (k_s : Keeps s0 s) : Keeps s0 (gleanLog s stack word) := by
  unfold gleanLog
  repeat' with_reducible first | assumption | intro _ | dsimp only | refine Keeps.upd ?_ ?_ ?_ ?_ ?_ ?_ ?_ ?_ ?_ ?_

theorem gleanPass_keeps {s0 : State} (s : State) (k_s : Keeps s0 s) : Keeps s0 (gleanPass s) := by
  unfold gleanPass
  repeat' with_reducible first | assumption | intro _ | dsimp only | apply Keeps.ite | split | refine Keeps.upd ?_ ?_ ?_ ?_ ?_ ?_ ?_ ?_ ?_ ?_

theorem stackReport_keeps {s0 : State} (s : State) (stack : Nat) (k_s : Keeps s0 s) : Keeps s0 (stackReport s stack) := by
  unfold stackReport
  repeat' with_reducible first | assumption | intro _ | dsimp only | apply freshFree_keeps | apply bumpMemErr_keeps

theorem execGleanLine_keeps {s0 : State} (stack : Nat) (s : State) (k_s : Keeps s0 s) : KeepsO s0 (execGleanLine stack s) := by
  unfold execGleanLine
  repeat' with_reducible first | assumption | intro _ | dsimp only | apply Keeps.ite | apply KeepsO.next | apply KeepsO.ite | apply memReadLine_keeps | apply gleanLog_keeps | apply stackReport_keeps | apply gleanPass_keeps | apply Keeps.foldl | apply Keeps.fold1 | apply Keeps.fold2 | apply Keeps.fold3 | split | refine Keeps.upd ?_ ?_ ?_ ?_ ?_ ?_ ?_ ?_ ?_ ?_

theorem execCorrectiveWriteback_keeps {s0 : State} (index : Nat) (s : State) (k_s : Keeps s0 s) : KeepsO s0 (execCorrectiveWriteback index s) := by
  unfold execCorrectiveWriteback
  repeat' with_reducible first | assumption | intro _ | dsimp only | apply KeepsO.next | apply ramPutWord_wf | apply ramFold_wf | apply wfIte | refine Keeps.pair2 (by assumption) ?_ | refine Keeps.pair3 (by assumption) ?_ | refine Keeps.pair1 (by assumption) ?_ | refine KeepsM.of (by assumption) ?_ | split | refine Keeps.upd ?_ ?_ ?_ ?_ ?_ ?_ ?_ ?_ ?_ ?_

theorem execStackLost_keeps {s0 : State} (stack : Nat) (s : State) (k_s : Keeps s0 s) : KeepsO s0 (execStackLost stack s) := by
  unfold execStackLost
  repeat' with_reducible first | assumption | intro _ | dsimp only | apply Keeps.ite | apply KeepsO.next | apply KeepsO.ite | apply raiseReplanned_keeps | apply setPort_keeps | split

theorem execStackHot_keeps {s0 : State} (stack : Nat) (s : State) (k_s : Keeps s0 s) : KeepsO s0 (execStackHot stack s) := by
  unfold execStackHot
  repeat' with_reducible first | assumption | intro _ | dsimp only | apply Keeps.ite | apply KeepsO.next | apply KeepsO.ite | apply setPort_keeps | split

theorem execStackHotClear_keeps {s0 : State} (stack : Nat) (s : State) (k_s : Keeps s0 s) : KeepsO s0 (execStackHotClear stack s) := by
  unfold execStackHotClear
  repeat' with_reducible first | assumption | intro _ | dsimp only | apply Keeps.ite | apply KeepsO.next | apply KeepsO.ite | apply setPort_keeps | split

/-! ## PlanCmds -/

theorem reportRefusal_keeps {s0 : State} (s : State) (a1 : Slot) (k_s : Keeps s0 s) : Keeps s0 (reportRefusal s a1) := by
  unfold reportRefusal
  repeat' with_reducible first | assumption | intro _ | dsimp only | apply Keeps.ite | apply decide__keeps | apply sendCtrl_keeps | split

theorem startRun_keeps {s0 : State} (s : State) (h : CmdHdr) (c : Instr) (n : Nat) (accepts : Slot → Bool) (prepare : Plan → Slot → Slot) (k_s : Keeps s0 s) : Keeps s0 (startRun s h c n accepts prepare) := by
  unfold startRun
  repeat' with_reducible first | assumption | intro _ | dsimp only | apply Keeps.ite | apply guardCodes_keeps | apply complete_keeps | apply badPacket_keeps | apply reportRefusal_keeps | apply enterStart_keeps | apply k_accepts | apply k_prepare | refine Keeps.pair2 (by assumption) ?_ | refine Keeps.pair3 (by assumption) ?_ | refine Keeps.pair1 (by assumption) ?_ | refine KeepsM.of (by assumption) ?_ | split

theorem execPlanRun_keeps {s0 : State} (h : CmdHdr) (slot : Byte) (s : State) (k_s : Keeps s0 s) : KeepsO s0 (execPlanRun h slot s) := by
  unfold execPlanRun
  repeat' with_reducible first | assumption | intro _ | dsimp only | apply Keeps.ite | apply KeepsO.next | apply KeepsO.ite | apply command_keeps | apply startRun_keeps | apply done_keeps | split

theorem execPlanResume_keeps {s0 : State} (h : CmdHdr) (slot : Byte) (s : State) (k_s : Keeps s0 s) : KeepsO s0 (execPlanResume h slot s) := by
  unfold execPlanResume
  repeat' with_reducible first | assumption | intro _ | dsimp only | apply Keeps.ite | apply KeepsO.next | apply KeepsO.ite | apply command_keeps | apply startRun_keeps | refine Keeps.pair2 (by assumption) ?_ | refine Keeps.pair3 (by assumption) ?_ | refine Keeps.pair1 (by assumption) ?_ | refine KeepsM.of (by assumption) ?_ | split

theorem execPlanStop_keeps {s0 : State} (h : CmdHdr) (slot : Byte) (mode : Byte) (s : State) (k_s : Keeps s0 s) : KeepsO s0 (execPlanStop h slot mode s) := by
  unfold execPlanStop
  repeat' with_reducible first | assumption | intro _ | dsimp only | apply Keeps.ite | apply KeepsO.next | apply KeepsO.ite | apply command_keeps | apply guardCodes_keeps | apply complete_keeps | apply done_keeps | apply rootTry_keeps | apply rootStop_keeps | apply stayInProgress_keeps | apply reportToRoot_keeps | split | refine Keeps.upd ?_ ?_ ?_ ?_ ?_ ?_ ?_ ?_ ?_ ?_

/-! ## Seedcorn -/

theorem readCa_keeps {s0 : State} (s : State) (iss : Issuer) (a : Nat) (n : Nat) (k_s : Keeps s0 s) : Keeps s0 (readCa s iss a n).2 := by
  unfold readCa
  repeat' with_reducible first | assumption | intro _ | dsimp only | apply Keeps.ite | apply resolveLines_keeps | apply sourceLines_keeps | refine Keeps.pair2 (by assumption) ?_ | refine Keeps.pair3 (by assumption) ?_ | refine Keeps.pair1 (by assumption) ?_ | refine KeepsM.of (by assumption) ?_ | split

theorem readArena_keeps {s0 : State} (s : State) (iss : Issuer) (a2 : Slot) (t : TensorEntry) (a : ArenaEntry) (epoch : Nat) (off : Nat) (n : Nat) (k_s : Keeps s0 s) : Keeps s0 (readArena s iss a2 t a epoch off n).2 := by
  unfold readArena
  repeat' with_reducible first | assumption | intro _ | dsimp only | apply Keeps.ite | apply readCa_keeps | apply homeReadBytes_keeps | split

theorem readRows_keeps {s0 : State} (s : State) (iss : Issuer) (x : Slot) (t : TensorEntry) (a : ArenaEntry) (epoch base pitch n k r : Nat) (k_s : Keeps s0 s) :
    Keeps s0 (readRows s iss x t a epoch base pitch n k r).2 := by
  induction k generalizing s r with
  | zero => exact k_s
  | succ k ih =>
    rw [readRows]
    have h := readArena_keeps s iss x t a epoch (base + r * pitch) n k_s
    split
    · have h1 := ih _ (r + 1) (Keeps.pair2 (by assumption) h)
      split
      · exact Keeps.pair2 (by assumption) h1
      · exact h1
    · exact h

theorem readTensors_keeps {s0 : State} (s : State) (iss : Issuer) (x : Slot) (epoch : Nat) (l : List (TensorEntry × ArenaEntry)) (k_s : Keeps s0 s) :
    Keeps s0 (readTensors s iss x epoch l).2 := by
  induction l generalizing s with
  | nil => exact k_s
  | cons p rest ih =>
    obtain ⟨t, a⟩ := p
    rw [readTensors]
    have h := readRows_keeps s iss x t a epoch t.elemBase t.elemPitch (contentBytes t) t.rows 0 k_s
    split
    · have h1 := readRows_keeps _ iss x t a epoch t.scaleBase t.scalePitch (scaleRowBytes t) (if t.sch = 0 then 0 else t.rows) 0 (Keeps.pair2 (by assumption) h)
      split
      · have h2 := ih _ (Keeps.pair2 (by assumption) h1)
        split
        · exact Keeps.pair2 (by assumption) h2
        · exact h2
      · exact h1
    · exact h

theorem exportParts_keeps {s0 : State} (s : State) (iss : Issuer) (a2 : Slot) (p : Plan) (k_s : Keeps s0 s) : Keeps s0 (exportParts s iss a2 p).2 := by
  unfold exportParts
  repeat' with_reducible first | assumption | intro _ | dsimp only | apply Keeps.ite | apply readTensors_keeps | refine Keeps.pair2 (by assumption) ?_ | refine Keeps.pair3 (by assumption) ?_ | refine Keeps.pair1 (by assumption) ?_ | refine KeepsM.of (by assumption) ?_ | split

theorem execSeedcornExport_keeps {s0 : State} (h : CmdHdr) (slot : Byte) (dst : W64) (length : W64) (s : State) (k_s : Keeps s0 s) : KeepsO s0 (execSeedcornExport h slot dst length s) := by
  unfold execSeedcornExport
  repeat' with_reducible first | assumption | intro _ | dsimp only | apply Keeps.ite | apply KeepsO.next | apply KeepsO.ite | apply command_keeps | apply guardCodes_keeps | apply complete_keeps | apply badPacket_keeps | apply exportParts_keeps | apply copyRun_keeps | apply resolvePairs_keeps | apply caDst_keeps | refine Keeps.pair2 (by assumption) ?_ | refine Keeps.pair3 (by assumption) ?_ | refine Keeps.pair1 (by assumption) ?_ | refine KeepsM.of (by assumption) ?_ | split

theorem resolveRows_keeps {s0 : State} (s : State) (iss : Issuer) (a2 : List (Nat × Nat)) (k_s : Keeps s0 s) : Keeps s0 (resolveRows s iss a2).2 := by
  fun_induction resolveRows s iss a2
  all_goals (repeat' with_reducible first | assumption | intro _ | dsimp only | apply resolveLines_keeps | apply_assumption | refine Keeps.pair2 (by assumption) ?_ | refine Keeps.pair3 (by assumption) ?_ | refine Keeps.pair1 (by assumption) ?_ | refine KeepsM.of (by assumption) ?_ | split)

theorem writeArena_keeps {s0 : State} (s : State) (iss : Issuer) (a2 : Slot) (t : TensorEntry) (a : ArenaEntry) (epoch : Nat) (off : Nat) (bs : List Byte) (k_s : Keeps s0 s) : Keeps s0 (writeArena s iss a2 t a epoch off bs) := by
  unfold writeArena
  repeat' with_reducible first | assumption | intro _ | dsimp only | apply Keeps.ite | apply resolveLine_keeps | apply linePut_keeps | apply homeWriteBytes_keeps | apply Keeps.foldl | apply Keeps.fold1 | apply Keeps.fold2 | apply Keeps.fold3 | refine Keeps.pair2 (by assumption) ?_ | refine Keeps.pair3 (by assumption) ?_ | refine Keeps.pair1 (by assumption) ?_ | refine KeepsM.of (by assumption) ?_ | split

theorem importTensor_keeps {s0 : State} (s : State) (iss : Issuer) (a2 : Slot) (epoch : Nat) (bs : List Byte) (q : TensorEntry × ArenaEntry) (d : DirEnt) (k_s : Keeps s0 s) : Keeps s0 (importTensor s iss a2 epoch bs q d) := by
  unfold importTensor
  repeat' with_reducible first | assumption | intro _ | dsimp only | apply Keeps.ite | apply writeArena_keeps | apply Keeps.foldl | apply Keeps.fold1 | apply Keeps.fold2 | apply Keeps.fold3 | split

theorem importApply_keeps {s0 : State} (s : State) (iss : Issuer) (n : Nat) (a3 : Slot) (p : Plan) (bs : List Byte) (k_s : Keeps s0 s) : Keeps s0 (importApply s iss n a3 p bs) := by
  unfold importApply
  repeat' with_reducible first | assumption | intro _ | dsimp only | apply importTensor_keeps | apply setSlot_keeps | apply Keeps.foldl | apply Keeps.fold1 | apply Keeps.fold2 | apply Keeps.fold3 | refine Keeps.pair2 (by assumption) ?_ | refine Keeps.pair3 (by assumption) ?_ | refine Keeps.pair1 (by assumption) ?_ | refine KeepsM.of (by assumption) ?_ | split

theorem execSeedcornImport_keeps {s0 : State} (h : CmdHdr) (slot : Byte) (src : W64) (length : W64) (s : State) (k_s : Keeps s0 s) : KeepsO s0 (execSeedcornImport h slot src length s) := by
  unfold execSeedcornImport
  repeat' with_reducible first | assumption | intro _ | dsimp only | apply Keeps.ite | apply KeepsO.next | apply KeepsO.ite | apply command_keeps | apply guardCodes_keeps | apply complete_keeps | apply badPacket_keeps | apply resolveLines_keeps | apply endTask_keeps | apply wantRemote_keeps | apply sourceLines_keeps | apply claimReqs_keeps | apply notePoison_keeps | apply resolveRows_keeps | apply done_keeps | apply importApply_keeps | apply Keeps.foldl | apply Keeps.fold1 | apply Keeps.fold2 | apply Keeps.fold3 | refine Keeps.pair2 (by assumption) ?_ | refine Keeps.pair3 (by assumption) ?_ | refine Keeps.pair1 (by assumption) ?_ | refine KeepsM.of (by assumption) ?_ | split

/-! ## Query -/

theorem execQuery_keeps {s0 : State} (h : CmdHdr) (selector : W16) (arg : W32) (dst : W64) (s : State) (k_s : Keeps s0 s) : KeepsO s0 (execQuery h selector arg dst s) := by
  unfold execQuery
  repeat' with_reducible first | assumption | intro _ | dsimp only | apply KeepsO.next | apply command_keeps | apply guardCodes_keeps | apply complete_keeps | apply hostPost_keeps | refine Keeps.pair2 (by assumption) ?_ | refine Keeps.pair3 (by assumption) ?_ | refine Keeps.pair1 (by assumption) ?_ | refine KeepsM.of (by assumption) ?_ | split

theorem execCountersRead_keeps {s0 : State} (h : CmdHdr) (slot : Byte) (what : Byte) (first : W32) (count : W32) (dst : W64) (s : State) (k_s : Keeps s0 s) : KeepsO s0 (execCountersRead h slot what first count dst s) := by
  unfold execCountersRead
  repeat' with_reducible first | assumption | intro _ | dsimp only | apply Keeps.ite | apply KeepsO.next | apply KeepsO.ite | apply command_keeps | apply guardCodes_keeps | apply complete_keeps | apply badPacket_keeps | apply hostPost_keeps | apply done_keeps | apply Keeps.foldl | apply Keeps.fold1 | apply Keeps.fold2 | apply Keeps.fold3 | refine Keeps.pair2 (by assumption) ?_ | refine Keeps.pair3 (by assumption) ?_ | refine Keeps.pair1 (by assumption) ?_ | refine KeepsM.of (by assumption) ?_ | split

end

end Sys2Proof.Machine
end

