-- ==== Sys2Proof/Laws/KeepsLinks.lean ====
section
/-!
SUPPORT. What every operation keeps (the queue, the canonical form of the stores, the legal values of the configuration registers):
Wain frames, remote requests, Tally and the Windrow pipeline.
-/
namespace Sys2Proof.Machine

section

set_option linter.all false

/-! ## Wain -/

theorem sendData_keeps {s0 : State} (s : State) (link : Nat) (vc : Nat) (k_s : Keeps s0 s) : Keeps s0 (sendData s link vc) := by
  unfold sendData
  repeat' with_reducible first | assumption | intro _ | dsimp only | apply Keeps.ite | apply sendNew_keeps | apply setLink_keeps | apply sendDone_keeps | split

theorem sendAgain_keeps {s0 : State} (s : State) (link : Nat) (k_s : Keeps s0 s) : Keeps s0 (sendAgain s link) := by
  unfold sendAgain
  repeat' with_reducible first | assumption | intro _ | dsimp only | apply transmit_keeps | apply setLink_keeps | refine Keeps.pair2 (by assumption) ?_ | refine Keeps.pair3 (by assumption) ?_ | refine Keeps.pair1 (by assumption) ?_ | refine KeepsM.of (by assumption) ?_ | split

theorem sendLeave_keeps {s0 : State} (s : State) (link : Nat) (k_s : Keeps s0 s) : Keeps s0 (sendLeave s link) := by
  unfold sendLeave
  repeat' with_reducible first | assumption | intro _ | dsimp only | apply sendNew_keeps | apply setLink_keeps

theorem execFrameSend_keeps {s0 : State} (link : Nat) (s : State) (k_s : Keeps s0 s) : KeepsO s0 (execFrameSend link s) := by
  unfold execFrameSend
  repeat' with_reducible first | assumption | intro _ | dsimp only | apply Keeps.ite | apply KeepsO.next | apply KeepsO.ite | apply sendControl_keeps | apply sendAgain_keeps | apply sendData_keeps | apply sendNew_keeps | apply sendLeave_keeps | refine Keeps.pair2 (by assumption) ?_ | refine Keeps.pair3 (by assumption) ?_ | refine Keeps.pair1 (by assumption) ?_ | refine KeepsM.of (by assumption) ?_ | split

theorem enterRecovery_keeps {s0 : State} (s : State) (link : Nat) (k_s : Keeps s0 s) : Keeps s0 (enterRecovery s link) := by
  unfold enterRecovery
  repeat' with_reducible first | assumption | intro _ | dsimp only | apply setLink_keeps

theorem dropBuffered_keeps {s0 : State} (s : State) (link : Nat) (n : Nat) (k_s : Keeps s0 s) : Keeps s0 (dropBuffered s link n) := by
  unfold dropBuffered
  repeat' with_reducible first | assumption | intro _ | dsimp only | apply Keeps.ite | apply logError_keeps | split

theorem loseCrop_keeps {s0 : State} (s : State) (k_s : Keeps s0 s) : Keeps s0 (loseCrop s) := by
  unfold loseCrop
  repeat' with_reducible first | assumption | intro _ | dsimp only | apply Keeps.ite | apply dissolve_keeps | apply endForming_keeps | split

theorem declareLost_keeps {s0 : State} (s : State) (link : Nat) (k_s : Keeps s0 s) : Keeps s0 (declareLost s link) := by
  unfold declareLost
  repeat' with_reducible first | assumption | intro _ | dsimp only | apply Keeps.ite | apply setLink_keeps | apply raiseReplanned_keeps | apply loseRemoteOver_keeps | apply dropBuffered_keeps | apply loseCrop_keeps | apply reportChecks_keeps | split

theorem execLinkLossTimeout_keeps {s0 : State} (link : Nat) (s : State) (k_s : Keeps s0 s) : KeepsO s0 (execLinkLossTimeout link s) := by
  unfold execLinkLossTimeout
  repeat' with_reducible first | assumption | intro _ | dsimp only | apply Keeps.ite | apply KeepsO.next | apply KeepsO.ite | apply declareLost_keeps | split

theorem execCreditWaitTimeout_keeps {s0 : State} (link : Nat) (s : State) (k_s : Keeps s0 s) : KeepsO s0 (execCreditWaitTimeout link s) := by
  unfold execCreditWaitTimeout
  repeat' with_reducible first | assumption | intro _ | dsimp only | apply Keeps.ite | apply KeepsO.next | apply KeepsO.ite | apply declareLost_keeps | split

theorem execElasticBufferOverflow_keeps {s0 : State} (link : Nat) (s : State) (k_s : Keeps s0 s) : KeepsO s0 (execElasticBufferOverflow link s) := by
  unfold execElasticBufferOverflow
  repeat' with_reducible first | assumption | intro _ | dsimp only | apply Keeps.ite | apply KeepsO.next | apply KeepsO.ite | apply declareLost_keeps | split

theorem execLeave_keeps {s0 : State} (link : Nat) (s : State) (k_s : Keeps s0 s) : KeepsO s0 (execLeave link s) := by
  unfold execLeave
  repeat' with_reducible first | assumption | intro _ | dsimp only | apply Keeps.ite | apply KeepsO.next | apply KeepsO.ite | apply takeFrom_keeps | apply declareLost_keeps | split

theorem execTrainingComplete_keeps {s0 : State} (link : Nat) (s : State) (k_s : Keeps s0 s) : KeepsO s0 (execTrainingComplete link s) := by
  unfold execTrainingComplete
  repeat' with_reducible first | assumption | intro _ | dsimp only | apply Keeps.ite | apply KeepsO.next | apply KeepsO.ite | apply linkUp_keeps | split

theorem execTrainingTimeout_keeps {s0 : State} (link : Nat) (s : State) (k_s : Keeps s0 s) : KeepsO s0 (execTrainingTimeout link s) := by
  unfold execTrainingTimeout
  repeat' with_reducible first | assumption | intro _ | dsimp only | apply Keeps.ite | apply KeepsO.next | apply KeepsO.ite | apply reportChecks_keeps | apply linkDown_keeps | split

theorem execLossOfLock_keeps {s0 : State} (link : Nat) (s : State) (k_s : Keeps s0 s) : KeepsO s0 (execLossOfLock link s) := by
  unfold execLossOfLock
  repeat' with_reducible first | assumption | intro _ | dsimp only | apply Keeps.ite | apply KeepsO.next | apply KeepsO.ite | apply enterRecovery_keeps | split

theorem execRelock_keeps {s0 : State} (link : Nat) (s : State) (k_s : Keeps s0 s) : KeepsO s0 (execRelock link s) := by
  unfold execRelock
  repeat' with_reducible first | assumption | intro _ | dsimp only | apply Keeps.ite | apply KeepsO.next | apply KeepsO.ite | apply setLink_keeps | split

theorem countSymbols_keeps {s0 : State} (s : State) (link : Nat) (n : Nat) (k_s : Keeps s0 s) : Keeps s0 (countSymbols s link n) := by
  unfold countSymbols
  repeat' with_reducible first | assumption | intro _ | dsimp only | apply Keeps.ite | apply setLink_keeps | split | refine Keeps.upd ?_ ?_ ?_ ?_ ?_ ?_ ?_ ?_ ?_ ?_

theorem discardFrame_keeps {s0 : State} (s : State) (link : Nat) (failed : Bool) (k_s : Keeps s0 s) : Keeps s0 (discardFrame s link failed) := by
  unfold discardFrame
  repeat' with_reducible first | assumption | intro _ | dsimp only | apply Keeps.ite | apply enterRecovery_keeps | apply setLink_keeps | split

theorem receiveFrame_keeps {s0 : State} (s : State) (link : Nat) (h : FrameHead) (crcOk : Bool) (deliver : State → State) (k_s : Keeps s0 s) (k_deliver : ∀ (x0 : State), Keeps s0 x0 → Keeps s0 (deliver x0)) : Keeps s0 (receiveFrame s link h crcOk deliver) := by
  unfold receiveFrame
  repeat' with_reducible first | assumption | intro _ | dsimp only | apply Keeps.ite | apply countSymbols_keeps | apply discardFrame_keeps | apply setLink_keeps | apply k_deliver | split

theorem deliverVc0_keeps {s0 : State} (s : State) (link : Nat) (k_s : Keeps s0 s) : Keeps s0 (deliverVc0 s link) := by
  unfold deliverVc0
  repeat' with_reducible first | assumption | intro _ | dsimp only | apply Keeps.ite | apply dropSurplus_keeps | apply receiveLines_keeps | split

theorem execDataFrame_keeps {s0 : State} (link : Nat) (f : DataFrame) (s : State) (k_s : Keeps s0 s) : KeepsO s0 (execDataFrame link f s) := by
  unfold execDataFrame
  repeat' with_reducible first | assumption | intro _ | dsimp only | apply Keeps.ite | apply KeepsO.next | apply KeepsO.ite | apply receiveFrame_keeps | apply setLink_keeps | apply deliverVc0_keeps | split

theorem execControlFrame_keeps {s0 : State} (link : Nat) (h : FrameHead) (last : FrameEnd) (msgs : List CtrlMsg) (s : State) (k_s : Keeps s0 s) : KeepsO s0 (execControlFrame link h last msgs s) := by
  unfold execControlFrame
  repeat' with_reducible first | assumption | intro _ | dsimp only | apply KeepsO.next | apply receiveFrame_keeps | apply setLink_keeps

theorem execIdleFrame_keeps {s0 : State} (link : Nat) (h : FrameHead) (crc : W32) (s : State) (k_s : Keeps s0 s) : KeepsO s0 (execIdleFrame link h crc s) := by
  unfold execIdleFrame
  repeat' with_reducible first | assumption | intro _ | dsimp only | apply KeepsO.next | apply receiveFrame_keeps

/-! ## Remote -/

theorem takeSlots_keeps {s0 : State} (s : State) (link : Nat) (vc : Nat) (slots : List (List Byte)) (k_s : Keeps s0 s) : Keeps s0 (takeSlots s link vc slots) := by
  unfold takeSlots
  repeat' with_reducible first | assumption | intro _ | dsimp only | apply Keeps.ite | apply setLink_keeps | split

theorem passOn_keeps {s0 : State} (s : State) (link : Nat) (vc : Nat) (tally : Nat) (slots : List (List Byte)) (k_s : Keeps s0 s) : Keeps s0 (passOn s link vc tally slots) := by
  unfold passOn
  repeat' with_reducible first | assumption | intro _ | dsimp only | apply Keeps.ite | apply queueVc1_keeps | apply queueVc2_keeps | apply Keeps.getD | split

theorem respond_keeps {s0 : State} (s : State) (link : Nat) (r : RemoteRec) (op : Byte) (status : Byte) (data : List (List Byte)) (k_s : Keeps s0 s) : Keeps s0 (respond s link r op status data) := by
  unfold respond
  repeat' with_reducible first | assumption | intro _ | dsimp only | apply passOn_keeps

theorem remoteNack_keeps {s0 : State} (s : State) (link : Nat) (r : RemoteRec) (n : Nat) (row : Nat) (k_s : Keeps s0 s) : Keeps s0 (remoteNack s link r n row) := by
  unfold remoteNack
  repeat' with_reducible first | assumption | intro _ | dsimp only | apply respond_keeps | apply logError_keeps | apply countRefuse_keeps

theorem execRemoteRead_keeps {s0 : State} (link : Nat) (r : RemoteRec) (s : State) (k_s : Keeps s0 s) : KeepsO s0 (execRemoteRead link r s) := by
  unfold execRemoteRead
  repeat' with_reducible first | assumption | intro _ | dsimp only | apply Keeps.ite | apply KeepsO.next | apply KeepsO.ite | apply takeSlots_keeps | apply passOn_keeps | apply remoteNack_keeps | apply memReadLine_keeps | apply respond_keeps | apply Keeps.foldl | apply Keeps.fold1 | apply Keeps.fold2 | apply Keeps.fold3 | refine Keeps.pair2 (by assumption) ?_ | refine Keeps.pair3 (by assumption) ?_ | refine Keeps.pair1 (by assumption) ?_ | refine KeepsM.of (by assumption) ?_ | split

theorem execRemoteWrite_keeps {s0 : State} (link : Nat) (r : RemoteRec) (lines : List (List Byte)) (s : State) (k_s : Keeps s0 s) : KeepsO s0 (execRemoteWrite link r lines s) := by
  unfold execRemoteWrite
  repeat' with_reducible first | assumption | intro _ | dsimp only | apply Keeps.ite | apply KeepsO.next | apply KeepsO.ite | apply takeSlots_keeps | apply passOn_keeps | apply remoteNack_keeps | apply memWriteLine_keeps | apply respond_keeps | apply Keeps.foldl | apply Keeps.fold1 | apply Keeps.fold2 | apply Keeps.fold3 | refine Keeps.pair2 (by assumption) ?_ | refine Keeps.pair3 (by assumption) ?_ | refine Keeps.pair1 (by assumption) ?_ | refine KeepsM.of (by assumption) ?_ | split

theorem closeRemote_keeps {s0 : State} (s : State) (q : RemoteReq) (k_s : Keeps s0 s) : Keeps s0 (closeRemote s q) := by
  unfold closeRemote
  repeat' with_reducible first | assumption | intro _ | dsimp only | refine Keeps.upd ?_ ?_ ?_ ?_ ?_ ?_ ?_ ?_ ?_ ?_

theorem response_keeps {s0 : State} (s : State) (link : Nat) (r : RemoteRec) (lines : List (List Byte)) (f : State → RemoteReq → State) (k_s : Keeps s0 s) (k_f : ∀ (x0 : State) (x1 : RemoteReq), Keeps s0 x0 → Keeps s0 (f x0 x1)) : Keeps s0 (response s link r lines f) := by
  unfold response
  repeat' with_reducible first | assumption | intro _ | dsimp only | apply Keeps.ite | apply takeSlots_keeps | apply passOn_keeps | apply closeRemote_keeps | apply logError_keeps | apply k_f | refine Keeps.pair2 (by assumption) ?_ | refine Keeps.pair3 (by assumption) ?_ | refine Keeps.pair1 (by assumption) ?_ | refine KeepsM.of (by assumption) ?_ | split

theorem execRdata_keeps {s0 : State} (link : Nat) (r : RemoteRec) (lines : List (List Byte)) (s : State) (k_s : Keeps s0 s) : KeepsO s0 (execRdata link r lines s) := by
  unfold execRdata
  repeat' with_reducible first | assumption | intro _ | dsimp only | apply Keeps.ite | apply KeepsO.next | apply KeepsO.ite | apply response_keeps | apply setTask_keeps | split

theorem execWack_keeps {s0 : State} (link : Nat) (r : RemoteRec) (s : State) (k_s : Keeps s0 s) : KeepsO s0 (execWack link r s) := by
  unfold execWack
  repeat' with_reducible first | assumption | intro _ | dsimp only | apply KeepsO.next | apply response_keeps

theorem refuseRemote_keeps {s0 : State} (s : State) (q : RemoteReq) (k_s : Keeps s0 s) : Keeps s0 (refuseRemote s q) := by
  unfold refuseRemote
  repeat' with_reducible first | assumption | intro _ | dsimp only | apply Keeps.ite | apply refuseCtx_keeps | apply setTask_keeps | apply planContained_keeps | apply Keeps.getD | refine Keeps.pair2 (by assumption) ?_ | refine Keeps.pair3 (by assumption) ?_ | refine Keeps.pair1 (by assumption) ?_ | refine KeepsM.of (by assumption) ?_ | split

theorem execNack_keeps {s0 : State} (link : Nat) (r : RemoteRec) (s : State) (k_s : Keeps s0 s) : KeepsO s0 (execNack link r s) := by
  unfold execNack
  repeat' with_reducible first | assumption | intro _ | dsimp only | apply KeepsO.next | apply response_keeps | apply refuseRemote_keeps

theorem execRemoteTimeout_keeps {s0 : State} (tag : Nat) (s : State) (k_s : Keeps s0 s) : KeepsO s0 (execRemoteTimeout tag s) := by
  unfold execRemoteTimeout
  repeat' with_reducible first | assumption | intro _ | dsimp only | apply Keeps.ite | apply KeepsO.next | apply KeepsO.ite | apply loseRemote_keeps | refine Keeps.pair2 (by assumption) ?_ | refine Keeps.pair3 (by assumption) ?_ | refine Keeps.pair1 (by assumption) ?_ | refine KeepsM.of (by assumption) ?_ | split

/-! ## Tally -/

theorem tallyForward_keeps {s0 : State} (s : State) (payload : W64) (k_s : Keeps s0 s) : Keeps s0 (tallyForward s payload) := by
  unfold tallyForward
  repeat' with_reducible first | assumption | intro _ | dsimp only | apply emit_keeps

theorem tallyAnswer_keeps {s0 : State} (s : State) (payload : W64) (data : Nat) (refused : Bool) (k_s : Keeps s0 s) : Keeps s0 (tallyAnswer s payload data refused) := by
  unfold tallyAnswer
  repeat' with_reducible first | assumption | intro _ | dsimp only | apply emit_keeps

theorem sendEnum_keeps {s0 : State} (s : State) (v : Nat) (k_s : Keeps s0 s) : Keeps s0 (sendEnum s v) := by
  unfold sendEnum
  repeat' with_reducible first | assumption | intro _ | dsimp only | apply emit_keeps

theorem tallyConflict_keeps {s0 : State} (s : State) (k_s : Keeps s0 s) : Keeps s0 (tallyConflict s) := by
  unfold tallyConflict
  repeat' with_reducible first | assumption | intro _ | dsimp only | refine Keeps.upd ?_ ?_ ?_ ?_ ?_ ?_ ?_ ?_ ?_ ?_

theorem execEnumStart_keeps {s0 : State} (s : State) (k_s : Keeps s0 s) : KeepsO s0 (execEnumStart s) := by
  unfold execEnumStart
  repeat' with_reducible first | assumption | intro _ | dsimp only | apply Keeps.ite | apply KeepsO.next | apply KeepsO.ite | apply tallyConflict_keeps | apply sendEnum_keeps | split | refine Keeps.upd ?_ ?_ ?_ ?_ ?_ ?_ ?_ ?_ ?_ ?_

theorem execEnum_keeps {s0 : State} (v : BitVec 11) (s : State) (k_s : Keeps s0 s) : KeepsO s0 (execEnum v s) := by
  unfold execEnum
  repeat' with_reducible first | assumption | intro _ | dsimp only | apply Keeps.ite | apply KeepsO.next | apply KeepsO.ite | apply tallyConflict_keeps | apply sendEnum_keeps | split | refine Keeps.upd ?_ ?_ ?_ ?_ ?_ ?_ ?_ ?_ ?_ ?_

theorem tallyWord_keeps {s0 : State} (s : State) (sel : Nat) (k_s : Keeps s0 s) : Keeps s0 (tallyWord s sel).2 := by
  unfold tallyWord
  repeat' with_reducible first | assumption | intro _ | dsimp only | apply Keeps.ite | apply read32_keeps | split

theorem tallyStore_keeps {s0 : State} (s : State) (sel : Nat) (v : W32) (k_s : Keeps s0 s) : KeepsM s0 (tallyStore s sel v) := by
  unfold tallyStore
  repeat' with_reducible first | assumption | intro _ | dsimp only | apply Keeps.ite | apply KeepsM.some | exact KeepsM.none | apply KeepsM.ite | apply tallyConflict_keeps | apply writeBootStatus_keeps | apply writeContain_keeps | apply writeErrStat_keeps | split | refine Keeps.upd ?_ ?_ ?_ ?_ ?_ ?_ ?_ ?_ ?_ ?_

theorem execTallyRead_keeps {s0 : State} (payload : W64) (crc : Byte) (s : State) (k_s : Keeps s0 s) : KeepsO s0 (execTallyRead payload crc s) := by
  unfold execTallyRead
  repeat' with_reducible first | assumption | intro _ | dsimp only | apply Keeps.ite | apply KeepsO.next | apply KeepsO.ite | apply tallyForward_keeps | apply tallyWord_keeps | apply tallyAnswer_keeps | split

theorem execTallyWrite_keeps {s0 : State} (payload : W64) (crc : Byte) (s : State) (k_s : Keeps s0 s) : KeepsO s0 (execTallyWrite payload crc s) := by
  unfold execTallyWrite
  repeat' with_reducible first | assumption | intro _ | dsimp only | apply Keeps.ite | apply KeepsO.next | apply KeepsO.ite | apply tallyForward_keeps | apply tallyStore_keeps | apply tallyAnswer_keeps | apply Keeps.getD | refine Keeps.pair2 (by assumption) ?_ | refine Keeps.pair3 (by assumption) ?_ | refine Keeps.pair1 (by assumption) ?_ | refine KeepsM.of (by assumption) ?_ | split

theorem execResp_keeps {s0 : State} (payload : W64) (crc : Byte) (s : State) (k_s : Keeps s0 s) : KeepsO s0 (execResp payload crc s) := by
  unfold execResp
  repeat' with_reducible first | assumption | intro _ | dsimp only | apply Keeps.ite | apply KeepsO.next | apply KeepsO.ite | apply tallyForward_keeps | split

theorem execTallyWake_keeps {s0 : State} (payload : W64) (crc : Byte) (s : State) (k_s : Keeps s0 s) : KeepsO s0 (execTallyWake payload crc s) := by
  unfold execTallyWake
  repeat' with_reducible first | assumption | intro _ | dsimp only | apply Keeps.ite | apply KeepsO.next | apply KeepsO.ite | apply tallyForward_keeps | apply setPme_keeps | split

/-! ## Windrow -/

theorem bumpGrg_keeps {s0 : State} (s : State) (hi : Nat) (lo : Nat) (k_s : Keeps s0 s) : Keeps s0 (bumpGrg s hi lo) := by
  unfold bumpGrg
  repeat' with_reducible first | assumption | intro _ | dsimp only | refine Keeps.upd ?_ ?_ ?_ ?_ ?_ ?_ ?_ ?_ ?_ ?_

theorem enterActive_keeps {s0 : State} (s : State) (n : Nat) (k_s : Keeps s0 s) : Keeps s0 (enterActive s n) := by
  unfold enterActive
  repeat' with_reducible first | assumption | intro _ | dsimp only | apply setWindrow_keeps | refine Keeps.upd ?_ ?_ ?_ ?_ ?_ ?_ ?_ ?_ ?_ ?_

theorem leaveActive_keeps {s0 : State} (s : State) (n : Nat) (k_s : Keeps s0 s) : Keeps s0 (leaveActive s n) := by
  unfold leaveActive
  repeat' with_reducible first | assumption | intro _ | dsimp only | apply setWindrow_keeps | refine Keeps.upd ?_ ?_ ?_ ?_ ?_ ?_ ?_ ?_ ?_ ?_

theorem makeResident_keeps {s0 : State} (s : State) (n : Nat) (k_s : Keeps s0 s) : Keeps s0 (makeResident s n) := by
  unfold makeResident
  repeat' with_reducible first | assumption | intro _ | dsimp only | apply Keeps.ite | apply enterActive_keeps | apply leaveActive_keeps | refine Keeps.pair2 (by assumption) ?_ | refine Keeps.pair3 (by assumption) ?_ | refine Keeps.pair1 (by assumption) ?_ | refine KeepsM.of (by assumption) ?_ | split | refine Keeps.upd ?_ ?_ ?_ ?_ ?_ ?_ ?_ ?_ ?_ ?_

theorem execWindrowAdmission_keeps {s0 : State} (s : State) (k_s : Keeps s0 s) : KeepsO s0 (execWindrowAdmission s) := by
  unfold execWindrowAdmission
  repeat' with_reducible first | assumption | intro _ | dsimp only | apply Keeps.ite | apply KeepsO.next | apply KeepsO.ite | apply enterActive_keeps | apply leaveActive_keeps | refine Keeps.pair2 (by assumption) ?_ | refine Keeps.pair3 (by assumption) ?_ | refine Keeps.pair1 (by assumption) ?_ | refine KeepsM.of (by assumption) ?_ | split | refine Keeps.upd ?_ ?_ ?_ ?_ ?_ ?_ ?_ ?_ ?_ ?_

theorem ringDoorbell_keeps {s0 : State} (s : State) (n : Nat) (v : W32) (k_s : Keeps s0 s) : Keeps s0 (ringDoorbell s n v) := by
  unfold ringDoorbell
  repeat' with_reducible first | assumption | intro _ | dsimp only | apply Keeps.ite | apply bumpGrg_keeps | apply makeResident_keeps | apply setWindrow_keeps | split

theorem execDoorbell_keeps {s0 : State} (off : Nat) (width : Nat) (value : W64) (stores : List (Nat × Byte)) (s : State) (k_s : Keeps s0 s) : KeepsO s0 (execDoorbell off width value stores s) := by
  unfold execDoorbell
  repeat' with_reducible first | assumption | intro _ | dsimp only | apply Keeps.ite | apply KeepsO.next | apply KeepsO.ite | apply badAccess_keeps | apply ringDoorbell_keeps | apply hostStores_wf | split | refine Keeps.upd ?_ ?_ ?_ ?_ ?_ ?_ ?_ ?_ ?_ ?_

theorem readSlot_keeps {s0 : State} (s : State) (n : Nat) (k_s : Keeps s0 s) : Keeps s0 (readSlot s n).after := by
  unfold readSlot
  repeat' with_reducible first | assumption | intro _ | dsimp only | apply Keeps.ite | apply readCur_keeps | apply flushLine_keeps | split

theorem acceptPacket_keeps {s0 : State} (s : State) (n : Nat) (bs : List Byte) (k_s : Keeps s0 s) : Keeps s0 (acceptPacket s n bs) := by
  unfold acceptPacket
  repeat' with_reducible first | assumption | intro _ | dsimp only | apply Keeps.ite | apply setWindrow_keeps | split

theorem execPacketRead_keeps {s0 : State} (w : Nat) (s : State) (k_s : Keeps s0 s) : KeepsO s0 (execPacketRead w s) := by
  unfold execPacketRead
  repeat' with_reducible first | assumption | intro _ | dsimp only | apply Keeps.ite | apply KeepsO.next | apply KeepsO.ite | apply readSlot_keeps | apply acceptPacket_keeps | apply setWindrow_keeps | split

theorem readFailReply_keeps {s0 : State} (s : State) (n : Nat) (st : Byte) (detail : W32) (k_s : Keeps s0 s) : Keeps s0 (readFailReply s n st detail) := by
  unfold readFailReply
  repeat' with_reducible first | assumption | intro _ | dsimp only | apply Keeps.ite | apply setWindrow_keeps | split

theorem readFailed_keeps {s0 : State} (s : State) (n : Nat) (r : SlotRead) (k_s : Keeps s0 s) (k_r : Keeps s0 r.after) : Keeps s0 (readFailed s n r) := by
  unfold readFailed
  repeat' with_reducible first | assumption | intro _ | dsimp only | apply Keeps.ite | apply bumpGrg_keeps | apply readFailReply_keeps | apply logPoison_keeps | apply setWindrow_keeps | refine Keeps.pair2 (by assumption) ?_ | refine Keeps.pair3 (by assumption) ?_ | refine Keeps.pair1 (by assumption) ?_ | refine KeepsM.of (by assumption) ?_ | split

theorem execPacketReread_keeps {s0 : State} (w : Nat) (s : State) (k_s : Keeps s0 s) : KeepsO s0 (execPacketReread w s) := by
  unfold execPacketReread
  repeat' with_reducible first | assumption | intro _ | dsimp only | apply Keeps.ite | apply KeepsO.next | apply KeepsO.ite | apply readSlot_keeps | apply bumpGrg_keeps | apply acceptPacket_keeps | apply setWindrow_keeps | apply readFailed_keeps | split

theorem startPacket_keeps {s0 : State} (s : State) (n : Nat) (k_s : Keeps s0 s) : Keeps s0 (startPacket s n) := by
  unfold startPacket
  repeat' with_reducible first | assumption | intro _ | dsimp only | apply Keeps.ite | apply setWindrow_keeps | apply completeSeq_keeps | apply command_keeps | refine Keeps.pair2 (by assumption) ?_ | refine Keeps.pair3 (by assumption) ?_ | refine Keeps.pair1 (by assumption) ?_ | refine KeepsM.of (by assumption) ?_ | split | refine Keeps.upd ?_ ?_ ?_ ?_ ?_ ?_ ?_ ?_ ?_ ?_

theorem execCommandStart_keeps {s0 : State} (s : State) (k_s : Keeps s0 s) : KeepsO s0 (execCommandStart s) := by
  unfold execCommandStart
  repeat' with_reducible first | assumption | intro _ | dsimp only | apply Keeps.ite | apply KeepsO.next | apply KeepsO.ite | apply startPacket_keeps | refine Keeps.pair2 (by assumption) ?_ | refine Keeps.pair3 (by assumption) ?_ | refine Keeps.pair1 (by assumption) ?_ | refine KeepsM.of (by assumption) ?_ | split | refine Keeps.upd ?_ ?_ ?_ ?_ ?_ ?_ ?_ ?_ ?_ ?_

theorem execReply_keeps {s0 : State} (w : Nat) (s : State) (k_s : Keeps s0 s) : KeepsO s0 (execReply w s) := by
  unfold execReply
  repeat' with_reducible first | assumption | intro _ | dsimp only | apply Keeps.ite | apply KeepsO.next | apply KeepsO.ite | apply hostPost_keeps | apply setWindrow_keeps | apply signalVector_keeps | refine Keeps.pair2 (by assumption) ?_ | refine Keeps.pair3 (by assumption) ?_ | refine Keeps.pair1 (by assumption) ?_ | refine KeepsM.of (by assumption) ?_ | split

end

end Sys2Proof.Machine
end

