-- ==== Sys2Proof/WellFormed.lean ====
section
/-!
DEFINITION. What a command must satisfy to be one the spec's parties can send: part numbers inside the counts
of R2 and R18, access widths of R9, data of whole lines.
-/
namespace Sys2Proof

/-- Windrow numbers of R487. -/
def wfWindrow (w : Nat) : Bool := decide (w < 65536)
/-- Tillers of R156. -/
def wfTiller (t : Nat) : Bool := decide (t < 53)
/-- Sheaves of R92. -/
def wfSheaf (n : Nat) : Bool := decide (n < 16)
/-- Wain links of R256. -/
def wfLink (n : Nat) : Bool := decide (n < 24)
/-- Stack ports of R289. -/
def wfStack (n : Nat) : Bool := decide (n < 20)
/-- Coherence agents of R345. -/
def wfAgent (n : Nat) : Bool := decide (n < 22)
/-- A line's worth of bytes (R4). -/
def wfLine (d : List Byte) : Bool := decide (d.length = 64)
/-- Register access widths (R9, R14). -/
def wfWidth (n : Nat) : Bool := n == 1 || n == 2 || n == 4 || n == 8
/-- Copy engines of R18. -/
def wfCopyEngine (n : Nat) : Bool := decide (n < 8)
/-- Units of sub-operations by the model's numbering. -/
def wfUnit (n : Nat) : Bool := decide (n < 57)
/-- Attachments of R463. -/
def wfAtt (n : Nat) : Bool := decide (n < 4)
/-- Outstanding tags of R437. -/
def wfPosition (n : Nat) : Bool := decide (n < 1024)

/-- A well-formed line address: one of the spaces of R317. -/
def LineAddr.wf (l : LineAddr) : Bool := decide (l.space < 3) && decide (l.line < 2 ^ 46)

/-- A well-formed engine-port request (R466): at most 64 lanes, a PARAM of 64 bytes or none. -/
def EpReq.wf (r : EpReq) : Bool :=
  wfAtt r.att && decide (r.lanes.length ≤ 64) && (r.param.isEmpty || decide (r.param.length = 64))

/-- Well-formed DATA frame (R262, R263): every carried line has 64 bytes. -/
def DataFrame.wf (f : DataFrame) : Bool := f.lines.all wfLine

/-- A stack of a kind and capacity of R289 at a rate its kind has, or an empty port. -/
def PortTrain.wf (p : PortTrain) : Bool :=
  (p.kind == 0 && !p.up && p.capGib == 0 && p.rate == 0)
    || (p.kind == 1 && decide (40 ≤ p.rate.toNat) && [24, 32, 36, 48].contains p.capGib.toNat)
    || (p.kind == 2 && decide (64 ≤ p.rate.toNat) && [24, 36, 48].contains p.capGib.toNat)

/-- The atomics R358 offers: 4- and 8-byte words, and 16 bytes for CAS and SWAP. -/
def AtomArgs.wf (a : AtomArgs) : Bool :=
  decide (a.op.toNat < 10) && (a.size == 2 || a.size == 3 || (a.size == 4 && decide (8 ≤ a.op.toNat)))

/-- The commands the spec's parties can send, by operand ranges. -/
def Instr.wf : Instr → Bool
  | .nop h | .fence h _ | .flushPublish h _ _ _ | .fill h _ _ _ | .copyRemote h _ _ _ _
  | .ctxBind h _ _ _ _ | .segSet h _ _ | .ptRootSet h _ | .tlbInval h _ _ | .grant h _ _ _
  | .regionRegister h _ _ _ _ | .regionRevoke h _ | .faultResolve h _ _ | .planLoad h _ _ _ _
  | .planRun h _ | .planStop h _ _ | .cropForm h _ _ _ _ _ _ | .cropJoin h _ _ _ _ _
  | .seedcornExport h _ _ _ | .seedcornImport h _ _ _ | .planResume h _ | .loftConfig h _ _ _ _ _
  | .engineLease h _ _ _ | .query h _ _ _ | .countersRead h _ _ _ _ _ | .marginPolicy h _ _ _ _ =>
    wfWindrow h.windrow
  | .copy h _ _ _ _ _ _ _ _ _ _ => wfWindrow h.windrow
  | .doorbell off width _ _ => wfWidth width && decide (off % width = 0)
  | .windrowAdmission => true
  | .packetRead w | .packetReread w | .reply w | .windrowEnable w _ | .windrowDisable w _
  | .grgReplyHeadWrite w _ => wfWindrow w
  | .commandStart => true
  | .frHeadWrite _ | .frEnableClear _ | .frEnableSet _ | .hlContainRelease _ => true
  | .registerWrite t width _ => (match t with | .bar0 off => decide (off % width = 0) | .cfg _ => true) && wfWidth width
  | .readToClear (.bar0 off) width => wfWidth width && decide (off % width = 0)
  | .readToClear (.bar4 off) width => wfWidth width && decide (off % width = 0) && decide (off < 4194304)
  | .readToClear (.config off) width => (width == 1 || width == 2 || width == 4) && decide (off % width = 0) && decide (off < 4096)
  | .lowHalfRead _ off => decide (off % 8 = 0)
  | .badAccess bar _ _ _ => bar == 0 || bar == 2 || bar == 4
  | .vectorUnmask v => decide (v < 2048)
  | .hatchWrite _ data => decide (data.length ≤ 64)
  | .hatchRead _ n => decide (n ≤ 4096)
  | .memRd _ | .memRdData _ | .memInv _ | .memSpecRd _ | .snpData _ | .snpInv _ | .snpCur _ | .go _ => true
  | .memWr _ data | .memWrPtl _ data _ => wfLine data
  | .placementWrite _ _ _ _ data => decide (data.length ≤ 4096)
  | .invalidationRequest _ _ _ size => decide (size ≤ 52)
  | .invalidationComplete _ | .translationCompletion _ _ | .pageResponse _ _ | .completionTimeout _
  | .unexpectedCompletion _ | .ptmSample _ | .hostLinkTrained _ | .portFreeze _ | .selfReset | .hotReset
  | .functionLevelReset | .d3hotEntry | .d0Return => true
  | .wakeWain link => wfLink link
  | .tlbMiss _ _ _ _ | .walkComplete _ | .faultRingSignal => true
  | .faultTimeout slot => decide (slot < 4096)
  | .rds a l _ | .rdo a l _ | .upg a l _ | .rdcur a l _ | .offer a l | .nackRetry a l => wfAgent a && l.wf
  | .wrline a l _ data _ => wfAgent a && l.wf && wfLine data
  | .atom a l _ args | .nearAtomic a l _ args => wfAgent a && l.wf && decide (args.off < 64) && args.wf
  | .fwdS h l | .fwdI h l | .inv h l | .invD h l | .cur h l | .snoopResponse h l => wfAgent h && l.wf
  | .storeBufferPerform _ _ => true
  | .fillArrival c l => decide (c < 13) && l.wf
  | .gleanLine n | .stackLost n | .stackHot n | .stackHotClear n => wfStack n
  | .correctiveWriteback _ => true
  | .halt t | .tillerNop t | .loop t | .endl t | .agset t | .agskip t | .agrst t | .twait t | .twaitExpiry t
  | .sig t | .waits t | .waitsPass t | .step t | .ebar t | .issue t | .queueEntry t => wfTiller t
  | .loadTile n | .passRows n | .openRegion n | .freeRegion n | .regionFinish n _ | .leaseBegin n => wfSheaf n
  | .npush n | .lpush n | .nsend n | .rfin n | .win n => decide (n < 4)
  | .send l | .recv l | .frameSend l | .trainingComplete l | .trainingTimeout l | .lossOfLock l | .relock l
  | .linkLossTimeout l | .creditWaitTimeout l | .elasticBufferOverflow l | .leave l => wfLink l
  | .xsend | .xrecv => true
  | .tillerCopy n | .pref n | .zero n | .acopyComplete n => wfCopyEngine n
  | .subopCompletion n => wfUnit n
  | .epLoad r | .epStore r | .epAtomic r | .epFence r | .acopy r | .gmLoad r | .gmPass r | .gmStore r => r.wf
  | .acopyStart => true
  | .ident l _ | .probe l _ _ _ | .time l _ | .abort l _ _ _ _ | .arrive l _ | .bindReport l _ => wfLink l
  | .completionReport p _ | .decideFailure _ p => wfPosition p
  | .bindNotice _ | .formTimeout | .joinTimeout | .sendArrive | .stop _ | .decideReplan _ _
  | .decideAbandon _ | .startTimeout | .barrierRelease | .rootRouteLoss => true
  | .decideRelease _ _ pct _ _ | .decideReplay _ pct _ | .decideStop _ pct _ | .decideComplete _ pct _ =>
    decide (80 ≤ pct) && decide (pct ≤ 105)
  | .driftCheck l _ => wfLink l
  | .dataFrame l f => wfLink l && f.wf
  | .controlFrame l _ _ _ | .idleFrame l _ _ => wfLink l
  | .remoteRead l _ | .wack l _ | .nack l _ => wfLink l
  | .remoteWrite l _ ls | .rdata l _ ls => wfLink l && ls.all wfLine
  | .remoteTimeout t => decide (t < 4096)
  | .ripenessSample m k => decide (m < 104) && decide (k < 65536)
  | .watchdogExpiry | .vidAck | .vidAckTimeout | .thermtrip | .pwrOkFall | .fundamentalReset _ | .pllLock _
  | .firmwareAuthentication _ | .poolClear | .enumStart | .enum _ | .tallyRead _ _ | .tallyWrite _ _
  | .resp _ _ | .tallyWake _ _ | .perstNAsserted | .rootSettled | .tapInstruction _ => true
  | .stackTraining ports => decide (ports.length = 20) && ports.all PortTrain.wf

end Sys2Proof
end

