-- ==== Sys2Proof/Tests/Slice0.lean ====
section
/-!
SUPPORT. Tests on fixed values: the commands that WellFormed refuses, worked values of the spec, and for every obligation with
hypotheses a state and operands that meet them.
-/
namespace Sys2Proof.Tests
open Sys2Proof.Machine

section
set_option maxRecDepth 100000
set_option Elab.async false

/-! ## Well-formed commands -/

def hdr : CmdHdr := ⟨0, 7, 5, false, false⟩
def line0 : LineAddr := ⟨0, 0⟩
def noInfo : ReqInfo := ⟨0, false, 0⟩
def req0 : EpReq := ⟨0, 1, 2, 5, 0, 2, 0, 0, false, [], []⟩
def head0 : FrameHead := ⟨0, 0, 0, false, false, 0, 0, 0, true, 0⟩

theorem test_wf_windrow : (Instr.nop { hdr with windrow := 65536 }).wf = false := by decide
theorem test_wf_copy_windrow : (Instr.copy { hdr with windrow := 65536 } 0 0 0 0 0 0 false 0 0 0).wf = false := by decide
theorem test_wf_doorbell : (Instr.doorbell 2 4 0 []).wf = false := by decide
theorem test_wf_ring : (Instr.packetRead 65536).wf = false := by decide
theorem test_wf_write_width : (Instr.registerWrite (.bar0 0) 3 0).wf = false := by decide
theorem test_wf_write_aligned : (Instr.registerWrite (.bar0 2) 4 0).wf = false := by decide
theorem test_wf_read : (Instr.readToClear (.bar0 4) 8).wf = false := by decide
theorem test_wf_low_half : (Instr.lowHalfRead .host 4).wf = false := by decide
theorem test_wf_bad_access : (Instr.badAccess 1 0 4 true).wf = false := by decide
theorem test_wf_vector : (Instr.vectorUnmask 2048).wf = false := by decide
theorem test_wf_hatch_write : (Instr.hatchWrite 0 (List.replicate 65 0)).wf = false := by decide
theorem test_wf_hatch_read : (Instr.hatchRead 0 4097).wf = false := by decide
theorem test_wf_mem_write : (Instr.memWr 0 (List.replicate 63 0)).wf = false := by decide
theorem test_wf_invalidation : (Instr.invalidationRequest 0 none 0 53).wf = false := by decide
theorem test_wf_wake : (Instr.wakeWain 24).wf = false := by decide
theorem test_wf_fault_slot : (Instr.faultTimeout 4096).wf = false := by decide
theorem test_wf_agent : (Instr.rds 22 line0 noInfo).wf = false := by decide
theorem test_wf_space : (Instr.rds 0 ⟨3, 0⟩ noInfo).wf = false := by decide
theorem test_wf_line_number : (Instr.rds 0 ⟨0, 2 ^ 46⟩ noInfo).wf = false := by decide
theorem test_wf_wrline : (Instr.wrline 0 line0 noInfo [] 0).wf = false := by decide
theorem test_wf_atom : (Instr.atom 0 line0 noInfo ⟨0, 2, 64, []⟩).wf = false := by decide
theorem test_wf_snoop : (Instr.inv 22 line0).wf = false := by decide
theorem test_wf_fill_cache : (Instr.fillArrival 13 line0).wf = false := by decide
theorem test_wf_stack : (Instr.stackHot 20).wf = false := by decide
theorem test_wf_tiller : (Instr.ebar 53).wf = false := by decide
theorem test_wf_sheaf : (Instr.openRegion 16).wf = false := by decide
theorem test_wf_thresher : (Instr.npush 4).wf = false := by decide
theorem test_wf_link : (Instr.frameSend 24).wf = false := by decide
theorem test_wf_copy_engine : (Instr.zero 8).wf = false := by decide
theorem test_wf_unit : (Instr.subopCompletion 57).wf = false := by decide
theorem test_wf_attachment : (Instr.epLoad { req0 with att := 4 }).wf = false := by decide
theorem test_wf_lanes : (Instr.epLoad { req0 with lanes := List.replicate 65 ⟨0, 0, 0⟩ }).wf = false := by decide
theorem test_wf_param : (Instr.acopy { req0 with param := [0] }).wf = false := by decide
theorem test_wf_position : (Instr.completionReport 1024 false).wf = false := by decide
theorem test_wf_root_pct : (Instr.decideStop true 106 []).wf = false := by decide
theorem test_wf_frame_line : (Instr.dataFrame 0 ⟨head0, 0, 1, [[0]], 0⟩).wf = false := by decide
theorem test_wf_remote_line : (Instr.remoteWrite 0 ⟨2, 0, 0, 1, 1, 5, 1, 0, 0, 0⟩ [[0]]).wf = false := by decide
theorem test_wf_remote_tag : (Instr.remoteTimeout 4096).wf = false := by decide
theorem test_wf_monitor : (Instr.ripenessSample 104 0).wf = false := by decide
theorem test_wf_slack : (Instr.ripenessSample 0 65536).wf = false := by decide
theorem test_wf_ports : (Instr.stackTraining []).wf = false := by decide
theorem test_wf_accepts : (Instr.nop hdr).wf = true ∧ (Instr.doorbell 64 4 0 []).wf = true := by decide

/-! ## States -/

def emptyPlan : Plan := ⟨0, 4096, 1, 0, 0, 0, 0, 0, 0, 0, 0, 0, [⟨0, 0, 0, 0, 0, 0⟩], [], [], [], [], [], [], [], [], [], [], [], [], []⟩

/-- Entry of an owner table: CLASS EXCLUSIVE with every right, context 5. -/
def grantAll : W32 := BitVec.ofNat 32 (5 + 2 ^ 20 * 0x7D)

/-- A chip that has booted: 20 GiB of pool, Tally address 3, context 5 in segment mode over the pool's first two granules, Windrow 0
enabled with PRIV and resident. -/
def up : State :=
  let s := State.reset
  let b := s.boot
  let s : State := { s with
    boot := { b with perstLow := false, fwRunning := true, step := 8, stacksTrained := true, memoryActive := true, tallyAddr := 3, tallyValid := true }
    hl := { s.hl with linkUp := true }
    mem := { s.mem with poolGib := 20, owner := [(0, grantAll), (1, grantAll)] }
    tr := { s.tr with segs := [(1, [(0, { valid := true, rd := true, wr := true, base := 2 ^ 40 * 3, limit := 2 ^ 22 - 1 })])] } }
  let s := setCtx s 5 { state := .active, segment := true, segslot := 1 }
  setWindrow s 0 { getWindrow s 0 with cfg := 0x605, resident := true }

/-- `up` with a slot's contents. -/
def withSlot (n : Nat) (x : Slot) (s : State) : State := setSlot s n x

/-- The command `up` takes is in progress on Windrow 0. -/
def inFlight (s : State) (c : Instr) : State := setWindrow s 0 { getWindrow s 0 with inprog := [⟨7, c, 0⟩] }

/-- A member of a Crop, its own root or a child over link 0, which is UP. -/
def member (root : Bool) (s : State) : State :=
  let s : State := { s with crop := { s.crop with member := true, cropId := 9, parentLink := if root then 0xFF else 0 } }
  setLink s 0 { getLink s 0 with state := .up, peerIdent := some ⟨2, 9, 0, 0, 0, 0, false, 0⟩ }

/-- Slot 2 of `up`, its plan empty. -/
def loaded (st : SlotState) : Slot := { state := st, context := 5, plan := some emptyPlan }

def admits (s : State) (h : CmdHdr) (priv skip : Bool) : Bool :=
  grangerUp s && (!priv || bitOf (getWindrow s h.windrow).cfg 2)
    && (!bitOf (getWindrow s h.windrow).cfg 3 || field (getWindrow s h.windrow).cfg 51 32 == h.context.toNat)
    && h.context != 0 && (skip || (getCtx s h.context.toNat).state != .unbound)

theorem admitted_of {s : State} {h : CmdHdr} {priv skip : Bool} (a : admits s h priv skip = true) : Admitted s h priv skip := by
  simp only [admits, Bool.and_eq_true, Bool.or_eq_true, Bool.not_eq_true', bne_iff_ne, beq_iff_eq] at a
  obtain ⟨⟨⟨⟨a1, a2⟩, a3⟩, a4⟩, a5⟩ := a
  refine ⟨a1, fun hp => ?_, fun hl => ?_, a4, fun hs => ?_⟩
  · rcases a2 with a2 | a2
    · rw [hp] at a2; cases a2
    · exact a2
  · rcases a3 with a3 | a3
    · rw [hl] at a3; cases a3
    · exact a3
  · rcases a5 with a5 | a5
    · rw [hs] at a5; cases a5
    · exact a5

/-! ## Witnesses: Granger commands -/

theorem witness_NopFenceAndFlushComplete :
    Admitted up hdr false true ∧ Admitted up hdr false false
    ∧ (let s := setWindrow up 0 { getWindrow up 0 with replies := [⟨1, 0, 0, 0, 0, 0, false⟩] };
      Admitted s hdr false false ∧ (getWindrow s hdr.windrow).replies ≠ [])
    ∧ (earlierRunning up hdr = false ∧ accessesPending up hdr.windrow = false ∧ (getWindrow up hdr.windrow).replies = []
      ∧ (getWindrow up hdr.windrow).targetLost = false)
    ∧ (let s := setWindrow up 0 { getWindrow up 0 with targetLost := true };
      Admitted s hdr false false ∧ earlierRunning s hdr = false ∧ accessesPending s hdr.windrow = false
      ∧ (getWindrow s hdr.windrow).replies = [] ∧ (getWindrow s hdr.windrow).targetLost = true)
    ∧ (flushRange (cmdIssuer hdr) true 1 0 up).1 = .all :=
  ⟨admitted_of (by decide), admitted_of (by decide), ⟨admitted_of (by decide), by decide⟩, by decide,
    ⟨admitted_of (by decide), by decide⟩, by decide⟩

theorem witness_CopiesComplete :
    (getTask up (cmdIssuer hdr).who).failed = none ∧ awaiting up (cmdIssuer hdr).who = false
    ∧ (let r := resolvePairs (cmdIssuer hdr) byteShape 0 (caDst (cmdIssuer hdr) 64) 1 0 up;
      r.2.1 = .all ∧ (∀ p ∈ r.1, isRemote up p.dst.dpa = false ∧ ∀ o ∈ p.src, isRemote up o.dpa = false)
      ∧ (writePairs (cmdIssuer hdr) (copyLine byteShape) r.2.2 r.1).2.poison = false ∧ rangesMeet 0 64 64 64 = false)
    ∧ (let shape : CopyShape := ⟨elemBits 0, elemBits 0, true, 0, 0, false, 0, 0, 0⟩;
      let r := resolvePairs (cmdIssuer hdr) shape 0 (caDst (cmdIssuer hdr) 64) 1 0 up;
      schemeOk 0 0 = true ∧ r.2.1 = .all ∧ (∀ p ∈ r.1, isRemote up p.dst.dpa = false ∧ ∀ o ∈ p.src, isRemote up o.dpa = false)
      ∧ 64 * 8 * shape.wd % (shape.ws * 512) = 0
      ∧ (writePairs (cmdIssuer hdr) (copyLine shape) r.2.2 r.1).2.poison = false)
    ∧ (let r := resolvePairs (cmdIssuer hdr) fillShape 0 (caDst (cmdIssuer hdr) 64) 1 0 up;
      r.2.1 = .all ∧ (∀ p ∈ r.1, isRemote up p.dst.dpa = false ∧ ∀ o ∈ p.src, isRemote up o.dpa = false)
      ∧ (writePairs (cmdIssuer hdr) (fun _ _ => (cleanLine ((List.range 8).flatMap (fun _ => toLE 8 7)), 0)) r.2.2 r.1).2.poison = false) := by
  decide

/-- `up` with a way to the chip at Tally address 2, and there a line that this command has sent already. -/
def routed (sent : List Nat) (waits : List RemoteReq) : State :=
  { up with wain := { up.wain with routes := [(2, some 0)], tasks := if sent = [] then [] else [{ who := (cmdIssuer hdr).who, sent := sent }], remote := waits } }

theorem witness_CopyRemote :
    (let r := resolvePairs (cmdIssuer hdr) byteShape 0 (remoteDst (cmdIssuer hdr) 2 0) 1 0 (routed [] []);
      r.2.1 = .all ∧ (∀ p ∈ r.1, isRemote (routed [] []) p.dst.dpa = true ∧ isRemote r.2.2 p.dst.dpa = true
        ∧ ∀ o ∈ p.src, isRemote (routed [] []) o.dpa = false)
      ∧ r.1.filter (fun p => !(getTask (routed [] []) (cmdIssuer hdr).who).sent.contains (p.dst.dpa / 64)) ≠ []
      ∧ (sendPairs (cmdIssuer hdr) (copyLine byteShape) (routed [] []) r.1).2.ended = false)
    ∧ (let s := routed [2 ^ 34 * 2] [];
      let r := resolvePairs (cmdIssuer hdr) byteShape 0 (remoteDst (cmdIssuer hdr) 2 0) 1 0 s;
      r.2.1 = .all ∧ r.1.filter (fun p => !(getTask s (cmdIssuer hdr).who).sent.contains (p.dst.dpa / 64)) = []
      ∧ (getTask s (cmdIssuer hdr).who).failed = none ∧ awaiting s (cmdIssuer hdr).who = false)
    ∧ (let s := routed [2 ^ 34 * 2] [⟨0, ⟨2, 0, 0, 3, 2, 5, 1, 0, 0, 0⟩, 0, (cmdIssuer hdr).who, 0⟩];
      (resolvePairs (cmdIssuer hdr) byteShape 0 (remoteDst (cmdIssuer hdr) 2 0) 1 0 s).2.1 = .all
      ∧ (getTask s (cmdIssuer hdr).who).failed = none ∧ awaiting s (cmdIssuer hdr).who = true) := by
  decide

/-- `up` before its context is bound, with an entry format that describes VALID. -/
def unbound (valid : Bool) : State :=
  let s := setCtx up 5 {};
  { s with tr := { s.tr with desc0 := if valid then 0x40 else 0 } }

theorem witness_CtxBindCompletes :
    Admitted (unbound true) hdr true true ∧ poolUp (unbound true) = true ∧ (getCtx (unbound true) 5).state = .unbound
    ∧ (pteDesc (unbound true) 0).testBit 6 = true ∧ (0 < 65536 ∧ 0 ∉ usedSegSlots (unbound true)) ∧ Admitted up hdr true false
    ∧ planRuns up hdr.context = false ∧ busyElsewhere up hdr = false ∧ holdsLease up hdr.context = false ∧ hasFault up hdr.context = false
    ∧ (getCtx up 5).segment = true ∧ quiet up (some hdr.context) = true
    ∧ (let s := setBuf up 3 [⟨line0, [], 1, 0, 5, false, false, false, false⟩];
      quiet s (some hdr.context) = false ∧ hasFault s hdr.context = false) :=
  ⟨admitted_of (by decide), by decide, by decide, by decide, by decide, admitted_of (by decide), by decide⟩

/-- A read-write segment of 4 KiB over device memory (R388). -/
def segEntry : BitVec 128 := BitVec.ofNat 128 (2 ^ 40 * 3 + 2 ^ 64 * 4095 + 2 ^ 112 * 7)

/-- `up` with its context in page mode. -/
def paged : State := setCtx up 5 { state := .active }

theorem witness_SegmentsAndRootsComplete :
    Admitted up hdr true false ∧ field segEntry 63 56 = 0 ∧ field segEntry 119 117 = 0 ∧ field segEntry 127 120 = 0 ∧ field segEntry 116 115 < 3
    ∧ dpaSpace (field segEntry 55 0) = 0 ∧ field segEntry 55 0 % 4096 = 0 ∧ bits (field segEntry 55 0) 39 0 + field segEntry 111 64 < 2 ^ 40
    ∧ (getCtx up 5).segment = true ∧ Admitted paged hdr true false ∧ (getCtx paged 5).segment = false ∧ quiet paged (some 5) = true
    ∧ field (0x1000 : W64) 11 0 = 0 ∧ field (0x1000 : W64) 63 52 = 0
    ∧ quiet (setBuf paged 3 [⟨line0, [], 1, 0, 5, false, false, false, false⟩]) (some 5) = false :=
  ⟨admitted_of (by decide), by decide, by decide, by decide, by decide, by decide, by decide, by decide, by decide, admitted_of (by decide), by decide⟩

theorem witness_GrantAndRegionsComplete :
    Admitted up hdr true false ∧ (let e : W32 := BitVec.ofNat 32 (2 ^ 20 * 0x7D);
      field e 19 0 = 0 ∧ field e 31 27 = 0 ∧ field e 21 20 ≠ 3 ∧ field e 21 20 ≠ 0)
    ∧ 9598 + 2 ≤ poolBytes up / 2 ^ 21 ∧ 9598 + 2 ≤ reservedGranule up
    ∧ (∀ r ∈ up.hl.regions, r.key ≠ 1) ∧ up.hl.regions.length < 4096
    ∧ (let s := { up with hl := { up.hl with regions := [⟨1, 5, 0, 64, true⟩] } };
      admits s hdr true false = true ∧ ∃ r ∈ s.hl.regions, r.key = 1) :=
  ⟨admitted_of (by decide), by decide⟩

/-- `up` with a recorded fault of context 5 in slot 4, generation 2. -/
def faulted (w : List Requester) : State :=
  { up with tr := { up.tr with faults := [(4, some ⟨5, 1, 4096, .read, 0x41, 0, 2, true, .nobody, w⟩)] } }

/-- An image of one position that runs nothing: eleven tables, of which POSITION, TILLER, STAGE, STEP, ARENA and TICK have entries; Tiller
45 halts in epoch 0 after an EBAR at tick 0. -/
def smallImage : List Byte :=
  let dir (off n : Nat) : List Byte := toLE 4 off ++ toLE 4 n
  let body (crc : Nat) : List Byte :=
    toLE 8 0x004E414C50485759 ++ toLE 2 0x0100 ++ toLE 2 256 ++ toLE 4 2 ++ toLE 8 1536 ++ toLE 4 1 ++ toLE 4 1 ++ [16, 0, 0, 0] ++ toLE 4 0
    ++ toLE 4 1 ++ toLE 4 crc ++ List.replicate 80 0
    ++ dir 4 1 ++ dir 5 53 ++ dir 19 1 ++ dir 20 1 ++ dir 0 0 ++ dir 21 1 ++ dir 0 0 ++ dir 0 0 ++ dir 0 0 ++ dir 22 1 ++ dir 0 0 ++ List.replicate 40 0
    ++ toLE 4 0 ++ toLE 4 0 ++ toLE 4 0 ++ toLE 4 1 ++ List.replicate 48 0
    ++ (List.range 53).flatMap (fun t => if t = 45 then toLE 4 23 ++ toLE 2 2 ++ toLE 2 0 ++ toLE 8 0 else List.replicate 16 0) ++ List.replicate 48 0
    ++ (toLE 4 0 ++ toLE 4 1 ++ toLE 4 0 ++ toLE 4 1 ++ List.replicate 48 0)
    ++ List.replicate 64 0
    ++ (toLE 4 0 ++ [3, 0, 0, 0] ++ toLE 8 64 ++ List.replicate 48 0)
    ++ (toLE 2 0 ++ [45, 2] ++ toLE 4 0 ++ toLE 4 1 ++ toLE 4 0 ++ List.replicate 48 0)
    ++ (toLE 8 0x2C00000000000000 ++ List.replicate 56 0)
  body (crc32c (body 0)).toNat

/-- Bytes of zeros. -/
def z (n : Nat) : List Byte := List.replicate n 0

/-- The lines of that image with a binding list behind it, each word with its check bits; line n. -/
def imageLine (n : Nat) : Line :=
  match n with
  | 0 => ⟨[89, 87, 72, 80, 76, 65, 78, 0, 0, 1, 0, 1, 2, 0, 0, 0, 0, 6] ++ z 6 ++ [1, 0, 0, 0, 1, 0, 0, 0, 16] ++ z 7 ++ [1, 0, 0, 0, 141, 140, 123, 158] ++ z 16, [89, 56, 63, 99, 19, 247, 0, 0]⟩
  | 2 => ⟨[4, 0, 0, 0, 1, 0, 0, 0, 5, 0, 0, 0, 53, 0, 0, 0, 19, 0, 0, 0, 1, 0, 0, 0, 20, 0, 0, 0, 1] ++ z 11 ++ [21, 0, 0, 0, 1] ++ z 19, [105, 29, 123, 122, 0, 125, 0, 0]⟩
  | 3 => ⟨z 8 ++ [22, 0, 0, 0, 1] ++ z 51, [0, 113] ++ z 6⟩
  | 4 => ⟨z 12 ++ [1] ++ z 51, [0, 100] ++ z 6⟩
  | 16 => ⟨z 16 ++ [23, 0, 0, 0, 2] ++ z 43, [0, 0, 122, 0, 0, 0, 0, 0]⟩
  | 19 => ⟨[0, 0, 0, 0, 1] ++ z 7 ++ [1] ++ z 51, [100, 100] ++ z 6⟩
  | 21 => ⟨[0, 0, 0, 0, 3, 0, 0, 0, 64] ++ z 55, [12, 22] ++ z 6⟩
  | 22 => ⟨[0, 0, 45, 2, 0, 0, 0, 0, 1] ++ z 55, [52, 7] ++ z 6⟩
  | 23 => ⟨z 7 ++ [44] ++ z 56, [50] ++ z 7⟩
  | 24 => ⟨[0, 0, 1] ++ z 61, [49] ++ z 7⟩
  | _ => zeroLine

/-- A Granary way that holds line n of the image. -/
def imageWay (n : Nat) : Way := sealWay 12 {} { valid := true, line := n, content := imageLine n }

/-- `up` with that image at device offset 0 and the list behind it, in the Granary (R320). -/
def imaged : State :=
  { up with cache := { up.cache with granary := (List.range 25).map (fun n => (4096 * n, imageWay n :: List.replicate 15 {})) } }

/-- Line n of the image reads as it is, and the read changes nothing. -/
def readsAsIs (n : Nat) : Bool := readCur imaged 21 ⟨0, n⟩ 5 false = (imageLine n, imaged) && (!linePoison (imageLine n))

theorem image_lines_0 : (List.range' 0 7).all readsAsIs = true := by decide +kernel
theorem image_lines_7 : (List.range' 7 6).all readsAsIs = true := by decide +kernel
theorem image_lines_13 : (List.range' 13 6).all readsAsIs = true := by decide +kernel
theorem image_lines_19 : (List.range' 19 6).all readsAsIs = true := by decide +kernel

theorem image_line (n : Nat) (h : n < 25) : readCur imaged 21 ⟨0, n⟩ 5 false = (imageLine n, imaged) ∧ linePoison (imageLine n) = false := by
  have all : (List.range 25).all readsAsIs = true := by
    rw [show List.range 25 = List.range' 0 7 ++ List.range' 7 6 ++ List.range' 13 6 ++ List.range' 19 6 from rfl]
    simp only [List.all_append, image_lines_0, image_lines_7, image_lines_13, image_lines_19, Bool.and_self]
  have one := List.all_eq_true.mp all n (List.mem_range.mpr h)
  simpa [readsAsIs] using one

/-- What a read of lines of the image gives. -/
theorem image_fold (first : Nat) : ∀ (ns : List Nat) (bs : List Byte), (∀ n ∈ ns, first + n < 25) →
    ns.foldl (fun (acc : List Byte × Option Nat × State) i =>
      let x := readCur acc.2.2 21 ⟨0, first + i⟩ 5 false
      (acc.1 ++ slice x.1.data 0 64, if acc.2.1 = none && linePoison x.1 then some (first + i) else acc.2.1, x.2)) (bs, none, imaged)
    = (bs ++ ns.flatMap (fun n => slice (imageLine (first + n)).data 0 64), none, imaged)
  | [], bs, _ => by simp
  | n :: ns, bs, h => by
    have at_ := image_line (first + n) (h n (by simp))
    simp only [List.foldl_cons, at_.1, at_.2, Bool.and_false, Bool.false_eq_true, if_false]
    rw [image_fold first ns _ (fun m hm => h m (by simp [hm]))]
    simp

theorem image_read (off n : Nat) (bs : List Byte) (end_ : (off + n + 63) / 64 ≤ 25) (free : judgeRange imaged off n 5 .read = none)
    (holds : slice (((List.range ((off + n + 63) / 64 - off / 64)).flatMap (fun i => slice (imageLine (off / 64 + i)).data 0 64)).drop (off % 64)) 0 n = bs) :
    readDevice imaged off n 5 = (.bytes bs, imaged) := by
  simp only [readDevice, free, homeReadBytes]
  rw [image_fold (off / 64) _ [] (fun m hm => by have := List.mem_range.mp hm; omega)]
  simp [holds]

theorem image_bytes : (List.range 24).flatMap (fun i => slice (imageLine i).data 0 64) = smallImage := by decide +kernel

theorem image_checks : firstFail (planChecks smallImage [0x10000] 0 (planView smallImage false)) = none := by decide +kernel

theorem image_schedule :
    firstFail (scheduleChecks smallImage [0x10000] (planView smallImage false) (schedules (planView smallImage false))) = none := by
  decide +kernel

theorem image_header : readDevice imaged 0 256 5 = (.bytes (smallImage.take 256), imaged) :=
  image_read 0 256 _ (by decide) (by decide +kernel) (by decide +kernel)

theorem image_whole : readDevice imaged 0 1536 5 = (.bytes smallImage, imaged) :=
  image_read 0 1536 _ (by decide) (by decide +kernel) (by decide +kernel)

theorem image_list : readDevice imaged 1536 8 5 = (.bytes (toLE 8 0x10000), imaged) :=
  image_read 1536 8 _ (by decide) (by decide +kernel) (by decide +kernel)

theorem image_size : sizeBad (smallImage.take 256) = false := by decide +kernel
theorem image_length : fieldLE (smallImage.take 256) 16 8 = 1536 := by decide +kernel
theorem image_arena_count : min (dirCount smallImage 5) (countLimit smallImage 5) = 1 := by decide +kernel
theorem image_binding : (List.range 1).map (fun i => fieldLE (toLE 8 0x10000) (8 * i) 8) = [0x10000] := by decide +kernel
theorem image_arenas : judgeArenas imaged smallImage [0x10000] 0 5 = none := by decide +kernel
theorem image_mode : bitOf imaged.boot.straps 1 = false := by decide +kernel

/-- A load whose reads change nothing and whose checks all pass (R221, R222). -/
theorem loads_valid {s : State} {ctx : BitVec 20} {image list position n arenas : Nat} {hdr img bl : List Byte} {binds : List Nat}
    (header : readDevice s image 256 ctx = (.bytes hdr, s)) (fits : sizeBad hdr = false) (size : fieldLE hdr 16 8 = n)
    (whole : readDevice s image n ctx = (.bytes img, s)) (count : min (dirCount img 5) (countLimit img 5) = arenas)
    (bindings : readDevice s list (8 * arenas) ctx = (.bytes bl, s)) (named : (List.range arenas).map (fun i => fieldLE bl (8 * i) 8) = binds)
    (admitted : judgeArenas s img binds position ctx = none) (valid : validatePlan img binds position (bitOf s.boot.straps 1) = none) :
    loadImage s ctx image list position = (.valid img binds, s) := by
  simp [loadImage, header, fits, size, whole, count, bindings, named, admitted, valid]

/-- A plan that passes both lists of checks. -/
theorem plan_valid {img : List Byte} {binds : List Nat} {position : Nat} {compat : Bool}
    (checks : firstFail (planChecks img binds position (planView img compat)) = none)
    (rest : firstFail (scheduleChecks img binds (planView img compat) (schedules (planView img compat))) = none) :
    validatePlan img binds position compat = none := by
  simp only [validatePlan, checks, rest]

theorem witness_PlanLoadValid : loadImage imaged 5 0 1536 0 = (.valid smallImage [0x10000], imaged) :=
  loads_valid image_header image_size image_length image_whole image_arena_count image_list image_binding image_arenas
    (image_mode ▸ plan_valid image_checks image_schedule)

theorem witness_FaultResolveAndPlanLoadComplete :
    Admitted (faulted []) hdr true false
    ∧ (∃ f, faultNamed (faulted []) (BitVec.ofNat 16 (4 + 2 * 4096)) = some (4, f) ∧ f.ctx = hdr.context) ∧ (faulted []).tr.misses = []
    ∧ Admitted up hdr false false ∧ slotForeign up hdr 2 = false ∧ (getSlot up 2).state = .empty
    ∧ (∃ code place u, loadImage up hdr.context 0 0x1000 0 = (.invalid code place, u)) :=
  ⟨admitted_of (by decide), ⟨_, rfl, by decide⟩, by decide, admitted_of (by decide), by decide, by decide, ⟨_, _, _, rfl⟩⟩

/-! ## Witnesses: plan, Crop and Seedcorn commands -/

def seedRec : SeedRec := ⟨4, [], [], []⟩

theorem witness_RunsBeginAndStop :
    (let s := withSlot 2 (loaded .bound) up;
      Admitted s hdr false false ∧ slotForeign s hdr 2 = false ∧ runningSlot s = none ∧ (getSlot s 2).plan = some emptyPlan
      ∧ emptyPlan.loftWays ≤ s.cache.loftWays ∧ leasedAway s (getSlot s 2) emptyPlan = false ∧ running s hdr 2 = false ∧ (getSlot s 2).state = .bound)
    ∧ (let s := withSlot 2 { loaded .bound with seedValid := true, newest := some seedRec } up;
      running s hdr 2 = false ∧ runningSlot s = none ∧ (getSlot s 2).state = .bound ∧ (getSlot s 2).seedValid = true
      ∧ (getSlot s 2).newest = some seedRec)
    ∧ (let s := withSlot 2 { loaded .stopped with newest := some seedRec } up; running s hdr 2 = false ∧ (getSlot s 2).state = .stopped)
    ∧ (let s := withSlot 2 (loaded .stopping) up; slotForeign s hdr 2 = false ∧ (getSlot s 2).state = .stopping)
    ∧ (let s := member true (withSlot 2 (loaded .running) up); admits s hdr false false = true ∧ isCropRoot s = true ∧ (getSlot s 2).state = .running)
    ∧ (let s := member false (withSlot 2 (loaded .running) up); admits s hdr false false = true ∧ isCropRoot s = false
      ∧ s.crop.member = true ∧ (hdr, true) ∉ s.crop.stops) :=
  ⟨⟨admitted_of (by decide), by decide⟩, by decide⟩

/-- `up` with a member table that names this chip alone and slot 2 loaded. -/
def alone : State :=
  let s := withSlot 2 (loaded .loaded) up
  { s with mem := { s.mem with ram := ramPutLine {} 0 (cleanLine (3 :: List.replicate 63 0)) } }

theorem witness_CropCommandsStartFormation :
    Admitted up hdr true false ∧ up.boot.tallyValid = true ∧ (getForming up).active = false ∧ (getForming up).req = none ∧ up.crop.member = false
    ∧ (∃ bs, (readDevice up 0 2 hdr.context).1 = .bytes bs
        ∧ ∃ a ∈ (List.range 1).map (fun i => fieldLE bs (2 * i) 2), a ≤ 1023 ∧ a ≠ (readDevice up 0 2 hdr.context).2.boot.tallyAddr.toNat)
    ∧ (let s := member true up; admits s hdr true false = true ∧ s.crop.cropId = 9 ∧ s.crop.parentLink = 0xFF ∧ memberLink s 0 = true
        ∧ (getForming s).active = false)
    ∧ (admits alone hdr true false = true ∧ alone.crop.member = false ∧ (getForming alone).active = false ∧ (getForming alone).req = none
      ∧ (match readDevice alone 0 2 hdr.context with
        | (.bytes bs, u) => u.crop.member == false && (List.range 1).map (fun i => fieldLE bs (2 * i) 2) == [u.boot.tallyAddr.toNat]
            && (getSlot u 2).state == .loaded && (getSlot u 2).plan == some emptyPlan && (getSlot u 2).position == 0
        | _ => false) = true ∧ emptyPlan.npos = 1 ∧ emptyPlan.links = []) :=
  ⟨admitted_of (by decide), by decide, by decide, by decide, by decide, ⟨_, rfl, 0, by decide, by decide, by decide⟩, by decide, by decide⟩

/-- A slot that a run has stopped, its Seedcorn valid. -/
def seeded (st : SlotState) : State := withSlot 2 { loaded st with seedValid := true, newest := some seedRec } up

theorem witness_SeedcornCommandsComplete :
    Admitted (seeded .stopped) hdr false false ∧ slotForeign (seeded .stopped) hdr 2 = false ∧ (getSlot (seeded .stopped) 2).plan = some emptyPlan
    ∧ (getTask (seeded .stopped) (cmdIssuer hdr).who).failed = none ∧ canExport (getSlot (seeded .stopped) 2) = true
    ∧ exportSize (getSlot (seeded .stopped) 2) ≤ 4096
    ∧ (match exportParts (seeded .stopped) (cmdIssuer hdr) (getSlot (seeded .stopped) 2) emptyPlan with
      | (.bytes bs, u) =>
        let r := resolvePairs (cmdIssuer hdr) fillShape 0 (caDst (cmdIssuer hdr) 0) (bs.length / 64) 0 u
        r.2.1 == .all && r.1.all (fun q => q.src.isEmpty && !isRemote u q.dst.dpa) && (getTask u (cmdIssuer hdr).who).failed.isNone
          && !awaiting u (cmdIssuer hdr).who
          && !(writePairs (cmdIssuer hdr) (fun j _ => (cleanLine (slice bs (64 * j) 64), 0)) r.2.2 r.1).2.poison
      | _ => false) = true :=
  ⟨admitted_of (by decide), by decide +kernel⟩

/-- The parts that an export of `seeded` gives. -/
def parts : List Byte :=
  match exportParts (seeded .stopped) (cmdIssuer hdr) (getSlot (seeded .stopped) 2) emptyPlan with
  | (.bytes bs, _) => bs
  | _ => []

/-- `seeded` with those parts at the first lines of its context. -/
def carrier : State :=
  { seeded .bound with mem := { up.mem with ram := (List.range (parts.length / 64)).foldl (fun r i =>
      ramPutLine r i (cleanLine (slice parts (64 * i) 64))) {} } }

theorem witness_SeedcornImport :
    (let s := carrier; let x := getSlot s 2; let r := resolveLines s (cmdIssuer hdr) .read (ceilDiv parts.length 64) 0;
      let q := sourceLines r.2.2 (cmdIssuer hdr) r.1;
      let bs := slice (q.1.flatMap (fun l => l.data)) 0 parts.length;
      admits s hdr false false = true ∧ slotForeign s hdr 2 = false ∧ x.plan = some emptyPlan ∧ x.state = .bound
      ∧ (getTask s (cmdIssuer hdr).who).failed = none ∧ r.2.1 = .all ∧ importRefused s hdr x emptyPlan = none
      ∧ (∀ o ∈ r.1, isRemote s o.dpa = false) ∧ q.1.any linePoison = false ∧ importCode x emptyPlan bs parts.length = none
      ∧ (resolveRows q.2 { cmdIssuer hdr with ctx := x.context } (hostRows x emptyPlan (fieldLE bs 16 8))).1 = .all) := by
  decide +kernel

theorem witness_LoftAndLeaseCommandsComplete :
    Admitted up hdr true false ∧ runningLoftWays up = none
    ∧ (let s := member true (withSlot 2 { loaded .running with plan := some { emptyPlan with loftWays := 14 } } up); runningLoftWays s = some 14)
    ∧ (let s := { up with cache := { up.cache with loftWays := 14 } }; 110 + 2 ≤ 8 * s.cache.loftWays)
    ∧ (let s := { up with boot := { up.boot with straps := 0x10 } };
      admits s hdr true false = true ∧ attPresent s 0 = true ∧ (runningMask s).testBit 15 = false ∧ (getSheaf s 15).lease = none)
    ∧ (let s := setSheaf up 15 { getSheaf up 15 with lease := some ⟨0, 5, false, false⟩ };
      ∃ l, (getSheaf s 15).lease = some l ∧ l.att = 0 ∧ l.context = hdr.context ∧ l.byPlan = false ∧ l.begun = false) :=
  ⟨admitted_of (by decide), by decide, by decide, by decide, by decide, ⟨_, rfl, by decide⟩⟩

theorem witness_ReportingCommandsComplete :
    Admitted up hdr false true ∧ (∃ bs st, queryRecord up hdr 0 0 = some (bs, st)) ∧ (∃ bs st, queryRecord up hdr 1 5 = some (bs, st))
    ∧ (∃ bs st, queryRecord up hdr 2 0 = some (bs, st)) ∧ (∃ bs st, queryRecord (seeded .stopped) hdr 3 2 = some (bs, st))
    ∧ (∃ bs st, queryRecord up hdr 4 0 = some (bs, st)) ∧ (∃ bs st, queryRecord up hdr 6 0 = some (bs, st))
    ∧ (let s := withSlot 2 { loaded .loaded with plan := some { emptyPlan with nstep := 65536 } } up;
      slotForeign s hdr 2 = false ∧ ∃ p, (getSlot s 2).plan = some p ∧ 0 + 65536 ≤ p.nstep)
    ∧ up.margin.vddMv ≤ 850 ∧ 100 ≤ up.rootPct ∧ up.rootPct ≤ 105 :=
  ⟨admitted_of (by decide), ⟨_, _, rfl⟩, ⟨_, _, rfl⟩, ⟨_, _, rfl⟩, ⟨_, _, rfl⟩, ⟨_, _, rfl⟩, ⟨_, _, rfl⟩, ⟨by decide, _, rfl, by decide⟩, by decide⟩

/-! ## Witnesses: Windrows -/

/-- `up` with Windrow 0's state changed. -/
def win (f : Windrow → Windrow) : State := setWindrow up 0 (f (getWindrow up 0))

/-- `up` in D3hot, and `up` with its port frozen. -/
def asleep : State := { up with hl := { up.hl with d3hot := true } }
def frozen : State := { up with hl := { up.hl with frozen := true } }

theorem witness_DoorbellsAndAdmission :
    (memAccess up = true ∧ up.hl.frozen = false ∧ bar0Open up = true
      ∧ (let w := getWindrow up 0; let d := tailAhead w 64; bitOf w.cfg 0 = true ∧ d ≤ ringSize w ∧ (w.tail - w.head).toNat ≤ d)
      ∧ (let w := getWindrow up 0; ¬ tailAhead w 65 ≤ ringSize w) ∧ bitOf (getWindrow up 65535).cfg 0 = false)
    ∧ (let s := { up with grg := { up.grg with admission := [9] } }; s.grg.admission = 9 :: [] ∧ s.grg.active.length < 1024)
    ∧ (let s := { up with grg := { up.grg with admission := [9], active := List.replicate 1024 0 } };
      1024 ≤ s.grg.active.length ∧ longestIdle s = some 0 ∧ 0 ≠ 9)
    ∧ (let s := { win (fun w => { w with tail := 1 }) with grg := { (win (fun w => { w with tail := 1 })).grg with admission := [9], active := List.replicate 1024 0 } };
      1024 ≤ s.grg.active.length ∧ longestIdle s = none) := by
  decide +kernel

/-- A NOP packet of context 5 with SEQ 0 and the PHASE of the first lap. -/
def nopPacket (check : Nat) : List Byte := [0x00, 0x01, 0, 0] ++ toLE 4 0 ++ toLE 4 5 ++ toLE 4 check ++ List.replicate 48 0

/-- `up` with host memory from address 0 on. -/
def hosted (bs : List Byte) (f : Windrow → Windrow) : State := { win f with hostMem := ramPutBytes {} 0 bs }

theorem witness_PacketsAreCheckedAndStarted :
    (let good := nopPacket (packetSum (nopPacket 0));
      let s := hosted good (fun w => { w with tail := 1 });
      let r := readSlot s 0;
      mayRead s 0 = true ∧ (getWindrow s 0).rereading = false ∧ r.poison = none ∧ checkOne (getWindrow s 0) r.bytes = true
      ∧ checkTwo (getWindrow s 0) r.bytes = true)
    ∧ (let s := hosted (nopPacket 0) (fun w => { w with tail := 1, rereading := true, rereads := 63 }); let r := readSlot s 0;
      mayRead s 0 = true ∧ r.poison = none ∧ checkOne (getWindrow s 0) r.bytes = true ∧ checkTwo (getWindrow s 0) r.bytes = false)
    ∧ (let s := hosted (List.replicate 64 0) (fun w => { w with tail := 1, rereading := true, rereads := 62 }); let r := readSlot s 0;
      mayRead s 0 = true ∧ checkOne (getWindrow s 0) r.bytes = false ∧ (getWindrow s 0).rereads + 1 < 64)
    ∧ (let s := hosted (List.replicate 64 0) (fun w => { w with tail := 1, rereading := true, rereads := 63 }); let r := readSlot s 0;
      mayRead s 0 = true ∧ checkOne (getWindrow s 0) r.bytes = false ∧ 63 ≤ (getWindrow s 0).rereads)
    ∧ (let s := win (fun w => { w with inprog := List.replicate 256 ⟨1, .nop hdr, 0⟩ }); grangerUp s = true ∧ 256 ≤ inProgress s)
    ∧ turnOf up = none
    ∧ (let s := win (fun w => { w with accepted := [⟨0, nopPacket 0⟩] });
      let s := { s with grg := { s.grg with active := [0] } };
      inProgress s < 256 ∧ turnOf s = some 0 ∧ (getWindrow s 0).accepted = ⟨0, nopPacket 0⟩ :: []) := by
  decide +kernel

theorem witness_RepliesAndWindrowRegisters :
    (let r : ReplyRec := ⟨1, 0, 0, 0, 0, 0, true⟩; let s := win (fun w => { w with replies := [r] });
      grangerUp s = true ∧ (getWindrow s 0).replies = r :: [] ∧ replyFull (getWindrow s 0) = false ∧ s.hl.frozen = false)
    ∧ (let r : ReplyRec := ⟨1, 0, 0, 0, 0, 0, false⟩; let s := win (fun w => { w with replies := [r], replyTail := 64 }); replyFull (getWindrow s 0) = true)
    ∧ (let v : W64 := 0x1001; bitOf v 0 = true ∧ bitOf (getWindrow up 1).cfg 0 = false ∧ poolUp up = true ∧ 6 ≤ field v 12 8 ∧ field v 12 8 ≤ 16)
    ∧ bitOf (0 : W64) 0 = false ∧ bitOf (getWindrow up 0).cfg 0 = true ∧ memAccess up = true ∧ bar0Open up = true
    ∧ (let s := { up with boot := { up.boot with memoryActive := false } }; memAccess s = true ∧ bar0Open s = true ∧ poolUp s = false ∧ 64 ≤ 65535
      ∧ bitOf (getWindrow s 65535).cfg 0 = false)
    ∧ memAccess asleep = false
    ∧ (let r : ReplyRec := ⟨1, 0, 0, 0, 0, 0, true⟩; let s := { win (fun w => { w with replies := [r] }) with hl := { up.hl with frozen := true, msixControl := 0x8000 } };
      grangerUp s = true ∧ (getWindrow s 0).replies = r :: [] ∧ replyFull (getWindrow s 0) = false ∧ s.hl.frozen = true
      ∧ vectorMasked s (field (getWindrow s 0).cfg 26 16) = true ∧ (vectorMsg s (field (getWindrow s 0).cfg 26 16)).isSome = true)
    ∧ (let w := getWindrow (win (fun w => { w with replyTail := 3 })) 0; ((3 : W32) - w.replyHead).toNat ≤ (w.replyTail - w.replyHead).toNat
      ∧ (w.replyTail - w.replyHead).toNat < ((4 : W32) - w.replyHead).toNat) := by
  decide +kernel

/-! ## Witnesses: register accesses -/

theorem witness_RegisterWritesFollowTheTables :
    memAccess up = true ∧ bar0Open up = true
    ∧ (let v : W64 := BitVec.ofNat 64 (1000 + 2 ^ 16); 1 ≤ field v 15 0 ∧ field v 15 0 ≤ 1000 ∧ 1 ≤ field v 31 16)
    ∧ field (0 : W64) 15 0 = 0 ∧ field (64 * 256 : W64) 15 8 = 64 ∧ field (3 : W64) 1 0 = 3 ∧ field (168 : W64) 7 0 = 168
    ∧ (0x29000 % 8 = 0 ∧ 0x29000 ≤ 0x29000 ∧ 0x3FFFF8 % 8 = 0 ∧ 0x3FFFF8 < 0x400000) ∧ (0x20010 % 4 = 0 ∧ 0x200FC % 4 = 0) := by
  decide

theorem witness_RegisterReadsFollowTheTables :
    alive up = true ∧ memAccess up = true ∧ bar0Open up = true ∧ up.hl.frozen = false ∧ oneSample 0x20010 = true ∧ oneSample 0x28078 = true
    ∧ alive asleep = true ∧ asleep.hl.d3hot = true ∧ memAccess asleep = false ∧ alive frozen = true ∧ frozen.hl.frozen = true := by decide

theorem witness_BadAccessesAndVectors :
    memAccess up = true ∧ (¬ ((2 = 4 ∨ 2 = 8) ∧ 0 % 2 = 0)) ∧ (¬ ((8 = 4 ∨ 8 = 8) ∧ 4 % 8 = 0)) ∧ memAccess frozen = true
    ∧ (let s := { up with hl := { up.hl with msixControl := 0x8000, pba := [2047] } };
      alive s = true ∧ bitOf s.hl.msixControl 15 = true ∧ bitOf s.hl.msixControl 14 = false ∧ s.hl.pba = [2047] ∧ s.hl.frozen = false)
    ∧ (let s := { up with hl := { up.hl with msixControl := 0x8000, pba := [0], frozen := true } };
      alive s = true ∧ bitOf s.hl.msixControl 15 = true ∧ bitOf s.hl.msixControl 14 = false ∧ s.hl.pba = [0] ∧ s.hl.frozen = true)
    ∧ up.hl.pba = [] := by
  decide

theorem witness_ReleaseAndFaultRingRegisters :
    (let s := { up with hl := { up.hl with frozen := true, contain := 1 } };
      memAccess s = true ∧ bar0Open s = true ∧ s.hl.frozen = true ∧ s.hl.linkUp = true ∧ bitOf (0x10001 : W32) 16 = true
      ∧ (field s.hl.contain 2 0 &&& (7 - field (0x10001 : W32) 2 0)) = 0 ∧ (field s.hl.contain 2 0 &&& (7 - field (0x10000 : W32) 2 0)) ≠ 0)
    ∧ hostUp up = true
    ∧ (let s := { up with tr := { up.tr with frTail := 2 } };
      (s.tr.frTail - s.tr.frHead).toNat < ((3 : W32) - s.tr.frHead).toNat ∧ ((2 : W32) - s.tr.frHead).toNat ≤ (s.tr.frTail - s.tr.frHead).toNat
      ∧ s.tr.unrecorded = [])
    ∧ bitOf (0x800 : W32) 11 = true ∧ bitOf (0 : W32) 11 = false := by
  decide

/-! ## Witnesses: the host's windows -/

/-- `up` with a granule that the host may read and write. -/
def shared : State := { up with mem := { up.mem with owner := [(0, BitVec.ofNat 32 (5 + 2 ^ 20 * 0x7D)), (2, 0x300000)] } }

theorem witness_HatchAccessesComplete :
    hostUp shared = true ∧ (∀ p ∈ rangeLines (shared.hl.hatchBase.toNat + 60) 64, hostCheck shared (64 * p.1) .write = .ok)
    ∧ (∀ p ∈ rangeLines (shared.hl.hatchBase.toNat + 60) 4096, hostCheck shared (64 * p.1) .read = .ok)
    ∧ (∀ p ∈ rangeLines (shared.hl.hatchBase.toNat + 2 ^ 22) 64, hostCheck shared (64 * p.1) .write ≠ .ok)
    ∧ (∀ p ∈ rangeLines (shared.hl.hatchBase.toNat + 2 ^ 22) 4096, hostCheck shared (64 * p.1) .read ≠ .ok)
    ∧ shared.hl.frozen = false ∧ ({ shared.hl with frozen := true } : HostLink).frozen = true := by
  decide +kernel

/-- `shared` with CXL.mem open at host address 2^40. -/
def cxl (frozen : Bool) : State :=
  { shared with hl := { shared.hl with cxlActive := true, cxlVer := 3, frozen := frozen, hdmBase := BitVec.ofNat 64 (2 ^ 40), hdmCommitted := true } }

theorem witness_CxlMemAccessesComplete :
    memOpen (cxl false) = true ∧ memOpen (cxl true) = true ∧ poolUp (cxl false) = true ∧ inHdm (cxl false) (2 ^ 40) = true
    ∧ inHdm (cxl false) (2 ^ 40 + 2 ^ 22) = true
    ∧ hostCheck (cxl false) 0 .read = .ok ∧ hostCheck (cxl false) 0 .write = .ok ∧ hostCheck (cxl false) (2 ^ 22) .read ≠ .ok
    ∧ hostCheck (cxl false) (2 ^ 22) .write ≠ .ok := by
  decide +kernel

/-- A host line held by agent 0 in a state. -/
def holding (c : Coh) : State :=
  let s := cxl false
  dirPut (agentPlace s 0 ⟨1, 0⟩ c (cleanLine (List.replicate 64 1)) 5 .demand) ⟨1, 0⟩
    { state := .excl, owner := 0, space := 1 }

/-- The Granary's copy as SNP_INV leaves it for the home. -/
def invalidated (s : State) : State := (homeRun (settleLine (checkHome s ⟨1, 0⟩) ⟨1, 0⟩) (writeReq 20 20 ⟨1, 0⟩ [] 0 0 false)).2

theorem witness_SnoopInvalidates :
    cacheFind (invalidated (cxl false)) 12 ⟨1, 0⟩ = none
    ∧ (match cacheFind (invalidated (granaryInsert (cxl false) ⟨1, 0⟩ (cleanLine (List.replicate 64 1)) false true 2)) 12 ⟨1, 0⟩ with
      | some w => !w.dirty
      | none => false) = true
    ∧ (match cacheFind (invalidated (granaryInsert (cxl false) ⟨1, 0⟩ (cleanLine (List.replicate 64 1)) true true 2)) 12 ⟨1, 0⟩ with
      | some w => w.dirty
      | none => false) = true := by
  decide +kernel

theorem witness_SnoopsAreAnswered :
    hostUp (cxl false) = true ∧ (cxl false).hl.frozen = false ∧ (snoopHome (cxl false) ⟨1, 0⟩).held = false
    ∧ ((snoopHome (holding .exclusive) ⟨1, 0⟩).held = true ∧ (snoopHome (holding .exclusive) ⟨1, 0⟩).dirty = false)
    ∧ ((snoopHome (holding .modified) ⟨1, 0⟩).held = true ∧ (snoopHome (holding .modified) ⟨1, 0⟩).dirty = true)
    ∧ (let s := { cxl false with hl := { (cxl false).hl with hostReqs := [⟨0, .cacheWrite 0 [] 0, 5, .nobody⟩] } };
      ∃ r, s.hl.hostReqs.find? (fun q => q.tag == 0) = some r ∧ r.kind = .cacheWrite 0 [] 0) :=
  ⟨by decide +kernel, by decide +kernel, by decide +kernel, by decide +kernel, by decide +kernel, ⟨_, rfl, rfl⟩⟩

theorem witness_PlacementWritesAreJudged :
    (let s := { cxl false with hl := { (cxl false).hl with regions := [⟨1, 5, 0, 128, true⟩] } };
      hostUp s = true ∧ s.hl.frozen = false ∧ s.hl.cxlActive = true ∧ s.hl.cxlVer = 3 ∧ inHdm s (2 ^ 40) = true
      ∧ placeReason s 1 0 128 = 5 ∧ placeReason s 1 0 129 ≠ 5 ∧ placeReason s 2 0 64 ≠ 5) := by
  decide +kernel

/-! ## Witnesses: translation and the host link's events -/

/-- `paged` in Profile P, or in Profile A with recording on. -/
def profile (p : Bool) (ms : List Miss) : State :=
  { paged with boot := { paged.boot with straps := if p then 1 else 0 }, tr := { paged.tr with misses := ms, cfg := 0x27100800 } }

def miss (stale : Bool) : Miss :=
  { tlb := 256, ctx := 5, va := 4096, access := .read, waiters := [(.tiller 1, .read)], stale := stale, walking := true }

/-- The host's mapping of the pool is committed at address 0. -/
def mapped (s : State) : State := { s with hl := { s.hl with hdmCommitted := true } }

theorem witness_MissesJoinAndWalk :
    (let s := profile true []; profileP s = true ∧ (getCtx s 5).state = .active ∧ (getCtx s 5).segment = false ∧ bits 4096 63 56 ≠ 0xFE
      ∧ canonical (getCtx s 5).levels5 (2 ^ 47 - 1) = true ∧ canonical (getCtx s 5).levels5 (2 ^ 47) = false
      ∧ (∀ i, missReady s i = false) ∧ missOf s 5 4096 = none ∧ s.tr.misses.length < 256 ∧ walkerFree s = true
      ∧ walksHost s 5 4096 = true ∧ freeTags s ≠ [] ∧ walksHost (mapped s) 5 4096 = false)
    ∧ (let s := setCtx paged 5 { state := .blocked }; (getCtx s 5).state = .blocked ∧ (getCtx s 5).segment = false)
    ∧ (let s := profile true (List.replicate 64 (miss false)); missOf s 5 8192 = none ∧ walkerFree s = false ∧ s.tr.misses.length < 256)
    ∧ (let s := profile true [miss false]; (Requester.tiller 2, AccessKind.read) ∉ (miss false).waiters
      ∧ missOf s 5 4096 = some (miss false) ∧ s.tr.misses[0]? = some (miss false))
    ∧ (profile true [miss true]).tr.misses[0]? = some (miss true)
    ∧ (profile true [{ miss false with walking := false }]).tr.misses[0]?.any (fun m => !m.walking) = true := by
  refine ⟨⟨by decide, by decide, by decide, by decide, by decide, by decide, fun i => by simp [missReady, profile], by decide, by decide,
    by decide, by decide +kernel, by decide +kernel, by decide +kernel⟩, by decide +kernel⟩

theorem witness_TranslationCompletionsFillOrFault :
    (let s := profile false [miss false]; profileP s = false ∧ s.tr.misses[0]? = some (miss false) ∧ (miss false).waiters = [(.tiller 1, .read)]
      ∧ (miss false).walking = true ∧ (miss false).stopped = none ∧ bitOf s.tr.cfg 11 = true ∧ ringFull s = false
      ∧ invalPending s 5 4096 = false ∧ chainSlot s 5 1 .read = none ∧ (4095 < 4096 ∧ getFault s 4095 = none) ∧ isWrite (miss false).access = false)
    ∧ (let m : Miss := { miss false with access := .write, waiters := [(.tiller 1, .write)] };
      (profile false [m]).tr.misses[0]? = some m ∧ isWrite m.access = true ∧ AccessKind.write ≠ .read) := by
  decide

theorem witness_InvalidationsComplete :
    (let s := { up with tr := { up.tr with invals := [⟨none, 0, 4096, .ats 3⟩, ⟨some 5, 0, 4096, .command 0 7⟩, ⟨some 5, 0, 4096, .internal⟩] } };
      s.tr.invals[0]? = some ⟨none, 0, 4096, .ats 3⟩ ∧ quiet s none = true ∧ s.tr.invals[1]? = some ⟨some 5, 0, 4096, .command 0 7⟩
      ∧ s.tr.invals[2]? = some ⟨some 5, 0, 4096, .internal⟩ ∧ quiet s (some 5) = true)
    ∧ (let s := { setBuf up 3 [⟨line0, [], 1, 0, 5, false, false, false, false⟩] with tr := { up.tr with invals := [⟨some 5, 0, 4096, .ats 3⟩] } };
      s.tr.invals[0]? = some ⟨some 5, 0, 4096, .ats 3⟩ ∧ quiet s (some 5) = false) := by
  decide

theorem witness_FaultEventsAndTimeoutsComplete :
    (∃ f, profileP (faulted []) = false ∧ faultNamed (faulted []) (BitVec.ofNat 16 (4 + 2 * 4096)) = some (4, f)
      ∧ getFault (faulted []) 4 = some f ∧ f.recorded = true ∧ quiet (retryFault (faulted []) 4 f) (some f.ctx) = true
      ∧ (∀ m ∈ (faulted []).tr.misses, m.stopped = none))
    ∧ (let s := { up with tr := { up.tr with faults := [(4, some ⟨5, 1, 4096, .read, 0x41, 0, 2, false, .nobody, []⟩)] } };
      (getFault s 4).any (fun f => !f.recorded) = true)
    ∧ (let s := setBuf (faulted []) 3 [⟨line0, [], 1, 0, 5, false, false, false, false⟩]; ∃ f, getFault s 4 = some f
      ∧ quiet (retryFault s 4 f) (some f.ctx) = false)
    ∧ up.tr.frTail = up.tr.frHead
    ∧ (let s := { up with wall := 1000 * wallUnit - 1, tr := { up.tr with frTail := 1, lastSignal := some 0 } };
      s.tr.lastSignal = some 0 ∧ s.wall < 1000 * wallUnit + 0)
    ∧ (let s := { up with wall := 1000 * wallUnit, tr := { up.tr with frTail := 1, lastSignal := some 0 } };
      s.tr.frTail ≠ s.tr.frHead ∧ ∀ t0 ∈ s.tr.lastSignal, 1000 * wallUnit + t0 ≤ s.wall)
    ∧ (let r : HostReq := ⟨1, .cacheWrite 0 [] 0, 5, .command 0 7⟩; let s := { up with hl := { up.hl with hostReqs := [r] } };
      s.hl.hostReqs.find? (fun q => q.tag == 1) = some r ∧ isAccess r.kind = true ∧ bitOf s.hl.aerSeverity 14 = false)
    ∧ (let r : HostReq := ⟨2, .walk 5 1, 5, .nobody⟩; let p := profile true [miss false]; let s := { p with hl := { p.hl with hostReqs := [r] } };
      s.hl.hostReqs.find? (fun q => q.tag == 2) = some r ∧ s.tr.misses.findIdx? (fun x => x.ctx == 5 && x.va / 4096 == 1) = some 0
      ∧ s.tr.misses[0]? = some (miss false) ∧ bitOf s.hl.aerSeverity 14 = false) :=
  ⟨⟨_, rfl, rfl, rfl, rfl, by decide, by decide⟩, by decide, ⟨_, rfl, by decide⟩, by decide, by decide +kernel, by decide +kernel, by decide, by decide⟩

theorem witness_LinkTrainingAndPowerStates :
    hostUp up = true ∧ (let s := { up with hl := { up.hl with ptmControl := 1 } }; bitOf s.hl.ptmControl 0 = true) ∧ bitOf up.hl.ptmControl 0 = false
    ∧ (let s := { up with boot := { up.boot with step := 6 } }; grangerUp s = true ∧ 6 ≤ s.boot.step.toNat ∧ s.boot.step ≠ 15)
    ∧ up.hl.gated = false ∧ (runningSlot up = none ∧ commandsBusy up = false)
    ∧ ((runningSlot (withSlot 2 (loaded .running) up)).isSome = true)
    ∧ (let s := { up with hl := { up.hl with d3hot := true, cfg := 0x08000000, pmcsr := 0x100 } };
      s.hl.d3hot = true ∧ bitOf s.hl.cfg 27 = true ∧ bitOf s.hl.pmcsr 8 = true) ∧ bitOf up.hl.cfg 27 = false := by
  decide

theorem witness_FreezeAndResets :
    grangerUp up = true ∧ (∀ m ∈ up.tr.misses, m.walking = true)
    ∧ (let s := { up with hl := { up.hl with linkUp := false } }; grangerUp s = true ∧ s.hl.d3hot = false ∧ s.hl.linkUp = false) := by
  decide

/-! ## Witnesses: coherence -/

def rds0 : HomeReq := ⟨0, line0, .rds, { noInfo with ctx := 5 }, [], 0, noArgs⟩

/-- `up` with Rick 0's Bin holding line 0, its directory entry naming it. -/
def held (c : Coh) : State :=
  dirPut (agentPlace up 0 line0 c (cleanLine (List.replicate 64 1)) 5 .demand) line0 { state := .excl, owner := 0 }

/-- A state with entries in the list of fills. -/
def filled (s : State) (fs : List Fill) : State := { s with cache := { s.cache with fills := fs } }

/-- A fill of a line. -/
def fillOf (c n : Nat) (rs : List HomeReq) : Fill := { cache := c, line := ⟨0, n⟩, waiters := rs, how := .demand, ctx := 5, asked := true }

/-- `up` with every way of line 0's directory set BUSY with another line. -/
def crowded : State :=
  setDirSet up line0 ((List.range 16).map (fun i => { ({ state := .excl, owner := 1, busy := true } : DirEntry) with line := 2 ^ 16 * (i + 1) }))

theorem witness_CoherentRequestsAreServed :
    asks (.rds 0 line0 { noInfo with ctx := 5 }) = some rds0
    ∧ (∃ st row, coherentCheck up 0 ⟨0, 2 ^ 15 * 2⟩ 5 .read = .refuse st row)
    ∧ (let s := filled up [fillOf 0 0 []]; coherentCheck s 0 line0 5 .read = .ok ∧ joinsFill s rds0 = true)
    ∧ (let s := filled up ((List.range 64).map (fun n => fillOf 0 (n + 1) [])); coherentCheck s 0 line0 5 .read = .ok ∧ joinsFill s rds0 = false
      ∧ takesEntry s rds0 = true ∧ (fillAt s 0 line0).isNone = true ∧ 64 ≤ fillsOf s 0 line0)
    ∧ (let s := filled up ((List.range 63).map (fun n => fillOf 0 (n + 1) [])); ¬ 64 ≤ fillsOf s 0 line0)
    ∧ (let s := dirPut up line0 { state := .excl, owner := 1, busy := true }; coherentCheck s 0 line0 5 .read = .ok ∧ joinsFill s rds0 = false
      ∧ turnedAway (checkHome (openAgentFill s rds0) line0) 0 line0 false = true)
    ∧ (let r : HomeReq := { rds0 with agent := 1, req := .upg }; let u := checkHome (openAgentFill (held .modified) r) line0;
      coherentCheck (held .modified) 1 line0 5 (reqAccess .upg) = .ok ∧ turnedAway u 1 line0 false = false ∧ isHolder u (dirGet u line0) 1 line0 = false)
    ∧ (let u := checkHome (openAgentFill crowded rds0) line0; turnedAway u 0 line0 false = false ∧ (roomFor u rds0).isNone = true) := by
  refine ⟨rfl, ⟨_, _, rfl⟩, by decide +kernel, by decide +kernel, by decide +kernel, by decide +kernel, by decide +kernel, by decide +kernel⟩

theorem witness_AdmittedRequestsComplete :
    (let u := checkHome (openAgentFill (filled up [fillOf 12 0 [{ rds0 with agent := 1 }]]) rds0) line0; turnedAway u 0 line0 false = false
      ∧ (match roomFor u rds0 with
        | some w => (frontNote (nackClear w rds0) rds0).cache.fills.any (fun f => f.cache == 12 && f.line == line0)
        | none => false) = true)
    ∧ (let r : HomeReq := { rds0 with agent := 1 }; let u := checkHome (openAgentFill (held .modified) r) line0; turnedAway u 1 line0 false = false
      ∧ (match roomFor u r with
        | some w => let v := frontNote (nackClear w r) r; snoopsFor v (dirGet v line0) r == [(0, .fwdS)] && v.cache.fills.all (fun f => f.cache != 12)
        | none => false) = true)
    ∧ (let u := checkHome (openAgentFill up rds0) line0; turnedAway u 0 line0 false = false
      ∧ (match roomFor u rds0 with
        | some w => let v := frontNote (nackClear w rds0) rds0; (snoopsFor v (dirGet v line0) rds0).isEmpty && missesHome v rds0 none
          && v.cache.fills.all (fun f => f.cache != 12) && keepsCopies v 0 && decide ((dirGet v line0).state = .uncached)
        | none => false) = true)
    ∧ (let r : HomeReq := { rds0 with req := .rdo }; let u := checkHome (openAgentFill (held .modified) r) line0; turnedAway u 0 line0 false = false
      ∧ (match roomFor u r with
        | some w => let v := frontNote (nackClear w r) r; (snoopsFor v (dirGet v line0) r).isEmpty && !missesHome v r none
        | none => false) = true) := by
  decide +kernel

theorem witness_SnoopsActAtTheirHolders :
    (let s := held .modified; let q := { s with cache := { s.cache with snoops := [⟨0, line0, .fwdS, false, none, false⟩] } };
      snoops (.fwdS 0 line0) = some (.fwdS, 0, line0)
      ∧ q.cache.snoops.find? (fun x => x.holder == 0 && x.line == line0 && x.kind == .fwdS && !x.done) = some ⟨0, line0, .fwdS, false, none, false⟩
      ∧ (agentCopy (checkSet q 0 line0) 0 line0).isSome = true)
    ∧ (let q := { up with cache := { up.cache with snoops := [⟨0, line0, .inv, false, none, false⟩] } };
      snoops (.inv 0 line0) = some (.inv, 0, line0) ∧ (agentCopy (checkSet q 0 line0) 0 line0).isNone = true)
    ∧ up.cache.snoops = [] := by
  decide +kernel

theorem witness_CoherenceEventsComplete :
    (let x : Snoop := ⟨0, line0, .fwdS, true, none, false⟩; let t : Txn := ⟨rds0, [0], none, false, false, false⟩;
      let s := { up with cache := { up.cache with snoops := [x], txns := [t] } };
      s.cache.snoops.find? (fun x => x.holder == 0 && x.line == line0 && x.done) = some x
      ∧ s.cache.txns.find? (fun t => t.req.line == line0) = some t ∧ t.awaiting.erase 0 = [] ∧ missesHome s rds0 none = true
      ∧ missesHome s rds0 (some zeroLine) = false)
    ∧ (let t : Txn := ⟨rds0, [0, 1], none, false, false, false⟩; t.awaiting.erase 0 ≠ [])
    ∧ (let n : Nack := ⟨rds0, 1, 0⟩; let s := { up with cache := { up.cache with nacks := [n] } };
      s.cache.nacks.find? (fun n => n.req.agent == 0 && n.req.line == line0) = some n)
    ∧ (let f := fillOf 12 0 [rds0]; let s := filled up [f];
      s.cache.fills.find? (fun f => f.cache == 12 && f.line == line0) = some f ∧ fillActive s f = true ∧ canPlace s 12 line0 = true
      ∧ cacheFind s 12 line0 = none ∧ canPlace { s with boot := { s.boot with poolAbsent := true } } 12 line0 = false)
    ∧ (let s := filled (granaryInsert up line0 zeroLine false false 2) [fillOf 12 0 [rds0]]; (cacheFind s 12 line0).isSome = true
      ∧ canPlace s 12 line0 = true)
    ∧ (let f : Fill := { fillOf 0 0 [] with granted := some (.shared, zeroLine) }; let s := filled up [f];
      s.cache.fills.find? (fun f => f.cache == 0 && f.line == line0) = some f ∧ fillActive s f = true ∧ canPlace (filled s []) 0 line0 = true)
    ∧ (let f := fillOf 0 0 []; let s := filled up [f]; fillComes s f = true ∧ f.granted = none ∧ coherentCheck (filled s []) 0 line0 5 .read = .ok)
    ∧ ((cacheFind (checkHome (checkSet (held .modified) 0 line0) line0) 0 line0).any (fun w => w.coh == .modified) = true)
    ∧ (let e : SbEntry := ⟨line0, List.replicate 64 0, 1, 0, 5, false, false, false, false⟩; let s := setBuf up 3 [e, { e with release := true }];
      (getBuf s 3)[0]? = some e ∧ canSend s e = true ∧ mayPerform (getBuf s 3) 0 = true ∧ mayPerform (getBuf s 3) 1 = false) := by
  decide +kernel

theorem witness_NearAtomicsUpdateTheLine :
    (let s := held .exclusive; keepsCopies s 0 = true ∧ coherentCheck s 0 line0 5 .atomic = .ok ∧ line0.space ≠ 1
      ∧ (getWays s 0 line0).all (fun v => wayFind 0 v == .good) = true ∧ fillAt s 0 line0 = none
      ∧ (cacheFind s 0 line0).any (fun w => w.coh == .exclusive && w.ctx == 5) = true)
    ∧ (lineSettle zeroLine = zeroLine ∧ atomOk ⟨4, 3, 48, [(1, 0)]⟩ = true ∧ wordsPoisoned zeroLine 48 (sizeBytes 3) = false)
    ∧ (lineSettle poisonLine = poisonLine ∧ wordsPoisoned poisonLine 48 (sizeBytes 3) = true) := by
  decide +kernel

theorem witness_CoherenceLeavesTheRest : (∃ t, exec (.rds 0 line0 noInfo) up = .next t) ∧ (asks (.rds 0 line0 noInfo)).isSome = true :=
  ⟨⟨_, rfl⟩, rfl⟩

/-! ## Witnesses: stacked memory, Tillers and their units -/

/-- A run in slot 2 of a chip alone in its Crop, at tick 10. -/
def running : State := { member true (withSlot 2 { loaded .running with run := some ⟨0, 7, 5, false, 0⟩ } up) with tick := 10 }

theorem witness_StackedMemoryCommandsComplete :
    (grangerUp up = true ∧ poolUp up = true ∧ bitOf up.mem.gleanCfg 8 = true ∧ look 0 up.mem.gleanPos 19 + 64 < stackBytes up)
    ∧ (let s := { up with mem := { up.mem with corr := [⟨0, 1, 0⟩] } }; s.mem.corr[0]? = some ⟨0, 1, 0⟩)
    ∧ ((runningSlot running).isSome = true ∧ running.crop.member = true ∧ running.crop.parentLink = 0xFF)
    ∧ (let s := setPort up 19 { getPort up 19 with up := true }; alive s = true ∧ (getPort s 19).up = true) := by
  decide

/-- `running` with Tiller n at the one word of its program. -/
def tilling (n : Nat) (w : Nat) (f : Tiller → Tiller) : State :=
  setTiller running n (f (fillStores { mode := .run } [BitVec.ofNat 64 w] [List.replicate 128 0]))

/-- A Tiller whose program word has one or two flipped check bits. -/
def struck (w flips : Nat) : State :=
  tilling 0 w (fun t => { t with progChk := t.progChk.map (fun c => c ^^^ BitVec.ofNat 8 flips) })

def genOf (fmt run : Nat) : List Byte := toLE 16 0 ++ [BitVec.ofNat 8 fmt, 0, 0, 0] ++ toLE 4 0 ++ toLE 4 run ++ List.replicate 76 0

theorem witness_TillerInstructions :
    (let s := struck (2 ^ 58) 1; atOp s 0 0x01 = true ∧ eccBad (progStored (getTiller s 0)) = false ∧ eccFixed (progStored (getTiller s 0)) = true)
    ∧ (let s := struck (2 ^ 58) 3; atOp s 0 0x01 = true ∧ eccBad (progStored (getTiller s 0)) = true)
    ∧ eccBad (progStored (getTiller (tilling 52 (16 * 2 ^ 58) id) 52)) = false
    ∧ (atOp (tilling 52 0 id) 52 0x00 = true ∧ issuedPending (tilling 52 0 id) 52 = false) ∧ atOp (tilling 0 (2 ^ 58) id) 0 0x01 = true
    ∧ atOp (tilling 0 (2 * 2 ^ 58) id) 0 0x02 = true
    ∧ (let s := tilling 0 (3 * 2 ^ 58) (fun t => { t with loops := [(2, 1)] }); atOp s 0 0x03 = true ∧ (getTiller s 0).loops = (2, 1) :: [])
    ∧ (let s := tilling 0 (3 * 2 ^ 58) (fun t => { t with loops := [(1, 1)] }); atOp s 0 0x03 = true ∧ (getTiller s 0).loops = (1, 1) :: [])
    ∧ (let s := tilling 0 (4 * 2 ^ 58) id; atOp s 0 0x04 = true ∧ (descStored (getTiller s 0) 0).any eccBad = false)
    ∧ (let s := tilling 0 (4 * 2 ^ 58) (fun t => { t with descChk := [[3]] }); (descStored (getTiller s 0) 0).any eccBad = true)
    ∧ (let s := tilling 0 (5 * 2 ^ 58) (fun t => { t with ags := [(0, some { desc := [] })] });
      atOp s 0 0x05 = true ∧ look none (getTiller s 0).ags 0 = some { desc := [] })
    ∧ atOp (tilling 0 (6 * 2 ^ 58) id) 0 0x06 = true
    ∧ (let s := tilling 0 (7 * 2 ^ 58 + 11) id; atOp s 0 0x07 = true ∧ epochTick s < 11)
    ∧ (let s := tilling 0 (7 * 2 ^ 58 + 10) id; atOp s 0 0x07 = true ∧ 10 ≤ epochTick s)
    ∧ (let s := tilling 0 0 (fun t => { t with mode := .waitTick 10 }); (getTiller s 0).mode = .waitTick 10 ∧ 10 ≤ epochTick s)
    ∧ (let s := tilling 0 0 (fun t => { t with mode := .waitTick 11 }); epochTick s < 11)
    ∧ (let s := tilling 0 (8 * 2 ^ 58 + 52 * 2 ^ 52 + 1) id; atOp s 0 0x08 = true ∧ field (tillerWord (getTiller s 0)) 57 52 < 53)
    ∧ (let s := tilling 0 (9 * 2 ^ 58 + 2) (fun t => { t with sc := [(0, 2)] }); atOp s 0 0x09 = true ∧ 2 ≤ look 0 (getTiller s 0).sc 0)
    ∧ (let s := tilling 0 (9 * 2 ^ 58 + 2) (fun t => { t with sc := [(0, 1)], mode := .waitSignal });
      (getTiller s 0).mode = .waitSignal ∧ ¬ 2 ≤ look 0 (getTiller s 0).sc 0)
    ∧ atOp (tilling 0 (10 * 2 ^ 58) id) 0 0x0A = true ∧ (atOp (tilling 0 (11 * 2 ^ 58) id) 0 0x0B = true ∧ issuedPending (tilling 0 (11 * 2 ^ 58) id) 0 = false) := by
  decide +kernel

theorem witness_Issue :
    (let s := tilling 0 (16 * 2 ^ 58 + 2 * 2 ^ 53) id; atOp s 0 0x10 = true ∧ eccBad (progStored (getTiller s 0)) = false
      ∧ (issueReads 0 (getTiller s 0)).any eccBad = false ∧ queueRoom s (unitOf 0 (tillerWord (getTiller s 0))) = true)
    ∧ (let s := setUnit (tilling 0 (16 * 2 ^ 58) (fun t => { t with mode := .waitQueue })) 0 { queue := List.replicate 4 ⟨0, 0, 0, 0, []⟩ };
      (getTiller s 0).mode = .waitQueue ∧ queueRoom s (unitOf 0 (tillerWord (getTiller s 0))) = false)
    ∧ (let s := tilling 16 (16 * 2 ^ 58) (fun t => { t with descChk := [[3]] }); atOp s 16 0x10 = true ∧ eccBad (progStored (getTiller s 16)) = false
      ∧ (issueReads 16 (getTiller s 16)).any eccBad = true) := by
  decide +kernel

theorem witness_SkippingIsRepeatedStepping :
    (let g : Agen := { desc := List.replicate 40 0 ++ toLE 4 2, p0 := 1 }; g.p0 < agCount g 0 ∧ g.p1 < agCount g 1 ∧ g.p2 < agCount g 2 ∧ g.p3 < agCount g 3) := by
  decide

def devLines : List Byte := toLE 8 (2 ^ 40 * 3) ++ (genOf 12 64).drop 8

/-- `running` with a sub-operation of SUB code `sub` and fields `w` at the head of unit u, issued by Tiller t with its generators. -/
def issued (u t sub w : Nat) (gs : List (List Byte)) : State :=
  let s := setTiller running t (fillStores { mode := .run } [] [List.replicate 128 0])
  setUnit s u { queue := [⟨t, BitVec.ofNat 64 (16 * 2 ^ 58 + sub * 2 ^ 53 + w), 0, 8, gs.map agLoad⟩] }

def opOfUnit (s : State) (u : Nat) : SubOp := (getUnit s u).queue.getD 0 ⟨0, 0, 0, 0, []⟩

def region0 : Region :=
  { rbase := 0, acc := 10, depth := 1, ecount := 512, lo := 0, nblk := 1, sigt := 63, sigc := 0, finish := true, pushes := 0, finished := false,
    flags := 0, step := 0, voids := [] }

theorem planRead_congr {s : State} {u : Nat} {o : SubOp} {src : Nat} {rs qs : List (Nat × Nat)} (hd : rangeDpas rs = rangeDpas qs)
    (hp : ∀ m, mapPoison m rs = mapPoison m qs) : planRead s u o src rs = planRead s u o src qs := by
  simp only [planRead, hd, hp]

theorem mapPoison_replicate (m : LineMap) (x : Nat × Nat) (n : Nat) : mapPoison m (List.replicate (n + 1) x) = mapPoison m [x] := by
  rw [mapPoison, mapPoison, List.findSome?_replicate, if_neg (Nat.succ_ne_zero n), List.findSome?_cons]
  split <;> simp_all only [List.findSome?_nil]

/-- The runs of a tile whose generator never moves: one line. -/
theorem tile_ranges : (let o := opOfUnit (issued 0 0 0 0 [devLines]) 0;
    ((List.range 256).map (agRun (opAg o 0))).flatMap (fun x => runRange x :: runScales x) = List.replicate 256 (2 ^ 40 * 3, 64)) := by
  decide +kernel

theorem tile_lines : rangeDpas (List.replicate 256 (2 ^ 40 * 3, 64)) = rangeDpas [(2 ^ 40 * 3, 64)] := by decide +kernel

theorem witness_LoadTile :
    (let s := issued 0 0 0 0 [devLines]; let o := opOfUnit s 0; let g := opAg o 0;
      headOp s 0 .feed 0 = some o
      ∧ (planRead s 0 o srcPoisonUse (((List.range 256).map (agRun g)).flatMap (fun x => runRange x :: runScales x))).1.isSome = true) := by
  refine ⟨by decide +kernel, ?_⟩
  have h := tile_ranges
  simp only at h
  rw [h, planRead_congr tile_lines (fun m => mapPoison_replicate m _ 255)]
  decide +kernel

theorem empty_tile_is_sound : tileSound {} = true := by
  have h : ∀ c : Nat, columnParity ({} : Tile) c = columnParity ({} : Tile) 0 := fun c => rfl
  have h0 : columnParity ({} : Tile) 0 = List.replicate 256 false := by decide +kernel
  simp [tileSound, h, h0]

/-- `running` under ORDER_V1. -/
def sequential (s : State) : State := setSlot s 2 { getSlot s 2 with orderV1 := true }

/-- Region descriptor entry of range lo to lo + nblk − 1: INT32, DEPTH 1, one element. -/
def regionOf (lo nblk : Nat) : List Byte := toLE 2 0 ++ [10, 1] ++ toLE 4 1 ++ toLE 2 lo ++ toLE 2 (nblk - 1) ++ [63, 0x10] ++ List.replicate 114 0

def described (s : State) (t : Nat) (d : List Byte) : State := setTiller s t (fillStores (getTiller s t) [] [d])

theorem witness_SheafSubops :
    (let s := issued 0 0 1 0 [devLines]; let s := setSheaf s 0 { getSheaf s 0 with loads := 1, regions := [region0] };
      let o := opOfUnit s 0; let v := (planRead s 0 o srcPoisonUse ((passRuns o).flatMap (fun x => runRange x :: runScales x))).2;
      passOps s 0 = some [(0, o)] ∧ passMay s (0, o) = true
      ∧ (planRead s 0 o srcPoisonUse ((passRuns o).flatMap (fun x => runRange x :: runScales x))).1.isSome = true
      ∧ (descStored (getTiller v o.tiller) 0).any eccBad = false ∧ (storeWords (getSheaf v 0).store (passReads v (0, o))).any eccBad = false
      ∧ bufOf (getSheaf v 0) (getSheaf v 0).passes = {} ∧ (passTarget v (0, o)).isSome = true)
    ∧ (let ready (k : Nat) (s : State) := setSheaf s k { getSheaf s k with loads := 1, regions := [region0] };
      let ask (g : List Byte) : SubUnit := { queue := [⟨0, BitVec.ofNat 64 (16 * 2 ^ 58 + 2 ^ 53 + 3 * 2 ^ 12), 0, 8, [agLoad g]⟩] };
      let s := ready 0 (ready 1 (setUnit (setUnit (issued 0 0 1 0 []) 0 (ask devLines)) 1 (ask ((genOf 12 64).set 6 3))));
      (match passOps s 0 with
        | some (p :: q :: rest) => passMay s p && passMay s q && rest.isEmpty && (passRuns q.2).map runAddr != (passRuns p.2).map runAddr
        | _ => false) = true) := by
  decide +kernel

theorem witness_RegionSubops :
    (let s := described (issued 15 15 2 0 []) 15 (regionOf 0 2); let o := opOfUnit s 15; headOp s 15 .feed 2 = some o
      ∧ (descStored (getTiller s o.tiller) 0).any eccBad = false ∧ isChained (runOrder s) (regionFrom (opRegion s o) o.step) = false)
    ∧ (let s := sequential (described (issued 0 0 2 0 []) 0 (regionOf 1 2)); let o := opOfUnit s 0; headOp s 0 .feed 2 = some o
      ∧ isChained (runOrder s) (regionFrom (opRegion s o) o.step) = true ∧ chainFrom s 0 (regionFrom (opRegion s o) o.step) = none)
    ∧ (let s := issued 0 0 3 0 []; headOp s 0 .feed 3 = some (opOfUnit s 0))
    ∧ (let r := { region0 with pushes := 1, ecount := 1 }; let s := setSheaf running 0 { getSheaf running 0 with regions := [r] };
      (getSheaf s 0).regions.find? (fun x => x.rbase == r.rbase) = some r ∧ r.finished = false ∧ r.pushes = r.nblk
      ∧ r.passEnd + finishTime r (runOrder s) + 1 ≤ s.tick
      ∧ (storeWords (getSheaf s 0).store (regionEntries (runOrder s) r)).any eccBad = false) := by
  decide +kernel

/-- The first bytes of stacked memory, with their check bits. -/
def checkedRam (bs : List Byte) : Ram :=
  (List.range (ceilDiv bs.length 8)).foldl (fun r i => ramPutWord r i (fieldLE bs (8 * i) 8, checkBits (fieldLE bs (8 * i) 8))) {}

/-- `issued` with a Loft of two ways that context 5 owns, for the stacks of a reduction of one INT32 element over leaves 0 to 1. -/
def reducing (u t sub w : Nat) (gs : List (List Byte)) (rd : Reduction) (mem : List Byte) : State :=
  let s := issued u t sub w gs
  { s with cache := { s.cache with loftWays := 2, loftOwner := [(0, grantAll)] }, reds := [rd], mem := { s.mem with ram := checkedRam mem } }

def red0 : Reduction := ⟨0, 0, 0, 0, 1, 10, 0, 4, 2 * 2 ^ 52, 0, 2, 0, 0⟩

def dev : List Byte := toLE 8 (2 ^ 40 * 3) ++ (genOf 10 1).drop 8

theorem witness_ChainedRegion :
    (let s := sequential (described (reducing 0 0 2 0 [] { red0 with next := 1 } []) 0 (regionOf 1 2)); let o := opOfUnit s 0;
      headOp s 0 .feed 2 = some o ∧ chainFrom s 0 (regionFrom (opRegion s o) o.step) = some { red0 with next := 1 }
      ∧ (planRead s 0 o srcNodeSet (workRanges { red0 with next := 1 } true)).1.isSome = true) := by
  decide +kernel

theorem witness_ReductionSubops :
    (let s := reducing 16 16 0 0 [dev] red0 (headBytes ⟨0, 0, 1, 0, 1, 10, 0, 0⟩); let o := opOfUnit s 16; let a := runAddr (opAg o 0) % 2 ^ 56;
      headOp s 16 .thresher 0 = some o ∧ (descStored (getTiller s o.tiller) 0).any eccBad = false ∧ dSrc (opAg o 0).desc ≠ 1 ∧ opReduction s o = red0
      ∧ (match planRead s 16 o srcNodeSet [(a, 32)] with
        | (some m, v) => headOk red0 (plannedEnds v a 0) (parseHead (mapBytes m a 32)) && !redV1 v red0
          && (match planRead v 16 o srcNodeSet [(a + 32, 4)] with
            | (some m1, v1) => (planWrite v1 16 o (stackWrites red0 (pushAll m1 red0 false false (fun _ => setNodes false 0 1 [0])).1)).1.isSome
            | _ => false)
        | _ => false) = true)
    ∧ headOk red0 none ⟨0, 0, 3, 0, 1, 10, 0, 0⟩ = false ∧ headOk red0 (some [1]) ⟨0, 0, 2, 0, 1, 10, 0, 0⟩ = false
    ∧ (let s := reducing 16 16 0 0 [(genOf 10 1).set 19 1] red0 [];
      let x : Region := { region0 with ecount := 1, pushes := 1, finished := true, finish := false };
      let s := setSheaf s 0 { getSheaf s 0 with regions := [x] };
      let o := opOfUnit s 16;
      headOp s 16 .thresher 0 = some o ∧ dSrc (opAg o 0).desc = 1 ∧ runAddr (opAg o 0) = 0
      ∧ (getSheaf s 0).regions.find? (fun x => 1024 * x.rbase == runAddr (opAg o 0) * accBytes x.acc && x.finished && !x.finish) = some x
      ∧ headOk red0 (some [1]) ⟨0, 0, 1, 0, 1, 10, 0, 0⟩ = true ∧ (storeWords (getSheaf s 0).store (regionEntries false x)).any eccBad = false
      ∧ redV1 s red0 = false
      ∧ (match planRead s 16 o srcNodeSet (workRanges red0 false) with
        | (some m, v) => (planWrite v 16 o (stackWrites red0 (pushAll m red0 false false (fun _ => setNodes false 0 1 [0])).1)).1.isSome
        | _ => false) = true)
    ∧ (let s := reducing 16 16 1 0 [dev] red0 []; let o := opOfUnit s 16;
      headOp s 16 .thresher 1 = some o
      ∧ (match planRead s 16 o srcNodeSet (runRange (opAg o 0) :: workRanges red0 false) with
        | (some m, v) => (planWrite v 16 o (stackWrites red0 (pushAll m red0 false false (fun _ => [⟨0, 0, 0⟩])).1)).1.isSome
        | _ => false) = true)
    ∧ (let s := reducing 16 16 2 0 [dev] { red0 with next := 2 } []; let o := opOfUnit s 16;
      headOp s 16 .thresher 2 = some o ∧ (planRead s 16 o srcNodeSet (workRanges { red0 with next := 2 } false)).1.isSome = true
      ∧ (planWrite s 16 o [(runAddr (opAg o 0) % 2 ^ 56, pad64 (headBytes ⟨0, 0, 2, 0, 1, 10, 0, 0⟩))]).1.isSome = true)
    ∧ (let s := reducing 16 16 3 0 [dev] { red0 with next := 2 } []; let o := opOfUnit s 16;
      headOp s 16 .thresher 3 = some o ∧ (planRead s 16 o srcNodeSet (workRanges { red0 with next := 2 } false)).1.isSome = true
      ∧ (planWrite s 16 o [(runAddr (opAg o 0) % 2 ^ 56, [0, 0, 0, 0])]).1.isSome = true)
    ∧ (let s := reducing 20 16 4 0 [dev, dev] red0 []; let o := opOfUnit s 20;
      headOp s 20 .thresher 4 = some o ∧ winOperands (field o.word 42 37) = 1 ∧ winEntries s 0 o = []
      ∧ (planRead s 20 o srcPoisonUse [runRange (opAg o 0)]).1.isSome = true ∧ (planWrite s 20 o [(2 ^ 40 * 3, [0, 0, 0, 0])]).1.isSome = true) := by
  decide +kernel

theorem witness_MovingSubops :
    (let s := issued 48 44 0 0 [devLines]; let o := opOfUnit s 48;
      headOp s 48 .wain 0 = some o ∧ sendTurn s 23 false (xsendFor s 23) = true
      ∧ (planRead s 48 o srcWainXfer ((moveLines (opAg o 0) 1).map (fun d => (d, 64)))).1.isSome = true)
    ∧ (let s := issued 24 20 0 0 [devLines]; let o := opOfUnit s 24;
      headOp s 24 .crop 0 = some o ∧ sendTurn s 0 true (headOp s 25 .wain 0).isSome = true
      ∧ (planRead s 24 o srcWainXfer ((moveLines (opAg o 0) 1).map (fun d => (d, 64)))).1.isSome = true)
    ∧ (let s := issued 25 21 1 0 [devLines]; headOp s 25 .wain 1 = some (opOfUnit s 25) ∧ (getLink s 0).rx0 = [])
    ∧ (let s := issued 24 20 1 0 [devLines]; headOp s 24 .crop 1 = some (opOfUnit s 24) ∧ s.wain.links.all (fun p => p.2.rx0.isEmpty) = true)
    ∧ (let s := setLink (issued 48 44 0 0 [devLines]) 23 { getLink up 23 with tx0 := [[]] }; sendTurn s 23 false (xsendFor s 23) = false)
    ∧ (let o : SubOp := ⟨21, BitVec.ofNat 64 (16 * 2 ^ 58 + 2 ^ 53 + 2 ^ 20), 0, 8, [agLoad devLines]⟩;
      let s := setUnit (setLink running 0 { getLink running 0 with rx0 := [List.replicate 64 1] }) 25 { begun := [⟨o, none, 9, 0⟩] };
      headOp s 25 .wain 1 = none ∧ openReceive s 25 0 false = some ⟨o, none, 9, 0⟩ ∧ receiveTurn s 0 false = true
      ∧ (getLink s 0).rx0 = [List.replicate 64 1] ∧ ((moveLines (opAg o 0) 2).drop 0).length = 2
      ∧ (planWrite s 25 o [(2 ^ 40 * 3, List.replicate 64 1)]).1.isSome = true)
    ∧ (let s := issued 56 52 0 0 [devLines, devLines]; let o := opOfUnit s 56;
      headOp s 56 .copy 0 = some o ∧ (planRead s 56 o srcPoisonUse (bothPlanes (opAg o 0))).1.isSome = true
      ∧ (planWrite s 56 o [(2 ^ 40 * 3, List.replicate 64 1)]).1.isSome = true)
    ∧ (let s := issued 49 45 2 0 [devLines]; let o := opOfUnit s 49;
      headOp s 49 .copy 2 = some o ∧ (planWrite s 49 o ((bothPlanes (opAg o 0)).map (fun r => (r.1, List.replicate r.2 0)))).1.isSome = true)
    ∧ (let s := issued 49 45 1 0 [devLines]; let o := opOfUnit s 49;
      headOp s 49 .copy 1 = some o ∧ (planLines s (unitIssuer s 49 o.tiller) none .read (rangeDpas [runRange (opAg o 0)])).2.1 = .all)
    ∧ (let b : Begun := ⟨⟨0, BitVec.ofNat 64 (52 * 2 ^ 47), 0, 8, []⟩, some 10, 10, 0⟩; let s := setUnit running 0 { begun := [b] };
      (getUnit s 0).begun.find? (isDone s) = some b ∧ dtOf b.op.word < 53)
    ∧ (let b : Begun := ⟨⟨0, BitVec.ofNat 64 (63 * 2 ^ 47), 0, 8, []⟩, some 10, 10, 0⟩; dtOf b.op.word = 63) := by
  decide +kernel

/-! ## Witnesses: the engine port -/

/-- `up` with attachment 0 present, 32 lanes wide. -/
def ported : State := { up with boot := { up.boot with straps := 0x10 } }

/-- A request of group 2 in context 5, 4 bytes wide, its active lanes all at context address 64. -/
def epReq (lanes : Nat) (aop : Nat) (param : List Byte) : EpReq :=
  ⟨0, 1, 2, 5, BitVec.ofNat 64 (2 ^ lanes - 1), 2, 0, BitVec.ofNat 4 aop, false, List.replicate lanes ⟨64, 0, 0⟩, param⟩

def acopyParam : List Byte := toLE 8 0 ++ toLE 8 64 ++ toLE 4 64 ++ List.replicate 44 0

/-- `ported` with a Loft of two ways that context 5 owns. -/
def lofted : State := { ported with cache := { ported.cache with loftWays := 2, loftOwner := [(0, grantAll)] } }

theorem witness_Taken : Taken ported (epReq 1 0 []) none ∧ Taken lofted (epReq 1 0 acopyParam) none :=
  ⟨⟨by decide, by decide, by decide, by decide, by decide, by decide, by decide⟩,
    ⟨by decide, by decide, by decide, by decide, by decide, by decide, by decide⟩⟩

theorem witness_PortRequestsComplete :
    (let r := epReq 1 0 []; let x := epResolve (takenUp ported r none) r .read [(64, 4)]; let s2 := x.2.2;
      ((activeLanes (takenUp ported r none) r).map (fun p => (p.1, splitRange p.2.addr.toNat 4))).flatMap (fun p => p.2) = [(64, 4)]
      ∧ x.2.1 = .all ∧ (getTask s2 (epWho r)).failed = none ∧ epMissing s2 r x.1 = [] ∧ getBuf s2 (sbKey 0 2) = []
      ∧ x.1.all (fun o => !epPoison (epReadLines s2 (fun o => epIssuer s2 r (dpaLine o.dpa)) x.1).1 o.dpa 4) = true)
    ∧ (let r := epReq 1 0 []; let x := epResolve (takenUp ported r none) r .write [(64, 4)];
      x.2.1 = .all ∧ (takeBuf x.2.2 0 2).isSome = true ∧ (activeLanes ported r).length = 1 ∧ x.1.length = 1
      ∧ splitRange 64 4 = [(64, 4)] ∧ getBuf x.2.2 (sbKey 0 2) = [] ∧ (getAtt x.2.2 0).groups.length < 64)
    ∧ (let r := epReq 1 0 []; let x := epResolve (takenUp ported r none) r .atomic [(64, 4)];
      r.aop.toNat ≤ 9 ∧ r.size = 2 ∧ setsOverlap ((laneSets (activeLanes ported r)).map (fun p => p.1)) 4 = false ∧ x.2.1 = .all
      ∧ wideRefused r x.1 = none ∧ x.1.length = 1 ∧ (laneSets (activeLanes ported r)).flatMap (fun p => splitRange p.1 4) = [(64, 4)])
    ∧ (let d := drainBuf (takenUp ported (epReq 0 0 []) none) (sbKey 0 2); groupPending d 0 2 = false)
    ∧ (let s := { ported with hl := { ported.hl with hostReqs := [⟨1, .cacheWrite 0 [] 0, 5, .engineGroup 0 2 0⟩] } };
      let d := drainBuf (takenUp s (epReq 0 0 []) none) (sbKey 0 2); groupPending d 0 2 = true)
    ∧ (let s := setAtt ported 0 { getAtt ported 0 with lost := [2] }; let d := drainBuf (takenUp s (epReq 0 1 []) none) (sbKey 0 2);
      groupPending d 0 2 = false ∧ (getAtt d 0).lost.contains 2 = true)
    ∧ (acopyBad acopyParam = false ∧ loftCheck (takenUp lofted (epReq 0 0 acopyParam) none) 0 5 .atomic = .ok) := by
  decide +kernel

theorem witness_CopyEngines :
    (let j : AcopyJob := ⟨0, 5, 0, 64, 64, 0, none, none⟩; let s := { ported with ep := { ported.ep with copies := [j] } };
      grangerUp s = true ∧ (freeEngines s).head? = some 0 ∧ s.ep.copies = [] ++ j :: [] ∧ j.engine = none)
    ∧ (let j : AcopyJob := ⟨0, 5, 0, 64, 64, 0, some 0, some true⟩; let s := { lofted with ep := { lofted.ep with copies := [j] } };
      s.ep.copies.find? (fun x => x.engine == some 0) = some j ∧ s.hl.hostReqs.any (fun q => q.who == .copyEngine 0) = false
      ∧ loftCheck s j.counter j.context .atomic = .ok) := by
  decide

/-- PARAM of a matrix request on Sheaf 0: INT8 in and out, INT32 accumulators, rows of 64 elements, a stack of one, the weight rows in turn at
address 0 of segments 0 and 8. -/
def gmBytes : List Byte := [0, 12, 10, 12, 0, 0, 63, 0, 0, 0, 1, 1] ++ List.replicate 12 0 ++ toLE 8 (2 ^ 63) ++ List.replicate 32 0

/-- `ported` with Sheaf 0 leased to attachment 0 in context 5, whose segments 0 and 8 are the same. -/
def leased (f : Sheaf → Sheaf) : State :=
  let g : Seg := { valid := true, rd := true, wr := true, base := 2 ^ 40 * 3, limit := 2 ^ 22 - 1 }
  let s := setSheaf ported 0 (f { getSheaf ported 0 with lease := some ⟨0, 5, false, true⟩ })
  { s with tr := { s.tr with segs := [(1, [(0, g), (8, g)])] } }

theorem witness_GmTaken : Taken (leased id) (epReq 0 0 gmBytes) (gmSheaf (epReq 0 0 gmBytes)) :=
  ⟨by decide, by decide, by decide, by decide, by decide, by decide, by decide⟩

/-- Attachment 0's request of tag 1 completes at tick 10. -/
def due10 : State :=
  let s := takenUp (leased id) (epReq 0 0 gmBytes) (some 0)
  setAtt s 0 { getAtt s 0 with outstanding := (getAtt s 0).outstanding.map (fun o => { o with due := some 10 }) }

theorem witness_GmDue :
    (grangerUp due10 = true ∧ attPresent due10 0 = true ∧ epDue due10 (epReq 0 0 gmBytes) = some 10 ∧ due10.tick < 10)
    ∧ (let s := { due10 with tick := 10 }; epDue s (epReq 0 0 gmBytes) = some 10 ∧ 10 ≤ s.tick) := by
  decide

/-- The ranges of the weight rows of `gmBytes`. -/
def gmRanges : List (Nat × Nat) := (List.replicate 128 [(0, 64), (2 ^ 63, 64)]).flatten

theorem gm_rows : (let p := gmParam gmBytes; p.sch = 0 ∧ lanesOf p.lanes = 1
    ∧ (List.range 256).map (fun n => ((p.wbase + n * p.wpitch) % 2 ^ 64, gmRow p)) = gmRanges) := by
  decide +kernel

theorem witness_GmLoad :
    (let s := leased id; let r := epReq 0 0 gmBytes; let p := gmParam gmBytes; let parts : List (Nat × Nat) := [(0, 64), (2 ^ 63, 64)];
      let x := epResolve (takenUp s r (gmSheaf r)) r .read parts; let s2 := x.2.2;
      let m := (parts.zip x.1).map (fun q => (64 * (q.1.1 / 64), mapLine (epReadLines s2 (fun _ => gmIssuer r p) x.1).1 q.2.dpa));
      gmLeased s r p.sheaf = true ∧ p.rsv = false ∧ gmFormatBad p = false ∧ gmLayoutBad p = false ∧ lanesOf p.lanes ≤ fmtLanes p.fmt
      ∧ (getSheaf s 0).gmLoads < (getSheaf s 0).gmPasses + 2 ∧ (gmRanges.flatMap (fun x => splitRange x.1 x.2)).eraseDups = parts
      ∧ x.2.1 = .all ∧ (getTask s2 (epWho r)).failed = none ∧ epMissing s2 r x.1 = [] ∧ mapPoison m gmRanges = none) := by
  decide +kernel

/-- A Sheaf with one tile of empty weight registers for `gmBytes`. -/
def gmReady (h : Sheaf) : Sheaf := { h with gmLoads := 1, buf0 := { fmt := 12, lanes := 2, len := 64 } }

theorem gm_tile_is_sound : tileSound ({ fmt := 12, lanes := 2, len := 64 } : Tile) = true := by
  have h : ∀ c : Nat, columnParity ({ fmt := 12, lanes := 2, len := 64 } : Tile) c = columnParity ({ fmt := 12, lanes := 2, len := 64 } : Tile) 0 := fun c => rfl
  have h0 : columnParity ({ fmt := 12, lanes := 2, len := 64 } : Tile) 0 = List.replicate 256 false := by decide +kernel
  simp [tileSound, h, h0]

/-- The region of 32 elements that one GM_PASS of `gmBytes` has pushed. -/
def gmPushed : Region := { region0 with ecount := 32, pushes := 1 }

theorem witness_GmPass :
    (let s := { leased gmReady with tick := 1000 }; let r := epReq 32 0 gmBytes; let p := gmParam gmBytes;
      let x := epResolve (takenUp s r (gmSheaf r)) r .read [(64, 64)]; let s2 := x.2.2;
      let m := ([((64 : Nat), (64 : Nat))].zip x.1).map (fun q => (64 * (q.1.1 / 64), mapLine (epReadLines s2 (fun _ => gmIssuer r p) x.1).1 q.2.dpa));
      let sh := getSheaf s 0; let t0 := bufOf sh sh.gmPasses;
      gmLeased s r p.sheaf = true ∧ sh.gmPasses < sh.gmLoads ∧ t0 = { fmt := 12, lanes := 2, len := 64 }
      ∧ (passRegion sh p (256 * epWidth s 0 * t0.lanes)).any (fun g => !passBad p t0 g && (pushReads false g).isEmpty) = true
      ∧ epWidth s 0 ≤ (activeLanes s r).length ∧ p.sch = 0 ∧ max sh.portFree (tileReady t0 (pairStep p.fmt t0.fmt)) ≤ s.tick
      ∧ (activeLanes s r).map (fun x => (x.2.addr.toNat, gmRow p)) = List.replicate 32 (64, 64)
      ∧ ((List.replicate 32 ((64, 64) : Nat × Nat)).flatMap (fun x => splitRange x.1 x.2)).eraseDups = [(64, 64)]
      ∧ x.2.1 = .all ∧ (getTask s2 (epWho r)).failed = none ∧ epMissing s2 r x.1 = [] ∧ mapPoison m [(64, 64)] = none) := by
  decide +kernel

theorem witness_MatrixStoresClose :
    (let g := gmPushed;
      let s := { leased (fun h => { h with portRegion := some g }) with tick := 1000 }; let r := epReq 32 0 gmBytes; let p := gmParam gmBytes; let sh := getSheaf s 0;
      let words := storeWords sh.store (regionEntries false g);
      let u := drainBuf (entryNote (takenUp s r (gmSheaf r)) p.sheaf words) (sbKey r.att r.group);
      let rows := (activeLanes s r).map (fun x => (x.2.addr.toNat, (storeRow p g (fun e => (((List.range 32).map (portFinish sh.store g)).getD e (0, 0)).1) 1 x.1 0).1));
      let x := epResolve u r .write (rows.flatMap (fun w => splitRange w.1 w.2.length));
      gmLeased s r p.sheaf = true ∧ p.rsv = false ∧ sh.portRegion = some g ∧ g.rbase = p.rbase ∧ schemeOk p.out 0 = true ∧ p.rnd ≠ 3
      ∧ epWidth s 0 ≤ (activeLanes s r).length ∧ g.passEnd + finishTime g false + 1 ≤ s.tick ∧ words.any eccBad = false
      ∧ rows ≠ [] ∧ x.2.1 = .all ∧ ∀ o ∈ x.1, isRemote x.2.2 o.dpa = false)
    ∧ (let g : Region := { gmPushed with voids := [0] }; let r := { epReq 1 0 gmBytes with mok := true };
      let s := leased (fun h => { h with portRegion := some g });
      (activeLanes s r).filter (fun x => !g.voids.contains x.1) = [] ∧ r.mok = true ∧ (getSheaf s 0).portRegion = some g) := by
  decide +kernel

/-! ## Witnesses: Crops and barriers -/

def runReq : RunReq := ⟨0, 7, 5, false, 0⟩

/-- A chip with a formation under way, its member link 0 UP. -/
def forming (f : Forming) : State :=
  let s := member false up
  setForming { s with crop := { s.crop with member := false, parentLink := 0 } } { f with active := true, cropId := 9, req := some runReq }

def peerJoin (root : Bool) : JoinMsg := ⟨1, 2, root, 0, 0, 0, 0, false, 2, [3, 2], [⟨0, 3, 0, 200⟩], 1, true, true, false⟩
def ownJoin : JoinMsg := ⟨0, 3, false, 0, 0, 0, 0, false, 2, [3, 2], [⟨0, 2, 0, 200⟩], 1, true, true, false⟩
def ident0 : IdentMsg := ⟨4, 9, 0, 0, 0, 0, false, 0⟩

/-- Slot 2 runs, on a root or a member below link 0. -/
def runs (root : Bool) : State := member root (withSlot 2 { loaded .running with run := some runReq } up)

/-- A host access of Tiller 1 is under way. -/
def busyHost (s : State) : State := { s with hl := { s.hl with hostReqs := [⟨1, .cacheWrite 0 [] 0, 5, .tiller 1⟩] } }

theorem witness_FormationCompletes :
    (let s := member true up; (getLink s 0).state = .up ∧ (getForming s).active = false ∧ s.crop.phase ≠ .resettle
      ∧ (getLink s 0).rtSamples.length < 16)
    ∧ (let s := setLink (member true up) 0 { getLink (member true up) 0 with rtSamples := List.replicate 16 20 };
      16 ≤ (getLink s 0).rtSamples.length ∧ ¬ (getLink s 0).rtSamples.length = 15)
    ∧ (let s := setLink (member true up) 0 { getLink (member true up) 0 with rtSamples := List.replicate 15 20 };
      (getLink s 0).rtSamples.length = 15)
    ∧ (let s := forming {}; (getLink s 0).state = .up ∧ (getForming s).active = true ∧ (getForming s).further = false
      ∧ ident0.cropId = s.crop.cropId ∧ ownTally s < ident0.tally.toNat)
    ∧ (let s := forming { settled := true, joins := [peerJoin true, ownJoin] }; (getForming s).isRoot = false ∧ (getForming s).aligned = false
      ∧ (joinTree (takeFrom s 0 (.time 600 2))).crop.parentLink.toNat = 0) := by
  decide +kernel

theorem witness_FormationMessagesComplete :
    (let s := { member false up with crop := { (member false up).crop with phase := .resettle } };
      s.crop.phase = .resettle ∧ s.crop.realigned = false ∧ s.crop.parentLink.toNat = 0 ∧ s.crop.settled = true ∧ measured s = false
      ∧ isCropRoot s = false)
    ∧ (let s := setLink { member false up with crop := { (member false up).crop with phase := .resettle, settled := true } } 0
        { getLink (member false up) 0 with rtSamples := List.replicate 16 20 };
      s.crop.phase = .resettle ∧ s.crop.realigned = false ∧ s.crop.settled = true ∧ measured s = true ∧ isCropRoot s = false)
    ∧ (let s := forming { isRoot := false }; (getForming s).aligned = false ∧ memberLink s 0 = true)
    ∧ (let s := forming { joins := [peerJoin false] }; ∃ k ∈ (getForming s).joins, k.tally = (peerJoin false).tally ∧ (peerJoin false).round ≤ k.round)
    ∧ (let s := forming { isRoot := true, aligned := true, nmember := 3, bound := [2] }; (getForming s).nmember ≤ (getForming s).bound.length + 2
      ∧ (getForming s).aligned = true ∧ 1 ∉ (getForming s).bound)
    ∧ (let s := forming {}; ∀ j ∈ (getForming s).joins, j.isRoot = false)
    ∧ (let s := forming { further := true }; ¬ ((getForming s).further = false))
    ∧ (let s := forming { joins := [ownJoin] }; memberLink s 0 = true ∧ (getForming s).settled = false
      ∧ ∀ k ∈ (getForming s).joins, k.tally = (peerJoin false).tally → k.round < (peerJoin false).round)
    ∧ (let s := { forming { isRoot := true } with crop := { (forming { isRoot := true }).crop with parentLink := 0xFF } };
      s.crop.parentLink = 0xFF ∧ (getForming s).isRoot = true ∧ 1 ∉ (getForming s).bound)
    ∧ ((member false up).crop.parentLink ≠ 0xFF ∧ (member false up).crop.member = true)
    ∧ (let s := forming { aligned := true, slot := 2 }; (getForming s).aligned = true ∧ (getForming s).req = some runReq)
    ∧ ((forming {}).crop.member = false ∧ (getForming (forming {})).cropId = 9) := by
  decide +kernel

theorem witness_FormationEndsAndCropEvents :
    (let s := forming { isRoot := true, table := [3, 2] }; allJoined (getForming s) = false ∧ (getForming s).aligned = false ∧ s.crop.member = false)
    ∧ (let s := forming { joins := [peerJoin true] }; (getForming s).aborting = false ∧ ∃ j ∈ (getForming s).joins, j.isRoot = true)
    ∧ (let s := { member false up with crop := { (member false up).crop with phase := .resettle, settled := false } };
      s.crop.phase = .resettle ∧ s.crop.settled = false ∧ memberLink s 0 = true)
    ∧ (let s := { member true up with crop := { (member true up).crop with phase := .complete } };
      isCropRoot s = true ∧ s.crop.phase = .complete ∧ (0, false) ∉ s.crop.completions)
    ∧ (let s := member false up; isCropRoot s = false ∧ s.crop.member = true ∧ s.crop.ending = none ∧ (getForming s).active = false
      ∧ runningSlot s = none)
    ∧ (let s := runs false; runningSlot s = some 2 ∧ runQuiet s = true ∧ runningSlot (busyHost s) = some 2 ∧ runQuiet (busyHost s) = false) := by
  decide +kernel

def seed0 (epoch : W64) : SeedRec := ⟨epoch, [], [], []⟩

/-- `runs` in a phase of a barrier, released at tick 0, with the records of epochs 0 and 1. -/
def atPhase (root : Bool) (ph : BarrierPhase) (start : Bool) (arrived : Bool) : State :=
  let s := member root (withSlot 2 { loaded .running with run := some runReq, newest := some (seed0 0), pend := some ⟨some (seed0 0), none, false, [], {}⟩ } up)
  { s with crop := { s.crop with phase := ph, startBarrier := start, settled := true, realigned := true
                                 selfArrive := if arrived then some (arrive0 .epoch) else none } }
where arrive0 (k : ArriveKind) : ArriveMsg := ⟨k, 0, false, none, none, [], [], 0, 200, false⟩

/-- A member whose Tillers have all halted. -/
def atBar : State := (List.range 53).foldl (fun s n => setTiller s n { getTiller s n with mode := .halted }) (atPhase false .none false false)

theorem witness_BarriersComplete :
    (let s := atPhase false .start true false; (runOf s).isSome = true ∧ arriveKind s = some .start ∧ isCropRoot s = false ∧ childrenHere s .start = true)
    ∧ (let s := atPhase true .start true false; (runOf s).isSome = true ∧ arriveKind s = some .start ∧ isCropRoot s = true)
    ∧ surplusLinks (setLink atBar 3 { getLink atBar 3 with rx0 := [[1]] }) = [3]
    ∧ (let s := atBar;
      (runOf s).isSome = true ∧ arriveKind s = some .epoch ∧ childrenHere s .epoch = true)
    ∧ (let s := atPhase false .epoch false false; let t := { s with crop := { s.crop with children := [1] } };
      (runOf t).isSome = true ∧ t.crop.children.contains 1 = true ∧ staleArrive t (atPhase.arrive0 .epoch) = false
      ∧ (atPhase.arrive0 .epoch).refusedAt = none ∧ isCropRoot t = false ∧ t.crop.member = true)
    ∧ (let s := atPhase false .decided true true; (runOf s).isSome = true ∧ alive s = true ∧ s.crop.ending = none
      ∧ (getSlot s 2).newest = some (seed0 0) ∧ cropTick s = s.crop.release.toNat)
    ∧ (let s := atPhase false .decided false true; s.crop.startBarrier = false ∧ cropTick s = s.crop.release.toNat
      ∧ (getTiller { s with tillers := [(0, { mode := .barrier })] } 0).mode = .barrier)
    ∧ (atPhase.arrive0 .start).refusedAt = none ∧ ({ atPhase.arrive0 .start with refusedAt := some 1 } : ArriveMsg).refusedAt = some 1
    ∧ (let s := atPhase true .start true false; (runOf s).isSome = true ∧ isCropRoot s = true ∧ s.crop.startBarrier = true ∧ s.crop.phase = .start)
    ∧ (let s := { atPhase true .epoch false true with crop := { (atPhase true .epoch false true).crop with children := [1] } };
      (runOf s).isSome = true ∧ isCropRoot s = true ∧ s.crop.children.contains 1 = true ∧ staleArrive s (atPhase.arrive0 .epoch) = false)
    ∧ (let s := atPhase false .replayDecided false true; (runOf s).isSome = true ∧ (getSlot s 2).newest = some (seed0 0) ∧ cropTick s = s.crop.release.toNat) := by
  decide +kernel

/-- Tiller 1 awaits a remote line. -/
def waiting (s : State) : State :=
  { s with wain := { s.wain with remote := [⟨1, ⟨1, 0, 9, 2, 3, 5, 1, BitVec.ofNat 56 (2 ^ 40 * 3), 2 ^ 64 - 1, 2 ^ 64 - 1⟩, 0, .tiller 1, 0⟩] } }

theorem witness_DecisionsTakeEffect :
    (let s := atPhase false .epoch false true; (runOf s).isSome = true ∧ isCropRoot s = false ∧ s.crop.member = true ∧ s.crop.ending = none
      ∧ (getSlot s 2).run = some runReq ∧ s.crop.selfArrive.isSome = true ∧ cropTick s ≤ 0 ∧ runQuiet s = true)
    ∧ (let s := { atPhase false .epoch false true with ctb := 12 }; (0 : Nat) < cropTick s)
    ∧ (let s := atPhase false .epoch false true; (runOf (waiting s)).isSome = true ∧ awaiting (waiting s) (.tiller 1) = true)
    ∧ (let s := atPhase false .start true true; (runOf s).isSome = true ∧ s.crop.selfArrive.isSome = true)
    ∧ (let s := atPhase false .replayDrain false true; (runOf s).isSome = true ∧ s.crop.selfArrive.isSome = true)
    ∧ (let s := busyHost (atPhase false .epoch false true); (runOf s).isSome = true ∧ runQuiet s = false)
    ∧ (let s := atPhase false .complete false true; (runOf s).isSome = true ∧ flagHolder emptyPlan = (getSlot s 2).position
      ∧ (0, true) ∉ s.crop.completions)
    ∧ (let s := withSlot 2 { getSlot (runs false) 2 with position := 1 } (atPhase false .complete false true);
      ∃ p, runOf s = some (2, getSlot s 2, p) ∧ flagHolder p ≠ (getSlot s 2).position) :=
  ⟨by decide +kernel, by decide +kernel, by decide +kernel, by decide +kernel, by decide +kernel, by decide +kernel,
    by decide +kernel, ⟨emptyPlan, by decide +kernel⟩⟩

/-! ## Witnesses: Wain links and remote memory -/

/-- `up` with link 0 in a state. -/
def linked (f : WainLink → WainLink) : State := setLink up 0 (f { getLink up 0 with state := .up })

theorem witness_FramesMoveInOrder :
    (let s := linked (fun x => { x with ctrl := [.leave] }); alive s = true ∧ (getLink s 0).state = .up ∧ (getLink s 0).ctrl.filter (ctrlReady s) ≠ [])
    ∧ (let s := { linked (fun x => { x with ctrl := [.time 0 0] }) with ctb := 1 }; (getLink s 0).ctrl.filter (ctrlReady s) = [])
    ∧ (let f : SentFrame := ⟨3, 0, 0, 0, .idle⟩; let s := linked (fun x => { x with resend := [f] });
      (getLink s 0).ctrl = [] ∧ (getLink s 0).resend = f :: [])
    ∧ (let x := getLink (linked (fun x => { x with tx1 := [[1]] })) 0;
      x.ctrl = [] ∧ x.resend = [] ∧ (vcOrder x.lastVc).find? (fun vc => decide (0 < sendable x vc)) = some 1)
    ∧ (∀ vc, vc < 3 → sendable (getLink (linked id) 0) vc = 0)
    ∧ (let s := linked (fun x => { x with state := .lost, leaveLeft := 16 }); alive s = true ∧ (getLink s 0).state ≠ .up ∧ 0 < (getLink s 0).leaveLeft)
    ∧ ((getLink up 0).state ≠ .up ∧ (getLink up 0).leaveLeft = 0)
    ∧ (let s := linked id; (getLink s 0).state = .up ∧ head0.corrected = 0 ∧ (getLink s 0).resync = false ∧ head0.decodes = true ∧ head0.kind = 0
      ∧ head0.seq = (getLink s 0).rxSeq + 1 ∧ transfersDone s = false ∧ openReceive s 25 0 false = none ∧ openReceive s 24 0 true = none)
    ∧ (let s := setLink atBar 0 { getLink atBar 0 with state := .up }; alive s = true ∧ (getLink s 0).resync = false ∧ head0.seq = (getLink s 0).rxSeq + 1
      ∧ transfersDone s = true)
    ∧ (let h := { head0 with seq := 5, kind := 1 }; h.decodes = true ∧ h.seq ≠ (getLink (linked id) 0).rxSeq + 1)
    ∧ ({ head0 with decodes := false } : FrameHead).decodes = false
    ∧ (getLink (linked (fun x => { x with badFrames := 3 })) 0).badFrames = 3 ∧ (getLink (linked id) 0).badFrames < 3 := by
  decide +kernel

/-- R275: a line that no receive awaits at the barrier is dropped, and WAIN_XFER of class REPLAYED is logged. -/
theorem test_surplus : (match exec .sendArrive (setLink atBar 3 { getLink atBar 3 with rx0 := [[1], [2]] }) with
    | .next t => (getLink t 3).rx0 == [] && (getLink t 3).ret0 == 2 && t.crop.selfArrive == none
        && (t.err.first.map (fun r => (r.cls, r.source, r.inst))) == some (2, 9, 3)
    | _ => false) = true := by
  decide +kernel

theorem witness_LinkEventsComplete :
    (let s := linked (fun x => { x with state := .training }); (getLink s 0).state = .training ∧ (getForming s).active = false
      ∧ (getForming s).joins = [] ∧ s.wain.remote = [] ∧ (getLink s 0).leaveLeft = 0)
    ∧ (let s := forming { joins := [ownJoin] }; let s := setLink s 0 { getLink s 0 with state := .training };
      (getLink s 0).state = .training ∧ (getForming s).active = true)
    ∧ (getLink (linked (fun x => { x with state := .recovery })) 0).state = .recovery
    ∧ (let s := member false up; runningSlot s = none ∧ (getForming s).active = false ∧ peerInCrop s (getLink s 0) = true ∧ s.crop.member = true)
    ∧ (let s := running; let t := setLink s 0 { getLink s 0 with state := .up, tx1 := [[1]], own1 := 0, sharedCred := 0 };
      alive t = true ∧ (runningSlot t).isSome = true ∧ t.crop.member = true ∧ (getLink t 0).state = .up ∧ waitsForCredit (getLink t 0) = true
      ∧ (getLink t 0).peerHeld = false) := by
  decide

/-- A request of one line of `up`'s first granule, from the chip at Tally address 2. -/
def askRec (dst : BitVec 10) : RemoteRec := ⟨1, 0, 9, 2, dst, 5, 1, BitVec.ofNat 56 (2 ^ 40 * 3), 2 ^ 64 - 1, 2 ^ 64 - 1⟩

/-- `up` with lines waiting on VC1 of link 0 and a memory. -/
def asked (ls : List (List Byte)) (ram : Ram) : State :=
  let s := linked (fun x => { x with rx1 := ls })
  { s with mem := { s.mem with ram := ram } }

theorem witness_RemoteAccessesComplete :
    (let s := asked [recordBytes (askRec 4), [7]] {}; alive s = true ∧ (askRec 4).dst ≠ s.boot.tallyAddr
      ∧ (getLink s 0).rx1.take 1 = [recordBytes (askRec 4)] ∧ (getLink s 0).rx1.take (([[7]] : List (List Byte)).length + 1) = recordBytes (askRec 4) :: [[7]])
    ∧ (let s := asked [recordBytes (askRec 3), [7]] {}; (askRec 3).dst = s.boot.tallyAddr ∧ remoteRefusal s (askRec 3) .read = none
      ∧ remoteRefusal s (askRec 3) .write = none ∧ (getLink s 0).rx1.take 1 = [recordBytes (askRec 3)]
      ∧ ∀ n ∈ remoteLines (askRec 3), linePoison (lineSettle (ramLine s.mem.ram n)) = false)
    ∧ (let s := asked [recordBytes (askRec 3)] { data := [(0, 3)] };
      ∃ n ∈ remoteLines (askRec 3), linePoison (lineSettle (ramLine s.mem.ram n)) = true)
    ∧ (let r := { askRec 3 with context := 6 }; let s := asked [recordBytes r, [7]] {};
      (remoteRefusal s r .read).isSome = true ∧ (remoteRefusal s r .write).isSome = true ∧ r.dst = s.boot.tallyAddr)
    ∧ (let q : RemoteReq := ⟨9, askRec 2, 0, .command 0 7, 0⟩; let s := { up with wain := { up.wain with remote := [q] } };
      (askRec 3).dst = s.boot.tallyAddr ∧ requestOf s (askRec 3) = some q ∧ s.wain.remote.find? (fun q => q.tag == 9) = some q
      ∧ q.who = .command 0 7)
    ∧ requestOf up (askRec 3) = none ∧ (askRec 4).dst ≠ up.boot.tallyAddr
    ∧ (let q : RemoteReq := ⟨4095, askRec 2, 0, .copyEngine 0, 0⟩; let s := { up with wain := { up.wain with remote := [q] } };
      s.wain.remote.find? (fun q => q.tag == 4095) = some q ∧ q.who = .copyEngine 0) := by
  decide +kernel

/-! ## Witnesses: monitors, boot, the Tally chain -/

theorem witness_MonitorsAndTestAccess :
    (grangerUp up = true ∧ up.boot.fwRunning = true ∧ up.margin.vid = vidOf up.margin.vddMv)
    ∧ (let s := { up with margin := { up.margin with vddMv := 750 } }; s.margin.vid ≠ vidOf s.margin.vddMv)
    ∧ (let s := { up with margin := { up.margin with vidAckHigh := false } }; grangerUp s = true ∧ s.margin.vidAckHigh = false)
    ∧ (runningSlot (running)).isSome = true ∧ grangerUp running = true
    ∧ up.boot.perstLow = false ∧ up.boot.debugToken = false ∧ State.reset.boot.perstLow = true := by
  decide

def record0 : List Byte := [0, 0, 0, 0] ++ toLE 2 750 ++ toLE 2 800 ++ [90, 0, 105] ++ List.replicate 53 0
def auth0 (a b : Bool) : AuthResult := ⟨a, b, 1, 1, 1, 7, 8, 9, true, record0⟩
def ports0 (ok : Bool) : List PortTrain := List.replicate 19 ⟨1, true, 24, 0⟩ ++ [⟨2, ok, 16, 255⟩]

theorem witness_BootStepsComplete :
    State.reset.boot.perstLow = true ∧ up.boot.perstLow = false
    ∧ (let s := { up with boot := { up.boot with step := 2 } }; alive s = true ∧ s.boot.step = BitVec.ofNat 4 2)
    ∧ (let s := { up with boot := { up.boot with step := 4, fwRunning := false } }; alive s = true ∧ s.boot.step = BitVec.ofNat 4 4)
    ∧ (recordOk (auth0 true false) = true ∧ recordOk { auth0 true false with recordSigned := false } = false
      ∧ (auth0 true false).authA = true ∧ (auth0 true false).fusedMin ≤ (auth0 true false).versionA)
    ∧ (let r := { auth0 true false with fusedMin := 2 }; ¬ (r.authA = true ∧ r.fusedMin ≤ r.versionA) ∧ ¬ (r.authB = true ∧ r.fusedMin ≤ r.versionB))
    ∧ ((auth0 false false).authA = false ∧ (auth0 false false).authB = false)
    ∧ (let s := { up with boot := { up.boot with step := 5, stacksTrained := false } }; grangerUp s = true ∧ s.boot.step = 5 ∧ s.boot.stacksTrained = false)
    ∧ ((ports0 true).length = 20 ∧ (∀ p ∈ ports0 true, p.capGib.toNat ≤ 48 ∧ p.up = true ∧ (p.kind = 1 ∨ p.kind = 2) ∧ 16 ≤ p.capGib.toNat)
      ∧ (∃ p ∈ ports0 true, p.capGib.toNat = 16) ∧ ∃ p ∈ ports0 false, p.up = false ∨ (p.kind ≠ 1 ∧ p.kind ≠ 2))
    ∧ (let s := { up with boot := { up.boot with step := 5 } }; grangerUp s = true ∧ s.boot.stacksTrained = true ∧ s.boot.poolAbsent = false) := by
  decide +kernel

theorem witness_TallyFramesComplete :
    (let s := { up with boot := { up.boot with step := 7, straps := 4 } }; grangerUp s = true ∧ s.boot.step = 7 ∧ bitOf s.boot.straps 2 = true)
    ∧ (let s := { up with boot := { up.boot with step := 7 } }; grangerUp s = true ∧ bitOf s.boot.straps 2 = false)
    ∧ (up.crop.member = false ∧ (member true up).crop.member = true ∧ (member true up).boot.tallyAddr.toNat ≠ 5)
    ∧ (let p := tallyPayload 2 3 0 0 false; field p 3 0 = 2 ∧ up.boot.tallyValid = true ∧ field p 14 5 = up.boot.tallyAddr.toNat ∧ bitOf p 4 = false)
    ∧ (let p := tallyPayload 3 3 0x8003 1 false; field p 3 0 = 3 ∧ field p 31 16 = 0x8003 ∧ (tallyStore up 0x8003 1).isSome = true)
    ∧ (let p := tallyPayload 3 3 0xE000 1 false; field p 31 16 = 0xE000 ∧ tallyStore up 0xE000 1 = none)
    ∧ (let p := tallyPayload 2 4 0 0 false; field p 14 5 ≠ up.boot.tallyAddr.toNat)
    ∧ (bitOf (tallyPayload 3 3 0 0 false ||| 16) 4 = true ∧ field (tallyPayload 4 3 0 0 false) 3 0 = 4 ∧ field (tallyPayload 5 3 0 0 false) 3 0 = 5) := by
  decide +kernel

/-! ## Witnesses: the block as a whole -/

theorem witness_StepTakesTheFrontCommand : ∃ s : State, s.pending = .vidAck :: [] ∧ ∃ t, step s = .next t :=
  ⟨{ State.reset with pending := [.vidAck] }, rfl, ⟨_, rfl⟩⟩

theorem witness_IdleStepIsOneCycle :
    up.pending = [] ∧ alive up = true ∧ up.hl.gated = false ∧ alive State.reset = false ∧ State.reset.pending = [] := by
  decide

theorem witness_CommandsKeepTheQueue : ∃ t, exec .vidAck up = .next t ∧ ∃ u, step up = .next u := ⟨_, rfl, ⟨_, rfl⟩⟩

theorem witness_StepsKeepMemoryCanonical : MemWf up ∧ ∃ t, step up = .next t := ⟨⟨by decide, by decide, by decide⟩, ⟨_, rfl⟩⟩

theorem witness_StepsKeepConfigurationLegal : CfgWf up ∧ ∃ t, step up = .next t :=
  ⟨⟨⟨by decide, by decide, by decide⟩, ⟨by decide, by decide⟩, ⟨by decide, by decide, by decide, by decide⟩, ⟨by decide, by decide⟩,
    ⟨by decide, by decide, by decide⟩, ⟨by decide, by decide, by decide⟩⟩, ⟨_, rfl⟩⟩

theorem witness_PacketChecksum : isMoldo (getWindrow up 0) = false := by decide

theorem witness_AccumulatorAddition : (2 ^ 31 - 1 < 2 ^ 32 ∧ 1 < 2 ^ 32) ∧ addAcc 10 (2 ^ 31 - 1) 1 = (2 ^ 31 - 1, fAO)
    ∧ (addAcc 10 (2 ^ 31) 0xFFFFFFFF = (2 ^ 31, fAO)) ∧ addAcc 1 0x7F7FFFFF 0xFF7FFFFF = (0, 0) ∧ addAcc 0 1 0x8000000000000001 = (0, 0) := by decide
/-- R142, R145: the entries the spec prints. -/
theorem witness_FunctionTablesAreRounded : exp2Table.getD 0 0 = 0x80000000 ∧ exp2Table.getD 32 0 = 0xB504F334 ∧ rcpSeed 0 = 65281
    ∧ rcpSeed 127 = 32832 := by decide

/-! ## Worked values of the spec -/

/-- 02, edges of E4M3 and FP16. -/
theorem test_to_e4m3 :
    toElem fE4M3 false rndRNE 0 (decodeElem fFP32 0x43E80000) = (0x7E, 0) ∧ toElem fE4M3 true rndRNE 0 (decodeElem fFP32 0x43E80000) = (0x7E, 0)
    ∧ toElem fE4M3 false rndRNE 0 (decodeElem fFP32 0x43E80001) = (0x7F, fAO + fNP)
    ∧ toElem fE4M3 true rndRNE 0 (decodeElem fFP32 0x43E80001) = (0x7E, fAO)
    ∧ toElem fE4M3 false rndRTZ 0 (decodeElem fFP32 0x43E80001) = (0x7E, fAO)
    ∧ toElem fE4M3 false rndRNE 0 (decodeElem fFP32 0x80000000) = (0x80, 0) ∧ toElem fE4M3 false rndRNE 0 (decodeElem fFP32 0x80000001) = (0x80, fUZ)
    ∧ toElem fE4M3 false rndRNE 0 (decodeElem fFP32 0x3B000000) = (0x01, 0) := by
  decide +kernel

theorem test_to_fp16 :
    toElem fFP16 false rndRNE 0 (decodeElem fFP32 0x477FF000) = (0x7C00, fAO) ∧ toElem fFP16 true rndRNE 0 (decodeElem fFP32 0x477FF000) = (0x7BFF, fAO)
    ∧ toElem fFP16 false rndRTZ 0 (decodeElem fFP32 0x477FF000) = (0x7BFF, fAO) := by
  decide +kernel

/-- R48: 127.5 and −128.25 towards zero into INT8. -/
theorem test_to_int8 :
    toElem fINT8 false rndRTZ 0 (.fin false 255 (-1)) = (127, fAO) ∧ toElem fINT8 false rndRTZ 0 (.fin true 513 (-2)) = (0x80, fAO) := by
  decide +kernel

/-- R43: FP32R drops the low 13 bits. -/
theorem test_fp32r : cmpVal (decodeElem fFP32R 0x3F801FFF) (.fin false 1 0) = 0 ∧ decodeElem fFP32R 0x7F800001 = .inf false := by decide +kernel

/-- 02, decoding elements of a Bale: 384, −24 and 4. -/
theorem test_bale :
    cmpVal (decodeScaled fE2M1 schBale 0x7 0x85 0xE4 0) (intVal 384) = 0 ∧ cmpVal (decodeScaled fE2M1 schBale 0xB 0x85 0xE4 40) (intVal (-24)) = 0
    ∧ cmpVal (decodeScaled fE2M1 schBale 0x1 0x85 0xE4 63) (intVal 4) = 0 := by
  decide +kernel

/-- 03, a truncated FP32 product. -/
theorem test_product : product fFP32 (decodeElem fFP32 0x3F800001) (decodeElem fFP32 0x3FF00000) = (0x3FF00001, 0) := by decide +kernel

/-- 03, one overflowing product and its neighbour without a NaN. -/
theorem test_dot :
    (kblockPlain fFP32 fBF16 fBF16 [0x7F00, 0x3F80, 0x7FC1, 0x4000] [0x4080, 0x4040, 0x3F80, 0xBF80] {}).result = (0x7FC00000, 0x03)
    ∧ (kblockPlain fFP32 fBF16 fBF16 [0x7F00, 0x7F00, 0x3F80, 0x4000] [0x4080, 0x4080, 0x4040, 0xBF80] {}).result = (0x7F800000, 0x06) := by
  decide +kernel

/-- 03, five K-blocks on one chip, on two chips, and under ORDER_V1. -/
theorem test_five_blocks :
    (let push (st : List Node) (j v : Nat) := (pushNode (addAcc fFP32) st ⟨0, j, v⟩).1;
      let one := push (push (push (push (push [] 0 0x4B800000) 1 0x3F800000) 2 0x3F800000) 3 0x3F800000) 4 0x3F800000;
      one = [⟨0, 4, 0x3F800000⟩, ⟨2, 0, 0x4B800001⟩] ∧ (finishStack (addAcc fFP32) one).1 = 0x4B800002
      ∧ push (push [] 3 0x3F800000) 4 0x3F800000 = [⟨0, 4, 0x3F800000⟩, ⟨0, 3, 0x3F800000⟩])
    ∧ [0x3F800000, 0x3F800000, 0x3F800000, 0x3F800000].foldl (fun r p => (seqNext (addAcc fFP32) (some r) p).1) 0x4B800000 = 0x4B800000 := by
  decide +kernel

/-- R142, R143: entries of the table, and EXP2 of 0x3F80_0400 and of 1.5. -/
theorem test_exp2 :
    exp2Entry 0 = 0x80000000 ∧ exp2Entry 32 = 0xB504F334 ∧ exp2Core 0x1000800 = (0x8002C5D0, 1)
    ∧ toWork fFP32 (winExp2 (decodeElem fFP32 0x3F800400)).1 = (0x400002C6, 0) ∧ toWork fFP32 (winExp2 (decodeElem fFP32 0x3FC00000)).1 = (0x403504F3, 0) := by
  decide +kernel

theorem test_rcp_seeds : rcpSeed 0 = 65281 ∧ rcpSeed 127 = 32832 := by decide +kernel

/-- 05, one MX E2M1 block. -/
theorem test_quantise :
    (let q := quantBlock fE2M1 schMX rndRNE ([0x41500000, 0x3E4CCCCD, 0xC0400000, 0x3F19999A, 0x41600000].map (decodeElem fFP32) ++ List.replicate 27 (.fin false 0 0)) [];
      q.scale = 0x80 ∧ (packElems 4 q.codes).take 3 = [0x07, 0x1B, 0x07] ∧ q.flags = fQV ∧ q.vanished = 1) := by
  decide +kernel

/-- 10, placement of offset 0x0A_BCDE_F000, and the check bits of 0x8000_0000_0000_0101. -/
theorem test_place : place 0x0ABCDEF000 = (11, 28, 281484, 0x89718C00) := by decide +kernel

theorem test_ecc :
    checkBits 0x8000000000000101 = 0x4A ∧ eccRead 0x101 0x4A = .corrected 0x8000000000000101 ∧ eccRead 0x8000000000000101 0x4B = .corrected 0x8000000000000101
    ∧ eccRead 1 0x4A = .bad 1 ∧ poisonBits 0x8000000000000101 = 0xB5 ∧ eccRead 0x8000000000000101 0xB5 = .bad 0x8000000000000101 := by
  decide +kernel

/-- 11, home slice and sets of line 0x2AF3_7BC0, the place of a Loft line, and a victim's choice. -/
theorem test_granary : homeSlice 0x2AF37BC0 = 14 ∧ grnSet 0x2AF37BC0 = 0xDEF ∧ loftPlace 8 0x48D15 = (21, 9, 564) := by decide +kernel

theorem test_ages :
    (let ws : List Way := [0, 1, 2, 2, 1, 0, 1, 2].map (fun a => { valid := true, age := a });
      (ageUp ws (List.range 8)).map (fun w => w.age) = [1, 2, 3, 3, 2, 1, 2, 3]) := by
  decide +kernel

/-- 15, one request, two lane sets: the values returned and left. -/
theorem test_lane_sets :
    (let r : EpReq := ⟨0, 1, 2, 5, 0xFF, 2, 0, 0, false,
        [⟨64, 1, 0⟩, ⟨128, 2, 0⟩, ⟨64, 3, 0⟩, ⟨64, 4, 0⟩, ⟨128, 5, 0⟩, ⟨64, 6, 0⟩, ⟨64, 7, 0⟩, ⟨128, 8, 0⟩], []⟩;
      (laneSets (activeLanes ported r)).map (fun p => (p.1, p.2.map (fun q => q.1))) = [(64, [0, 2, 3, 5, 6]), (128, [1, 4, 7])]) := by
  decide +kernel

/-- 16, PCHK of the copy's packet. -/
theorem test_pchk :
    packetSum (toLE 4 0x410 ++ toLE 4 0x46 ++ toLE 4 0x4321 ++ toLE 4 0 ++ toLE 8 0x7F0000000000 ++ toLE 8 0x7F0040000000 ++ toLE 8 0x100000
      ++ List.replicate 24 0) = 0xBFEEBA88 := by
  decide +kernel

/-- 18, one management read. -/
theorem test_tally_payloads :
    tallyPayload 2 300 0xF000 0 false = 0x00000000F0002582 ∧ tallyPayload 4 300 0xF000 0x02EE5064 false = 0x02EE5064F0002584
    ∧ (let s := { up with margin := { up.margin with fmin := 80, vddMv := 750 } }; (tallyWord s 0xF000).1 = 0x02EE5064) := by
  decide +kernel

end
end Sys2Proof.Tests
end

section
/-!
PROOFS. Every command, and with it every step, keeps what the operations keep: the queue, the canonical form of the stores and the legal
values of the configuration registers; and the state at reset has them.
-/
namespace Sys2Proof.Machine

/-- What one state keeps of another, a command executed in it keeps. -/
theorem exec_keeps {s0 : State} (c : Instr) (s : State) (k : Keeps s0 s) : KeepsO s0 (exec c s) :=
  match c with
  | .nop h => execNop_keeps h s k
  | .fence h kind => execFence_keeps h kind s k
  | .flushPublish h base length mode => execFlushPublish_keeps h base length mode s k
  | .copy h src dst bytes conv sfmt dfmt sat rnd tensor seed => execCopy_keeps h src dst bytes conv sfmt dfmt sat rnd tensor seed s k
  | .fill h dst bytes pattern => execFill_keeps h dst bytes pattern s k
  | .copyRemote h src doff bytes tally => execCopyRemote_keeps h src doff bytes tally s k
  | .ctxBind h action mode levels5 adUpdate => execCtxBind_keeps h action mode levels5 adUpdate s k
  | .segSet h seg entry => execSegSet_keeps h seg entry s k
  | .ptRootSet h root => execPtRootSet_keeps h root s k
  | .tlbInval h base length => execTlbInval_keeps h base length s k
  | .grant h first count entry => execGrant_keeps h first count entry s k
  | .regionRegister h key wr base length => execRegionRegister_keeps h key wr base length s k
  | .regionRevoke h key => execRegionRevoke_keeps h key s k
  | .faultResolve h faultId outcome => execFaultResolve_keeps h faultId outcome s k
  | .planLoad h slot position image bindList => execPlanLoad_keeps h slot position image bindList s k
  | .planRun h slot => execPlanRun_keeps h slot s k
  | .planStop h slot mode => execPlanStop_keeps h slot mode s k
  | .cropForm h slot nmember cropId table formTo startTo => execCropForm_keeps h slot nmember cropId table formTo startTo s k
  | .cropJoin h slot nmember cropId table joinTo => execCropJoin_keeps h slot nmember cropId table joinTo s k
  | .seedcornExport h slot dst length => execSeedcornExport_keeps h slot dst length s k
  | .seedcornImport h slot src length => execSeedcornImport_keeps h slot src length s k
  | .planResume h slot => execPlanResume_keeps h slot s k
  | .loftConfig h action ways first count entry => execLoftConfig_keeps h action ways first count entry s k
  | .engineLease h action attach sheaves => execEngineLease_keeps h action attach sheaves s k
  | .query h selector arg dst => execQuery_keeps h selector arg dst s k
  | .countersRead h slot what first count dst => execCountersRead_keeps h slot what first count dst s k
  | .marginPolicy h ceilMv fmin enable fmax => execMarginPolicy_keeps h ceilMv fmin enable fmax s k
  | .doorbell off width value stores => execDoorbell_keeps off width value stores s k
  | .windrowAdmission => execWindrowAdmission_keeps s k
  | .packetRead w => execPacketRead_keeps w s k
  | .packetReread w => execPacketReread_keeps w s k
  | .commandStart => execCommandStart_keeps s k
  | .reply w => execReply_keeps w s k
  | .windrowEnable w value => execWindrowEnable_keeps w value s k
  | .windrowDisable w value => execWindrowDisable_keeps w value s k
  | .grgReplyHeadWrite w value => execGrgReplyHeadWrite_keeps w value s k
  | .frHeadWrite value => execFrHeadWrite_keeps value s k
  | .frEnableClear value => execFrEnableClear_keeps value s k
  | .frEnableSet value => execFrEnableSet_keeps value s k
  | .hlContainRelease value => execHlContainRelease_keeps value s k
  | .registerWrite target width value => execRegisterWrite_keeps target width value s k
  | .readToClear target width => execReadToClear_keeps target width s k
  | .lowHalfRead side off => execLowHalfRead_keeps side off s k
  | .badAccess bar off width write => execBadAccess_keeps bar off width write s k
  | .vectorUnmask v => execVectorUnmask_keeps v s k
  | .hatchWrite off data => execHatchWrite_keeps off data s k
  | .hatchRead off n => execHatchRead_keeps off n s k
  | .memRd hpa => execMemRd_keeps hpa s k
  | .memRdData hpa => execMemRdData_keeps hpa s k
  | .memWr hpa data => execMemWr_keeps hpa data s k
  | .memWrPtl hpa data mask => execMemWrPtl_keeps hpa data mask s k
  | .memInv hpa => execMemInv_keeps hpa s k
  | .memSpecRd hpa => execMemSpecRd_keeps hpa s k
  | .snpData hpa => execSnpData_keeps hpa s k
  | .snpInv hpa => execSnpInv_keeps hpa s k
  | .snpCur hpa => execSnpCur_keeps hpa s k
  | .go tag => execGo_keeps tag s k
  | .placementWrite direct addr key requester data => execPlacementWrite_keeps direct addr key requester data s k
  | .invalidationRequest itag pasid addr size => execInvalidationRequest_keeps itag pasid addr size s k
  | .invalidationComplete index => execInvalidationComplete_keeps index s k
  | .translationCompletion miss r => execTranslationCompletion_keeps miss r s k
  | .pageResponse faultId success => execPageResponse_keeps faultId success s k
  | .completionTimeout tag => execCompletionTimeout_keeps tag s k
  | .unexpectedCompletion tag => execUnexpectedCompletion_keeps tag s k
  | .ptmSample hostTime => execPtmSample_keeps hostTime s k
  | .hostLinkTrained t => execHostLinkTrained_keeps t s k
  | .portFreeze cause => execPortFreeze_keeps cause s k
  | .selfReset => execSelfReset_keeps s k
  | .hotReset => execHotReset_keeps s k
  | .functionLevelReset => execFunctionLevelReset_keeps s k
  | .d3hotEntry => execD3hotEntry_keeps s k
  | .d0Return => execD0Return_keeps s k
  | .wakeWain link => execWakeWain_keeps link s k
  | .tlbMiss req ctx va acc => execTlbMiss_keeps req ctx va acc s k
  | .walkComplete miss => execWalkComplete_keeps miss s k
  | .faultRingSignal => execFaultRingSignal_keeps s k
  | .faultTimeout slot => execFaultTimeout_keeps slot s k
  | .rds agent l q => execRds_keeps agent l q s k
  | .rdo agent l q => execRdo_keeps agent l q s k
  | .upg agent l q => execUpg_keeps agent l q s k
  | .rdcur agent l q => execRdcur_keeps agent l q s k
  | .wrline agent l q data mask => execWrline_keeps agent l q data mask s k
  | .atom agent l q args => execAtom_keeps agent l q args s k
  | .offer agent l => execOffer_keeps agent l s k
  | .fwdS holder l => execFwdS_keeps holder l s k
  | .fwdI holder l => execFwdI_keeps holder l s k
  | .inv holder l => execInv_keeps holder l s k
  | .invD holder l => execInvD_keeps holder l s k
  | .cur holder l => execCur_keeps holder l s k
  | .snoopResponse holder l => execSnoopResponse_keeps holder l s k
  | .nackRetry agent l => execNackRetry_keeps agent l s k
  | .nearAtomic agent l q args => execNearAtomic_keeps agent l q args s k
  | .storeBufferPerform issuer index => execStoreBufferPerform_keeps issuer index s k
  | .fillArrival cache l => execFillArrival_keeps cache l s k
  | .gleanLine stack => execGleanLine_keeps stack s k
  | .correctiveWriteback index => execCorrectiveWriteback_keeps index s k
  | .stackLost stack => execStackLost_keeps stack s k
  | .stackHot stack => execStackHot_keeps stack s k
  | .halt t => execHalt_keeps t s k
  | .tillerNop t => execTillerNop_keeps t s k
  | .loop t => execLoop_keeps t s k
  | .endl t => execEndl_keeps t s k
  | .agset t => execAgset_keeps t s k
  | .agskip t => execAgskip_keeps t s k
  | .agrst t => execAgrst_keeps t s k
  | .twait t => execTwait_keeps t s k
  | .twaitExpiry t => execTwaitExpiry_keeps t s k
  | .sig t => execSig_keeps t s k
  | .waits t => execWaits_keeps t s k
  | .waitsPass t => execWaitsPass_keeps t s k
  | .step t => execStep_keeps t s k
  | .ebar t => execEbar_keeps t s k
  | .issue t => execIssue_keeps t s k
  | .queueEntry t => execQueueEntry_keeps t s k
  | .loadTile sheaf => execLoadTile_keeps sheaf s k
  | .passRows sheaf => execPassRows_keeps sheaf s k
  | .openRegion sheaf => execOpenRegion_keeps sheaf s k
  | .freeRegion sheaf => execFreeRegion_keeps sheaf s k
  | .regionFinish sheaf rbase => execRegionFinish_keeps sheaf rbase s k
  | .npush rick => execNpush_keeps rick s k
  | .lpush rick => execLpush_keeps rick s k
  | .nsend rick => execNsend_keeps rick s k
  | .rfin rick => execRfin_keeps rick s k
  | .win rick => execWin_keeps rick s k
  | .send link => execSend_keeps link s k
  | .recv link => execRecv_keeps link s k
  | .xsend => execXsend_keeps s k
  | .xrecv => execXrecv_keeps s k
  | .tillerCopy engine => execTillerCopy_keeps engine s k
  | .pref engine => execPref_keeps engine s k
  | .zero engine => execZero_keeps engine s k
  | .subopCompletion unit => execSubopCompletion_keeps unit s k
  | .epLoad r => execEpLoad_keeps r s k
  | .epStore r => execEpStore_keeps r s k
  | .epAtomic r => execEpAtomic_keeps r s k
  | .epFence r => execEpFence_keeps r s k
  | .acopy r => execAcopy_keeps r s k
  | .acopyStart => execAcopyStart_keeps s k
  | .acopyComplete engine => execAcopyComplete_keeps engine s k
  | .gmLoad r => execGmLoad_keeps r s k
  | .gmPass r => execGmPass_keeps r s k
  | .gmStore r => execGmStore_keeps r s k
  | .leaseBegin sheaf => execLeaseBegin_keeps sheaf s k
  | .ident link m => execIdent_keeps link m s k
  | .probe link echo index roundTrip => execProbe_keeps link echo index roundTrip s k
  | .time link ctb => execTime_keeps link ctb s k
  | .abort link cropId code position fromRoot => execAbort_keeps link cropId code position fromRoot s k
  | .bindReport link m => execBindReport_keeps link m s k
  | .bindNotice startTo => execBindNotice_keeps startTo s k
  | .formTimeout => execFormTimeout_keeps s k
  | .joinTimeout => execJoinTimeout_keeps s k
  | .sendArrive => execSendArrive_keeps s k
  | .arrive link m => execArrive_keeps link m s k
  | .stop m => execStop_keeps m s k
  | .decideRelease tick epoch rootPct settle gather => execDecideRelease_keeps tick epoch rootPct settle gather s k
  | .decideReplay tick rootPct settle => execDecideReplay_keeps tick rootPct settle s k
  | .decideReplan epoch suspect => execDecideReplan_keeps epoch suspect s k
  | .decideStop now rootPct gather => execDecideStop_keeps now rootPct gather s k
  | .decideComplete stage rootPct gather => execDecideComplete_keeps stage rootPct gather s k
  | .completionReport position flagDone => execCompletionReport_keeps position flagDone s k
  | .decideAbandon position => execDecideAbandon_keeps position s k
  | .decideFailure status position => execDecideFailure_keeps status position s k
  | .startTimeout => execStartTimeout_keeps s k
  | .barrierRelease => execBarrierRelease_keeps s k
  | .rootRouteLoss => execRootRouteLoss_keeps s k
  | .driftCheck link departure => execDriftCheck_keeps link departure s k
  | .frameSend link => execFrameSend_keeps link s k
  | .dataFrame link f => execDataFrame_keeps link f s k
  | .controlFrame link h last msgs => execControlFrame_keeps link h last msgs s k
  | .idleFrame link h crc => execIdleFrame_keeps link h crc s k
  | .trainingComplete link => execTrainingComplete_keeps link s k
  | .trainingTimeout link => execTrainingTimeout_keeps link s k
  | .lossOfLock link => execLossOfLock_keeps link s k
  | .relock link => execRelock_keeps link s k
  | .linkLossTimeout link => execLinkLossTimeout_keeps link s k
  | .creditWaitTimeout link => execCreditWaitTimeout_keeps link s k
  | .elasticBufferOverflow link => execElasticBufferOverflow_keeps link s k
  | .leave link => execLeave_keeps link s k
  | .remoteRead link r => execRemoteRead_keeps link r s k
  | .remoteWrite link r lines => execRemoteWrite_keeps link r lines s k
  | .rdata link r lines => execRdata_keeps link r lines s k
  | .wack link r => execWack_keeps link r s k
  | .nack link r => execNack_keeps link r s k
  | .remoteTimeout tag => execRemoteTimeout_keeps tag s k
  | .ripenessSample monitor slack => execRipenessSample_keeps monitor slack s k
  | .watchdogExpiry => execWatchdogExpiry_keeps s k
  | .vidAck => execVidAck_keeps s k
  | .vidAckTimeout => execVidAckTimeout_keeps s k
  | .thermtrip => execThermtrip_keeps s k
  | .pwrOkFall => execPwrOkFall_keeps s k
  | .fundamentalReset straps => execFundamentalReset_keeps straps s k
  | .pllLock locked => execPllLock_keeps locked s k
  | .firmwareAuthentication r => execFirmwareAuthentication_keeps r s k
  | .stackTraining ports => execStackTraining_keeps ports s k
  | .poolClear => execPoolClear_keeps s k
  | .enumStart => execEnumStart_keeps s k
  | .enum v => execEnum_keeps v s k
  | .tallyRead payload crc => execTallyRead_keeps payload crc s k
  | .tallyWrite payload crc => execTallyWrite_keeps payload crc s k
  | .resp payload crc => execResp_keeps payload crc s k
  | .tallyWake payload crc => execTallyWake_keeps payload crc s k
  | .perstNAsserted => execPerstNAsserted_keeps s k
  | .rootSettled => execRootSettled_keeps s k
  | .stackHotClear stack => execStackHotClear_keeps stack s k
  | .tapInstruction op => execTapInstruction_keeps op s k

/-- A step keeps the configuration registers legal, whether it takes a command or passes a cycle. -/
theorem step_keeps_cfgWf {s t : State} (hs : CfgWf s) (ht : step s = .next t) : CfgWf t := by
  unfold step at ht
  split at ht
  case h_1 c rest _ =>
    have taken : CfgWf { s with pending := rest } := ⟨hs.hl, hs.tr, hs.cache, hs.coh, hs.glean, hs.wain⟩
    exact ((exec_keeps c _ (.refl _)).keeps t ht).cfg taken
  case h_2 => exact ((KeepsO.next (clockTick_keeps s (.refl s))).keeps t ht).cfg hs

/-- Every configuration register holds its value of the tables at reset, which is legal. -/
theorem reset_cfgWf : CfgWf State.reset :=
  ⟨hlCfgOk_reset, trCfgOk_reset, cacheCfgOk_reset, cohCfgOk_reset, gleanCfgOk_reset, wainCfgOk_reset⟩

/-- At reset every addressed store is empty. -/
theorem reset_memWf : MemWf State.reset := ⟨ramEmpty_wf, ramEmpty_wf, ramEmpty_wf⟩

end Sys2Proof.Machine

namespace Sys2Proof

/-- Settles O57: the operations' own lemmas, gathered over the commands and applied to one step. -/
theorem stepsKeepConfigurationLegal : Obligations.StepsKeepConfigurationLegal :=
  fun _ _ hs ht => Machine.step_keeps_cfgWf hs ht

/-- Settles O54: empty stores and the tables' reset values. -/
theorem resetIsWellFormed : Obligations.ResetIsWellFormed := ⟨Machine.reset_memWf, Machine.reset_cfgWf⟩

end Sys2Proof
end

section
/-!
PROOFS. What the report of an error leaves alone, and one A-cycle on an empty queue.
-/
namespace Sys2Proof.Machine

/-- Two states differ by reports of errors at most: in the error bank and its alert, the Tillers, and what leads to the root. -/
def Reported (s t : State) : Prop :=
  ∃ err boot tillers wain crop, t = { s with err, boot, tillers, wain, crop }

theorem Reported.refl (s : State) : Reported s s := ⟨_, _, _, _, _, rfl⟩

theorem Reported.trans {s t u : State} (h : Reported s t) (k : Reported t u) : Reported s u := by
  obtain ⟨_, _, _, _, _, rfl⟩ := h
  obtain ⟨_, _, _, _, _, rfl⟩ := k
  exact ⟨_, _, _, _, _, rfl⟩

/-- Operations that leave no more than reports leave no more in succession. -/
theorem Reported.foldl {α : Type} {g : State → α → State} (h : ∀ s x, Reported s (g s x)) (l : List α) (s : State) :
    Reported s (l.foldl g s) := by
  induction l generalizing s with
  | nil => exact .refl s
  | cons x l ih => exact (h s x).trans (ih (g s x))

theorem logRecord_reported (s : State) (e : ErrRec) : Reported s (logRecord s e) := ⟨_, _, _, _, _, rfl⟩

theorem setTiller_reported (s : State) (n : Nat) (x : Tiller) : Reported s (setTiller s n x) := ⟨_, _, _, _, _, rfl⟩

theorem haltTillers_reported (s : State) : Reported s (haltTillers s) := by
  refine Reported.foldl (fun s n => ?_) _ s
  dsimp only
  split
  · exact .refl s
  · exact setTiller_reported s n _

theorem reportError_reported (s : State) (e : ErrRec) : Reported s (reportError s e) := ⟨_, _, _, _, _, rfl⟩

theorem reportToRoot_reported (s : State) (m : StopMsg) : Reported s (reportToRoot s m) := by
  unfold reportToRoot
  split
  · split <;> exact ⟨_, _, _, _, _, rfl⟩
  · exact .refl s

theorem raiseReplayed_reported (s : State) (source inst addr ctx detail : Nat) :
    Reported s (raiseReplayed s source inst addr ctx detail) := by
  unfold raiseReplayed
  dsimp only
  split
  · exact ((reportError_reported s _).trans (haltTillers_reported _)).trans (reportToRoot_reported _ _)
  · exact logRecord_reported s _

theorem planContained_reported (s : State) (status : Byte) : Reported s (planContained s status) := by
  unfold planContained
  split
  · exact (haltTillers_reported s).trans (reportToRoot_reported _ _)
  · exact .refl s

theorem foldSignals_reported (s : State) (n : Nat) (t : Tiller) : Reported s (foldSignals s n t) := by
  unfold foldSignals
  split
  · exact .refl s
  · dsimp only
    split
    · exact (setTiller_reported s n _).trans (raiseReplayed_reported _ _ _ _ _ _)
    · exact setTiller_reported s n _

/-- An A-cycle of running clocks joins the signal counters and counts the time on. -/
theorem clockTick_running {s : State} (ha : alive s = true) (hg : s.hl.gated = false) :
    ∃ u, Reported s u ∧ clockTick s = { u with
      tick := u.tick + 1, wall := u.wall + wallStep u, ctb := u.ctb + 6 + BitVec.ofNat 64 u.stretch, stretch := 0,
      globalTick := if u.counting then u.globalTick + 1 else u.globalTick } := by
  refine ⟨_, Reported.foldl (fun s n => foldSignals_reported s n (getTiller s n)) (List.range 53) s, ?_⟩
  unfold clockTick
  rw [if_pos (by simp [ha, hg])]

theorem clockTick_stopped {s : State} (h : alive s = false ∨ s.hl.gated = true) : clockTick s = s := by
  unfold clockTick
  rw [if_neg (by rcases h with h | h <;> simp [h])]

/-- Six root cycles more are one Crop tick more, while CTB does not wrap (R25, R239). -/
theorem cropTick_six (c : W64) (q : Nat) (h : c.toNat + 6 < 2 ^ 64) :
    (4 * (c + 6).toNat + q + 12) / 24 = (4 * c.toNat + q + 12) / 24 + 1 := by
  rw [show (c + 6).toNat = c.toNat + 6 by rw [BitVec.toNat_add]; exact Nat.mod_eq_of_lt h]
  omega

theorem step_of_empty {s : State} (h : s.pending = []) : step s = .next (clockTick s) := by
  unfold step
  rw [h]

end Sys2Proof.Machine

namespace Sys2Proof

open Machine

/-- Settles O51: the signal counters' errors are reports, which leave the time, the memories and Granger alone. -/
theorem idleStepIsOneCycle : Obligations.IdleStepIsOneCycle := by
  intro s hp
  rw [step_of_empty hp]
  refine ⟨fun ha hg => ?_, fun h => by rw [clockTick_stopped h]⟩
  obtain ⟨u, ⟨_, _, _, _, _, rfl⟩, hc⟩ := clockTick_running ha hg
  rw [hc]
  refine ⟨_, rfl, rfl, rfl, rfl, rfl, fun h0 hw => ?_, rfl, rfl, hp, rfl, rfl, rfl⟩
  simpa [cropTick, h0] using cropTick_six s.ctb s.ctbQuarter hw

end Sys2Proof
end

section
/-!
PROOFS. Register writes of BAR0: which word a write reaches, and the fields it leaves in the configuration registers.
-/
namespace Sys2Proof.Machine

/-! ## Fields of the word written -/

/-- The low word of a value written has the value's fields below bit 32. -/
theorem field_lowWord (v : W64) {hi lo : Nat} (h : hi < 32) (hl : lo ≤ hi) :
    field (BitVec.ofNat 32 v.toNat) hi lo = field v hi lo := by
  apply Nat.eq_of_testBit_eq
  intro i
  rw [field_testBit, field_testBit, BitVec.toNat_ofNat, Nat.testBit_mod_two_pow]
  by_cases k : i < hi - lo + 1
  · rw [decide_eq_true (show lo + i < 32 by omega), Bool.true_and]
  · simp [k]

/-- A field that takes a register's value, or keeps another's where the write is out of range. -/
theorem field_setField_ite {w : Nat} (x y v : BitVec w) (hi lo : Nat) (P : Prop) [Decidable P] (h : lo ≤ hi) (hw : hi < w) :
    field (setField x hi lo (if P then field v hi lo else field y hi lo)) hi lo = if P then field v hi lo else field y hi lo := by
  rw [field_setField_same _ _ _ _ h hw]
  split <;> exact field_mod _ _ _

/-- The bit a bit write leaves, as a field. -/
theorem field_setBit_same {w : Nat} (x : BitVec w) (i : Nat) (b : Bool) (hw : i < w) : field (setBit x i b) i i = b.toNat := by
  unfold setBit
  rw [field_setField_same _ _ _ _ (Nat.le_refl i) hw, Nat.sub_self]
  exact Nat.mod_eq_of_lt (Bool.toNat_lt b)

/-- A bit of a register, as a field. -/
theorem bitOf_toNat {w : Nat} (x : BitVec w) (i : Nat) : (bitOf x i).toNat = field x i i := by
  unfold bitOf field bits
  rw [Nat.toNat_testBit, Nat.shiftRight_eq_div_pow, Nat.sub_self, Nat.zero_add, pow_one]

theorem bitOf_setBit_true {w : Nat} (x : BitVec w) {b : Nat} (hb : b < w) : bitOf (setBit x b true) b = true := by
  unfold bitOf setBit
  rw [setField_testBit _ _ _ _ _ (Nat.le_refl b) hb, if_pos ⟨Nat.le_refl b, Nat.le_refl b⟩, Nat.sub_self]
  rfl

/-- A field after it is raised, saturating. -/
theorem field_bump {w : Nat} (x : BitVec w) (hi lo n : Nat) (h : lo ≤ hi) (hw : hi < w) :
    field (bump x hi lo n) hi lo = min (field x hi lo + n) (2 ^ (hi - lo + 1) - 1) := by
  unfold bump
  rw [field_setField_same _ _ _ _ h hw]
  have := Nat.two_pow_pos (hi - lo + 1)
  exact Nat.mod_eq_of_lt (by omega)

/-! ## The configuration registers -/

theorem writeHlCfg_fields (s : State) (v : W32) : ∃ c : W32, writeHlCfg s v = { s with hl := { s.hl with cfg := c } }
    ∧ field c 27 16 = field v 27 16
    ∧ field c 15 0 = if 1 ≤ field v 15 0 ∧ field v 15 0 ≤ 1000 then field v 15 0 else field s.hl.cfg 15 0 := by
  refine ⟨_, rfl, ?_, field_setField_ite _ _ _ _ _ _ (by decide) (by decide)⟩
  rw [field_setField_other _ _ _ _ _ _ (by decide) (by decide) (by decide), field_setField_same _ _ _ _ (by decide) (by decide)]
  exact field_mod _ _ _

theorem writeCacheCfg_fields (s : State) (v : W32) : ∃ c : W32, writeCacheCfg s v = { s with cache := { s.cache with cfg := c } }
    ∧ field c 2 0 = field v 2 0
    ∧ field c 15 8 = if 1 ≤ field v 15 8 ∧ field v 15 8 ≤ 64 then field v 15 8 else field s.cache.cfg 15 8 := by
  refine ⟨_, rfl, ?_, field_setField_ite _ _ _ _ _ _ (by decide) (by decide)⟩
  rw [field_setField_other _ _ _ _ _ _ (by decide) (by decide) (by decide), field_setField_same _ _ _ _ (by decide) (by decide)]
  exact field_mod _ _ _

theorem writeCohCfg_fields (s : State) (v : W32) : ∃ c : W32, writeCohCfg s v = { s with cache := { s.cache with cohCfg := c } }
    ∧ (field v 1 0 ≠ 3 → field c 1 0 = field v 1 0) ∧ (field v 1 0 = 3 → c = s.cache.cohCfg) := by
  unfold writeCohCfg
  split
  · exact ⟨_, rfl, fun h => absurd ‹_› h, fun _ => rfl⟩
  · refine ⟨_, rfl, fun _ => ?_, fun h => absurd h ‹_›⟩
    rw [field_setField_same _ _ _ _ (by decide) (by decide)]
    exact field_mod _ _ _

theorem writeGleanCfg_fields (s : State) (v : W32) : ∃ c : W32, writeGleanCfg s v = { s with mem := { s.mem with gleanCfg := c } }
    ∧ field c 8 8 = field v 8 8
    ∧ field c 7 0 = if 1 ≤ field v 7 0 ∧ field v 7 0 ≤ 168 then field v 7 0 else field s.mem.gleanCfg 7 0 := by
  refine ⟨_, rfl, ?_, ?_⟩
  · rw [field_setBit_same _ _ _ (by decide), bitOf_toNat]
  · unfold setBit
    rw [field_setField_other _ _ _ _ _ _ (by decide) (by decide) (by decide)]
    exact field_setField_ite _ _ _ _ _ _ (by decide) (by decide)

theorem writeWainCfg_fields (s : State) (v : W32) : ∃ c : W32, writeWainCfg s v = { s with wain := { s.wain with cfg := c } }
    ∧ (field c 15 0 = if 1 ≤ field v 15 0 ∧ field v 15 0 ≤ 1000 then field v 15 0 else field s.wain.cfg 15 0)
    ∧ (field c 31 16 = if 1 ≤ field v 31 16 then field v 31 16 else field s.wain.cfg 31 16) := by
  refine ⟨_, rfl, ?_, field_setField_ite _ _ _ _ _ _ (by decide) (by decide)⟩
  rw [field_setField_other _ _ _ _ _ _ (by decide) (by decide) (by decide)]
  exact field_setField_ite _ _ _ _ _ _ (by decide) (by decide)

/-! ## Which word a write reaches -/

/-- A naturally aligned access of 4 or 8 bytes is one that R14 allows. -/
theorem goodAccess_aligned {off width : Nat} (hw : width = 4 ∨ width = 8) (hd : off % width = 0) : goodAccess off width = true := by
  rcases hw with rfl | rfl <;> simp [goodAccess, hd]

/-- An 8-byte block of BAR0 that is no writable 64-bit register. -/
structure NoWide (off : Nat) : Prop where
  hatch : off ≠ 0x21010
  ring : off ≠ 0x23008
  arrive : ¬ (0x27040 ≤ off ∧ off < 0x27040 + 4 * 8)
  windrows : ¬ (0x400000 ≤ off ∧ off < 0x800000)

theorem write64_none (s : State) {off : Nat} (h : NoWide off) (lo hi : Option W32) : write64 s off lo hi = none := by
  unfold write64
  rw [if_neg h.hatch, if_neg h.ring, if_neg h.arrive, if_neg h.windrows]

/-- Outside the 64-bit registers and BOOT_STATUS a word written is the write of a 32-bit register, where BAR0 is open. -/
theorem writeWord_narrow (s : State) {off : Nat} (v : W32) (hn : off ≠ 0x2000C) (h : NoWide off) (h4 : NoWide (off - 4)) :
    writeWord s off v = if bar0Open s then write32 s off v else s := by
  unfold writeWord
  rw [if_neg hn]
  cases bar0Open s
  · rfl
  · dsimp only [Bool.not_true]
    rw [if_neg (by decide), write64_none s h, write64_none s h4]
    split <;> rfl

/-- A 4-byte write of the host to HL_CFG, CACHE_CFG, COH_CFG, GLEAN_CFG or WAIN_CFG reaches that 32-bit register. -/
theorem registerWrite_config {s : State} {off : Nat} (v : W64) (ha : memAccess s = true) (hb : bar0Open s = true)
    (h : off ∈ [0x21000, 0x24000, 0x24010, 0x25004, 0x26000]) :
    exec (.registerWrite (.bar0 off) 4 v) s = .next (write32 s off (BitVec.ofNat 32 v.toNat)) := by
  simp only [List.mem_cons, List.not_mem_nil, or_false] at h
  have narrow : NoWide off ∧ NoWide (off - 4) := ⟨by constructor <;> omega, by constructor <;> omega⟩
  have good : goodAccess off 4 = true := goodAccess_aligned (.inl rfl) (by omega)
  change execRegisterWrite (.bar0 off) 4 v s = _
  simp only [execRegisterWrite, ha, good, Bool.not_true, Bool.false_eq_true, if_false, regWrite, if_true]
  rw [writeWord_narrow s _ (by omega) narrow.1 narrow.2, if_pos hb]

/-- The offsets where BAR0 holds nothing that can be written: the identification block past BOOT_STATUS, and what no table assigns
behind the error bank. -/
def Unwritable (off : Nat) : Prop := 0x20010 ≤ off ∧ off < 0x20100 ∨ 0x29000 ≤ off ∧ off < 0x400000

theorem Unwritable.noWide {off : Nat} (h : Unwritable off) : NoWide off := by
  unfold Unwritable at h
  constructor <;> omega

theorem Unwritable.noWide_below {off : Nat} (h : Unwritable off) : NoWide (off - 4) := by
  unfold Unwritable at h
  constructor <;> omega

theorem write32_unwritable (s : State) {off : Nat} (v : W32) (h : Unwritable off) : write32 s off v = s := by
  unfold Unwritable at h
  unfold write32
  repeat rw [if_neg (by omega)]

theorem writeWord_unwritable (s : State) {off : Nat} (v : W32) (h : Unwritable off) : writeWord s off v = s := by
  have hn : off ≠ 0x2000C := by unfold Unwritable at h; omega
  rw [writeWord_narrow s v hn h.noWide h.noWide_below, write32_unwritable s v h, ite_self]

/-- An aligned write where nothing can be written leaves the state as it is, whatever its width. -/
theorem regWrite_unwritable (s : State) {off width : Nat} (v : W64) (hw : width = 4 ∨ width = 8) (hd : off % width = 0) (h : Unwritable off) :
    regWrite s off width v = s := by
  unfold regWrite
  rcases hw with rfl | rfl
  · exact writeWord_unwritable s _ h
  · have h4 : Unwritable (off + 4) := by unfold Unwritable at h ⊢; omega
    rw [if_neg (by decide), write64_none s h.noWide, ite_self]
    dsimp only
    rw [writeWord_unwritable s _ h, writeWord_unwritable s _ h4]

end Sys2Proof.Machine

namespace Sys2Proof

open Machine

/-- Settles O15: the fields each configuration register is left with, and the words that reach no register. -/
theorem registerWritesFollowTheTables : Obligations.RegisterWritesFollowTheTables := by
  refine ⟨fun s v ha hb => ?_, fun s off width v ha hw hd hu => ?_⟩
  · have reach (off : Nat) (ho : off ∈ [0x21000, 0x24000, 0x24010, 0x25004, 0x26000]) := registerWrite_config v ha hb ho
    have low {hi lo : Nat} (h : hi < 32 ∧ lo ≤ hi) := field_lowWord v h.1 h.2
    refine ⟨?_, ?_, ?_, ?_, ?_⟩
    · obtain ⟨c, hc, vector, loss⟩ := writeHlCfg_fields s (BitVec.ofNat 32 v.toNat)
      rw [low (by decide)] at vector loss
      exact ⟨c, (reach 0x21000 (by decide)).trans (congrArg _ hc), vector, fun h => loss.trans (if_pos h), fun h => loss.trans (if_neg h)⟩
    · obtain ⟨c, hc, modes, pressure⟩ := writeCacheCfg_fields s (BitVec.ofNat 32 v.toNat)
      rw [low (by decide)] at modes pressure
      exact ⟨c, (reach 0x24000 (by decide)).trans (congrArg _ hc), modes, fun h => pressure.trans (if_pos h), fun h => pressure.trans (if_neg h)⟩
    · obtain ⟨c, hc, taken, reserved⟩ := writeCohCfg_fields s (BitVec.ofNat 32 v.toNat)
      rw [low (by decide)] at taken reserved
      exact ⟨c, (reach 0x24010 (by decide)).trans (congrArg _ hc), taken, reserved⟩
    · obtain ⟨c, hc, enable, period⟩ := writeGleanCfg_fields s (BitVec.ofNat 32 v.toNat)
      rw [low (by decide)] at enable period
      exact ⟨c, (reach 0x25004 (by decide)).trans (congrArg _ hc), enable, fun h => period.trans (if_pos h), fun h => period.trans (if_neg h)⟩
    · obtain ⟨c, hc, loss, remote⟩ := writeWainCfg_fields s (BitVec.ofNat 32 v.toNat)
      rw [low (by decide)] at loss remote
      exact ⟨c, (reach 0x26000 (by decide)).trans (congrArg _ hc), fun h => loss.trans (if_pos h), fun h => loss.trans (if_neg h),
        fun h => remote.trans (if_pos h), fun h => remote.trans (if_neg (by omega))⟩
  · change execRegisterWrite (.bar0 off) width v s = _
    simp only [execRegisterWrite, ha, goodAccess_aligned hw hd, Bool.not_true, Bool.false_eq_true, if_false]
    rw [regWrite_unwritable s v hw hd hu]

end Sys2Proof
end

section
/-!
PROOFS. Register reads: the value a read returns, what it clears, the sample behind a one-sample register, and configuration space.
-/
namespace Sys2Proof.Machine

/-! ## Words and halves -/

/-- A 64-bit number is its two words. -/
theorem bits_words {n : Nat} (h : n < 2 ^ 64) : bits n 31 0 + 2 ^ 32 * bits n 63 32 = n := by
  unfold bits
  rw [Nat.shiftRight_eq_div_pow, Nat.shiftRight_eq_div_pow]
  omega

/-- Clearing both words of a 64-bit register clears it. -/
theorem setField_words_zero (x : W64) : setField (setField x 31 0 0) 63 32 0 = 0 := by
  apply BitVec.eq_of_toNat_eq
  rw [setField_toNat _ _ _ _ (by decide) (by decide), setField_toNat _ _ _ _ (by decide) (by decide)]
  have := x.isLt
  change _ = 0
  omega

/-- Writing both halves of a 32-bit register leaves the two values, whatever it held. -/
theorem setField_halves (x : W32) (a b : Nat) :
    (setField (setField x 15 0 a) 31 16 b).toNat = a % 2 ^ 16 + 2 ^ 16 * (b % 2 ^ 16) := by
  rw [setField_toNat _ _ _ _ (by decide) (by decide), setField_toNat _ _ _ _ (by decide) (by decide)]
  have := x.isLt
  omega

/-! ## Reads that clear -/

/-- A host read of BAR0 outside D3hot. -/
theorem readToClear_bar0 {s : State} (ha : alive s = true) (hd : s.hl.d3hot = false) (off width : Nat) :
    exec (.readToClear (.bar0 off) width) s = .next (hostRegRead s off width) := by
  change execReadToClear (.bar0 off) width s = _
  simp [execReadToClear, ha, hd]

/-- A host read of BAR4 outside D3hot. -/
theorem readToClear_bar4 {s : State} (ha : alive s = true) (hd : s.hl.d3hot = false) (off width : Nat) :
    exec (.readToClear (.bar4 off) width) s = .next (doorbellRead s off width) := by
  change execReadToClear (.bar4 off) width s = _
  simp [execReadToClear, ha, hd]

/-- In D3hot a read of a memory range ends as Unsupported Request (R449). -/
theorem readToClear_d3hot {s : State} (ha : alive s = true) (hd : s.hl.d3hot = true) (off width : Nat) :
    exec (.readToClear (.bar0 off) width) s = .next (emit s .abortCompletion)
    ∧ exec (.readToClear (.bar4 off) width) s = .next (emit s .abortCompletion) := by
  constructor
  · change execReadToClear (.bar0 off) width s = _
    simp [execReadToClear, ha, hd]
  · change execReadToClear (.bar4 off) width s = _
    simp [execReadToClear, ha, hd]

/-- An aligned 4-byte read returns the word and clears its RC fields, and takes or uses a sample where the register has one. -/
theorem hostRegRead_word (s : State) {off : Nat} (h : off % 4 = 0) :
    hostRegRead s off 4 = emit (clearRc (read32 s .host off).2 off) (.completion (toLE 4 (read32 s .host off).1) false) := by
  unfold hostRegRead
  rw [goodAccess_aligned (.inl rfl) h]
  rfl

/-- An aligned 8-byte read returns both words and clears their RC fields. -/
theorem hostRegRead_long (s : State) {off : Nat} (h : off % 8 = 0) : hostRegRead s off 8
    = emit (clearRc (clearRc s off) (off + 4)) (.completion (toLE 8 (regWord s off + 2 ^ 32 * regWord s (off + 4))) false) := by
  unfold hostRegRead
  rw [goodAccess_aligned (.inr rfl) h]
  rfl

theorem read32_plain (s : State) (side : Side) {off : Nat} (h : oneSample (off - off % 8) = false) : read32 s side off = (regWord s off, s) := by
  unfold read32
  rw [h]
  rfl

/-- An 8-byte read of GRG_ERR returns the register and leaves zero (R522). -/
theorem hostRegRead_grgErr {s : State} (hb : bar0Open s = true) : hostRegRead s 0x22000 8
    = { s with out := s.out ++ [.completion (toLE 8 s.grg.err.toNat) false], grg := { s.grg with err := 0 } } := by
  have value : regWord s 0x22000 + 2 ^ 32 * regWord s 0x22004 = s.grg.err.toNat := by
    simp only [regWord, hb]
    exact bits_words s.grg.err.isLt
  have low : clearRc s 0x22000 = { s with grg := { s.grg with err := setField s.grg.err 31 0 0 } } := by
    simp [clearRc, hb]
  have high (e : W64) : clearRc { s with grg := { s.grg with err := e } } 0x22004
      = { s with grg := { s.grg with err := setField e 63 32 0 } } := by
    have isOpen : bar0Open { s with grg := { s.grg with err := e } } = true := hb
    simp [clearRc, isOpen]
  rw [hostRegRead_long s (by decide), value, low, high, setField_words_zero]
  rfl

/-- A 4-byte read of OWNER_REFUSE returns the register and leaves zero (R316). -/
theorem hostRegRead_ownerRefuse {s : State} (hb : bar0Open s = true) : hostRegRead s 0x2500C 4
    = { s with out := s.out ++ [.completion (toLE 4 s.mem.ownerRefuse.toNat) false], mem := { s.mem with ownerRefuse := 0 } } := by
  have value : regWord s 0x2500C = s.mem.ownerRefuse.toNat := by simp [regWord, hb, reg64, reg32]
  rw [hostRegRead_word s (by decide), read32_plain s _ (by decide), value]
  simp [clearRc, hb, emit]

/-- A 4-byte read of CACHE_CFG, which has no RC field, returns it. -/
theorem hostRegRead_cacheCfg {s : State} (hb : bar0Open s = true) : hostRegRead s 0x24000 4
    = { s with out := s.out ++ [.completion (toLE 4 s.cache.cfg.toNat) false] } := by
  have value : regWord s 0x24000 = s.cache.cfg.toNat := by simp [regWord, hb, reg64, reg32]
  rw [hostRegRead_word s (by decide), read32_plain s _ (by decide), value]
  simp [clearRc, hb, emit]

/-- A doorbell reads its Windrow's HEAD (R492). -/
theorem doorbellRead_head {s : State} (hf : s.hl.frozen = false) (hb : bar0Open s = true) (w : Nat) : doorbellRead s (64 * w) 4
    = { s with out := s.out ++ [.completion (toLE 4 (getWindrow s w).head.toNat) false] } := by
  have good : goodAccess (64 * w) 4 = true := goodAccess_aligned (.inl rfl) (by omega)
  unfold doorbellRead
  simp [hf, good, hb, emit]

/-- A frozen port ends a read of BAR4 with an error (R454). -/
theorem doorbellRead_frozen {s : State} (hf : s.hl.frozen = true) (off width : Nat) : doorbellRead s off width = emit s .abortCompletion := by
  unfold doorbellRead
  rw [hf]
  rfl

/-! ## Configuration space -/

/-- Of the fields the spec gives, word 0 of configuration space holds the vendor and the device (R427). -/
theorem cfgFields_identity (s : State) : (cfgFields s).filter (fun f => f.off == 0) = [⟨0x00, 0, 16, 0x1D8A⟩, ⟨0x00, 16, 16, 0x5940⟩] := by
  have caps : (capFields s).filter (fun f => f.off == 0) = [] := by
    unfold capFields extCaps
    cases profileP s <;> rfl
  unfold cfgFields
  rw [List.filter_append, List.filter_append, List.filter_append, caps]
  rfl

/-- A configuration read of offset 0 gives the device's identity, whatever the free bits are. -/
theorem cfgBytes_identity (s : State) : cfgBytes s 0 4 = toLE 4 0x59401D8A := by
  have word : (cfgWord s 0).toNat = 0x59401D8A := by
    unfold cfgWord
    rw [cfgFields_identity]
    exact setField_halves _ _ _
  unfold cfgBytes
  rw [show 0 - 0 % 4 = 0 from rfl, word]
  rfl

/-! ## One-sample registers -/

theorem oneSample_iff {off : Nat} :
    oneSample off = true ↔ off = 0x20010 ∨ off = 0x21028 ∨ off = 0x21030 ∨ 0x28040 ≤ off ∧ off < 0x28080 := by
  unfold oneSample
  rw [Bool.or_eq_true, Bool.or_eq_true, Bool.or_eq_true, Bool.and_eq_true, decide_eq_true_eq, decide_eq_true_eq, beq_iff_eq, beq_iff_eq,
    beq_iff_eq, or_assoc, or_assoc]

/-- The one-sample registers are none of those that reading clears. -/
theorem clearRc_oneSample (s : State) {off : Nat} (h : oneSample (off - off % 8) = true) : clearRc s off = s := by
  have place := oneSample_iff.1 h
  unfold clearRc
  by_cases hb : (!bar0Open s) = true
  · rw [if_pos hb]
  · rw [if_neg hb]
    extract_lets hi lo z block
    have hblock : block = off - off % 8 := rfl
    repeat rw [if_neg (by omega)]

/-- The holding registers after a low half is read: the side's own takes the high half, the other's is not touched. -/
theorem read32_low (s : State) (side : Side) {off : Nat} (h8 : off % 8 = 0) (ho : oneSample off = true) :
    read32 s side off = (regWord s off, keepHigh s side off) := by
  unfold read32
  rw [h8, Nat.sub_zero, ho]
  rfl

/-- The high half comes from the side's holding register. -/
theorem read32_high {s : State} {side : Side} {off : Nat} {v : W32} (h8 : off % 8 = 0) (ho : oneSample off = true)
    (hv : look none (holding s side) off = some v) : read32 s side (off + 4) = (v.toNat, s) := by
  unfold read32
  rw [show (off + 4) % 8 = 4 by omega, Nat.add_sub_cancel, ho, hv]
  rfl

theorem holding_keepHigh (s : State) (side : Side) (off : Nat) :
    look none (holding (keepHigh s side off) side) off = some (BitVec.ofNat 32 (regWord s (off + 4))) := by
  cases side
  · exact look_put_same none s.hl.holdHost off (some (BitVec.ofNat 32 (regWord s (off + 4))))
  · exact look_put_same none s.hl.holdTally off (some (BitVec.ofNat 32 (regWord s (off + 4))))

/-- LOW_HALF_READ of a one-sample register by the host returns the low half and keeps the high one. -/
theorem lowHalfRead_host {s : State} {off : Nat} (hm : memAccess s = true) (h8 : off % 8 = 0) (ho : oneSample off = true) :
    exec (.lowHalfRead .host off) s = .next (emit (keepHigh s .host off) (.completion (toLE 4 (regWord s off)) false)) := by
  change execLowHalfRead .host off s = _
  have clear : clearRc (keepHigh s .host off) off = keepHigh s .host off := clearRc_oneSample _ (by rw [h8]; exact ho)
  simp [execLowHalfRead, hm, h8, read32_low s .host h8 ho, clear]

/-- LOW_HALF_READ of a one-sample register over the Tally chain keeps the high half. -/
theorem lowHalfRead_tally {s : State} {off : Nat} (hm : memAccess s = true) (h8 : off % 8 = 0) (ho : oneSample off = true) :
    exec (.lowHalfRead .tally off) s = .next (keepHigh s .tally off) := by
  change execLowHalfRead .tally off s = _
  simp [execLowHalfRead, hm, h8, read32_low s .tally h8 ho]

/-- The host's read of a high half whose low half it has read returns the sample. -/
theorem hostRegRead_high {u : State} {off : Nat} {v : W32} (h8 : off % 8 = 0) (ho : oneSample off = true)
    (hv : look none u.hl.holdHost off = some v) :
    hostRegRead u (off + 4) 4 = emit u (.completion (toLE 4 v.toNat) false) := by
  have clear : clearRc u (off + 4) = u := clearRc_oneSample u (by rw [show off + 4 - (off + 4) % 8 = off by omega]; exact ho)
  have high : read32 u .host (off + 4) = (v.toNat, u) := read32_high h8 ho hv
  rw [hostRegRead_word u (by omega), high, clear]

/-- A memory access reaches the block: the clocks run and the function is in D0. -/
theorem memAccess_iff {s : State} : memAccess s = true ↔ alive s = true ∧ s.hl.d3hot = false := by
  simp [memAccess]

end Sys2Proof.Machine

namespace Sys2Proof

open Machine

/-- Settles O16: each read by its own lemma, and the sample by what the holding register of its side keeps. -/
theorem registerReadsFollowTheTables : Obligations.RegisterReadsFollowTheTables := by
  refine ⟨fun s ha => ⟨fun hm hb => ?_, ?_, fun hd off width => (readToClear_d3hot ha hd off width).1, fun h off width => ?_⟩,
    fun s off hm h8 ho => ⟨⟨_, lowHalfRead_host hm h8 ho, rfl, rfl, fun u hu hmu _ => ?_⟩,
      ⟨_, lowHalfRead_tally hm h8 ho, holding_keepHigh s .tally off, rfl, rfl⟩⟩⟩
  · have hd := (memAccess_iff.1 hm).2
    rw [readToClear_bar0 ha hd, readToClear_bar0 ha hd, readToClear_bar0 ha hd, hostRegRead_grgErr hb, hostRegRead_ownerRefuse hb,
      hostRegRead_cacheCfg hb]
    refine ⟨rfl, rfl, rfl, fun hf w => ?_⟩
    rw [readToClear_bar4 ha hd, doorbellRead_head hf hb]
  · change execReadToClear (.config 0) 4 s = _
    simp only [execReadToClear, ha, cfgBytes_identity]
    rfl
  · cases hd : s.hl.d3hot
    · have hf : s.hl.frozen = true := h.resolve_left (by simp [hd])
      rw [readToClear_bar4 ha hd, doorbellRead_frozen hf]
      rfl
    · exact (readToClear_d3hot ha hd off width).2
  · obtain ⟨hau, hdu⟩ := memAccess_iff.1 hmu
    have kept : look none u.hl.holdHost off = some (BitVec.ofNat 32 (regWord s (off + 4))) := by
      rw [hu]
      exact holding_keepHigh s .host off
    exact ⟨_, (readToClear_bar0 hau hdu _ _).trans (congrArg _ (hostRegRead_high h8 ho kept)), rfl⟩

end Sys2Proof
end

section
/-!
PROOFS. Faults of the pending table, the fault ring's signal, and completion timeouts of host requests.
-/
namespace Sys2Proof.Machine

/-! ## What the end or the resumption of a task leaves alone -/

/-- What waking or ending the tasks of a fault or a walk leaves alone: the host link, the host's memory, and of the translation unit the
pending faults, the misses and the shared TLB. -/
structure TaskFrame (s t : State) : Prop where
  hl : t.hl = s.hl
  hostMem : t.hostMem = s.hostMem
  faults : t.tr.faults = s.tr.faults
  misses : t.tr.misses = s.tr.misses
  shared : t.tr.shared = s.tr.shared

theorem TaskFrame.refl (s : State) : TaskFrame s s := ⟨rfl, rfl, rfl, rfl, rfl⟩

theorem TaskFrame.trans {s t u : State} (h : TaskFrame s t) (k : TaskFrame t u) : TaskFrame s u :=
  ⟨k.hl.trans h.hl, k.hostMem.trans h.hostMem, k.faults.trans h.faults, k.misses.trans h.misses, k.shared.trans h.shared⟩

theorem TaskFrame.foldl {α : Type} {g : State → α → State} (h : ∀ s x, TaskFrame s (g s x)) (l : List α) (s : State) :
    TaskFrame s (l.foldl g s) := by
  induction l generalizing s with
  | nil => exact .refl s
  | cons x l ih => exact (h s x).trans (ih (g s x))

/-- A report of an error touches no task's tables. -/
theorem Reported.taskFrame {s t : State} (h : Reported s t) : TaskFrame s t := by
  obtain ⟨_, _, _, _, _, rfl⟩ := h
  exact ⟨rfl, rfl, rfl, rfl, rfl⟩

theorem logError_taskFrame (s : State) (cls source inst address ctx detail : Nat) :
    TaskFrame s (logError s cls source inst address ctx detail) := (logRecord_reported s _).taskFrame

theorem completeSeq_taskFrame (s : State) (w : Nat) (seq : W32) (irq : Bool) (st : Byte) (detail : W32) (flags : Byte) :
    TaskFrame s (completeSeq s w seq irq st detail flags) := ⟨rfl, rfl, rfl, rfl, rfl⟩

theorem resumeRequester_taskFrame (s : State) (r : Requester) (id : W16) : TaskFrame s (resumeRequester s r id) := by
  cases r <;> exact ⟨rfl, rfl, rfl, rfl, rfl⟩

theorem failRequester_taskFrame (s : State) (r : Requester) (id : W16) (status : Byte) : TaskFrame s (failRequester s r id status) := by
  cases r with
  | command w seq => exact completeSeq_taskFrame s w seq _ _ _ _
  | tiller t => exact (planContained_reported s status).taskFrame
  | engineGroup a g x => exact ⟨rfl, rfl, rfl, rfl, rfl⟩
  | copyEngine c => exact ⟨rfl, rfl, rfl, rfl, rfl⟩
  | nobody => exact .refl s

theorem refuseCtx_taskFrame (s : State) (ctx : BitVec 20) (asked addr detail : Nat) (counted : Bool) :
    TaskFrame s (refuseCtx s ctx asked addr detail counted) := by
  cases counted <;> exact ⟨rfl, rfl, rfl, rfl, rfl⟩

theorem refuseWaiter_taskFrame (s : State) (r : Requester) (ctx : BitVec 20) (va : Nat) (reason status : Byte) :
    TaskFrame s (refuseWaiter s r ctx va reason status) := (refuseCtx_taskFrame s _ _ _ _ _).trans (failRequester_taskFrame _ _ _ _)

theorem unblock_taskFrame (s : State) (ctx : BitVec 20) : TaskFrame s (unblock s ctx) := by
  unfold unblock
  dsimp only
  split
  · exact ⟨rfl, rfl, rfl, rfl, rfl⟩
  · exact .refl s

/-! ## The pending table after a resolution -/

theorem missStale_stopped {m : Miss} (h : m.stopped = none) : (missStale m).stopped = none := by
  simp only [missStale, h, Option.isSome_none, Bool.false_eq_true, if_false]
  split
  · rfl
  · exact h

/-- Where no fault waits at its walker, a free slot of the pending table is taken by none. -/
theorem enterFaults_of_none {s : State} (h : ∀ m ∈ s.tr.misses, m.stopped = none) : enterFaults s = s := by
  unfold enterFaults
  rw [List.filter_eq_nil_iff.2 (fun m hm => by simp [h m hm])]
  rfl

theorem getFault_freeFault (s : State) (slot : Nat) : getFault (freeFault s slot) slot = none := look_put_same none s.tr.faults slot none

/-- What follows the freeing of a slot keeps it free, and lets no fault in where none waits at its walker. -/
theorem TaskFrame.keepsFree {s t : State} {slot : Nat} (frame : TaskFrame s t) (free : getFault s slot = none)
    (h : ∀ m ∈ s.tr.misses, m.stopped = none) : enterFaults t = t ∧ getFault t slot = none := by
  refine ⟨enterFaults_of_none (by rw [frame.misses]; exact h), ?_⟩
  unfold getFault
  rw [frame.faults]
  exact free

/-- After RETRY the slot is free and no translation of the page is left, where no fault waits at its walker (R411, R415). -/
theorem retryFault_frees {s : State} (slot : Nat) (f : Fault1) (h : ∀ m ∈ s.tr.misses, m.stopped = none) :
    getFault (retryFault s slot f) slot = none
    ∧ ∀ e ∈ (retryFault s slot f).tr.shared, overlaps s (some f.ctx) (4096 * f.page) (4096 * (f.page + 1)) e = false := by
  have frame := (TaskFrame.foldl (fun s r => resumeRequester_taskFrame s r (faultId slot f.gen)) f.waiters
    (invalidate (freeFault s slot) (some f.ctx) (4096 * f.page) (4096 * (f.page + 1)))).trans (unblock_taskFrame _ f.ctx)
  obtain ⟨entered, free⟩ := frame.keepsFree (getFault_freeFault s slot) fun m hm => by
    obtain ⟨m0, hm0, rfl⟩ := List.mem_map.1 hm
    split
    · exact missStale_stopped (h m0 hm0)
    · exact h m0 hm0
  rw [show retryFault s slot f = _ from entered]
  refine ⟨free, fun e he => ?_⟩
  rw [frame.shared] at he
  have kept := (List.mem_filter.1 he).2
  rw [Bool.not_eq_true'] at kept
  exact kept

/-- After FAIL the slot is free, where no fault waits at its walker (R411, R415). -/
theorem failFault_frees {s : State} (slot : Nat) (f : Fault1) (h : ∀ m ∈ s.tr.misses, m.stopped = none) :
    getFault (failFault s slot f) slot = none := by
  have frame := ((logError_taskFrame (freeFault s slot) clsContained srcAccess 0 f.va.toNat f.ctx.toNat f.reason.toNat).trans
    (TaskFrame.foldl (fun s r => failRequester_taskFrame s r (faultId slot f.gen) stFaultUnresolved) f.waiters _)).trans
    (unblock_taskFrame _ f.ctx)
  obtain ⟨entered, free⟩ := frame.keepsFree (getFault_freeFault s slot) h
  rw [show failFault s slot f = _ from entered]
  exact free

/-! ## Messages -/

/-- Of a state after a message, only what leaves, the pending bits and the held writes differ. -/
theorem signalVector_frame (s : State) (v : Nat) :
    ∃ out pba heldWrites, signalVector s v = { s with out, hl := { s.hl with pba, heldWrites } } := by
  unfold signalVector sendMsg
  split
  · exact ⟨_, _, _, rfl⟩
  · split
    · split <;> exact ⟨_, _, _, rfl⟩
    · split <;> exact ⟨_, _, _, rfl⟩

/-- An unmasked vector of a port that is not frozen sends its message. -/
theorem signalVector_sends {s : State} {v : Nat} {m : Out} (hm : vectorMsg s v = some m) (hu : vectorMasked s v = false)
    (hf : s.hl.frozen = false) : signalVector s v = emit s m := by
  unfold signalVector sendMsg
  rw [hm, hu, hf]
  rfl

/-! ## The fault ring's signal -/

/-- A µs has passed since the last signal of the ring, or there was none (R413). -/
def SignalDue (s : State) : Prop := ∀ t0, s.tr.lastSignal = some t0 → 1000 * wallUnit + t0 ≤ s.wall

/-- FAULT_RING_SIGNAL signals when a record waits and a signal is due, and does nothing otherwise. -/
theorem faultRingSignal_due {s : State} (hr : s.tr.frTail ≠ s.tr.frHead) (hd : SignalDue s) : exec .faultRingSignal s
    = .next { signalVector s (field s.tr.cfg 10 0) with
        tr := { (signalVector s (field s.tr.cfg 10 0)).tr with lastSignal := some s.wall } } := by
  change execFaultRingSignal s = _
  unfold execFaultRingSignal
  rw [if_pos]
  refine ⟨hr, ?_⟩
  cases hl : s.tr.lastSignal with
  | none => rfl
  | some t0 => exact decide_eq_true (hd t0 hl)

theorem faultRingSignal_empty {s : State} (hr : s.tr.frTail = s.tr.frHead) : exec .faultRingSignal s = .next s :=
  if_neg fun h => h.1 hr

theorem faultRingSignal_early {s : State} {t0 : Nat} (hl : s.tr.lastSignal = some t0) (hw : s.wall < 1000 * wallUnit + t0) :
    exec .faultRingSignal s = .next s := by
  change execFaultRingSignal s = _
  unfold execFaultRingSignal
  rw [hl]
  exact if_neg fun h => Nat.not_le_of_lt hw (of_decide_eq_true h.2)

/-! ## Completion timeouts -/

/-- The host link but for its outstanding requests. -/
def linkRest (s : State) : HostLink := { s.hl with hostReqs := [] }

theorem TaskFrame.linkRest {s t : State} (h : TaskFrame s t) : linkRest t = linkRest s := by
  unfold Machine.linkRest
  rw [h.hl]

theorem openHostReq_linkRest (s : State) (k : HostReqKind) (ctx : BitVec 20) (who : Requester) :
    linkRest (openHostReq s k ctx who) = linkRest s := by
  unfold openHostReq
  dsimp only
  split <;> rfl

theorem startWalk_linkRest (s : State) (i : Nat) : linkRest (startWalk s i) = linkRest s := by
  unfold startWalk
  split
  · split
    · dsimp only
      split
      · rfl
      · split
        · exact openHostReq_linkRest _ _ _ _
        · rfl
    · rfl
  · rfl

/-- A miss that ends and the walks that start then touch the outstanding requests of the host link at most. -/
theorem dropMiss_linkRest (s : State) (i : Nat) : linkRest (dropMiss s i) = linkRest s := by
  have walks (l : List Nat) (u : State) : linkRest (l.foldl startWalk u) = linkRest u := by
    induction l generalizing u with
    | nil => rfl
    | cons n l ih => exact (ih _).trans (startWalk_linkRest u n)
  refine (walks _ _).trans ?_
  unfold eraseMiss
  split <;> rfl

theorem loseMiss_taskFrame (status : Byte) (s : State) (m : Miss) : TaskFrame s (loseMiss status s m) := by
  refine TaskFrame.foldl (fun u w => ?_) m.waiters s
  exact refuseWaiter_taskFrame u w.1 m.ctx m.va rsTablePoison status

theorem loseFill_taskFrame (s : State) (l : LineAddr) : TaskFrame s (loseFill s l) := by
  unfold loseFill
  split
  · exact .refl s
  · extract_lets gone
    refine TaskFrame.trans ?_ (TaskFrame.foldl (fun u r => ?_) _ _)
    · exact ⟨rfl, rfl, rfl, rfl, rfl⟩
    · exact ⟨rfl, rfl, rfl, rfl, rfl⟩

theorem loseStore_taskFrame (s : State) (line : Nat) (r : HostReq) : TaskFrame s (loseStore s line r) := by
  have logged := logError_taskFrame s clsContained srcAccess 0 (2 ^ 52 + 64 * line) r.context.toNat 0
  unfold loseStore
  dsimp only
  split
  · exact logged.trans ⟨rfl, rfl, rfl, rfl, rfl⟩
  · exact logged.trans ⟨rfl, rfl, rfl, rfl, rfl⟩
  · exact logged.trans (planContained_reported _ _).taskFrame
  · exact logged

/-- The store of a command that is lost marks its Windrow (R370). -/
theorem loseStore_marks (s : State) (line : Nat) {r : HostReq} {w : Nat} {q : W32} (h : r.who = .command w q) :
    (getWindrow (loseStore s line r) w).targetLost = true := by
  unfold loseStore
  rw [h]
  exact congrArg Windrow.targetLost (getWindrow_setWindrow_same _ _ _)

/-- The timeout of an access touches neither the host link nor the host's memory. -/
theorem timeOut_access {s : State} {r : HostReq} (h : isAccess r.kind = true) : TaskFrame s (timeOut s r) := by
  unfold timeOut loseRequest
  split
  · rename_i hk
    rw [hk] at h
    cases h
  · split
    · exact loseStore_taskFrame s _ r
    · exact loseFill_taskFrame s _
    · exact .refl s

/-- The timeout of a request touches its outstanding requests of the host link at most. -/
theorem timeOut_linkRest (s : State) (r : HostReq) : linkRest (timeOut s r) = linkRest s := by
  cases hk : isAccess r.kind with
  | true => exact (timeOut_access hk).linkRest
  | false =>
    unfold timeOut
    split
    · split
      · split
        · exact (loseMiss_taskFrame _ _ _).linkRest.trans (dropMiss_linkRest s _)
        · rfl
      · rfl
    · rename_i hw
      cases hr : r.kind with
      | walk ctx page => exact absurd hr (hw ctx page)
      | cacheRead l own => rw [hr] at hk; cases hk
      | cacheWrite n d m => rw [hr] at hk; cases hk

/-- A walk whose host read times out ends as TABLE_POISON for every requester that waits on it (R409, R447). -/
theorem timeOut_walk {s : State} {r : HostReq} {ctx : BitVec 20} {page i : Nat} {m : Miss} (hk : r.kind = .walk ctx page)
    (hi : s.tr.misses.findIdx? (fun x => x.ctx == ctx && x.va / 4096 == page) = some i) (hm : s.tr.misses[i]? = some m) :
    timeOut s r = m.waiters.foldl (fun u w => refuseWaiter u w.1 m.ctx m.va rsTablePoison stFaultUnresolved) (dropMiss s i) := by
  unfold timeOut
  rw [hk]
  dsimp only
  rw [hi]
  dsimp only
  rw [hm]
  rfl

/-- An AER error before its severity is judged: its status bit, and its signal where the bit is new. -/
def aerNote (s : State) (b : Nat) : State :=
  if bitOf s.hl.aerStatus b then s
  else signalVector { s with hl := { s.hl with aerStatus := setBit s.hl.aerStatus b true } } (field s.hl.cfg 26 16)

theorem aerError_eq (s : State) (b : Nat) : aerError s b =
    if bitOf (aerNote s b).hl.aerSeverity b && !(aerNote s b).hl.frozen then freezePort (aerNote s b) .fatal else aerNote s b := rfl

theorem aerNote_frame (s : State) {b : Nat} (hb : b < 32) :
    ∃ out pba heldWrites aerStatus, aerNote s b = { s with out, hl := { s.hl with pba, heldWrites, aerStatus } }
      ∧ bitOf aerStatus b = true := by
  unfold aerNote
  split
  · exact ⟨_, _, _, _, rfl, ‹_›⟩
  · obtain ⟨out, pba, heldWrites, hs⟩ := signalVector_frame
      { s with hl := { s.hl with aerStatus := setBit s.hl.aerStatus b true } } (field s.hl.cfg 26 16)
    exact ⟨out, pba, heldWrites, _, hs, bitOf_setBit_true _ hb⟩

/-- An AER error that does not freeze the port sets its status bit and signals; of the host link it touches no more. -/
theorem aerError_frame {s : State} {b : Nat} (hb : b < 32) (h : s.hl.frozen = true ∨ bitOf s.hl.aerSeverity b = false) :
    ∃ out pba heldWrites aerStatus, aerError s b = { s with out, hl := { s.hl with pba, heldWrites, aerStatus } }
      ∧ bitOf aerStatus b = true := by
  obtain ⟨out, pba, heldWrites, aerStatus, noted, set⟩ := aerNote_frame s hb
  refine ⟨out, pba, heldWrites, aerStatus, ?_, set⟩
  have frozen : (aerNote s b).hl.frozen = s.hl.frozen := by rw [noted]
  have severity : (aerNote s b).hl.aerSeverity = s.hl.aerSeverity := by rw [noted]
  rw [aerError_eq, frozen, severity, if_neg (by rcases h with h | h <;> simp [h]), noted]

/-- A completion timeout of an outstanding request takes the request out, counts it, and logs it in AER. -/
theorem completionTimeout_outstanding {s : State} {tag : Nat} {r : HostReq} (h : s.hl.hostReqs.find? (fun q => q.tag == tag) = some r) :
    exec (.completionTimeout tag) s
      = .next (aerError (timeOut { s with hl := { s.hl with hostReqs := s.hl.hostReqs.erase r, err := bump s.hl.err 47 32 1 } } r) 14) := by
  change execCompletionTimeout tag s = _
  unfold execCompletionTimeout
  rw [h]

end Sys2Proof.Machine

namespace Sys2Proof

open Machine

/-- Settles O26: a resolution by what its tasks' ends leave alone, a timeout by the host link's other fields. -/
theorem faultEventsAndTimeoutsComplete : Obligations.FaultEventsAndTimeoutsComplete := by
  refine ⟨fun s => ⟨fun id slot f hp hn => ?_, fun slot f hf => ?_, faultRingSignal_empty, fun t0 => faultRingSignal_early,
    fun hr hd => ?_⟩, fun s tag r => ⟨fun h => ⟨fun hz => ?_, fun ctx page i m hk hi hm => ?_⟩, rfl⟩⟩
  · have response (ok : Bool) : exec (.pageResponse id ok) s
        = .next (if ok then retryResolved s slot f .internal (fun u => u) else failFault s slot f) := by
      change execPageResponse id ok s = _
      simp only [execPageResponse, hp, hn, Bool.false_eq_true, if_false]
      rfl
    refine ⟨fun hq => (response true).trans (congrArg _ (if_pos hq)),
      fun hq => (response true).trans (congrArg _ (if_neg (ne_true_of_eq_false hq))), response false, fun hw => ?_⟩
    obtain ⟨free, gone⟩ := retryFault_frees slot f hw
    exact ⟨free, failFault_frees slot f hw, gone⟩
  · have timeout : exec (.faultTimeout slot) s = .next (if f.recorded then failFault s slot f else s) := by
      change execFaultTimeout slot s = _
      unfold execFaultTimeout
      rw [hf]
    exact ⟨fun hr => timeout.trans (congrArg _ (if_pos hr)),
      fun hr => timeout.trans (congrArg _ (if_neg (ne_true_of_eq_false hr)))⟩
  · refine ⟨_, faultRingSignal_due hr hd, ?_, fun m hm hu hf => ?_⟩
    · obtain ⟨_, _, _, hs⟩ := signalVector_frame s (field s.tr.cfg 10 0)
      rw [hs]
    · rw [signalVector_sends hm hu hf]
      rfl
  · have rest := timeOut_linkRest { s with hl := { s.hl with hostReqs := s.hl.hostReqs.erase r, err := bump s.hl.err 47 32 1 } } r
    have frozen := congrArg HostLink.frozen rest
    have severity := congrArg HostLink.aerSeverity rest
    have counted := congrArg HostLink.err rest
    obtain ⟨_, _, _, _, logged, set⟩ := aerError_frame (show 14 < 32 by decide)
      (hz.imp frozen.trans fun h => (congrArg (bitOf · 14) severity).trans h)
    refine ⟨_, completionTimeout_outstanding h, ?_⟩
    rw [logged]
    refine ⟨?_, frozen, set, fun ha => congrArg HostLink.hostReqs (timeOut_access ha).hl, fun n d mask w q hk hw => ?_⟩
    · exact (congrArg (field · 47 32) counted).trans (field_bump _ _ _ _ (by decide) (by decide))
    · refine ⟨?_, (timeOut_access (by rw [hk]; rfl)).hostMem⟩
      unfold timeOut loseRequest
      rw [hk]
      exact loseStore_marks _ n hw
  · rw [completionTimeout_outstanding h]
    exact congrArg (fun u => Host.Outcome.next (aerError u 14)) (timeOut_walk hk hi hm)

end Sys2Proof
end

section
/-!
PROOFS. The Loft's size and grants, and the leases of Sheaves.
-/
namespace Sys2Proof.Machine

/-- What every operation of a succession leaves alone, the succession leaves alone. -/
theorem foldl_same {α β : Type} {g : State → α → State} (f : State → β) (h : ∀ s x, f (g s x) = f s) (l : List α) (s : State) :
    f (l.foldl g s) = f s := by
  induction l generalizing s with
  | nil => rfl
  | cons x l ih => exact (ih _).trans (h s x)

theorem done_cache (s : State) (h : CmdHdr) : (done s h).cache = s.cache := rfl

/-! ## The Loft (R337 to R341, R343) -/

/-- A number none of whose entries is kept reads as the default. -/
theorem look_filter_dropped {α : Type} (d : α) (t : Tbl α) (p : Nat × α → Bool) (k : Nat) (h : ∀ v, p (k, v) = false) :
    look d (t.filter p) k = d := by
  induction t with
  | nil => rfl
  | cons e t ih =>
    obtain ⟨i, v⟩ := e
    by_cases hp : p (i, v) = true
    · have hk : k ≠ i := fun e => by rw [← e, h v] at hp; cases hp
      rw [List.filter_cons_of_pos hp, look, if_neg hk, ih]
    · rw [List.filter_cons_of_neg hp, ih]

/-- A Loft of W ways has neither owners nor contents beyond them (R340). -/
theorem resizeLoft_cache (s : State) (w : Nat) : (resizeLoft s w).cache.loftWays = w
    ∧ (∀ g, 8 * w ≤ g → look 0 (resizeLoft s w).cache.loftOwner g = 0)
    ∧ ∀ a, 2 ^ 24 * w ≤ a → look 0 (resizeLoft s w).cache.loft.data a = 0 :=
  ⟨rfl, fun _ hg => look_filter_dropped _ _ _ _ fun _ => decide_eq_false (Nat.not_lt.2 hg),
    fun _ ha => look_filter_dropped _ _ _ _ fun _ => decide_eq_false (Nat.not_lt.2 ha)⟩

/-- The state in which a LOFT_CONFIG acts: BUSY stands for the others in progress (R343). -/
def loftTaken (s : State) (h : CmdHdr) : State := { s with cache := { s.cache with loftBusy := otherLoftConfig s h } }

theorem admitted_loftTaken {s : State} {h : CmdHdr} {priv skip : Bool} (ha : Admitted s h priv skip) :
    Admitted (loftTaken s h) h priv skip := ⟨ha.up, ha.priv, ha.lock, ha.context, ha.bound⟩

/-- LOFT_CONFIG RESIZE of a number of ways in its range, down to what the running plan needs (R218, R340). -/
theorem loftConfig_resize {s : State} {h : CmdHdr} {ways : Byte} (first count : Byte) (entry : W32) (ha : Admitted s h true false)
    (hw : ways.toNat ≤ 14) (he : ways.toNat % 2 = 0) (hn : ∀ need, runningLoftWays s = some need → need ≤ ways.toNat) :
    exec (.loftConfig h 0 ways first count entry) s = .next (done (resizeLoft (loftTaken s h) ways.toNat) h) := by
  have inRange : (decide (14 < ways.toNat) || ways.toNat % 2 != 0) = false := by simp [he]; omega
  change execLoftConfig h 0 ways first count entry s = _
  unfold execLoftConfig
  rw [if_neg (by simp [ha.up])]
  refine (command_admitted _ (admitted_loftTaken ha)).trans (congrArg _ ?_)
  rw [if_pos rfl, inRange, guardCodes_ok, guardCodes_nil]
  split
  · next need hr => exact if_neg (Nat.not_lt.2 (hn need hr))
  · rfl

/-- LOFT_CONFIG GRANT within the size of the Loft (R338, R339). -/
theorem loftConfig_grant {s : State} {h : CmdHdr} {first count : Byte} {entry : W32} (ways : Byte) (ha : Admitted s h true false)
    (hl : field entry 19 0 = 0) (hm : field entry 26 24 = 0) (hh : field entry 31 27 = 0) (hc : field entry 21 20 ≠ 3) (h0 : count ≠ 0)
    (hs : first.toNat + count.toNat ≤ 8 * s.cache.loftWays) :
    exec (.loftConfig h 1 ways first count entry) s = .next (done { loftTaken s h with cache := { (loftTaken s h).cache with
      loftOwner := putAll 0 s.cache.loftOwner first.toNat (List.replicate count.toNat (grantEntry h.context entry)) } } h) := by
  have inRange : (count == 0 || decide (8 * (loftTaken s h).cache.loftWays < first.toNat + count.toNat)) = false := by
    rw [beq_eq_false_iff_ne.2 h0, Bool.false_or]
    exact decide_eq_false (Nat.not_lt.2 hs)
  change execLoftConfig h 1 ways first count entry s = _
  unfold execLoftConfig
  rw [if_neg (by simp [ha.up])]
  rw [hl, hm, hh, beq_eq_false_iff_ne.2 hc]
  refine (command_admitted _ (admitted_loftTaken ha)).trans (congrArg _ ?_)
  rw [if_neg (by decide), if_pos rfl, inRange, guardCodes_ok, guardCodes_nil]
  rfl

/-- A field is 0 when every bit of it is. -/
theorem field_eq_zero {w : Nat} {x : BitVec w} {hi lo : Nat} (h : lo ≤ hi) :
    field x hi lo = 0 ↔ ∀ i, lo ≤ i → i ≤ hi → x.toNat.testBit i = false := by
  constructor
  · intro hz i h1 h2
    have bit := congrArg (Nat.testBit · (i - lo)) hz
    simpa [field_testBit, show i - lo < hi - lo + 1 by omega, show lo + (i - lo) = i by omega] using bit
  · intro hb
    apply Nat.eq_of_testBit_eq
    intro i
    by_cases hi : i < hi - lo + 1
    · rw [field_testBit, hb (lo + i) (by omega) (by omega), Bool.and_false, Nat.zero_testBit]
    · simp [field_testBit, hi]

/-- A part of a field that is 0. -/
theorem field_zero_part {w : Nat} {x : BitVec w} {hi lo hi' lo' : Nat} (hz : field x hi lo = 0) (hl : lo ≤ lo') (h : lo' ≤ hi') (hh : hi' ≤ hi) :
    field x hi' lo' = 0 :=
  (field_eq_zero h).2 fun i h1 h2 => (field_eq_zero (hl.trans (h.trans hh))).1 hz i (hl.trans h1) (h2.trans hh)

/-- A field whose upper part is 0 is the field below that. -/
theorem field_zero_top {w : Nat} {x : BitVec w} {hi mid lo : Nat} (hz : field x hi (mid + 1) = 0) (hl : lo ≤ mid) (hm : mid < hi) :
    field x hi lo = field x mid lo := by
  apply Nat.eq_of_testBit_eq
  intro i
  rw [field_testBit, field_testBit]
  by_cases h1 : i < mid - lo + 1
  · simp [h1, show i < hi - lo + 1 by omega]
  · by_cases h2 : i < hi - lo + 1
    · simp [h1, (field_eq_zero hm).1 hz (lo + i) (by omega) (by omega)]
    · simp [h1, h2]

/-! ## Leases (R20, R113, R478) -/

theorem mem_sheavesOf {n mask : Nat} (h : n < 16) : n ∈ sheavesOf mask ↔ mask.testBit n = true := by
  simp [sheavesOf, h]

theorem lt_of_mem_sheavesOf {n mask : Nat} (h : n ∈ sheavesOf mask) : n < 16 := List.mem_range.1 (List.mem_filter.1 h).1

/-- A mask of 16 bits that is not 0 names a Sheaf. -/
theorem exists_mem_sheavesOf {m : W16} (h : m ≠ 0) : ∃ n, n ∈ sheavesOf m.toNat := by
  by_contra none
  apply h
  apply BitVec.eq_of_getLsbD_eq
  intro i hi
  have := not_exists.1 none i
  rw [mem_sheavesOf hi] at this
  simpa [BitVec.getLsbD] using this

/-- Taking Sheaves gives each of them the lease, and no other. -/
theorem leaseTake_foldl_lease (l : Lease) (ns : List Nat) (s : State) (n : Nat) :
    (getSheaf (ns.foldl (fun s k => leaseTake s k l) s) n).lease = if n ∈ ns then some l else (getSheaf s n).lease := by
  induction ns generalizing s with
  | nil => rfl
  | cons k ns ih =>
    rw [List.foldl_cons, ih, leaseTake, getSheaf_setSheaf]
    by_cases hk : n = k
    · subst hk; simp
    · simp [hk]

theorem freeBuf_frame (s : State) (k : Nat) : (freeBuf s k).sheaves = s.sheaves ∧ (freeBuf s k).grg = s.grg ∧ (freeBuf s k).slots = s.slots := by
  unfold freeBuf
  dsimp only
  split <;> exact ⟨rfl, rfl, rfl⟩

/-- An answer of the engine port touches its attachments and what leaves only. -/
theorem epAnswer_frame (s : State) (att : Nat) (tag : BitVec 12) (status : BitVec 4) (lanes : List (Nat × BitVec 128)) (id : W16) (flags : Byte) :
    (epAnswer s att tag status lanes id flags).sheaves = s.sheaves ∧ (epAnswer s att tag status lanes id flags).grg = s.grg
      ∧ (epAnswer s att tag status lanes id flags).slots = s.slots := by
  unfold epAnswer
  extract_lets x err answered sent
  split
  · exact freeBuf_frame _ _
  · exact ⟨rfl, rfl, rfl⟩

theorem leaseEnd_grg (s : State) (n : Nat) : (leaseEnd s n).grg = s.grg := by
  unfold leaseEnd
  split
  · rfl
  · exact foldl_same State.grg (fun _ _ => (epAnswer_frame _ _ _ _ _ _ _).2.1) _ _

/-- The end of a Sheaf's lease ends that of no other. -/
theorem leaseEnd_lease (s : State) (n m : Nat) : (getSheaf (leaseEnd s n) m).lease = if m = n then none else (getSheaf s m).lease := by
  unfold leaseEnd
  split
  · next h => split
              · next e => rw [e, h]
              · rfl
  · rw [getSheaf_emit, getSheaf_setSheaf]
    split
    · rfl
    · next hm =>
      unfold clearSheaf
      rw [getSheaf_setSheaf, if_neg hm]
      exact congrArg (fun t => (look {} t m).lease) (foldl_same State.sheaves (fun _ _ => (epAnswer_frame _ _ _ _ _ _ _).1) _ _)

theorem leaseEnd_foldl_lease (ns : List Nat) (s : State) (n : Nat) :
    (getSheaf (ns.foldl leaseEnd s) n).lease = if n ∈ ns then none else (getSheaf s n).lease := by
  induction ns generalizing s with
  | nil => rfl
  | cons k ns ih =>
    rw [List.foldl_cons, ih, leaseEnd_lease]
    by_cases hk : n = k
    · subst hk; simp
    · simp [hk]

/-- ENGINE_LEASE LEASE of free Sheaves takes them and stays in progress (R219, R516). -/
theorem engineLease_take {s : State} {h : CmdHdr} {attach : Byte} {sheaves : W16} (ha : Admitted s h true false)
    (hp : attPresent s attach.toNat = true) (h0 : sheavesOf sheaves.toNat ≠ [])
    (hf : ∀ n ∈ sheavesOf sheaves.toNat, (runningMask s).testBit n = false ∧ (getSheaf s n).lease = none) :
    exec (.engineLease h 0 attach sheaves) s = .next (stayInProgress
      ((sheavesOf sheaves.toNat).foldl (fun s n => leaseTake s n ⟨attach.toNat, h.context, false, false⟩) s) h (.engineLease h 0 attach sheaves)) := by
  have free : (sheavesOf sheaves.toNat).any (fun n => (runningMask s).testBit n || (getSheaf s n).lease.isSome) = false := by
    rw [List.any_eq_false]
    intro n hn
    simp [hf n hn]
  change execEngineLease h 0 attach sheaves s = _
  unfold execEngineLease
  refine (command_admitted _ ha).trans (congrArg _ ?_)
  simp only [hp, show decide (1 < (0 : Byte).toNat) = false from rfl, Bool.not_true, Bool.or_false, guardCodes_ok, guardCodes_nil]
  rw [if_pos trivial, free, if_neg (by decide), if_neg (by simpa using h0)]

/-- ENGINE_LEASE RELEASE of Sheaves that its context holds through that attachment ends each lease (R478). -/
theorem engineLease_release {s : State} {h : CmdHdr} {attach : Byte} {sheaves : W16} (ha : Admitted s h true false)
    (hp : attPresent s attach.toNat = true)
    (hl : ∀ n ∈ sheavesOf sheaves.toNat, ∃ l, (getSheaf s n).lease = some l ∧ l.att = attach.toNat ∧ l.context = h.context ∧ l.byPlan = false) :
    exec (.engineLease h 1 attach sheaves) s = .next (done ((sheavesOf sheaves.toNat).foldl leaseEnd s) h) := by
  change execEngineLease h 1 attach sheaves s = _
  unfold execEngineLease
  refine (command_admitted _ ha).trans (congrArg _ ?_)
  simp only [hp, show decide (1 < (1 : Byte).toNat) = false from rfl, Bool.not_true, Bool.or_false, guardCodes_ok, guardCodes_nil]
  rw [if_neg (by decide), if_pos]
  rw [List.all_eq_true]
  intro n hn
  obtain ⟨l, hs, hatt, hctx, hplan⟩ := hl n hn
  simp [hs, hatt, hctx, hplan]

/-- A command that stays in progress is listed. -/
theorem stayInProgress_listed (s : State) (h : CmdHdr) (c : Instr) : ∃ p ∈ (getWindrow (stayInProgress s h c) h.windrow).inprog, p.seq = h.seq := by
  unfold stayInProgress
  dsimp only
  split
  · next hp =>
    obtain ⟨p, hm, he⟩ := List.any_eq_true.1 hp
    exact ⟨p, hm, by simpa using he⟩
  · rw [getWindrow_setWindrow_same]
    exact ⟨_, List.mem_append_right _ (List.mem_singleton_self _), rfl⟩

theorem stayInProgress_sheaves (s : State) (h : CmdHdr) (c : Instr) : (stayInProgress s h c).sheaves = s.sheaves := by
  unfold stayInProgress
  dsimp only
  split <;> rfl

/-- LEASE_BEGIN of a lease that has not begun begins it; then commands whose Sheaves have all begun complete (R113, R478). -/
theorem leaseBegin_begins {s : State} {n : Nat} {l : Lease} (hs : (getSheaf s n).lease = some l) (hb : l.begun = false) :
    ∃ ready : List CmdHdr, exec (.leaseBegin n) s = .next (ready.foldl done (leaseBegins s n)) := by
  change ∃ ready, execLeaseBegin n s = _
  unfold execLeaseBegin
  rw [hs]
  exact ⟨_, if_neg (by simp [hb])⟩

/-- The begin of a lease, as it leaves the Sheaves and what is sent. -/
theorem leaseBegins_eq {s : State} {n : Nat} {l : Lease} (hs : (getSheaf s n).lease = some l) : leaseBegins s n
    = emit (setSheaf s n { getSheaf s n with
        lease := some { l with begun := true }, store := {}, buf0 := {}, buf1 := {}, regions := [], portRegion := none
        gmLoads := 0, gmPasses := 0, portFlags := [] }) (.epLease l.att (BitVec.ofNat 16 (2 ^ n)) true l.context) := by
  unfold leaseBegins clearSheaf
  rw [hs]
  simp only [getSheaf_setSheaf_same, setSheaf_setSheaf]

end Sys2Proof.Machine

namespace Sys2Proof

open Machine

/-- Settles O10: the commands run their bodies, and of what these leave the Loft's size and the Sheaves' leases are read off. -/
theorem loftAndLeaseCommandsComplete : Obligations.LoftAndLeaseCommandsComplete := by
  refine ⟨fun s h ways first count entry ha => ⟨fun hw he hn => ?_, fun hl hh hc h0 hs => ?_⟩,
    fun s h attach sheaves ha hp => ⟨fun h0 hf => ?_, fun hl => ?_, fun n l hs hb => ?_⟩⟩
  · refine ⟨_, loftConfig_resize first count entry ha hw he hn, complete_answered _ _ _ _ _, ?_⟩
    rw [done_cache]
    exact resizeLoft_cache _ _
  · refine ⟨_, loftConfig_grant ways ha hl (field_zero_part hh (by decide) (by decide) (by decide))
      (field_zero_part hh (by decide) (by decide) (by decide)) hc h0 hs, rfl, fun g => ?_⟩
    rw [done_cache]
    simp only [look_putAll, List.length_replicate]
    split
    · next hg =>
      have top : field entry 26 20 = field entry 23 20 :=
        field_zero_top (field_zero_part hh (by decide) (by decide) (by decide)) (by decide) (by decide)
      rw [List.getD_replicate _ (by omega), grantEntry, top]
    · rfl
  · refine ⟨_, engineLease_take ha hp ?_ fun n hn => ?_, fun n hn => ?_, stayInProgress_listed _ _ _⟩
    · obtain ⟨n, hn⟩ := exists_mem_sheavesOf h0
      exact List.ne_nil_of_mem hn
    · exact hf n (lt_of_mem_sheavesOf hn) ((mem_sheavesOf (lt_of_mem_sheavesOf hn)).1 hn)
    · have taken := leaseTake_foldl_lease ⟨attach.toNat, h.context, false, false⟩ (sheavesOf sheaves.toNat) s n
      simp only [mem_sheavesOf hn] at taken
      rw [← taken]
      exact congrArg (fun t => (look {} t n).lease) (stayInProgress_sheaves _ _ _)
  · refine ⟨_, engineLease_release ha hp fun n hn => hl n (lt_of_mem_sheavesOf hn) ((mem_sheavesOf (lt_of_mem_sheavesOf hn)).1 hn), fun n hn => ?_,
      _, foldl_same State.grg leaseEnd_grg _ _, complete_answered _ _ _ _ _⟩
    exact (leaseEnd_foldl_lease _ _ _).trans (by simp only [mem_sheavesOf hn])
  · obtain ⟨ready, begun⟩ := leaseBegin_begins hs hb
    have sheaf (k : Nat) : getSheaf (ready.foldl done (leaseBegins s n)) k = getSheaf (leaseBegins s n) k :=
      foldl_same (g := done) (getSheaf · k) (fun _ _ => rfl) _ _
    have out : (ready.foldl done (leaseBegins s n)).out = (leaseBegins s n).out := foldl_same (g := done) State.out (fun _ _ => rfl) _ _
    rw [leaseBegins_eq hs] at begun sheaf out
    refine ⟨_, begun, ?_, out, fun k hk => ?_⟩
    · exact (sheaf n).trans (getSheaf_setSheaf_same _ _ _)
    · exact (sheaf k).trans (getSheaf_setSheaf_ne _ _ hk)

end Sys2Proof
end

section
/-!
PROOFS. Control messages between the members of a Crop: what taking them in and queueing them leaves alone.
-/
namespace Sys2Proof.Machine

/-- Two states differ in their Wain links at most. -/
def LinksOnly (s t : State) : Prop := ∃ links, t = { s with wain := { s.wain with links := links } }

namespace LinksOnly

variable {s t u : State}

theorem refl (s : State) : LinksOnly s s := ⟨_, rfl⟩

theorem trans (h : LinksOnly s t) (k : LinksOnly t u) : LinksOnly s u := by
  obtain ⟨_, rfl⟩ := h
  obtain ⟨links, rfl⟩ := k
  exact ⟨links, rfl⟩

theorem foldl {α : Type} {g : State → α → State} (h : ∀ s x, LinksOnly s (g s x)) (l : List α) (s : State) : LinksOnly s (l.foldl g s) := by
  induction l generalizing s with
  | nil => exact .refl s
  | cons x l ih => exact (h s x).trans (ih _)

end LinksOnly

theorem setLink_linksOnly (s : State) (n : Nat) (x : WainLink) : LinksOnly s (setLink s n x) := ⟨_, rfl⟩

/-- Two states differ by control messages at most: of each link some have been taken in, and some have joined its queue behind the others. -/
structure Posted (s t : State) : Prop where
  frame : LinksOnly s t
  link : ∀ k, ∃ inbox more, getLink t k = { getLink s k with inbox := inbox, ctrl := (getLink s k).ctrl ++ more }

namespace Posted

variable {s t u : State}

theorem refl (s : State) : Posted s s := ⟨.refl s, fun k => ⟨(getLink s k).inbox, [], by rw [List.append_nil]⟩⟩

theorem trans (h : Posted s t) (k : Posted t u) : Posted s u := by
  refine ⟨h.frame.trans k.frame, fun n => ?_⟩
  obtain ⟨_, more, ht⟩ := h.link n
  obtain ⟨inbox, more', hu⟩ := k.link n
  exact ⟨inbox, more ++ more', by rw [hu, ht, List.append_assoc]⟩

theorem foldl {α : Type} {g : State → α → State} (h : ∀ s x, Posted s (g s x)) (l : List α) (s : State) : Posted s (l.foldl g s) := by
  induction l generalizing s with
  | nil => exact .refl s
  | cons x l ih => exact (h s x).trans (ih _)

/-- A link's new messages, where the rest of it stays as it was. -/
theorem of_setLink (s : State) (n : Nat) (inbox more : List CtrlMsg) :
    Posted s (setLink s n { getLink s n with inbox := inbox, ctrl := (getLink s n).ctrl ++ more }) := by
  refine ⟨setLink_linksOnly s n _, fun k => ?_⟩
  rw [getLink_setLink]
  split
  · next h => subst h; exact ⟨inbox, more, rfl⟩
  · exact ⟨(getLink s k).inbox, [], by rw [List.append_nil]⟩

/-! What such states share. -/

theorem crop (h : Posted s t) : t.crop = s.crop := by obtain ⟨_, rfl⟩ := h.frame; rfl
theorem slots (h : Posted s t) : t.slots = s.slots := by obtain ⟨_, rfl⟩ := h.frame; rfl
theorem boot (h : Posted s t) : t.boot = s.boot := by obtain ⟨_, rfl⟩ := h.frame; rfl
theorem out (h : Posted s t) : t.out = s.out := by obtain ⟨_, rfl⟩ := h.frame; rfl
theorem time (h : Posted s t) : t.ctb = s.ctb ∧ t.ctbQuarter = s.ctbQuarter := by obtain ⟨_, rfl⟩ := h.frame; exact ⟨rfl, rfl⟩
theorem getWindrow (h : Posted s t) (n : Nat) : getWindrow t n = getWindrow s n := by obtain ⟨_, rfl⟩ := h.frame; rfl
theorem getForming (h : Posted s t) : getForming t = getForming s := congrArg Crop.forming h.crop
theorem ctbQuarters (h : Posted s t) : ctbQuarters t = ctbQuarters s := by obtain ⟨_, rfl⟩ := h.frame; rfl
theorem isCropRoot (h : Posted s t) : isCropRoot t = isCropRoot s := by unfold Machine.isCropRoot; rw [h.crop]
theorem ownTally (h : Posted s t) : ownTally t = ownTally s := by unfold Machine.ownTally; rw [h.boot]

theorem state (h : Posted s t) (k : Nat) : (getLink t k).state = (getLink s k).state := by obtain ⟨_, _, e⟩ := h.link k; rw [e]
theorem rt (h : Posted s t) (k : Nat) : (getLink t k).rt = (getLink s k).rt := by obtain ⟨_, _, e⟩ := h.link k; rw [e]
theorem rtSamples (h : Posted s t) (k : Nat) : (getLink t k).rtSamples = (getLink s k).rtSamples := by obtain ⟨_, _, e⟩ := h.link k; rw [e]
theorem peerTally (h : Posted s t) (k : Nat) : (getLink t k).peerTally = (getLink s k).peerTally := by obtain ⟨_, _, e⟩ := h.link k; rw [e]
theorem peerIdent (h : Posted s t) (k : Nat) : (getLink t k).peerIdent = (getLink s k).peerIdent := by obtain ⟨_, _, e⟩ := h.link k; rw [e]

/-- A message that waits to be sent goes on waiting. -/
theorem queued (h : Posted s t) {k : Nat} {m : CtrlMsg} (hm : m ∈ (getLink s k).ctrl) : m ∈ (getLink t k).ctrl := by
  obtain ⟨_, more, e⟩ := h.link k
  rw [e]
  exact List.mem_append_left more hm

theorem memberLink (h : Posted s t) : memberLink t = memberLink s := by
  funext k
  unfold Machine.memberLink peerInCrop
  rw [h.state, h.peerIdent, h.crop]

theorem memberLinks (h : Posted s t) : memberLinks t = memberLinks s := by unfold Machine.memberLinks; rw [h.memberLink]

theorem trainedLinks (h : Posted s t) : trainedLinks t = trainedLinks s := by
  unfold Machine.trainedLinks
  simp only [h.state]

theorem upLink (h : Posted s t) : upLink t = upLink s := by
  unfold Machine.upLink
  rw [h.memberLink, h.memberLinks, h.crop]

theorem probeLinks (h : Posted s t) : probeLinks t = probeLinks s := by
  unfold Machine.probeLinks
  rw [h.memberLinks, h.ownTally]
  simp only [h.peerTally]

theorem measured (h : Posted s t) : measured t = measured s := by
  unfold Machine.measured
  rw [h.probeLinks, h.isCropRoot, h.crop]
  simp only [h.rtSamples]

end Posted

theorem sendCtrl_posted (s : State) (n : Nat) (m : CtrlMsg) : Posted s (sendCtrl s n m) := .of_setLink s n (getLink s n).inbox [m]

theorem takeFrom_posted (s : State) (n : Nat) (m : CtrlMsg) : Posted s (takeFrom s n m) := by
  have taken := Posted.of_setLink s n ((getLink s n).inbox.erase m) []
  rw [List.append_nil] at taken
  unfold takeFrom
  dsimp only
  split
  · exact taken
  · exact .refl s

theorem takeMsg_posted (s : State) (m : CtrlMsg) : Posted s (takeMsg s m) := by
  unfold takeMsg
  split
  · exact takeFrom_posted s _ m
  · exact .refl s

theorem sendAll_posted (s : State) (l : List Nat) (m : CtrlMsg) : Posted s (sendAll s l m) := .foldl (fun s n => sendCtrl_posted s n m) l s

theorem getLink_sendCtrl (s : State) (n : Nat) (m : CtrlMsg) (k : Nat) :
    getLink (sendCtrl s n m) k = if k = n then { getLink s n with ctrl := (getLink s n).ctrl ++ [m] } else getLink s k :=
  getLink_setLink s n k _

theorem mem_ctrl_sendCtrl (s : State) (n : Nat) (m : CtrlMsg) : m ∈ (getLink (sendCtrl s n m) n).ctrl := by
  rw [getLink_sendCtrl, if_pos rfl]
  exact List.mem_append_right _ (List.mem_singleton_self m)

/-- A message of one of several operations stays queued where each of them leaves the queues' messages. -/
theorem foldl_queued {α : Type} {g : State → α → State} {k : Nat} {m : CtrlMsg} {x : α}
    (keeps : ∀ s x, m ∈ (getLink s k).ctrl → m ∈ (getLink (g s x) k).ctrl) (sent : ∀ s, m ∈ (getLink (g s x) k).ctrl) {l : List α} (hx : x ∈ l)
    (s : State) : m ∈ (getLink (l.foldl g s) k).ctrl := by
  have kept (l : List α) (s : State) (hm : m ∈ (getLink s k).ctrl) : m ∈ (getLink (l.foldl g s) k).ctrl := by
    induction l generalizing s with
    | nil => exact hm
    | cons y l ih => exact ih _ (keeps s y hm)
  induction l generalizing s with
  | nil => cases hx
  | cons y l ih =>
    rcases List.mem_cons.1 hx with rfl | hl
    · exact kept l _ (sent s)
    · exact ih hl _

/-- A message to several links joins the queue of each. -/
theorem mem_ctrl_sendAll {l : List Nat} {k : Nat} (hk : k ∈ l) (s : State) (m : CtrlMsg) : m ∈ (getLink (sendAll s l m) k).ctrl :=
  foldl_queued (fun s n => (sendCtrl_posted s n m).queued) (fun s => mem_ctrl_sendCtrl s k m) hk s

/-- Several messages to one link join its queue in their order, and no other queue. -/
theorem foldl_sendCtrl {α : Type} (f : α → CtrlMsg) (l : List α) (s : State) (n k : Nat) :
    getLink (l.foldl (fun s x => sendCtrl s n (f x)) s) k = if k = n then { getLink s n with ctrl := (getLink s n).ctrl ++ l.map f } else getLink s k := by
  induction l generalizing s with
  | nil =>
    split
    · next h => subst h; simp
    · rfl
  | cons x l ih =>
    rw [List.foldl_cons, ih, getLink_sendCtrl, if_pos rfl]
    split
    · simp
    · next h => rw [getLink_sendCtrl, if_neg h]

end Sys2Proof.Machine
end

section
/-!
PROOFS. How the command of a formation completes, and how a formation ends.
-/
namespace Sys2Proof.Machine

/-- The command of a formation has been answered: one reply more, with its SEQ and a STATUS (R496). -/
def Replied (s t : State) (r : RunReq) (st : Byte) : Prop :=
  ∃ q : ReplyRec, (getWindrow t r.windrow).replies = (getWindrow s r.windrow).replies ++ [q] ∧ q.seq = r.seq ∧ q.status = st

theorem Replied.of_posted {s u t : State} {r : RunReq} {st : Byte} (p : Posted s u) (h : Replied u t r st) : Replied s t r st := by
  unfold Replied at h ⊢
  rwa [p.getWindrow] at h

theorem completeSeq_replied (s : State) (r : RunReq) (st : Byte) (d : W32) (fl : Byte) :
    Replied s (completeSeq s r.windrow r.seq r.irq st d fl) r st :=
  ⟨_, congrArg Windrow.replies (getWindrow_setWindrow_same _ _ _), rfl, rfl⟩

/-- The end of a formation's command answers it, and touches besides it the formation and the translations that served the command. -/
theorem replyForming_replied {s : State} {r : RunReq} (st : Byte) (d : W32) (hr : (getForming s).req = some r) :
    Replied s (replyForming s st d) r st ∧ ∃ grg tr, replyForming s st d = { setForming s {} with grg, tr } := by
  unfold replyForming
  extract_lets f u
  rw [show f.req = some r from hr]
  exact ⟨completeSeq_replied u r st d 0, _, _, rfl⟩

theorem replyForming_member (s : State) (st : Byte) (d : W32) : (replyForming s st d).crop.member = s.crop.member := by
  unfold replyForming
  dsimp only
  split <;> rfl

/-- The confirmation of a binding (R233) answers the command with DONE and ends the formation; the slot's binding is final. -/
theorem confirmForming_replied {s : State} {r : RunReq} (startTo : Nat) (hr : (getForming s).req = some r) :
    let t := confirmForming s startTo
    Replied s t r stDone ∧ (getForming t).active = false ∧ t.crop.startTo = startTo ∧ (getSlot t (getForming s).slot).provisional = false
      ∧ t.wain = s.wain := by
  obtain ⟨replied, _, _, e⟩ := replyForming_replied (s := { setSlot s (getForming s).slot { getSlot s (getForming s).slot with
    provisional := false, forming := none } with crop := { s.crop with startTo := startTo } }) stDone 0 hr
  refine ⟨replied, ?_⟩
  rw [show confirmForming s startTo = _ from e]
  exact ⟨rfl, rfl, congrArg Slot.provisional (getSlot_setSlot_same _ _ _), rfl⟩

/-- A formation of a chip that is no member ends with the reply and with an empty Crop record; its slot returns (R231, R232). -/
theorem endForming_outsider {s : State} (st : Byte) (d : W32) (ha : (getForming s).active = true) (hm : s.crop.member = false) :
    ∃ y, endForming s st d = { replyForming (setSlot s (getForming s).slot y) st d with crop := {} } := by
  unfold endForming
  extract_lets f x x' y u
  have member : u.crop.member = false := (replyForming_member _ st d).trans hm
  rw [if_neg (by simp [f, ha]), if_neg (ne_true_of_eq_false member)]
  exact ⟨y, rfl⟩

theorem endForming_replied {s : State} {r : RunReq} (st : Byte) (d : W32) (ha : (getForming s).active = true) (hm : s.crop.member = false)
    (hr : (getForming s).req = some r) :
    Replied s (endForming s st d) r st ∧ (endForming s st d).crop = {} ∧ (endForming s st d).wain = s.wain := by
  obtain ⟨y, ended⟩ := endForming_outsider st d ha hm
  obtain ⟨replied, _, _, e⟩ := replyForming_replied (s := setSlot s (getForming s).slot y) st d hr
  rw [ended]
  exact ⟨replied, rfl, by rw [e]; rfl⟩

/-- The status that ends a command on ABORT: CROP_LOST for code 0, else BAD_PACKET (R231, R232). -/
theorem abortStatus_code (code : Byte) (pos : Nat) : (abortStatus code.toNat pos).1 = if code = 0 then stCropLost else stBadPacket := by
  unfold abortStatus
  simp only [show code.toNat = 0 ↔ code = 0 from BitVec.toNat_eq (y := 0) |>.symm]
  split <;> rfl

/-- What a formation that ends has sent goes on waiting in the links' queues. -/
theorem endForming_posted {s u : State} {r : RunReq} (st : Byte) (d : W32) (sent : Posted s u) (ha : (getForming s).active = true)
    (hm : s.crop.member = false) (hr : (getForming s).req = some r) :
    (endForming u st d).crop = {} ∧ Replied s (endForming u st d) r st ∧ ∀ k, getLink (endForming u st d) k = getLink u k := by
  obtain ⟨replied, crop, wain⟩ := endForming_replied st d (s := u) (r := r) (by rw [sent.getForming]; exact ha) (by rw [sent.crop]; exact hm)
    (by rw [sent.getForming]; exact hr)
  exact ⟨crop, replied.of_posted sent, fun k => by unfold getLink; rw [wain]⟩

/-- The root that refuses a formation tells every trained link and answers its own command (R231, R232). -/
theorem rootAbort_replied {s u : State} {r : RunReq} (code pos : Nat) (taken : Posted s u) (ha : (getForming s).active = true)
    (hm : s.crop.member = false) (hr : (getForming s).req = some r) :
    (rootAbort u code pos).crop = {} ∧ Replied s (rootAbort u code pos) r (abortStatus code pos).1
      ∧ ∀ k ∈ trainedLinks s, .abort (getForming s).cropId (BitVec.ofNat 8 code) pos true ∈ (getLink (rootAbort u code pos) k).ctrl := by
  obtain ⟨crop, replied, link⟩ := endForming_posted (abortStatus code pos).1 (abortStatus code pos).2
    (taken.trans (sendAll_posted u (trainedLinks u) (.abort (getForming u).cropId (BitVec.ofNat 8 code) pos true))) ha hm hr
  refine ⟨crop, replied, fun k hk => ?_⟩
  rw [← taken.getForming]
  exact (link k).symm ▸ mem_ctrl_sendAll (taken.trainedLinks.symm ▸ hk) _ _

end Sys2Proof.Machine
end

section
/-!
PROOFS. The messages of formation that pass checks, bindings and refusals on.
-/
namespace Sys2Proof.Machine

/-! ## Bindings reported (R230, R233) -/

/-- A binding that is confirmed once the children have been told (R233). -/
theorem confirmForming_told {s u : State} {r : RunReq} {startTo : Nat} (out : List Out) (told : Posted s u) (hr : (getForming s).req = some r)
    (children : ∀ k ∈ s.crop.children, .bindNotice startTo ∈ (getLink u k).ctrl) :
    let t := confirmForming { u with out := out } startTo
    Replied s t r stDone ∧ (getForming t).active = false ∧ t.crop.startTo = startTo ∧ (getSlot t (getForming s).slot).provisional = false
      ∧ ∀ k ∈ s.crop.children, .bindNotice startTo ∈ (getLink t k).ctrl := by
  obtain ⟨replied, ended, start, bound, wain⟩ := confirmForming_replied (s := { u with out := out }) startTo (r := r)
    (by rw [← hr, ← told.getForming]; rfl)
  refine ⟨Replied.of_posted told replied, ended, start, ?_, fun k hk => ?_⟩
  · rwa [show getForming { u with out := out } = getForming s from told.getForming] at bound
  · unfold getLink
    rw [wain]
    exact children k hk

theorem reportFigures_out (s : State) : ∃ out, reportFigures s = { s with out := out } := by
  unfold reportFigures
  split <;> exact ⟨_, rfl⟩

/-- The root whose last member has bound tells its children and completes with DONE (R233). -/
theorem rootComplete_replied {s : State} {r : RunReq} (ha : (getForming s).active = true) (hi : (getForming s).isRoot = true)
    (hal : (getForming s).aligned = true) (hn : (getForming s).nmember ≤ (getForming s).bound.length + 1) (hr : (getForming s).req = some r) :
    let t := rootComplete s
    Replied s t r stDone ∧ (getForming t).active = false ∧ t.crop.startTo = (getForming s).startTo
      ∧ (getSlot t (getForming s).slot).provisional = false
      ∧ ∀ k ∈ s.crop.children, .bindNotice (getForming s).startTo ∈ (getLink t k).ctrl := by
  obtain ⟨out, figures⟩ := reportFigures_out (sendAll s s.crop.children (.bindNotice (getForming s).startTo))
  have complete : rootComplete s = confirmForming { sendAll s s.crop.children (.bindNotice (getForming s).startTo) with out := out }
      (getForming s).startTo := by
    unfold rootComplete
    rw [← figures]
    exact if_pos (by simp [ha, hi, hal, hn])
  rw [complete]
  exact confirmForming_told out (sendAll_posted _ _ _) hr fun k hk => mem_ctrl_sendAll hk s _

/-- BIND_NOTICE at a member that has bound: it tells its children and completes with DONE (R230). -/
theorem bindNotice_replied {s : State} {r : RunReq} (startTo : Nat) (ha : (getForming s).active = true) (hi : (getForming s).isRoot = false)
    (hal : (getForming s).aligned = true) (hr : (getForming s).req = some r) :
    ∃ t, exec (.bindNotice startTo) s = .next t ∧ Replied s t r stDone ∧ (getForming t).active = false ∧ t.crop.startTo = startTo
      ∧ (getSlot t (getForming s).slot).provisional = false ∧ ∀ k ∈ s.crop.children, .bindNotice startTo ∈ (getLink t k).ctrl := by
  have taken := takeMsg_posted s (.bindNotice startTo)
  have told := taken.trans (sendAll_posted (takeMsg s (.bindNotice startTo)) s.crop.children (.bindNotice startTo))
  refine ⟨_, ?_, confirmForming_told s.out told hr fun k hk => mem_ctrl_sendAll hk _ _⟩
  change execBindNotice startTo s = _
  unfold execBindNotice
  dsimp only
  rw [taken.getForming, taken.crop, if_pos (by simp [ha, hi, hal]), ← told.out]

theorem exec_bindReport (link : Nat) (m : BindMsg) (s : State) : exec (.bindReport link m) s = execBindReport link m s := rfl

/-- BIND_REPORT of a binding at the root: it joins what is known (R233). -/
theorem bindReport_bound_root {s : State} {link pos : Nat} (hp : s.crop.parentLink = 0xFF) (ha : (getForming s).active = true)
    (hi : (getForming s).isRoot = true) (hn : pos ∉ (getForming s).bound) : exec (.bindReport link (.bound pos)) s
      = .next (rootComplete (setForming (takeFrom s link (.bindReport (.bound pos)))
          { getForming s with bound := (getForming s).bound ++ [pos] })) := by
  have taken := takeFrom_posted s link (.bindReport (.bound pos))
  rw [exec_bindReport]
  unfold execBindReport
  dsimp only
  rw [taken.crop, taken.getForming, if_pos hp, if_pos (by simp [ha, hi, hn])]

/-- The last binding that the root hears of completes its command with DONE (R233). -/
theorem bindReport_last_bound {s : State} {r : RunReq} {link pos : Nat} (hp : s.crop.parentLink = 0xFF) (ha : (getForming s).active = true)
    (hi : (getForming s).isRoot = true) (hn : pos ∉ (getForming s).bound) (hal : (getForming s).aligned = true)
    (hb : (getForming s).nmember ≤ (getForming s).bound.length + 2) (hr : (getForming s).req = some r) :
    ∃ t, exec (.bindReport link (.bound pos)) s = .next t ∧ Replied s t r stDone ∧ (getForming t).active = false
      ∧ (getSlot t (getForming s).slot).provisional = false
      ∧ ∀ k ∈ s.crop.children, .bindNotice (getForming s).startTo ∈ (getLink t k).ctrl := by
  have taken := takeFrom_posted s link (.bindReport (.bound pos))
  obtain ⟨replied, ended, -, bound, told⟩ := rootComplete_replied (s := setForming (takeFrom s link (.bindReport (.bound pos)))
    { getForming s with bound := (getForming s).bound ++ [pos] }) ha hi hal (by simpa [getForming, setForming] using hb) hr
  refine ⟨_, bindReport_bound_root hp ha hi hn, replied.of_posted taken, ended, bound, ?_⟩
  rw [← taken.crop]
  exact told

/-- BIND_REPORT of a binding at another member goes on towards the root (R233). -/
theorem bindReport_bound_member {s : State} {link pos : Nat} (hp : s.crop.parentLink ≠ 0xFF) (hm : s.crop.member = true) :
    exec (.bindReport link (.bound pos)) s
      = .next (sendCtrl (takeFrom s link (.bindReport (.bound pos))) s.crop.parentLink.toNat (.bindReport (.bound pos))) := by
  have taken := takeFrom_posted s link (.bindReport (.bound pos))
  rw [exec_bindReport]
  unfold execBindReport
  dsimp only
  rw [taken.crop, if_neg hp, if_pos hm]

/-- BIND_REPORT of the checks that the root has settled on (R231). -/
theorem bindReport_settled {s : State} {link : Nat} (js : List JoinMsg) (ha : (getForming s).active = true) (hi : (getForming s).isRoot = false)
    (hal : (getForming s).aligned = false) (hl : memberLink s link = true) : exec (.bindReport link (.settled js)) s
      = .next (setForming (takeFrom s link (.bindReport (.settled js))) { getForming s with joins := js, settled := true }) := by
  have taken := takeFrom_posted s link (.bindReport (.settled js))
  rw [exec_bindReport]
  unfold execBindReport
  dsimp only
  rw [taken.getForming, taken.memberLink, if_pos (by simp [ha, hi, hal, hl])]

/-- BIND_REPORT of a member's checks: a later round than those known joins them and is passed on, any other is dropped (R231). -/
theorem bindReport_checks {s : State} {link : Nat} (j : JoinMsg) (ha : (getForming s).active = true) (hal : (getForming s).aligned = false)
    (hs : (getForming s).settled = false) (hl : memberLink s link = true) :
    exec (.bindReport link (.checks j)) s
      = .next (if (getForming s).joins.any (fun k => k.tally == j.tally && decide (j.round ≤ k.round))
          then takeFrom s link (.bindReport (.checks j))
          else judgeForming (sendAll (setForming (takeFrom s link (.bindReport (.checks j))) { getForming s with joins := keepJoin (getForming s).joins j })
            ((memberLinks s).filter (fun n => n != link)) (.bindReport (.checks j)))) := by
  have taken := takeFrom_posted s link (.bindReport (.checks j))
  rw [exec_bindReport]
  unfold execBindReport
  dsimp only
  rw [taken.getForming, taken.memberLink]
  split
  · next h => rw [if_pos (by simpa [ha, hal, hs, hl] using h)]
  · next h =>
    rw [if_neg (by simpa [ha, hal, hs, hl] using h), ← taken.memberLinks]
    rfl

/-! ## Refusals and timeouts (R231, R232) -/

/-- A member gives a formation up: it tells links, and ends when it knows of no root (R232). -/
def giveUp (s : State) (f : Forming) (links : List Nat) (m : CtrlMsg) (st : Byte) (d : W32) : State :=
  let v := sendAll (setForming s { f with aborting := true }) links m
  if f.joins.any (fun j => j.isRoot) then v else endForming v st d

theorem giveUp_tells {s u : State} {r : RunReq} {links : List Nat} {m : CtrlMsg} (st : Byte) (d : W32) (taken : Posted s u)
    (ha : (getForming s).active = true) (hm : s.crop.member = false) (hr : (getForming s).req = some r) :
    let t := giveUp u (getForming s) links m st d
    (∀ k ∈ links, m ∈ (getLink t k).ctrl)
      ∧ ((∀ j ∈ (getForming s).joins, j.isRoot = false) → t.crop = {} ∧ Replied s t r st)
      ∧ ((∃ j ∈ (getForming s).joins, j.isRoot = true) → (getForming t).active = true ∧ (getForming t).aborting = true) := by
  have sent := sendAll_posted (setForming u { getForming s with aborting := true }) links m
  have told : ∀ k ∈ links, m ∈ (getLink (sendAll (setForming u { getForming s with aborting := true }) links m) k).ctrl :=
    fun k hk => mem_ctrl_sendAll hk _ _
  unfold giveUp
  generalize sendAll (setForming u { getForming s with aborting := true }) links m = v at sent told
  have forming : getForming v = { getForming s with aborting := true } := sent.getForming
  by_cases known : (getForming s).joins.any (fun j => j.isRoot) = true
  · simp only [known, if_true]
    refine ⟨told, fun no => ?_, fun _ => by rw [forming]; exact ⟨ha, rfl⟩⟩
    obtain ⟨j, hj, root⟩ := List.any_eq_true.1 known
    exact absurd root (ne_true_of_eq_false (no j hj))
  · simp only [known]
    obtain ⟨crop, replied, link⟩ := endForming_posted (r := r) st d sent ha ((congrArg Crop.member taken.crop).trans hm) hr
    refine ⟨fun k hk => ?_, fun _ => ⟨crop, Replied.of_posted taken replied⟩, fun root => absurd (List.any_eq_true.2 root) known⟩
    rw [if_neg (by decide), link]
    exact told k hk

/-- ABORT of the Crop being formed (R231, R232): the root's ends the formation of a member, a member's that of the root, and a member
that hears of another's gives up. -/
theorem abort_of_root {s : State} {link pos : Nat} {code : Byte} (ha : (getForming s).active = true) (hi : (getForming s).isRoot = false) :
    exec (.abort link (getForming s).cropId code pos true) s
      = .next (endForming (sendAll (takeFrom s link (.abort (getForming s).cropId code pos true)) ((trainedLinks s).filter (fun n => n != link))
          (.abort (getForming s).cropId code pos true)) (if code = 0 then stCropLost else stBadPacket) (abortStatus code.toNat pos).2) := by
  rw [← abortStatus_code code pos]
  have taken := takeFrom_posted s link (.abort (getForming s).cropId code pos true)
  change execAbort link (getForming s).cropId code pos true s = _
  unfold execAbort
  dsimp only
  rw [taken.getForming, taken.trainedLinks, if_neg (by simp [ha]), if_pos rfl, if_neg (ne_true_of_eq_false hi)]

theorem abort_at_root {s : State} {link pos : Nat} {code : Byte} (ha : (getForming s).active = true) (hi : (getForming s).isRoot = true) :
    exec (.abort link (getForming s).cropId code pos false) s
      = .next (rootAbort (takeFrom s link (.abort (getForming s).cropId code pos false)) code.toNat
          (if code = 0 then lowestAbsent (getForming s) else pos)) := by
  have taken := takeFrom_posted s link (.abort (getForming s).cropId code pos false)
  change execAbort link (getForming s).cropId code pos false s = _
  unfold execAbort
  dsimp only
  rw [taken.getForming, if_neg (by simp [ha]), if_neg (by decide), if_pos hi]
  split
  · next h => rw [h]; rfl
  · rfl

theorem abort_of_member {s : State} {link pos : Nat} {code : Byte} (ha : (getForming s).active = true) (hi : (getForming s).isRoot = false)
    (hb : (getForming s).aborting = false) :
    exec (.abort link (getForming s).cropId code pos false) s
      = .next (giveUp (takeFrom s link (.abort (getForming s).cropId code pos false)) (getForming s)
          ((trainedLinks s).filter (fun n => n != link)) (.abort (getForming s).cropId code pos false)
          (if code = 0 then stCropLost else stBadPacket) (abortStatus code.toNat pos).2) := by
  rw [← abortStatus_code code pos]
  have taken := takeFrom_posted s link (.abort (getForming s).cropId code pos false)
  change execAbort link (getForming s).cropId code pos false s = _
  unfold execAbort
  dsimp only
  rw [taken.getForming, taken.trainedLinks, if_neg (by simp [ha]), if_neg (by decide), if_neg (ne_true_of_eq_false hi),
    if_neg (ne_true_of_eq_false hb)]
  rfl

/-- The root's ABORT ends the formation of a member, which passes it on. -/
theorem abort_of_root_ends {s : State} {r : RunReq} {link pos : Nat} {code : Byte} (ha : (getForming s).active = true)
    (hi : (getForming s).isRoot = false) (hm : s.crop.member = false) (hr : (getForming s).req = some r) :
    ∃ t, exec (.abort link (getForming s).cropId code pos true) s = .next t ∧ t.crop = {}
      ∧ Replied s t r (if code = 0 then stCropLost else stBadPacket)
      ∧ ∀ k ∈ trainedLinks s, k ≠ link → .abort (getForming s).cropId code pos true ∈ (getLink t k).ctrl := by
  have taken := takeFrom_posted s link (.abort (getForming s).cropId code pos true)
  obtain ⟨crop, replied, link_eq⟩ := endForming_posted (if code = 0 then stCropLost else stBadPacket) (abortStatus code.toNat pos).2
    (taken.trans (sendAll_posted _ ((trainedLinks s).filter (fun n => n != link)) (.abort (getForming s).cropId code pos true))) ha hm hr
  refine ⟨_, abort_of_root ha hi, crop, replied, fun k hk hne => ?_⟩
  rw [link_eq]
  exact mem_ctrl_sendAll (List.mem_filter.2 ⟨hk, by simpa using hne⟩) _ _

/-- A member's ABORT makes the root refuse the formation, on code 0 as on its own timeout. -/
theorem abort_at_root_ends {s : State} {r : RunReq} {link pos : Nat} {code : Byte} (ha : (getForming s).active = true)
    (hi : (getForming s).isRoot = true) (hm : s.crop.member = false) (hr : (getForming s).req = some r) :
    ∃ t, exec (.abort link (getForming s).cropId code pos false) s = .next t ∧ t.crop = {}
      ∧ Replied s t r (if code = 0 then stCropLost else stBadPacket)
      ∧ ∀ k ∈ trainedLinks s,
        .abort (getForming s).cropId code (if code = 0 then lowestAbsent (getForming s) else pos) true ∈ (getLink t k).ctrl := by
  have taken := takeFrom_posted s link (.abort (getForming s).cropId code pos false)
  obtain ⟨crop, replied, told⟩ := rootAbort_replied code.toNat (if code = 0 then lowestAbsent (getForming s) else pos) taken ha hm hr
  rw [abortStatus_code] at replied
  rw [BitVec.ofNat_toNat, BitVec.setWidth_eq] at told
  exact ⟨_, abort_at_root ha hi, crop, replied, told⟩

/-- A member that hears of another's ABORT gives up. -/
theorem abort_of_member_gives_up {s : State} {r : RunReq} {link pos : Nat} {code : Byte} (ha : (getForming s).active = true)
    (hi : (getForming s).isRoot = false) (hb : (getForming s).aborting = false) (hm : s.crop.member = false) (hr : (getForming s).req = some r) :
    ∃ t, exec (.abort link (getForming s).cropId code pos false) s = .next t
      ∧ (∀ k ∈ trainedLinks s, k ≠ link → .abort (getForming s).cropId code pos false ∈ (getLink t k).ctrl)
      ∧ ((∀ j ∈ (getForming s).joins, j.isRoot = false) → t.crop = {} ∧ Replied s t r (if code = 0 then stCropLost else stBadPacket))
      ∧ ((∃ j ∈ (getForming s).joins, j.isRoot = true) → (getForming t).active = true ∧ (getForming t).aborting = true) := by
  obtain ⟨told, ended⟩ := giveUp_tells (links := (trainedLinks s).filter (fun n => n != link)) (m := .abort (getForming s).cropId code pos false)
    (if code = 0 then stCropLost else stBadPacket) (abortStatus code.toNat pos).2
    (takeFrom_posted s link (.abort (getForming s).cropId code pos false)) ha hm hr
  exact ⟨_, abort_of_member ha hi hb, fun k hk hne => told k (List.mem_filter.2 ⟨hk, by simpa using hne⟩), ended⟩

/-- FORM_TIMEOUT before every member has joined (R232). -/
theorem formTimeout_aborts {s : State} (ha : (getForming s).active = true) (hi : (getForming s).isRoot = true)
    (hal : (getForming s).aligned = false) (hj : allJoined (getForming s) = false) :
    exec .formTimeout s = .next (rootAbort s 0 (lowestAbsent (getForming s))) := if_pos (by simp [ha, hi, hal, hj])

/-- JOIN_TIMEOUT of a member that has not bound (R232). -/
theorem joinTimeout_gives_up {s : State} (ha : (getForming s).active = true) (hi : (getForming s).isRoot = false)
    (hal : (getForming s).aligned = false) (hb : (getForming s).aborting = false) :
    exec .joinTimeout s
      = .next (giveUp s (getForming s) (trainedLinks s) (.abort (getForming s).cropId 0 0x3FF false) stCropLost (formDetail 0 0x3FF)) :=
  if_neg (by simp [ha, hi, hal, hb])

/-! ## Identities (R234, R235) -/

/-- The peer's identity is kept with its link (R234). -/
def identKept (s : State) (link : Nat) (m : IdentMsg) : State :=
  let u := takeFrom s link (.ident m)
  setLink u link { getLink u link with peerIdent := some m, peerLink := BitVec.ofNat 5 m.link, peerTally := m.tally }

/-- This end sends the probes of a link whose peer's identity has come: the lower Tally address of a Crop being formed (R235). -/
def sendsProbes (s : State) (m : IdentMsg) : Bool :=
  (getForming s).active && !(getForming s).further && m.cropId == s.crop.cropId && decide (ownTally s < m.tally.toNat)

theorem identKept_crop (s : State) (link : Nat) (m : IdentMsg) : (identKept s link m).crop = s.crop := (takeFrom_posted s link _).crop

theorem sendsProbes_identKept (s : State) (link : Nat) (m : IdentMsg) : sendsProbes (identKept s link m) m = sendsProbes s m := by
  unfold sendsProbes getForming ownTally
  rw [identKept_crop, show (identKept s link m).boot = s.boot from (takeFrom_posted s link _).boot]

/-- IDENT on a trained link: the peer's identity is kept, and PROBE frames leave where this end sends them. -/
theorem ident_up {s : State} {link : Nat} (m : IdentMsg) (hu : (getLink s link).state = .up) :
    exec (.ident link m) s = .next (
      let w := if sendsProbes s m then (List.range 16).foldl (fun t i => sendCtrl t link (.probe false i)) (identKept s link m)
        else identKept s link m
      if (getForming s).active then reportChecks w else w) := by
  have up : ¬ ((getLink (takeFrom s link (.ident m)) link).state != .up) = true := by
    rw [(takeFrom_posted s link _).state, hu]
    decide
  rw [← sendsProbes_identKept s link m, show (getForming s).active = (getForming (identKept s link m)).active from
    congrArg (·.forming.active) (identKept_crop s link m).symm]
  exact if_neg up

theorem sendsProbes_eq_true {s : State} {m : IdentMsg} (ha : (getForming s).active = true) :
    sendsProbes s m = true ↔ (getForming s).further = false ∧ m.cropId = s.crop.cropId ∧ ownTally s < m.tally.toNat := by
  simp [sendsProbes, ha, and_assoc]

theorem ident_kept {s : State} {link : Nat} {m : IdentMsg} (hu : (getLink s link).state = .up) (hs : sendsProbes s m = false) :
    exec (.ident link m) s = .next (if (getForming s).active then reportChecks (identKept s link m) else identKept s link m) := by
  have ident := ident_up m hu
  rwa [hs] at ident

/-- The 16 probes join the link's queue; nothing else changes before the checks are told (R235). -/
theorem ident_probes {s : State} {link : Nat} {m : IdentMsg} (hu : (getLink s link).state = .up) (ha : (getForming s).active = true)
    (hs : sendsProbes s m = true) :
    ∃ w, exec (.ident link m) s = .next (reportChecks w)
      ∧ (getLink w link).ctrl = (getLink (identKept s link m) link).ctrl ++ (List.range 16).map (.probe false)
      ∧ (∀ k, k ≠ link → getLink w k = getLink (identKept s link m) k) ∧ w.crop = s.crop := by
  have ident := ident_up m hu
  rw [hs, ha] at ident
  have probed := foldl_sendCtrl (.probe false) (List.range 16) (identKept s link m) link
  refine ⟨_, ident, ?_, fun k hk => (probed k).trans (if_neg hk),
    (foldl_same State.crop (fun _ _ => (sendCtrl_posted _ _ _).crop) _ _).trans (identKept_crop s link m)⟩
  rw [if_pos rfl, probed, if_pos rfl]

end Sys2Proof.Machine
end

section
/-!
PROOFS. Measuring round trips and aligning the counters.
-/
namespace Sys2Proof.Machine

/-! ## Round trips (R235) -/

/-- LATE_LINKS and WORST_EXCESS are all that a new round trip refreshes (R237). -/
theorem refreshLate_frame (s : State) : ∃ farLate lateLinks worstExcess,
    refreshLate s = { s with crop := { s.crop with farLate, lateLinks, worstExcess } } := by
  unfold refreshLate
  split
  · dsimp only
    split
    · split <;> exact ⟨_, _, _, rfl⟩
    · exact ⟨_, _, _, rfl⟩
  · exact ⟨_, _, _, rfl⟩

/-- The samples of a link with a round trip more, and its RT with the sixteenth. -/
def withTrip (x : WainLink) (roundTrip : Nat) : WainLink :=
  if 16 ≤ x.rtSamples.length then x
  else
    let v := x.rtSamples ++ [roundTrip - 192]
    { x with rtSamples := v, rt := if v.length = 16 then v.sum / 16 else x.rt }

theorem withTrip_samples (x : WainLink) (rt : Nat) :
    (x.rtSamples.length < 16 → (withTrip x rt).rtSamples = x.rtSamples ++ [rt - 192])
    ∧ (16 ≤ x.rtSamples.length → (withTrip x rt).rtSamples = x.rtSamples)
    ∧ (withTrip x rt).rt = if x.rtSamples.length = 15 then (x.rtSamples ++ [rt - 192]).sum / 16 else x.rt := by
  unfold withTrip
  by_cases h : 16 ≤ x.rtSamples.length
  · rw [if_pos h, if_neg (by omega)]
    exact ⟨fun h' => absurd h (by omega), fun _ => rfl, rfl⟩
  · rw [if_neg h]
    refine ⟨fun _ => rfl, fun h' => absurd h' h, ?_⟩
    simp only [List.length_append, List.length_singleton, show x.rtSamples.length + 1 = 16 ↔ x.rtSamples.length = 15 by omega]

/-- What recording a round trip changes: the link, and the figures of late links. -/
theorem recordTrip_frame (s : State) (link rt : Nat) : getLink (recordTrip s link rt) link = withTrip (getLink s link) rt
    ∧ getForming (recordTrip s link rt) = getForming s ∧ (recordTrip s link rt).out = s.out
    ∧ (recordTrip s link rt).crop.phase = s.crop.phase := by
  unfold recordTrip withTrip
  dsimp only
  split
  · exact ⟨rfl, rfl, rfl, rfl⟩
  · obtain ⟨_, _, _, e⟩ := refreshLate_frame (setLink s link { getLink s link with
      rtSamples := (getLink s link).rtSamples ++ [rt - 192]
      rt := if ((getLink s link).rtSamples ++ [rt - 192]).length = 16 then ((getLink s link).rtSamples ++ [rt - 192]).sum / 16
        else (getLink s link).rt })
    rw [e]
    exact ⟨getLink_setLink_same _ _ _, rfl, rfl, rfl⟩

/-- The state in which a received probe's round trip is recorded: it has been returned, and index 0 begins a measurement. -/
def probeTaken (s : State) (link : Nat) (echo : Bool) (i : Nat) : State :=
  let u := takeFrom s link (.probe echo i)
  let v := if echo then u else emit u (.probeEcho link i)
  if i = 0 && !echo then setLink v link { getLink v link with rtSamples := [] } else v

theorem probeTaken_frame (s : State) (link : Nat) (echo : Bool) (i : Nat) :
    (getLink (probeTaken s link echo i) link).rtSamples = (if i = 0 ∧ echo = false then [] else (getLink s link).rtSamples)
    ∧ (getLink (probeTaken s link echo i) link).rt = (getLink s link).rt
    ∧ (probeTaken s link echo i).crop = s.crop
    ∧ (probeTaken s link echo i).out = s.out ++ (if echo then [] else [.probeEcho link i]) := by
  have taken := takeFrom_posted s link (.probe echo i)
  have answered : ∃ v, (if echo then takeFrom s link (.probe echo i) else emit (takeFrom s link (.probe echo i)) (.probeEcho link i)) = v
      ∧ getLink v link = getLink (takeFrom s link (.probe echo i)) link ∧ v.crop = s.crop
      ∧ v.out = s.out ++ if echo then [] else [.probeEcho link i] := by
    cases echo with
    | true => exact ⟨_, rfl, rfl, taken.crop, by simp [taken.out]⟩
    | false => exact ⟨_, rfl, rfl, taken.crop, by simp [taken.out]⟩
  obtain ⟨v, hv, link_eq, crop, out⟩ := answered
  unfold probeTaken
  dsimp only
  rw [hv]
  by_cases h : i = 0 ∧ echo = false
  · rw [if_pos (by simp [h]), if_pos h, getLink_setLink_same, link_eq]
    exact ⟨rfl, taken.rt link, crop, out⟩
  · rw [if_neg (by simpa using h), if_neg h, link_eq]
    exact ⟨taken.rtSamples link, taken.rt link, crop, out⟩

/-- PROBE on a trained link (R235). -/
theorem probe_up {s : State} {link : Nat} (echo : Bool) (i rt : Nat) (hu : (getLink s link).state = .up) :
    exec (.probe link echo i rt) s = .next (
      let w := recordTrip (probeTaken s link echo i) link rt
      realign (if (getForming s).active then reportChecks w else w)) := by
  have up : ¬ ((getLink (takeFrom s link (.probe echo i)) link).state != .up) = true := by
    rw [(takeFrom_posted s link _).state, hu]
    decide
  rw [show (getForming s).active = (getForming (recordTrip (probeTaken s link echo i) link rt)).active by
    rw [(recordTrip_frame _ _ _).2.1]; unfold getForming; rw [(probeTaken_frame _ _ _ _).2.2.1]]
  exact if_neg up

/-- A round trip recorded: the measurement it belongs to, with the sixteenth its mean, and the probe returned (R235). -/
theorem probe_recorded {s : State} {link : Nat} (echo : Bool) (i rt : Nat) (hu : (getLink s link).state = .up) :
    let old := if i = 0 ∧ echo = false then [] else (getLink s link).rtSamples
    ∃ w, exec (.probe link echo i rt) s = .next (realign (if (getForming s).active then reportChecks w else w))
      ∧ w.crop.phase = s.crop.phase ∧ getForming w = getForming s ∧ w.out = s.out ++ (if echo then [] else [.probeEcho link i])
      ∧ (old.length < 16 → (getLink w link).rtSamples = old ++ [rt - 192])
      ∧ (16 ≤ old.length → (getLink w link).rtSamples = old)
      ∧ (getLink w link).rt = (if old.length = 15 then (old ++ [rt - 192]).sum / 16 else (getLink s link).rt) := by
  obtain ⟨samples, rtt, crop, out⟩ := probeTaken_frame s link echo i
  obtain ⟨trip, forming, sent, phase⟩ := recordTrip_frame (probeTaken s link echo i) link rt
  have recorded := withTrip_samples (getLink (probeTaken s link echo i) link) rt
  rw [← trip, samples, rtt] at recorded
  rw [crop] at phase
  exact ⟨_, probe_up echo i rt hu, phase, forming.trans (congrArg Crop.forming crop), sent.trans out, recorded⟩

/-! ## Alignment at formation (R233, R239) -/

theorem dropSamples_linksOnly (s : State) : LinksOnly s (dropSamples s) := .foldl (fun s n => setLink_linksOnly s n _) _ s

/-- The tree touches the routes and the Crop record, and of that not the formation. -/
theorem joinTree_frame (s : State) :
    ∃ routes crop, joinTree s = { s with wain := { s.wain with routes := routes }, crop := crop } ∧ crop.forming = s.crop.forming := by
  unfold joinTree
  dsimp only
  split
  · exact ⟨_, _, rfl, rfl⟩
  · split
    · exact ⟨_, _, rfl, rfl⟩
    · refine ⟨_, _, rfl, ?_⟩
      dsimp only
      split <;> rfl

/-- A member that is no root reports its binding by a message. -/
theorem reportBound_posted {s : State} (hi : (getForming s).isRoot = false) : Posted s (reportBound s) := by
  unfold reportBound
  dsimp only
  rw [if_neg (ne_true_of_eq_false hi)]
  exact sendCtrl_posted _ _ _

theorem bindForming_slot (s : State) : (getSlot (bindForming s) (getForming s).slot).state = .bound
    ∧ (getSlot (bindForming s) (getForming s).slot).provisional = true := by
  have bound := getSlot_setSlot_same s (getForming s).slot { getSlot s (getForming s).slot with
    state := .bound, before := (getSlot s (getForming s).slot).state, provisional := true, cropId := (getForming s).cropId
    table := (getForming s).table }
  exact ⟨congrArg Slot.state bound, congrArg Slot.provisional bound⟩

/-- A member aligned at formation counts as its parent does, and its slot is bound provisionally (R233, R239). -/
theorem alignForming_binds {s : State} (q : Nat) (hf : (getForming s).further = false) (hi : (getForming s).isRoot = false) :
    (alignForming s q).ctb = BitVec.ofNat 64 (q / 4) ∧ (alignForming s q).ctbQuarter = q % 4 ∧ (getForming (alignForming s q)).aligned = true
      ∧ (alignForming s q).crop.member = true ∧ (getSlot (alignForming s q) (getForming s).slot).state = .bound
      ∧ (getSlot (alignForming s q) (getForming s).slot).provisional = true := by
  unfold alignForming
  extract_lets f u v
  rw [if_neg (ne_true_of_eq_false hf)]
  have aligned : (sendTime (dropSamples v)).ctb = BitVec.ofNat 64 (q / 4) ∧ (sendTime (dropSamples v)).ctbQuarter = q % 4
      ∧ getForming (sendTime (dropSamples v)) = { f with aligned := true } := by
    obtain ⟨routes, crop, tree, forming⟩ := joinTree_frame (setForming (alignCtb s q) { f with aligned := true })
    obtain ⟨links, sent⟩ := ((sendAll_posted u u.crop.children (.bindReport (.settled f.joins))).frame.trans (dropSamples_linksOnly _)).trans
      (sendAll_posted (dropSamples v) (dropSamples v).crop.children _).frame
    rw [show sendTime (dropSamples v) = _ from sent, show u = _ from tree]
    exact ⟨rfl, rfl, forming⟩
  generalize sendTime (dropSamples v) = w at aligned
  obtain ⟨ctb, quarter, forming⟩ := aligned
  have told := reportBound_posted (s := bindForming w) (by rw [show getForming (bindForming w) = _ from forming]; exact hi)
  have slot := bindForming_slot w
  rw [forming] at slot
  refine ⟨told.time.1.trans ctb, told.time.2.trans quarter, ?_, congrArg Crop.member told.crop, ?_⟩
  · rw [told.getForming, show getForming (bindForming w) = _ from forming]
  · unfold getSlot
    rw [told.slots]
    exact slot

/-- TIME from the parent at formation (R233, R239). -/
theorem time_forms {s : State} {link : Nat} {c : CropTime} (ha : (getForming s).active = true) (hi : (getForming s).isRoot = false)
    (hf : (getForming s).further = false) (hal : (getForming s).aligned = false) (hs : (getForming s).settled = true)
    (hp : (joinTree (takeFrom s link (.time c.ctb c.quarter))).crop.parentLink.toNat = link) :
    exec (.time link c) s = .next (alignForming (takeFrom s link (.time c.ctb c.quarter)) (4 * c.ctb.toNat + c.quarter.toNat + (getLink s link).rt)) := by
  have taken := takeFrom_posted s link (.time c.ctb c.quarter)
  change execTime link c s = _
  unfold execTime
  dsimp only
  rw [taken.getForming, if_pos (by simp [ha, hi, hf, hal, hs]), if_pos hp, taken.rt]

/-- Such a TIME aligns the member and binds its slot. -/
theorem time_binds {s : State} {link : Nat} (c : CropTime) (hf : (getForming s).further = false) (hi : (getForming s).isRoot = false) :
    let q := 4 * c.ctb.toNat + c.quarter.toNat + (getLink s link).rt
    let t := alignForming (takeFrom s link (.time c.ctb c.quarter)) q
    t.ctb = BitVec.ofNat 64 (q / 4) ∧ t.ctbQuarter = q % 4 ∧ (getForming t).aligned = true ∧ t.crop.member = true
      ∧ (getSlot t (getForming s).slot).state = .bound ∧ (getSlot t (getForming s).slot).provisional = true := by
  have forming := (takeFrom_posted s link (.time c.ctb c.quarter)).getForming
  have binds := alignForming_binds (s := takeFrom s link (.time c.ctb c.quarter)) (4 * c.ctb.toNat + c.quarter.toNat + (getLink s link).rt)
    (by rw [forming]; exact hf) (by rw [forming]; exact hi)
  rwa [forming] at binds

/-! ## Re-alignment in a barrier (R239, R242) -/

/-- TIME from the parent in a barrier waits until this member is settled and measured (R242). -/
theorem time_resettles {s : State} {link : Nat} {c : CropTime} (ha : (getForming s).active = false) (hp : s.crop.phase = .resettle)
    (hr : s.crop.realigned = false) (hl : s.crop.parentLink.toNat = link) :
    let u := takeFrom s link (.time c.ctb c.quarter)
    exec (.time link c) s
      = .next (realign { u with crop := { u.crop with waitTime := some (4 * c.ctb.toNat + c.quarter.toNat, ctbQuarters s) } }) := by
  have taken := takeFrom_posted s link (.time c.ctb c.quarter)
  change execTime link c s = _
  unfold execTime
  dsimp only
  rw [taken.getForming, if_neg (by simp [ha]), taken.ctbQuarters, if_pos (by rw [taken.crop]; simp [hp, hr, hl])]

theorem aligned_posted (s : State) : Posted { s with crop := { s.crop with
    realigned := true, waitTime := none, remeasures := satAdd32 s.crop.remeasures 1 } } (aligned s) := sendAll_posted _ _ _

/-- A member that is settled and measured takes the time it has received, with what has passed since (R239, R242). -/
theorem realign_member {s : State} {t own : Nat} (hp : s.crop.phase = .resettle) (hs : s.crop.settled = true) (hr : s.crop.realigned = false)
    (hm : measured s = true) (hi : isCropRoot s = false) (hw : s.crop.waitTime = some (t, own)) :
    realign s = aligned { alignCtb s (t + (getLink s s.crop.parentLink.toNat).rt + (ctbQuarters s - own)) with
      stretch := stretchFor (t + (getLink s s.crop.parentLink.toNat).rt) } := by
  unfold realign
  rw [if_neg (by simp [hp, hs, hr, hm]), if_neg (ne_true_of_eq_false hi), hw]

/-- A member that is settled and measured when the TIME comes takes it at once, and sends its own to its children (R239, R242). -/
theorem realign_arrived {s : State} {t : Nat} (hp : s.crop.phase = .resettle) (hs : s.crop.settled = true) (hr : s.crop.realigned = false)
    (hm : measured s = true) (hi : isCropRoot s = false) (hw : s.crop.waitTime = some (t, ctbQuarters s)) :
    let q := t + (getLink s s.crop.parentLink.toNat).rt
    (realign s).ctb = BitVec.ofNat 64 (q / 4) ∧ (realign s).ctbQuarter = q % 4 ∧ (realign s).crop.realigned = true
      ∧ (realign s).crop.remeasures = satAdd32 s.crop.remeasures 1
      ∧ ∀ k ∈ s.crop.children, .time (realign s).ctb (BitVec.ofNat 2 (realign s).ctbQuarter) ∈ (getLink (realign s) k).ctrl := by
  intro q
  rw [realign_member hp hs hr hm hi hw, Nat.sub_self, Nat.add_zero]
  have told := aligned_posted { alignCtb s q with stretch := stretchFor q }
  rw [told.crop, told.time.1, told.time.2]
  exact ⟨rfl, rfl, rfl, rfl, fun k hk => mem_ctrl_sendAll hk _ _⟩

theorem time_realigns {s : State} {link : Nat} (c : CropTime) (hp : s.crop.phase = .resettle) (hr : s.crop.realigned = false)
    (hl : s.crop.parentLink.toNat = link) (hs : s.crop.settled = true) (hm : measured s = true) (hi : isCropRoot s = false) :
    let u := takeFrom s link (.time c.ctb c.quarter)
    let t := realign { u with crop := { u.crop with waitTime := some (4 * c.ctb.toNat + c.quarter.toNat, ctbQuarters s) } }
    let q := 4 * c.ctb.toNat + c.quarter.toNat + (getLink s link).rt
    t.ctb = BitVec.ofNat 64 (q / 4) ∧ t.ctbQuarter = q % 4 ∧ t.crop.realigned = true ∧ t.crop.remeasures = satAdd32 s.crop.remeasures 1
      ∧ ∀ k ∈ s.crop.children, .time t.ctb (BitVec.ofNat 2 t.ctbQuarter) ∈ (getLink t k).ctrl := by
  subst hl
  have taken := takeFrom_posted s s.crop.parentLink.toNat (.time c.ctb c.quarter)
  generalize takeFrom s s.crop.parentLink.toNat (.time c.ctb c.quarter) = u at taken
  rw [← taken.rt]
  obtain ⟨links, rfl⟩ := taken.frame
  exact realign_arrived (s := { s with wain := { s.wain with links := links }, crop := { s.crop with
    waitTime := some (4 * c.ctb.toNat + c.quarter.toNat, ctbQuarters s) } }) hp hs hr (taken.measured.trans hm) hi rfl

theorem realign_other {s : State} (hp : s.crop.phase ≠ .resettle) : realign s = s := if_pos (by simp [hp])

/-- What a re-alignment leaves of what a root change has set, and of the messages that wait. -/
theorem aligned_kept (s : State) : (aligned s).rootPct = s.rootPct ∧ (aligned s).margin = s.margin ∧ (aligned s).slots = s.slots
    ∧ (aligned s).crop.settled = s.crop.settled ∧ ∀ k m, m ∈ (getLink s k).ctrl → m ∈ (getLink (aligned s) k).ctrl := by
  have told := aligned_posted s
  obtain ⟨_, e⟩ := told.frame
  exact ⟨by rw [e], by rw [e], told.slots, by rw [told.crop], fun _ _ => told.queued⟩

theorem realign_kept (s : State) : (realign s).rootPct = s.rootPct ∧ (realign s).margin = s.margin ∧ (realign s).slots = s.slots
    ∧ (realign s).crop.settled = s.crop.settled ∧ ∀ k m, m ∈ (getLink s k).ctrl → m ∈ (getLink (realign s) k).ctrl := by
  unfold realign
  dsimp only
  split
  · exact ⟨rfl, rfl, rfl, rfl, fun _ _ => id⟩
  · split
    · exact aligned_kept s
    · split
      · exact aligned_kept _
      · exact ⟨rfl, rfl, rfl, rfl, fun _ _ => id⟩

/-- The measurement of a link begins: its samples go, and 16 probes join its queue. -/
def probeLink (s : State) (n : Nat) : State :=
  (List.range 16).foldl (fun s i => sendCtrl s n (.probe false i)) (setLink s n { getLink s n with rtSamples := [] })

theorem getLink_probeLink (s : State) (n k : Nat) : getLink (probeLink s n) k
    = if k = n then { getLink s n with rtSamples := [], ctrl := (getLink s n).ctrl ++ (List.range 16).map (.probe false) } else getLink s k := by
  unfold probeLink
  rw [foldl_sendCtrl, getLink_setLink_same]
  split
  · rfl
  · next h => rw [getLink_setLink, if_neg h]

/-- A measurement begins (R242): each link that this end probes has 16 probes in its queue. -/
theorem startProbes_sends (s : State) : LinksOnly s (startProbes s)
    ∧ ∀ k ∈ probeLinks s, ∀ i, i < 16 → .probe false i ∈ (getLink (startProbes s) k).ctrl := by
  refine ⟨.foldl (fun s n => (setLink_linksOnly s n _).trans (.foldl (fun s i => (sendCtrl_posted s n _).frame) _ _)) _ _,
    fun k hk i hi => foldl_queued (g := probeLink) (fun s n hm => ?_) (fun s => ?_) hk s⟩
  · rw [getLink_probeLink]
    split
    · next h => exact List.mem_append_left _ (h ▸ hm)
    · exact hm
  · rw [getLink_probeLink, if_pos rfl]
    exact List.mem_append_right _ (List.mem_map_of_mem (List.mem_range.2 hi))

/-- ROOT_SETTLED ends the root change of the barrier and begins the measurement (R28, R29, R242). -/
theorem rootSettled_measures {s : State} (hp : s.crop.phase = .resettle) (hs : s.crop.settled = false) :
    exec .rootSettled s = .next (realign (startProbes { s with
      rootPct := s.crop.nextRootPct, margin := { s.margin with fsteps := satAdd32 s.margin.fsteps 1 }, crop := { s.crop with settled := true } })) :=
  if_pos (by simp [hp, hs])

/-- What a root change and the measurement after it leave (R28, R242). -/
theorem rootSettled_kept (s : State) : let u : State := { s with
      rootPct := s.crop.nextRootPct, margin := { s.margin with fsteps := satAdd32 s.margin.fsteps 1 }, crop := { s.crop with settled := true } }
    (realign (startProbes u)).rootPct = s.crop.nextRootPct ∧ (realign (startProbes u)).crop.settled = true
      ∧ (realign (startProbes u)).margin = u.margin ∧ (realign (startProbes u)).slots = s.slots
      ∧ ∀ k ∈ probeLinks s, ∀ i, i < 16 → .probe false i ∈ (getLink (realign (startProbes u)) k).ctrl := by
  intro u
  obtain ⟨⟨_, probed⟩, sent⟩ := startProbes_sends u
  obtain ⟨pct, margin, slots, settled, queued⟩ := realign_kept (startProbes u)
  rw [pct, margin, slots, settled]
  refine ⟨?_, ?_, ?_, ?_, fun k hk i hi => queued k _ (sent k hk i hi)⟩ <;> rw [probed]

/-! ## Drift and completion (R241, R249) -/

theorem driftCheck_member {s : State} {link : Nat} (departure : Nat) (hl : memberLink s link = true) : exec (.driftCheck link departure) s
    = .next (if 1 ≤ departure then { s with crop := { s.crop with driftEvents := satAdd32 s.crop.driftEvents 1, drift := true } } else s) := by
  change execDriftCheck link departure s = _
  unfold execDriftCheck
  rw [hl]
  split
  · next h => rw [if_pos (by simpa using h)]
  · next h => rw [if_neg (by simpa using h)]

/-- COMPLETION_REPORT at the root: a new report joins those in (R249). -/
theorem completionReport_root {s : State} {pos : Nat} {flag : Bool} (hi : isCropRoot s = true) (hp : s.crop.phase = .complete)
    (hn : (pos, flag) ∉ s.crop.completions) : ∃ u, exec (.completionReport pos flag) s = .next (rootCompletion u)
      ∧ u.crop = { s.crop with completions := s.crop.completions ++ [(pos, flag)] } := by
  have taken := takeMsg_posted s (.completion pos flag)
  change ∃ u, execCompletionReport pos flag s = _ ∧ _
  unfold execCompletionReport
  dsimp only
  rw [taken.isCropRoot, taken.crop, if_pos hi, if_pos (by simp [hp, hn])]
  exact ⟨_, rfl, rfl⟩

/-- COMPLETION_REPORT at any other member goes towards the root (R249). -/
theorem completionReport_member {s : State} {pos : Nat} {flag : Bool} (hi : isCropRoot s = false) (hm : s.crop.member = true) :
    exec (.completionReport pos flag) s = .next (sendCtrl (takeMsg s (.completion pos flag)) (upLink s) (.completion pos flag)) := by
  have taken := takeMsg_posted s (.completion pos flag)
  change execCompletionReport pos flag s = _
  unfold execCompletionReport
  dsimp only
  rw [taken.isCropRoot, taken.crop, if_neg (ne_true_of_eq_false hi), if_pos hm, taken.upLink]

end Sys2Proof.Machine
end

section
/-!
PROOFS. A chip that loses its route to the root: the end of its run, and of its membership.
-/
namespace Sys2Proof.Machine

/-! ## What the end of a membership or a run leaves of the slots -/

theorem Reported.slots {s t : State} (h : Reported s t) : t.slots = s.slots := by
  obtain ⟨_, _, _, _, _, rfl⟩ := h
  rfl

theorem raiseReplanned_reported (s : State) (source inst addr ctx detail : Nat) (suspect : Option Nat) :
    Reported s (raiseReplanned s source inst addr ctx detail suspect) := by
  unfold raiseReplanned
  dsimp only
  split
  · exact (reportError_reported s _).trans (reportToRoot_reported _ _)
  · exact logRecord_reported s _

theorem loseRemote_slots (s : State) (r : RemoteReq) : (loseRemote s r).slots = s.slots := by
  unfold loseRemote
  extract_lets wain u isPlan v
  have kept : v.slots = s.slots := by
    unfold v
    split
    · exact (raiseReplanned_reported u _ _ _ _ _ _).slots
    · rfl
  clear_value v
  split
  · exact kept
  · split <;> exact kept
  all_goals exact kept

theorem sendNew_slots (s : State) (n : Nat) (b : FrameBody) (resending : Bool) : (sendNew s n b resending).slots = s.slots := rfl

theorem sendControl_slots (s : State) (n : Nat) : (sendControl s n).slots = s.slots := sendNew_slots _ _ _ _

theorem loseRemoteOver_slots (s : State) (n : Nat) : (loseRemoteOver s n).slots = s.slots := by
  unfold loseRemoteOver
  exact foldl_same State.slots loseRemote_slots _ _

theorem linkDown_slots (s : State) (n : Nat) : (linkDown s n).slots = s.slots := by
  unfold linkDown
  extract_lets x u
  rw [setLink_slots, loseRemoteOver_slots]
  unfold u
  split
  · exact foldl_same State.slots (fun s _ => sendControl_slots s n) _ _
  · rfl

theorem linksDown_slots (s : State) : (linksDown s).slots = s.slots := by
  unfold linksDown
  exact foldl_same State.slots linkDown_slots _ s

theorem endMembership_slots (s : State) : (endMembership s).slots = s.slots := by
  unfold endMembership
  dsimp only
  exact linksDown_slots s

theorem checkMembership_slots (s : State) : (checkMembership s).slots = s.slots := by
  unfold checkMembership
  split
  · exact endMembership_slots s
  · rfl

theorem leaseEnd_slots (s : State) (n : Nat) : (leaseEnd s n).slots = s.slots := by
  unfold leaseEnd clearSheaf
  split
  · rfl
  · simp only [emit_slots, setSheaf_slots]
    exact foldl_same State.slots (fun u o => (epAnswer_frame _ _ _ _ _ _ _).2.2) _ _

theorem clearRun_slots (s : State) : (clearRun s).slots = s.slots := by
  unfold clearRun
  exact foldl_same State.slots (fun _ _ => setSheaf_slots _ _ _) _ _

/-- Of the slots, the end of a run touches that of the run (R224). -/
theorem endRun_slot (s : State) (n : Nat) (y : Slot) (st : Byte) (d : W32) :
    getSlot (endRun s n y st d) n = { y with run := none, pend := none, lastStatus := st } := by
  unfold endRun getSlot
  extract_lets u v w a b
  rw [checkMembership_slots]
  have left : a.slots = v.slots := by
    unfold a w endPlanLeases
    rw [clearRun_slots]
    exact (foldl_same State.slots leaseEnd_slots _ _).trans
      (foldl_same (g := fun s (q : CmdHdr × Bool) => done s q.1) State.slots (fun _ _ => rfl) _ _)
  rw [left]
  exact getSlot_setSlot_same u n _

/-! ## Dissolving (R229) -/

theorem boundSlot_unbindSlot (x : Slot) : boundSlot (unbindSlot x) = false := by
  unfold unbindSlot boundSlot
  cases h : x.state <;> cases hv : x.seedValid <;> simp [h]

/-- Slots unbound in succession hold no binding. -/
theorem unbound_foldl (l : List Nat) (s : State) {k : Nat} (hk : k ∈ l ∨ boundSlot (getSlot s k) = false) :
    boundSlot (getSlot (l.foldl (fun s n => setSlot s n (unbindSlot (getSlot s n))) s) k) = false := by
  induction l generalizing s with
  | nil => exact hk.resolve_left (List.not_mem_nil)
  | cons n l ih =>
    refine ih _ ?_
    by_cases h : k = n
    · exact .inr (by rw [h, getSlot_setSlot_same]; exact boundSlot_unbindSlot _)
    · rw [getSlot_setSlot, if_neg h]
      exact hk.imp_left fun hm => (List.mem_cons.1 hm).resolve_left h

/-- The Crop of a member whose slots hold no run is dissolved: no slot is bound, and the Crop record and the routes are gone (R229). -/
theorem dissolve_member {s : State} (hm : s.crop.member = true) (hr : runningSlot s = none) :
    (dissolve s).crop = {} ∧ (dissolve s).wain.routes = [] ∧ ∀ k, k < 16 → boundSlot (getSlot (dissolve s) k) = false := by
  have member : ((List.range 16).foldl (fun s n => setSlot s n (unbindSlot (getSlot s n))) s).crop = s.crop :=
    foldl_same State.crop (fun _ _ => setSlot_crop _ _ _) _ _
  have unbound : ∀ k, k < 16 → boundSlot (getSlot ((List.range 16).foldl (fun s n => setSlot s n (unbindSlot (getSlot s n))) s) k) = false :=
    fun k hk => unbound_foldl _ s (.inl (List.mem_range.2 hk))
  unfold dissolve
  rw [if_neg (by simp [hr, hm])]
  generalize (List.range 16).foldl (fun s n => setSlot s n (unbindSlot (getSlot s n))) s = u at member unbound
  unfold checkMembership
  rw [if_pos]
  · refine ⟨rfl, rfl, fun k hk => ?_⟩
    unfold getSlot
    rw [endMembership_slots]
    exact unbound k hk
  · rw [member, hm, Bool.true_and, Bool.not_eq_true', List.any_eq_false]
    exact fun k hk => ne_true_of_eq_false (unbound k (List.mem_range.1 hk))

/-! ## Isolation in a run (R536) -/

/-- What the Tillers, units, reductions, Sheaves and links hold may go. -/
def Discarded (s t : State) : Prop :=
  ∃ tillers units reds sheaves links, t = { s with tillers, units, reds, sheaves, wain := { s.wain with links := links } }

namespace Discarded

theorem refl (s : State) : Discarded s s := ⟨_, _, _, _, _, rfl⟩

theorem trans {s t u : State} (h : Discarded s t) (k : Discarded t u) : Discarded s u := by
  obtain ⟨_, _, _, _, _, rfl⟩ := h
  obtain ⟨_, _, _, _, _, rfl⟩ := k
  exact ⟨_, _, _, _, _, rfl⟩

theorem foldl {α : Type} {g : State → α → State} (h : ∀ s x, Discarded s (g s x)) (l : List α) (s : State) : Discarded s (l.foldl g s) := by
  induction l generalizing s with
  | nil => exact .refl s
  | cons x l ih => exact (h s x).trans (ih _)

end Discarded

/-- A Tiller halted. -/
def haltTiller (s : State) (n : Nat) : State := if (getTiller s n).mode = .idle then s else setTiller s n { getTiller s n with mode := .idle }

theorem haltTiller_discarded (s : State) (n : Nat) : Discarded s (haltTiller s n) := by
  unfold haltTiller
  split
  · exact .refl s
  · exact ⟨_, _, _, _, _, rfl⟩

theorem haltTillers_eq (s : State) : haltTillers s = (List.range 53).foldl haltTiller s := rfl

/-- Tillers halted in succession stand idle. -/
theorem halted_foldl (l : List Nat) (s : State) {k : Nat} (hk : k ∈ l ∨ (getTiller s k).mode = .idle) :
    (getTiller (l.foldl haltTiller s) k).mode = .idle := by
  induction l generalizing s with
  | nil => exact hk.resolve_left (List.not_mem_nil)
  | cons n l ih =>
    refine ih _ ?_
    unfold haltTiller
    by_cases h : k = n
    · right
      subst h
      split
      · assumption
      · rw [getTiller_setTiller_same]
    · refine hk.imp (fun hm => (List.mem_cons.1 hm).resolve_left h) fun idle => ?_
      split
      · exact idle
      · rwa [getTiller_setTiller, if_neg h]

theorem discardWork_discarded (s : State) : Discarded s (discardWork s) ∧ (discardWork s).tillers = s.tillers := by
  unfold discardWork discardTransfers
  extract_lets u
  refine ⟨Discarded.trans (t := { s with units := [], reds := [] }) ⟨_, _, _, _, _, rfl⟩ (Discarded.trans (t := u) ?_ ?_), ?_⟩
  · exact .foldl (fun _ _ => ⟨_, _, _, _, _, rfl⟩) _ _
  · exact .foldl (fun _ _ => ⟨_, _, _, _, _, rfl⟩) _ _
  · exact (foldl_same State.tillers (fun _ _ => setSheaf_tillers _ _ _) _ _).trans
      (foldl_same State.tillers (fun _ _ => setLink_tillers _ _ _) _ _)

/-- The work of a run that ends is discarded, and every Tiller stands idle. -/
theorem discardRun (s : State) : Discarded s (discardWork (haltTillers s)) ∧ ∀ k, k < 53 → (getTiller (discardWork (haltTillers s)) k).mode = .idle := by
  obtain ⟨discarded, tillers⟩ := discardWork_discarded (haltTillers s)
  rw [haltTillers_eq] at *
  refine ⟨Discarded.trans (.foldl haltTiller_discarded _ s) discarded, fun k hk => ?_⟩
  have idle := halted_foldl (List.range 53) s (.inl (List.mem_range.2 hk))
  unfold getTiller at idle ⊢
  rwa [tillers]

theorem runningSlot_congr {s t : State} (h : ∀ k, (getSlot t k).state = (getSlot s k).state) : runningSlot t = runningSlot s := by
  unfold runningSlot
  simp only [h]

/-- Whether accesses of a run are on their way turns on the run's slot and context, the requests and the translations. -/
theorem runQuiet_congr {s t : State} (state : ∀ k, (getSlot t k).state = (getSlot s k).state)
    (context : ∀ k, (getSlot t k).context = (getSlot s k).context) (remote : t.wain.remote = s.wain.remote) (hl : t.hl = s.hl) (tr : t.tr = s.tr) :
    runQuiet t = runQuiet s := by
  unfold runQuiet awaiting planWaits
  rw [runningSlot_congr state, remote, hl, tr]
  simp only [context]

theorem dropRecord_keeps (x : Slot) : (dropRecord x).state = x.state ∧ (dropRecord x).context = x.context ∧ (dropRecord x).isolated = x.isolated
    ∧ (dropRecord x).replans = x.replans := by
  unfold dropRecord
  split <;> exact ⟨rfl, rfl, rfl, rfl⟩

theorem dropRecord_newest (x : Slot) (a b : Bool) : (dropRecord { x with isolated := a, twoEpochs := b }).newest = (dropRecord x).newest := by
  unfold dropRecord
  dsimp only
  split <;> rfl

/-- Marking what an isolation pre-empts adds a record to the bank, or none. -/
theorem markPreempted_frame (s : State) : ∃ err, markPreempted s = { s with err := err }
    ∧ (err.errWrites = s.err.errWrites ∨ err.errWrites = s.err.errWrites + 1) := by
  unfold markPreempted
  dsimp only
  split
  · exact ⟨_, rfl, .inl rfl⟩
  · split
    · exact ⟨_, rfl, .inl rfl⟩
    · exact ⟨_, rfl, .inr rfl⟩

theorem logError_frame (s : State) (cls source inst address ctx detail : Nat) : ∃ err boot,
    logError s cls source inst address ctx detail = { s with err, boot } ∧ err.errWrites = s.err.errWrites + 1 := by
  refine ⟨_, _, rfl, ?_⟩
  dsimp only
  split
  · rfl
  · split <;> rfl

/-- The error of an isolation, with the mark on what it pre-empts, is logged. -/
theorem isolation_logged (s : State) (ctx : Nat) : ∃ err boot, logError (markPreempted s) clsReplanned srcMember 0 0 ctx 0 = { s with err, boot }
    ∧ err.errWrites ≠ s.err.errWrites := by
  obtain ⟨marked, preempted, before⟩ := markPreempted_frame s
  obtain ⟨err, boot, logged, after⟩ := logError_frame { s with err := marked } clsReplanned srcMember 0 0 ctx 0
  refine ⟨err, boot, by rw [preempted, logged], ?_⟩
  rw [after]
  rcases before with h | h <;> simp only [h] <;> bv_omega

/-- The end by isolation of a run whose attempt has been discarded: what an unreleased barrier wrote goes (R251, R536). -/
def isolatedEnd (s : State) (n : Nat) : State :=
  { setSlot s n (dropRecord (getSlot s n)) with crop := { s.crop with ending := some .isolated } }

theorem endingFaults_isolated (s : State) : endingFaults s .isolated = s := rfl
theorem endingLeases_isolated (s : State) : endingLeases s .isolated = s := rfl

theorem beginEnding_isolated {s : State} {n : Nat} (hr : runningSlot s = some n) (he : s.crop.ending = none) :
    beginEnding s .isolated = finishEnding (isolatedEnd (discardWork (haltTillers s)) n) := by
  unfold beginEnding
  obtain ⟨u, hu⟩ : ∃ u, discardWork (haltTillers s) = u := ⟨_, rfl⟩
  rw [hu, hr]
  dsimp only
  rw [he, if_neg (by decide), endingLeases_isolated, endingFaults_isolated]
  rfl

/-- A chip isolated in a run, before it is seen whether accesses of the run are under way: the error is logged, the attempt is discarded, and
the record that no barrier has released is gone (R536). -/
structure Isolating (s t : State) (n : Nat) : Prop where
  crop : t.crop = { s.crop with ending := some .isolated }
  slot : ∃ two, getSlot t n = dropRecord { getSlot s n with isolated := true, twoEpochs := two }
  others : ∀ k, k ≠ n → getSlot t k = getSlot s k
  idle : ∀ k, k < 53 → (getTiller t k).mode = .idle
  logged : t.err.errWrites ≠ s.err.errWrites
  remote : t.wain.remote = s.wain.remote
  hl : t.hl = s.hl
  tr : t.tr = s.tr

theorem isolateRun_begins {s : State} {n : Nat} (hr : runningSlot s = some n) (he : s.crop.ending = none) :
    ∃ t, isolateRun s n = finishEnding t ∧ Isolating s t n := by
  obtain ⟨err, boot, logged, writes⟩ := isolation_logged s (getSlot s n).context.toNat
  unfold isolateRun
  extract_lets x two u
  have hu : u = { s with err, boot } := logged
  rw [hu]
  generalize hv : setSlot { s with err, boot } n { x with isolated := true, twoEpochs := x.twoEpochs || two } = v
  have slot : getSlot v n = { x with isolated := true, twoEpochs := x.twoEpochs || two } := by rw [← hv, getSlot_setSlot_same]
  have other : ∀ k, k ≠ n → getSlot v k = getSlot s k := fun k hk => by rw [← hv, getSlot_setSlot, if_neg hk]; rfl
  have running : runningSlot v = some n := by
    rw [runningSlot_congr (s := s), hr]
    intro k
    by_cases hk : k = n
    · rw [hk, slot]
    · rw [other k hk]
  obtain ⟨⟨tillers, units, reds, sheaves, links, discarded⟩, idle⟩ := discardRun v
  refine ⟨_, beginEnding_isolated running (by rw [← hv]; exact he), ?_⟩
  rw [discarded] at idle ⊢
  refine ⟨?_, ⟨x.twoEpochs || two, ?_⟩, fun k hk => ?_, idle, ?_, ?_, ?_, ?_⟩
  · rw [← hv]; rfl
  · exact (getSlot_setSlot_same _ n _).trans (congrArg dropRecord slot)
  · exact (getSlot_setSlot_ne _ _ hk).trans (other k hk)
  · rw [← hv]; exact writes
  all_goals rw [← hv]; rfl

/-- Whether accesses are under way is not changed by an isolation. -/
theorem Isolating.quiet {s t : State} {n : Nat} (h : Isolating s t n) : runningSlot t = runningSlot s ∧ runQuiet t = runQuiet s := by
  obtain ⟨two, slot⟩ := h.slot
  obtain ⟨state, context, -, -⟩ := dropRecord_keeps { getSlot s n with isolated := true, twoEpochs := two }
  have states : ∀ k, (getSlot t k).state = (getSlot s k).state := fun k => by
    by_cases hk : k = n
    · rw [hk, slot, state]
    · rw [h.others k hk]
  have contexts : ∀ k, (getSlot t k).context = (getSlot s k).context := fun k => by
    by_cases hk : k = n
    · rw [hk, slot, context]
    · rw [h.others k hk]
  exact ⟨runningSlot_congr states, runQuiet_congr states contexts h.remote h.hl h.tr⟩

theorem Isolating.isolated {s t : State} {n : Nat} (h : Isolating s t n) : (getSlot t n).isolated = true := by
  obtain ⟨two, slot⟩ := h.slot
  rw [slot]
  exact (dropRecord_keeps _).2.2.1

/-- While an access of the run is under way, the end waits for it. -/
theorem Isolating.waits {s t : State} {n : Nat} (h : Isolating s t n) (hr : runningSlot s = some n) (hq : runQuiet s = false) :
    finishEnding t = t := by
  unfold finishEnding
  rw [h.crop, h.quiet.1, hr]
  dsimp only
  rw [h.quiet.2, hq]
  rfl

/-- Without one the run ends FAILED, with the record that stood (R217, R536). -/
theorem Isolating.ends {s t : State} {n : Nat} (h : Isolating s t n) (hr : runningSlot s = some n) (hq : runQuiet s = true) :
    let y := getSlot (finishEnding t) n
    y.state = .failed ∧ y.isolated = true ∧ y.replans = (getSlot s n).replans + 1 ∧ y.newest = (dropRecord (getSlot s n)).newest := by
  obtain ⟨two, slot⟩ := h.slot
  have ended : finishEnding t = endRun t n { failSlot (getSlot t n) true with replans := (getSlot t n).replans + 1 } stDone (endDetail 2 0x3FF) := by
    unfold finishEnding
    rw [h.crop, h.quiet.1, hr]
    dsimp only
    rw [h.quiet.2, hq]
    rfl
  obtain ⟨-, -, isolated, replans⟩ := dropRecord_keeps { getSlot s n with isolated := true, twoEpochs := two }
  rw [ended, endRun_slot, slot]
  exact ⟨rfl, isolated, congrArg (· + 1) replans, dropRecord_newest _ _ _⟩

/-- ROOT_ROUTE_LOSS at a member that forms nothing and is not ending a run (R229, R536). -/
theorem rootRouteLoss_member {s : State} (hm : s.crop.member = true) (hi : isCropRoot s = false) (he : s.crop.ending = none)
    (ha : (getForming s).active = false) :
    exec .rootRouteLoss s = .next (match runningSlot s with | some n => isolateRun s n | none => dissolve s) := by
  have idle : endForming s stCropLost (formDetail 0 0x3FF) = s := if_pos (by simp [ha])
  change execRootRouteLoss s = _
  unfold execRootRouteLoss
  rw [if_neg (by simp [hm, hi]), if_neg (by simp [he]), idle]
  dsimp only
  cases runningSlot s <;> rfl

theorem rootRouteLoss_dissolves {s : State} (hm : s.crop.member = true) (hi : isCropRoot s = false) (he : s.crop.ending = none)
    (ha : (getForming s).active = false) (hn : runningSlot s = none) : exec .rootRouteLoss s = .next (dissolve s) := by
  rw [rootRouteLoss_member hm hi he ha, hn]

theorem rootRouteLoss_isolates {s : State} {n : Nat} (hm : s.crop.member = true) (hi : isCropRoot s = false) (he : s.crop.ending = none)
    (ha : (getForming s).active = false) (hn : runningSlot s = some n) :
    ∃ t, exec .rootRouteLoss s = .next (finishEnding t) ∧ Isolating s t n := by
  obtain ⟨t, begun, isolating⟩ := isolateRun_begins hn he
  exact ⟨t, by rw [rootRouteLoss_member hm hi he ha, hn, ← begun], isolating⟩

end Sys2Proof.Machine
end

section
/-!
PROOFS. Formation's messages and the other events of a Crop complete.
-/
namespace Sys2Proof

open Machine

/-- Settles O41: each message by what its queues and its command's end share, a loss of the root by the slots that are left alone. -/
theorem formationCompletes : Obligations.FormationCompletes := by
  refine ⟨fun s link => ⟨fun m hu => ⟨fun ha => ?identIdle, fun ha hp => ident_probes hu ha ((sendsProbes_eq_true ha).2 hp), fun ha hp => ?identKept⟩,
      fun echo i rt hu => ?probe, fun ctb quarter => ⟨fun ha hi hf hal hs hp => ?timeForms, fun ha hp hr hl => ?timeResettles⟩,
      fun m => ⟨?checks, ?settled, ?boundAtRoot, ?boundAtMember⟩, fun startTo r => bindNotice_replied startTo,
      fun cropId code pos r ha hc hm hr => ?abort, fun r ha hi hal hj hm hr => ?formTimeout, fun r ha hi hal hb hm hr => ?joinTimeout⟩,
    fun s link departure pos flag => ⟨fun hp hs => ⟨rootSettled_measures hp hs, _, rootSettled_measures hp hs, rootSettled_kept s⟩,
      fun hl => ⟨fun hd => ?drift, fun hd => ?noDrift⟩, completionReport_root, fun hi hm => ?completionPassed,
      fun hm hi he ha => ⟨fun hn => ?dissolves, fun n hn hq => ?isolatedWaits, fun n hn hq => ?isolatedEnds⟩⟩⟩
  case identIdle =>
    have still : sendsProbes s m = false := by simp [sendsProbes, ha]
    exact (ident_kept hu still).trans (congrArg _ (if_neg (ne_true_of_eq_false ha)))
  case identKept =>
    have still : sendsProbes s m = false := eq_false_of_ne_true fun h => hp ((sendsProbes_eq_true ha).1 h)
    exact (ident_kept hu still).trans (congrArg _ (if_pos ha))
  case probe =>
    obtain ⟨w, probed, phase, recorded⟩ := probe_recorded echo i rt hu
    exact ⟨w, probed, fun _ hp => realign_other (by rwa [phase]), recorded⟩
  case timeForms =>
    have formed := time_forms (c := ⟨ctb, quarter⟩) ha hi hf hal hs hp
    exact ⟨formed, _, formed, time_binds ⟨ctb, quarter⟩ hf hi⟩
  case timeResettles =>
    have resettled := time_resettles (c := ⟨ctb, quarter⟩) ha hp hr hl
    exact ⟨resettled, fun hs hm hi => ⟨_, resettled, time_realigns ⟨ctb, quarter⟩ hp hr hl hs hm hi⟩⟩
  case checks =>
    rintro j rfl ha hal hs hl
    have checks := bindReport_checks j ha hal hs hl
    refine ⟨fun later => checks.trans (congrArg _ (if_neg (by simpa using later))), fun ⟨k, hk, ht, hround⟩ => ?_⟩
    exact checks.trans (congrArg _ (if_pos (List.any_eq_true.2 ⟨k, hk, by simp [ht, hround]⟩)))
  case settled =>
    rintro js rfl
    exact bindReport_settled js
  case boundAtRoot =>
    rintro pos rfl hp ha hi hn
    exact ⟨bindReport_bound_root hp ha hi hn, fun r => bindReport_last_bound hp ha hi hn⟩
  case boundAtMember =>
    rintro pos rfl
    exact bindReport_bound_member
  case abort =>
    subst hc
    refine ⟨fun hi => abort_of_root_ends ha hi hm hr, fun hi => ?_, fun hi hb => abort_of_member_gives_up ha hi hb hm hr⟩
    obtain ⟨t, aborted, crop, replied, told⟩ := abort_at_root_ends ha hi hm hr
    exact ⟨t, aborted, crop, replied, fun k hk _ => told k hk⟩
  case formTimeout => exact ⟨_, formTimeout_aborts ha hi hal hj, rootAbort_replied 0 _ (.refl s) ha hm hr⟩
  case joinTimeout => exact ⟨_, joinTimeout_gives_up ha hi hal hb, giveUp_tells stCropLost (formDetail 0 0x3FF) (.refl s) ha hm hr⟩
  case drift => exact (driftCheck_member departure hl).trans (congrArg _ (if_pos hd))
  case noDrift => exact (driftCheck_member departure hl).trans (congrArg _ (if_neg (by omega)))
  case completionPassed =>
    refine ⟨_, completionReport_member hi hm, ?_, ((takeMsg_posted s _).trans (sendCtrl_posted _ _ _)).crop⟩
    rw [getLink_sendCtrl, if_pos rfl]
  case dissolves => exact ⟨_, rootRouteLoss_dissolves hm hi he ha hn, dissolve_member hm hn⟩
  case isolatedWaits =>
    obtain ⟨t, lost, isolating⟩ := rootRouteLoss_isolates hm hi he ha hn
    rw [isolating.waits hn hq] at lost
    exact ⟨t, lost, congrArg Crop.ending isolating.crop, isolating.isolated, isolating.idle, isolating.logged⟩
  case isolatedEnds =>
    obtain ⟨t, lost, isolating⟩ := rootRouteLoss_isolates hm hi he ha hn
    exact ⟨_, lost, isolating.ends hn hq⟩

end Sys2Proof
end

section
/-!
PROOFS. Accumulator addition: the INT32 sum as an integer, and the symmetry and cancellation of the exact sum in every format.
-/
namespace Sys2Proof.Machine

/-! ## INT32 (R78) -/

theorem decodeElem_int32 (a : Nat) : decodeElem 10 a = intVal (signed 32 a) := rfl

theorem atExp_self (neg : Bool) (m : Nat) (e : Int) : atExp neg m e e = if neg then -(m : Int) else m := by
  simp [atExp]

theorem atExp_int (i : Int) : atExp (decide (i < 0)) i.natAbs 0 0 = i := by
  simp only [atExp_self, decide_eq_true_eq]
  split <;> omega

/-- The sum of two integers is exact. -/
theorem addVal_intVal (i j : Int) : addVal (intVal i) (intVal j) = (intVal (i + j), 0) := by
  unfold intVal addVal
  dsimp only
  split
  case isTrue h =>
    obtain ⟨rfl, rfl⟩ : i = 0 ∧ j = 0 := by omega
    rfl
  case isFalse => rw [min_self, atExp_int, atExp_int]

/-- An integer beyond the range of INT32 converts to the end it passes, with accumulator overflow; any other to its own code. -/
theorem toWork_int32 (i : Int) : toWork 10 (intVal i)
    = if i < -2 ^ 31 then (2 ^ 31, fAO) else if 2 ^ 31 - 1 < i then (2 ^ 31 - 1, fAO) else (lowBits 32 i, 0) := by
  have whole : roundMag i.natAbs 0 0 0 0 = i.natAbs := Nat.mul_one _
  have noVanish : flagIf (i.natAbs == 0 && i.natAbs != 0) fUZ = 0 := by simp [flagIf]
  change toInt 10 0 0 (intVal i) = _
  unfold toInt intVal
  simp only [whole, noVanish, if_neg (show ¬ (0 : Nat) = 1 by decide), show elemBits 10 = 32 from rfl]
  by_cases neg : i < 0
  · rw [decide_eq_true neg]
    by_cases below : i < -2 ^ 31
    · rw [if_pos below, if_pos (by simp; omega)]; rfl
    · rw [if_neg below, if_neg (show ¬ 2 ^ 31 - 1 < i by omega), if_neg (by simp; omega), if_pos rfl,
        show -(i.natAbs : Int) = i by omega]
  · rw [decide_eq_false neg, if_neg (show ¬ i < -2 ^ 31 by omega)]
    by_cases above : 2 ^ 31 - 1 < i
    · rw [if_pos above, if_pos (by simp; omega)]; rfl
    · rw [if_neg above, if_neg (by simp; omega), if_neg (by decide), show (i.natAbs : Int) = i by omega]

/-- Two's complement returns an integer in its range. -/
theorem signed_lowBits {i : Int} (lo : -2 ^ 31 ≤ i) (hi : i ≤ 2 ^ 31 - 1) : signed 32 (lowBits 32 i) = i ∧ lowBits 32 i < 2 ^ 32 := by
  unfold signed lowBits
  dsimp only
  split <;> omega

/-- The INT32 accumulator's sum: exact, or the end of its range that it passes, with accumulator overflow. -/
theorem addAcc_int32 (a b : Nat) : addAcc 10 a b
    = let r := toWork 10 (intVal (signed 32 a + signed 32 b)); (r.1, r.2 &&& fAO) := by
  unfold addAcc
  rw [decodeElem_int32, decodeElem_int32, addVal_intVal]
  dsimp only
  rw [Nat.zero_or]

/-! ## Commutativity (R77) -/

theorem addVal_comm (x y : Val) : addVal x y = addVal y x := by
  cases x with
  | nan => cases y <;> rfl
  | inf s => cases y with
    | nan => rfl
    | inf t => cases s <;> cases t <;> rfl
    | fin t n f => rfl
  | fin s m e => cases y with
    | nan => rfl
    | inf t => rfl
    | fin t n f =>
      unfold addVal
      dsimp only
      rw [Bool.and_comm s t, min_comm e f, Int.add_comm (atExp s m e _)]
      simp only [and_comm (a := m = 0)]

theorem addAcc_comm (acc a b : Nat) : addAcc acc a b = addAcc acc b a := by
  unfold addAcc
  rw [addVal_comm]

/-! ## A value and its negative (R77) -/

/-- Exponent bits, fraction bits and bias of a floating accumulator format (R37). -/
def AccShape (acc E F b : Nat) : Prop := (acc, E, F, b) = (0, 11, 52, 1023) ∨ (acc, E, F, b) = (1, 8, 23, 127)

/-- A finite code of an accumulator format, by its fields. -/
theorem decodeElem_finite {acc E F b : Nat} (shape : AccShape acc E F b) {x : Nat} (h : x / 2 ^ F % 2 ^ E ≠ 2 ^ E - 1) :
    decodeElem acc x = floatFields F b (x / 2 ^ F % 2 ^ E) (x % 2 ^ F) (x.testBit (E + F)) := by
  have fields : decodeElem acc x = if x / 2 ^ F % 2 ^ E == 2 ^ E - 1 then (if x % 2 ^ F = 0 then .inf (x.testBit (E + F)) else .nan)
      else floatFields F b (x / 2 ^ F % 2 ^ E) (x % 2 ^ F) (x.testBit (E + F)) := by
    rw [← Nat.shiftRight_eq_div_pow]
    rcases shape with e | e <;> cases e <;> rfl
  rw [fields, if_neg (by simpa using h)]

theorem floatFields_fin (F b e f : Nat) : ∃ m q, ∀ s, floatFields F b e f s = .fin s m q := by
  unfold floatFields
  split
  · exact ⟨_, _, fun _ => rfl⟩
  · exact ⟨_, _, fun _ => rfl⟩

/-- Below the infinity a magnitude is finite, and the sign bit changes its sign alone. -/
theorem decodeElem_signed {acc E F b a : Nat} (shape : AccShape acc E F b) (h : a < (2 ^ E - 1) * 2 ^ F) :
    ∃ m q, decodeElem acc a = .fin false m q ∧ decodeElem acc (a + 2 ^ (E + F)) = .fin true m q := by
  have exponent : a / 2 ^ F < 2 ^ E - 1 := (Nat.div_lt_iff_lt_mul (Nat.two_pow_pos F)).2 h
  have below : a < 2 ^ (E + F) := h.trans_le (by rw [pow_add]; exact Nat.mul_le_mul_right _ (Nat.sub_le _ _))
  have low : a / 2 ^ F % 2 ^ E = a / 2 ^ F := Nat.mod_eq_of_lt (exponent.trans_le (Nat.sub_le _ _))
  have high : (a + 2 ^ (E + F)) / 2 ^ F % 2 ^ E = a / 2 ^ F := by
    rw [pow_add, Nat.add_mul_div_right _ _ (Nat.two_pow_pos F), Nat.add_mod_right, low]
  have fraction : (a + 2 ^ (E + F)) % 2 ^ F = a % 2 ^ F := by rw [pow_add, Nat.add_mul_mod_self_right]
  have signBit : (a + 2 ^ (E + F)).testBit (E + F) = true := by
    rw [Nat.add_comm, Nat.testBit_two_pow_add_eq, Nat.testBit_lt_two_pow below]; rfl
  obtain ⟨m, q, fin⟩ := floatFields_fin F b (a / 2 ^ F) (a % 2 ^ F)
  refine ⟨m, q, ?_, ?_⟩
  · rw [decodeElem_finite shape (by rw [low]; exact exponent.ne), low, Nat.testBit_lt_two_pow below, fin]
  · rw [decodeElem_finite shape (by rw [high]; exact exponent.ne), high, fraction, signBit, fin]

/-- A value and its negative cancel to +0. -/
theorem addVal_cancel (m : Nat) (e : Int) : ∃ f, addVal (.fin false m e) (.fin true m e) = (.fin false 0 f, 0) := by
  unfold addVal
  dsimp only
  split
  · exact ⟨_, rfl⟩
  · refine ⟨e, ?_⟩
    simp only [min_self, atExp_self]
    simp

theorem toWork_zero {acc : Nat} (h : acc = 0 ∨ acc = 1) (f : Int) : toWork acc (.fin false 0 f) = (0, 0) := by
  rcases h with rfl | rfl <;> rfl

/-- A magnitude and its negative sum to +0. -/
theorem addAcc_negative {acc E F b a sign inf : Nat} (shape : AccShape acc E F b) (hs : sign = 2 ^ (E + F)) (hi : inf = (2 ^ E - 1) * 2 ^ F)
    (h : a < inf) : addAcc acc a (a + sign) = (0, 0) := by
  subst hs hi
  obtain ⟨m, q, plus, minus⟩ := decodeElem_signed shape h
  obtain ⟨f, cancel⟩ := addVal_cancel m q
  have format : acc = 0 ∨ acc = 1 := shape.imp (congrArg Prod.fst) (congrArg Prod.fst)
  unfold addAcc
  rw [plus, minus, cancel]
  dsimp only
  rw [toWork_zero format]
  rfl

end Sys2Proof.Machine

namespace Sys2Proof
open Machine

/-- Settles O59: the INT32 sum by the three places its exact value can have, the rest through exact values. -/
theorem accumulatorAddition : Obligations.AccumulatorAddition := by
  refine ⟨fun a b _ _ => ?_, fun acc _ => addAcc_comm acc, fun acc sign inf h => ?_⟩
  · rw [addAcc_int32]
    generalize signed 32 a + signed 32 b = sum
    simp only [toWork_int32]
    split
    case isTrue below => exact ⟨by rw [show signed 32 (2 ^ 31) = -2 ^ 31 by decide]; omega, by decide, iff_of_true (by decide) (.inl below)⟩
    case isFalse notBelow =>
      split
      case isTrue above =>
        exact ⟨by rw [show signed 32 (2 ^ 31 - 1) = 2 ^ 31 - 1 by decide]; omega, by decide, iff_of_true (by decide) (.inr above)⟩
      case isFalse notAbove =>
        obtain ⟨value, range⟩ := signed_lowBits (Int.not_lt.1 notBelow) (Int.not_lt.1 notAbove)
        exact ⟨by rw [value]; omega, range, iff_of_false (fun h => h (by simp)) (by omega)⟩
  · simp only [List.mem_cons, List.not_mem_nil, or_false, Prod.mk.injEq] at h
    obtain ⟨rfl, rfl, rfl⟩ | ⟨rfl, rfl, rfl⟩ := h
    · exact ⟨by decide, by decide, by decide, by decide, fun a _ => addAcc_negative (.inl rfl) (by norm_num) (by norm_num)⟩
    · exact ⟨by decide, by decide, by decide, by decide, fun a _ => addAcc_negative (.inr rfl) (by norm_num) (by norm_num)⟩

end Sys2Proof
end

section
/-!
PROOFS. The commands that report: what QUERY and COUNTERS_READ write, and the policy that MARGIN_POLICY leaves waiting.
-/
namespace Sys2Proof.Machine

theorem exec_query (h : CmdHdr) (selector : W16) (arg : W32) (dst : W64) (s : State) :
    exec (.query h selector arg dst) s = execQuery h selector arg dst s := rfl

theorem exec_countersRead (h : CmdHdr) (slot what : Byte) (first count : W32) (dst : W64) (s : State) :
    exec (.countersRead h slot what first count dst) s = execCountersRead h slot what first count dst s := rfl

theorem exec_marginPolicy (h : CmdHdr) (ceilMv : W16) (fmin : Byte) (enable : Bool) (fmax : Byte) (s : State) :
    exec (.marginPolicy h ceilMv fmin enable fmax) s = execMarginPolicy h ceilMv fmin enable fmax s := rfl

/-- The record that a selector names is written and reported with its status, where ARG and DST are in range (R517). -/
theorem query_writes {s : State} {h : CmdHdr} {selector : W16} {arg : W32} {dst : W64} {bs : List Byte} {st : Byte}
    (ha : Admitted s h false (selector == 0)) (hs : selector.toNat ≤ 6) (hd : dst.toNat % 64 = 0)
    (hr : queryRange selector.toNat arg.toNat = false) (hq : queryRecord s h selector.toNat arg.toNat = some (bs, st)) :
    exec (.query h selector arg dst) s = .next (complete (hostPost s dst bs) h st (plainDetail st) 0) := by
  have zero : (selector.toNat == 0) = (selector == 0) := by
    rw [Bool.eq_iff_iff, beq_iff_eq, beq_iff_eq, BitVec.toNat_eq]; rfl
  have known : decide (6 < selector.toNat) = false := decide_eq_false (by omega)
  rw [exec_query]
  unfold execQuery
  dsimp only
  rw [zero, known, command_admitted _ ha]
  simp [hr, hd, hq]

/-- ARG is in range of a selector that counts it when it names a context, a slot or a Windrow (R517). -/
theorem queryRange_ok {sel arg : Nat} (h1 : sel = 1 → arg < 2 ^ 20) (h3 : sel = 3 → arg ≤ 15) (h4 : sel = 4 → arg < 65536) :
    queryRange sel arg = false := by
  unfold queryRange
  simp only [Bool.or_eq_false_iff, Bool.and_eq_false_imp, beq_iff_eq, decide_eq_false_iff_not]
  omega

/-- The checks of a COUNTERS_READ pass: its slot holds a plan of the caller's, DST and COUNT are in range (R518). -/
theorem countersRead_acts {s : State} {h : CmdHdr} {slot what : Byte} {first count : W32} {dst : W64} {p : Plan}
    (ha : Admitted s h false false) (hn : slot.toNat ≤ 15) (hw : what.toNat ≤ 1) (hd : dst.toNat % 64 = 0)
    (hc : what = 0 → count ≠ 0 ∧ count.toNat ≤ 65536) (hf : slotForeign s h slot.toNat = false)
    (hp : (getSlot s slot.toNat).plan = some p) :
    exec (.countersRead h slot what first count dst) s = .next (
      let x := shownRecord (getSlot s slot.toNat)
      if what = 0 then
        guardCodes s h [(decide (p.nstep < first.toNat + count.toNat), pcRange)] (fun s =>
          let rs := (List.range count.toNat).map (fun i => x.steps.getD (first.toNat + i) {})
          complete (hostPost s dst (rs.flatMap stepBytes)) h stDone 0 (rs.foldl (fun b r => b ||| r.flags) 0))
      else done (hostPost s dst (counterBytes x.counters)) h) := by
  have plan : (shownRecord (getSlot s slot.toNat)).plan = some p := by rw [← hp]; unfold shownRecord; split <;> rfl
  have counted : (what == 0 && (count.toNat == 0 || decide (65536 < count.toNat))) = false := by
    simp only [Bool.and_eq_false_imp, Bool.or_eq_false_iff, beq_iff_eq, beq_eq_false_iff_ne, decide_eq_false_iff_not]
    intro h0
    obtain ⟨nonzero, most⟩ := hc h0
    exact ⟨fun e => nonzero (BitVec.eq_of_toNat_eq e), by omega⟩
  have inRange : (decide (15 < slot.toNat) || decide (1 < what.toNat) || dst.toNat % 64 != 0
      || (what == 0 && (count.toNat == 0 || decide (65536 < count.toNat)))) = false := by
    rw [counted, decide_eq_false (by omega), decide_eq_false (by omega), hd]; rfl
  rw [exec_countersRead]
  unfold execCountersRead
  dsimp only
  rw [command_admitted _ ha, inRange, guardCodes_ok, guardCodes_nil, hf, plan]
  rfl

/-- A policy within its ranges waits for the next barrier (R91, R550). -/
theorem marginPolicy_waits {s : State} {h : CmdHdr} {ceilMv : W16} {fmin fmax : Byte} {enable : Bool} (ha : Admitted s h true false)
    {top : Nat} (ht : top = if fmax = 0 then 100 else fmax.toNat) (hc : 650 ≤ ceilMv.toNat ∧ ceilMv.toNat ≤ 850)
    (hf : 80 ≤ fmin.toNat ∧ fmin.toNat ≤ 100) (hr : 100 ≤ top ∧ top ≤ 105) (hv : s.margin.vddMv ≤ ceilMv.toNat)
    (hp : fmin.toNat ≤ s.rootPct ∧ s.rootPct ≤ top) : exec (.marginPolicy h ceilMv fmin enable fmax) s
      = .next (done { s with margin := { s.margin with pendingPolicy := some (ceilMv.toNat, fmin.toNat, top, enable) } } h) := by
  have inRange : (decide (ceilMv.toNat < 650) || decide (850 < ceilMv.toNat) || decide (fmin.toNat < 80) || decide (100 < fmin.toNat)
      || decide (top < 100) || decide (105 < top)) = false := by
    simp only [Bool.or_eq_false_iff, decide_eq_false_iff_not]; omega
  have fits : (decide (ceilMv.toNat < s.margin.vddMv) || decide (s.rootPct < fmin.toNat) || decide (top < s.rootPct)
      || decide (top < fmin.toNat)) = false := by
    simp only [Bool.or_eq_false_iff, decide_eq_false_iff_not]; omega
  rw [exec_marginPolicy]
  unfold execMarginPolicy
  dsimp only
  rw [← ht, command_admitted _ ha, inRange, fits, guardCodes_ok, guardCodes_ok, guardCodes_nil]

end Sys2Proof.Machine

namespace Sys2Proof
open Machine

/-- Settles O11: each command acts once its checks pass, and what it does ends in one completion. -/
theorem reportingCommandsComplete : Obligations.ReportingCommandsComplete := by
  intro s h selector slot fmin fmax arg first count ceilMv dst enable
  refine ⟨fun bs st ha hs hd h1 h3 h4 hq => ?query, fun p ha hn hd hf hp => ⟨?counters, fun h0 hm hl => ?steps⟩,
    fun ha c1 c2 f1 f2 r1 r2 hv p1 p2 => ?policy⟩
  case query =>
    have named (k : Nat) (hk : k < 2 ^ 16) (e : selector.toNat = k) : selector = BitVec.ofNat 16 k :=
      BitVec.eq_of_toNat_eq (e.trans (Nat.mod_eq_of_lt hk).symm)
    have inRange : queryRange selector.toNat arg.toNat = false :=
      queryRange_ok (fun e => h1 (named 1 (by decide) e)) (fun e => h3 (named 3 (by decide) e)) (fun e => h4 (named 4 (by decide) e))
    exact ⟨_, query_writes ha hs hd inRange hq, complete_answered _ _ _ _ _⟩
  case counters =>
    exact ⟨_, countersRead_acts ha hn (by decide) hd (fun e => absurd e (by decide)) hf hp, complete_answered _ _ _ _ _⟩
  case steps =>
    have inPlan : decide (p.nstep < first.toNat + count.toNat) = false := decide_eq_false (by omega)
    refine ⟨_, countersRead_acts ha hn (by decide) hd (fun _ => ⟨h0, hm⟩) hf hp, ?_⟩
    dsimp only
    rw [if_pos rfl, inPlan, guardCodes_ok, guardCodes_nil, List.flatMap_map]
    exact complete_answered _ _ _ _ _
  case policy =>
    exact ⟨_, marginPolicy_waits ha rfl ⟨c1, c2⟩ ⟨f1, f2⟩ ⟨r1, r2⟩ hv ⟨p1, p2⟩, complete_answered _ _ _ _ _⟩

end Sys2Proof
end

section
/-!
PROOFS. The sub-operations of a Sheaf: what their reads and checks leave alone, and what each changes once it begins.
-/
namespace Sys2Proof.Machine

/-! ## What reading leaves alone -/

/-- Words were corrected on the way: reports of them stand in the error bank, and nothing else differs. -/
def Noted (s t : State) : Prop := ∃ err boot, t = { s with err, boot }

namespace Noted

variable {s t u : State}

theorem refl (s : State) : Noted s s := ⟨_, _, rfl⟩

theorem trans (h : Noted s t) (k : Noted t u) : Noted s u := by
  obtain ⟨_, _, rfl⟩ := h
  obtain ⟨_, _, rfl⟩ := k
  exact ⟨_, _, rfl⟩

theorem foldl {α : Type} {g : State → α → State} (h : ∀ s x, Noted s (g s x)) (l : List α) (s : State) : Noted s (l.foldl g s) := by
  induction l generalizing s with
  | nil => exact .refl s
  | cons x l ih => exact (h s x).trans (ih (g s x))

theorem tick (h : Noted s t) : t.tick = s.tick := by obtain ⟨_, _, rfl⟩ := h; rfl
theorem units (h : Noted s t) : t.units = s.units := by obtain ⟨_, _, rfl⟩ := h; rfl
theorem getUnit (h : Noted s t) (n : Nat) : getUnit t n = getUnit s n := by obtain ⟨_, _, rfl⟩ := h; rfl
theorem getSheaf (h : Noted s t) (n : Nat) : getSheaf t n = getSheaf s n := by obtain ⟨_, _, rfl⟩ := h; rfl
theorem getTiller (h : Noted s t) (n : Nat) : getTiller t n = getTiller s n := by obtain ⟨_, _, rfl⟩ := h; rfl
theorem runOrder (h : Noted s t) : runOrder t = runOrder s := by obtain ⟨_, _, rfl⟩ := h; rfl
theorem opRegion (h : Noted s t) (o : SubOp) : opRegion t o = opRegion s o := by obtain ⟨_, _, rfl⟩ := h; rfl
theorem passReads (h : Noted s t) (p : Nat × SubOp) : passReads t p = passReads s p := by obtain ⟨_, _, rfl⟩ := h; rfl

end Noted

theorem logError_noted (s : State) (cls source inst address ctx detail : Nat) : Noted s (logError s cls source inst address ctx detail) := by
  obtain ⟨err, boot, logged, -⟩ := logError_frame s cls source inst address ctx detail
  exact ⟨err, boot, logged⟩

theorem storeNote_noted (s : State) (t : Nat) (ws : List (Nat × Nat)) : Noted s (storeNote s t ws) := .foldl (fun s _ => logError_noted s ..) _ s
theorem entryNote_noted (s : State) (n : Nat) (ws : List (Nat × Nat)) : Noted s (entryNote s n ws) := .foldl (fun s _ => logError_noted s ..) _ s

/-- A sub-operation whose descriptor entry has no uncorrectable word goes on behind its read (R158). -/
theorem readOpEntry_sound {s : State} {o : SubOp} (k : State → State)
    (h : (descStored (getTiller s o.tiller) (field o.word 39 32)).any eccBad = false) :
    readOpEntry s o k = k (storeNote s o.tiller (descStored (getTiller s o.tiller) (field o.word 39 32))) :=
  if_neg (by rw [h]; exact Bool.false_ne_true)

/-- A read of a Sheaf's store without an uncorrectable word goes on (R114). -/
theorem readEntries_sound {s : State} {n : Nat} {addrs : List Nat} (k : State → State)
    (h : (storeWords (getSheaf s n).store addrs).any eccBad = false) :
    readEntries s n addrs k = k (entryNote s n (storeWords (getSheaf s n).store addrs)) :=
  if_neg (by rw [h]; exact Bool.false_ne_true)

/-! ## The begin of a feed sub-operation -/

/-- Sheaf k's unit has begun q, to be complete at a tick; the other Sheaves are as they were. -/
def Begins (t u : State) (k done : Nat) (q : SubOp) : Prop := (getUnit t k).queue = (getUnit u k).queue.drop 1
  ∧ (getUnit t k).begun = (getUnit u k).begun ++ [⟨q, some done, done, 0⟩] ∧ ∀ j, j ≠ k → getSheaf t j = getSheaf u j

theorem setSheaf_begins (u : State) (k done : Nat) (q : SubOp) (x : Sheaf) : Begins (setSheaf (beginDone u k q done) k x) u k done q := by
  have unit : getUnit (setSheaf (beginDone u k q done) k x) k = getUnit (beginDone u k q done) k := rfl
  unfold beginDone beginOp at unit
  dsimp only at unit
  rw [getUnit_setUnit_same] at unit
  exact ⟨congrArg SubUnit.queue unit, congrArg SubUnit.begun unit, fun j hj => getSheaf_setSheaf_ne _ _ hj⟩

/-- What a sub-operation begins in a state that only reports tell from another, it begins in that one. -/
theorem Begins.of_noted {s t u : State} {k done : Nat} {q : SubOp} (h : Begins t u k done q) (noted : Noted s u) : Begins t s k done q := by
  obtain ⟨queue, begun, others⟩ := h
  rw [noted.getUnit] at queue begun
  exact ⟨queue, begun, fun j hj => (others j hj).trans (noted.getSheaf j)⟩

/-! ## LOAD -/

/-- The tile as it stands in its buffer once it begins to load (R104, R114). -/
def filledTile (sh : Sheaf) (k now : Nat) (t : Tile) : Tile :=
  { t with parity := tileParity t, begun := max now (max sh.fillFree (bufFree sh k).1), freed := (bufFree sh k).1, freedStep := (bufFree sh k).2 }

theorem fillBuf_even {sh : Sheaf} {k : Nat} (now : Nat) (t : Tile) (h : k % 2 = 0) :
    fillBuf sh k now t = { sh with fillFree := tileLast (filledTile sh k now t) + 1, buf0 := filledTile sh k now t } := if_neg (by omega)

theorem fillBuf_odd {sh : Sheaf} {k : Nat} (now : Nat) (t : Tile) (h : k % 2 = 1) :
    fillBuf sh k now t = { sh with fillFree := tileLast (filledTile sh k now t) + 1, buf1 := filledTile sh k now t } := if_pos h

theorem bufOf_fillBuf (sh : Sheaf) (k now : Nat) (t : Tile) : bufOf (fillBuf sh k now t) k = filledTile sh k now t := by
  rcases Nat.mod_two_eq_zero_or_one k with h | h
  · rw [fillBuf_even now t h]; exact if_neg (by omega)
  · rw [fillBuf_odd now t h]; exact if_pos h

/-- Filling a buffer changes neither the counts nor the store. -/
theorem fillBuf_frame (sh : Sheaf) (k now : Nat) (t : Tile) : (fillBuf sh k now t).loads = sh.loads ∧ (fillBuf sh k now t).store = sh.store := by
  rcases Nat.mod_two_eq_zero_or_one k with h | h
  · rw [fillBuf_even now t h]; exact ⟨rfl, rfl⟩
  · rw [fillBuf_odd now t h]; exact ⟨rfl, rfl⟩

/-- The tile that a LOAD's runs hold (R96, R179). -/
def opTile (o : SubOp) (m : LineMap) : Tile :=
  let d := (opAg o 0).desc
  let lanes := lanesOf (field o.word 15 14)
  { fmt := dFmt d, sch := dSch d, lanes := lanes, kblk := field o.word 39 24, len := field o.word 23 16 + 1
    rows := (List.range (256 * lanes)).map (fun n =>
      let r := agRun (opAg o 0) ((n % 256) * lanes + n / 256)
      weightRow (runCodes m r) (if dSch d = 0 then [] else runBlocks m r)) }

/-- Row r of a LOAD's tile holds the codes of its run. -/
theorem opTile_codes (o : SubOp) (m : LineMap) {r : Nat} (h : r < 256 * lanesOf (field o.word 15 14)) :
    ((opTile o m).rows.getD r ⟨[], [], []⟩).codes
      = runCodes m (agRun (opAg o 0) (r % 256 * lanesOf (field o.word 15 14) + r / 256)) := by
  unfold opTile
  simp [List.getD_eq_getElem?_getD, List.getElem?_map, List.getElem?_range h, weightRow]

/-- A LOAD whose lines may be read takes its tile into the buffer of its turn (R179, R180). -/
theorem loadTile_fills {s v : State} {n : Nat} {o : SubOp} {m : LineMap} (ho : headOp s n .feed 0 = some o)
    (hr : planRead s n o srcPoisonUse (((List.range (256 * lanesOf (field o.word 15 14))).map (agRun (opAg o 0))).flatMap
      (fun x => runRange x :: runScales x)) = (some m, v)) :
    exec (.loadTile n) s = .next (
      let w := endTask v (.tiller o.tiller)
      let sh := fillBuf (getSheaf v n) (getSheaf v n).loads v.tick (opTile o m)
      setSheaf (beginDone w n o (tileLast (bufOf sh sh.loads))) n { sh with loads := sh.loads + 1 }) := by
  change execLoadTile n s = _
  unfold execLoadTile
  rw [ho]
  dsimp only
  rw [hr]
  rfl

/-- What a LOAD leaves in its Sheaf: the tile in the buffer of its turn, the other buffer and the store as they were. -/
theorem loaded_sheaf (sh : Sheaf) (now : Nat) (x : Tile) :
    let tile := filledTile sh sh.loads now x
    let y := { fillBuf sh sh.loads now x with loads := (fillBuf sh sh.loads now x).loads + 1 }
    y.loads = sh.loads + 1 ∧ y.store = sh.store ∧ (sh.loads % 2 = 0 → y.buf0 = tile ∧ y.buf1 = sh.buf1)
      ∧ (sh.loads % 2 = 1 → y.buf1 = tile ∧ y.buf0 = sh.buf0) := by
  obtain ⟨loads, store⟩ := fillBuf_frame sh sh.loads now x
  refine ⟨congrArg (· + 1) loads, store, fun even => ?_, fun odd => ?_⟩
  · rw [fillBuf_even now x even]; exact ⟨rfl, rfl⟩
  · rw [fillBuf_odd now x odd]; exact ⟨rfl, rfl⟩

/-- What a LOAD leaves in its unit and its Sheaf. -/
theorem loadTile_leaves {s v : State} {n : Nat} {o : SubOp} {m : LineMap} (ho : headOp s n .feed 0 = some o)
    (hr : planRead s n o srcPoisonUse (((List.range (256 * lanesOf (field o.word 15 14))).map (agRun (opAg o 0))).flatMap
      (fun x => runRange x :: runScales x)) = (some m, v)) :
    Gives (exec (.loadTile n) s) (fun t =>
      let old := getSheaf v n
      let lanes := lanesOf (field o.word 15 14)
      ∃ tile done, Begins t v n done o ∧ (getSheaf t n).loads = old.loads + 1 ∧ (getSheaf t n).store = old.store
        ∧ (old.loads % 2 = 0 → (getSheaf t n).buf0 = tile ∧ (getSheaf t n).buf1 = old.buf1)
        ∧ (old.loads % 2 = 1 → (getSheaf t n).buf1 = tile ∧ (getSheaf t n).buf0 = old.buf0)
        ∧ tile.fmt = dFmt (opAg o 0).desc ∧ tile.sch = dSch (opAg o 0).desc ∧ tile.lanes = lanes ∧ tile.kblk = field o.word 39 24
        ∧ tile.len = field o.word 23 16 + 1 ∧ tile.rows.length = 256 * lanes ∧ tile.parity = tileParity tile ∧ done = tileLast tile
        ∧ ∀ r, r < 256 * lanes → (tile.rows.getD r ⟨[], [], []⟩).codes = runCodes m (agRun (opAg o 0) (r % 256 * lanes + r / 256))) := by
  let tile := filledTile (getSheaf v n) (getSheaf v n).loads v.tick (opTile o m)
  obtain ⟨loads, store, even, odd⟩ := loaded_sheaf (getSheaf v n) v.tick (opTile o m)
  have last : bufOf (fillBuf (getSheaf v n) (getSheaf v n).loads v.tick (opTile o m))
      (fillBuf (getSheaf v n) (getSheaf v n).loads v.tick (opTile o m)).loads = tile := by
    rw [(fillBuf_frame ..).1, bufOf_fillBuf]
  have rows : tile.rows.length = 256 * lanesOf (field o.word 15 14) := (List.length_map _).trans List.length_range
  refine ⟨_, loadTile_fills ho hr, tile, tileLast tile, ?_⟩
  dsimp only
  rw [last, getSheaf_setSheaf_same]
  exact ⟨setSheaf_begins (endTask v _) n (tileLast tile) o _, loads, store, even, odd, rfl, rfl, rfl, rfl, rfl, rows, rfl, rfl,
    fun r hr => opTile_codes o m hr⟩

/-! ## OPEN and FREE -/

/-- An OPEN claims its region with no push (R107, R179); a chained one waits for the reduction of its Rick that holds its running values and
takes them, once they may be read (R86). -/
theorem openRegion_opens {s u : State} {n : Nat} {o : SubOp} {r : Region} (ho : headOp s n .feed 2 = some o)
    (he : (descStored (getTiller s o.tiller) (field o.word 39 32)).any eccBad = false)
    (hu : u = storeNote s o.tiller (descStored (getTiller s o.tiller) (field o.word 39 32)))
    (hr : r = regionFrom (opRegion s o) o.step) :
    (isChained (runOrder s) r = false → exec (.openRegion n) s
      = .next (setSheaf (beginDone u n o s.tick) n { getSheaf s n with regions := (getSheaf s n).regions ++ [r] }))
    ∧ (isChained (runOrder s) r = true →
      (chainFrom u n r = none → exec (.openRegion n) s = .next u)
      ∧ ∀ q, chainFrom u n r = some q → ∀ m v, planRead u n o srcNodeSet (workRanges q true) = (some m, v) →
        exec (.openRegion n) s = .next (setSheaf (beginDone (endTask v (.tiller o.tiller)) n o v.tick) n { getSheaf v n with
          store := chainStore (getSheaf v n).store r m q, regions := (getSheaf v n).regions ++ [{ r with chained := true }] })) := by
  have noted : Noted s u := hu ▸ storeNote_noted s o.tiller _
  rw [show exec (.openRegion n) s = execOpenRegion n s from rfl]
  unfold execOpenRegion
  rw [ho]
  dsimp only
  rw [readOpEntry_sound _ he, ← hu, noted.opRegion, noted.runOrder, noted.tick, noted.getSheaf, ← hr]
  refine ⟨fun plain => by rw [plain]; rfl, fun chained => ⟨fun noReduction => by rw [chained, noReduction]; rfl, fun q found m v read => ?_⟩⟩
  rw [chained, found]
  dsimp only
  rw [read]
  rfl

/-- A FREE ends the claim of the region it names (R179). -/
theorem freeRegion_frees {s : State} {n : Nat} {o : SubOp} (ho : headOp s n .feed 3 = some o)
    (he : (descStored (getTiller s o.tiller) (field o.word 39 32)).any eccBad = false) :
    exec (.freeRegion n) s = .next (
      let u := storeNote s o.tiller (descStored (getTiller s o.tiller) (field o.word 39 32))
      setSheaf (beginDone u n o s.tick) n
        { getSheaf s n with regions := (getSheaf s n).regions.filter (fun x => x.rbase != gRbase (opRegion s o)) }) := by
  have noted := storeNote_noted s o.tiller (descStored (getTiller s o.tiller) (field o.word 39 32))
  change execFreeRegion n s = _
  unfold execFreeRegion
  rw [ho]
  dsimp only
  rw [readOpEntry_sound _ he, noted.opRegion, noted.tick, noted.getSheaf]

/-! ## PASS -/

/-- The checks of a PASS all pass (R114, R158): nothing but the reports of corrected words comes of them. -/
theorem passChecked_sound {v : State} (k : State → State) : ∀ (ps : List (Nat × SubOp)) (x : State), Noted v x →
    (∀ q ∈ ps, (descStored (getTiller v q.2.tiller) (field q.2.word 39 32)).any eccBad = false
      ∧ (storeWords (getSheaf v q.1).store (passReads v q)).any eccBad = false
      ∧ tileSound (bufOf (getSheaf v q.1) (getSheaf v q.1).passes) = true) →
    passChecked ps x k = k (ps.foldl (fun x q => entryNote (storeNote x q.2.tiller (descStored (getTiller v q.2.tiller) (field q.2.word 39 32)))
      q.1 (storeWords (getSheaf v q.1).store (passReads v q))) x)
  | [], _, _, _ => rfl
  | q :: ps, x, hx, h => by
    obtain ⟨entry, words, tile⟩ := h q List.mem_cons_self
    have noted := hx.trans (storeNote_noted x q.2.tiller (descStored (getTiller v q.2.tiller) (field q.2.word 39 32)))
    rw [← hx.getTiller] at entry noted
    rw [passChecked, readOpEntry_sound _ entry, noted.getSheaf, noted.passReads]
    dsimp only
    rw [tile]
    rw [← noted.getSheaf] at words
    rw [if_neg (by decide), readEntries_sound _ words, noted.getSheaf]
    exact (passChecked_sound k ps _ (noted.trans (entryNote_noted ..)) fun p hp => h p (List.mem_cons_of_mem _ hp)).trans
      (by rw [hx.getTiller]; rfl)

/-- PASSes that may begin together but whose runs lie at unlike addresses are an error of class REPLAYED (R116, R183). -/
theorem passRows_unlike {s : State} {n : Nat} {p : Nat × SubOp} {rest : List (Nat × SubOp)} (hp : passOps s n = some (p :: rest))
    (hm : ∀ q ∈ p :: rest, passMay s q = true)
    (hu : ∃ q ∈ p :: rest, (passRuns q.2).map runAddr ≠ (passRuns p.2).map runAddr) :
    exec (.passRows n) s = .next (raiseReplayed s srcSignal n 0 (unitIssuer s n p.2.tiller).ctx.toNat 0) := by
  have unlike : (p :: rest).any (fun q => (passRuns q.2).map runAddr != (passRuns p.2).map runAddr) = true := by
    obtain ⟨q, hq, hne⟩ := hu
    exact List.any_eq_true.2 ⟨q, hq, by simpa using hne⟩
  change execPassRows n s = _
  unfold execPassRows
  rw [hp]
  dsimp only
  rw [List.all_eq_true.2 hm, unlike]
  rfl

/-- PASSes that begin together push their nodes under one hold, once their checks pass (R116, R183). -/
theorem passRows_passes {s v : State} {n : Nat} {m : LineMap} {p : Nat × SubOp} {rest : List (Nat × SubOp)} (hp : passOps s n = some (p :: rest))
    (hm : ∀ q ∈ p :: rest, passMay s q = true) (ha : ∀ q ∈ p :: rest, (passRuns q.2).map runAddr = (passRuns p.2).map runAddr)
    (hr : planRead s n p.2 srcPoisonUse ((p :: rest).flatMap (fun q => (passRuns q.2).flatMap (fun x => runRange x :: runScales x))) = (some m, v))
    (hc : ∀ q ∈ p :: rest, (descStored (getTiller v q.2.tiller) (field q.2.word 39 32)).any eccBad = false
      ∧ (storeWords (getSheaf v q.1).store (passReads v q)).any eccBad = false
      ∧ tileSound (bufOf (getSheaf v q.1) (getSheaf v q.1).passes) = true) :
    exec (.passRows n) s = .next (
      let w := (p :: rest).foldl (fun x q => entryNote (storeNote x q.2.tiller (descStored (getTiller v q.2.tiller) (field q.2.word 39 32)))
        q.1 (storeWords (getSheaf v q.1).store (passReads v q))) v
      (p :: rest).foldl (runPass m (Config.passHold w.freeCtr)) (freshFree (endTask w (.tiller p.2.tiller))).2) := by
  have alike : (p :: rest).any (fun q => (passRuns q.2).map runAddr != (passRuns p.2).map runAddr) = false :=
    List.any_eq_false.2 fun q hq => by simpa using ha q hq
  change execPassRows n s = _
  unfold execPassRows
  rw [hp]
  dsimp only
  rw [List.all_eq_true.2 hm, alike, hr]
  dsimp only
  rw [passChecked_sound _ _ _ (.refl v) hc]
  rfl

/-- A hold moves the ticks of a Sheaf's parts on; its count of passes and its hold counter stay (R117). -/
theorem freezeSheaf_frame (x : State) (k hold : Nat) : (getSheaf (freezeSheaf x k hold) k).passes = (getSheaf x k).passes ∧ (getSheaf (freezeSheaf x k hold) k).hold = (getSheaf x k).hold := by
  unfold freezeSheaf
  dsimp only
  rw [getSheaf_setSheaf_same]
  exact ⟨rfl, rfl⟩

/-- The ticks of a pass that has started stand beside what a Sheaf holds (R102, R104). -/
theorem passTimes_frame (sh : Sheaf) (k now a n hold : Nat) : ∃ portFree freeAt0 freeAt1 freeStep0 freeStep1,
    passTimes sh k now a n hold = { sh with portFree, freeAt0, freeAt1, freeStep0, freeStep1 } := by
  unfold passTimes
  dsimp only
  split <;> exact ⟨_, _, _, _, _, rfl⟩

/-- One output of a PASS: the K-block's sum of an activation row and a weight row; an element beyond its rows takes 0 (R80, R97). -/
def passOutput (m : LineMap) (q : SubOp) (r : Region) (tile : Tile) (e : Nat) : Flagged :=
  if e / (256 * tile.lanes) < field q.word 31 16 + 1 then
    passNode r.acc (dFmt (opAg q 0).desc) (runCodes m (agRun (opAg q 0) (e / (256 * tile.lanes))))
      (if tile.sch = 0 then [] else runBlocks m (agRun (opAg q 0) (e / (256 * tile.lanes)))) tile (e % (256 * tile.lanes))
  else (0, 0)

/-- The tick at which a PASS that starts now on a tile writes its last node (R102). -/
def passDone (x : State) (q : SubOp) (tile : Tile) (hold : Nat) : Nat :=
  x.tick + passSpan (pairStep (dFmt (opAg q 0).desc) tile.fmt) (field q.word 31 16 + 1) + hold

/-- One Sheaf's part of a PASS pushes one node onto every element of its region (R97, R102, R585). -/
theorem runPass_pushes {x : State} {k : Nat} {q : SubOp} {r : Region} (m : LineMap) (hold : Nat) (hr : passTarget x (k, q) = some r) :
    let old := getSheaf x k
    let tile := bufOf old old.passes
    let z := pushRegion old.store r (runOrder x) (passOutput m q r tile)
    let cold := freezeSheaf x k hold
    let t := runPass m hold x (k, q)
    let done := passDone x q tile hold
    Begins t cold k done q ∧ (getSheaf t k).store = z.1 ∧ (getSheaf t k).passes = old.passes + 1
    ∧ (getSheaf t k).buf0 = (getSheaf cold k).buf0 ∧ (getSheaf t k).buf1 = (getSheaf cold k).buf1
    ∧ (getSheaf t k).hold = satAdd32 old.hold (hold + passWait x (k, q))
    ∧ (getSheaf t k).regions = (getSheaf cold k).regions.map (fun y => if y.rbase = r.rbase then
        { r with pushes := r.pushes + 1, flags := orFlags r.flags z.2, step := q.step, passEnd := done } else y) := by
  intro old tile z cold t done
  obtain ⟨passes, held⟩ := freezeSheaf_frame x k hold
  let y := setRegion { getSheaf cold k with
      store := z.1, passes := (getSheaf cold k).passes + 1, hold := satAdd32 (getSheaf cold k).hold (hold + passWait x (k, q)) }
    { r with pushes := r.pushes + 1, flags := orFlags r.flags z.2, step := q.step, passEnd := done }
  obtain ⟨portFree, freeAt0, freeAt1, freeStep0, freeStep1, times⟩ :=
    passTimes_frame y (y.passes - 1) cold.tick (pairStep (dFmt (opAg q 0).desc) tile.fmt) (field q.word 31 16 + 1) hold
  have after : t = setSheaf (noteStep (beginDone cold k q done) q.step z.2 0) k { y with portFree, freeAt0, freeAt1, freeStep0, freeStep1 } := by
    rw [← times]
    change runPass m hold x (k, q) = _
    unfold runPass
    rw [hr]
    rfl
  have sheaf : getSheaf t k = { y with portFree, freeAt0, freeAt1, freeStep0, freeStep1 } := by rw [after, getSheaf_setSheaf_same]
  rw [sheaf]
  refine ⟨?_, rfl, congrArg (· + 1) passes, rfl, rfl, congrArg (satAdd32 · _) held, rfl⟩
  rw [after]
  exact setSheaf_begins cold k done q _

/-! ## The end of a region -/

/-- An addition to a Tiller's signal counter is visible from the next A-cycle (R165, R166). -/
theorem signalAdd_incoming (s : State) {n : Nat} (c amount : Nat) (h : n < 53) :
    look 0 (getTiller (signalAdd s n c amount) n).incoming c = look 0 (getTiller s n).incoming c + amount := by
  unfold signalAdd
  rw [if_pos h, getTiller_setTiller_same]
  exact (look_put _ _ _ _ _).trans (if_pos rfl)

/-- The signal of a finished region, where its SIGT names a Tiller (R182). -/
theorem regionSignal_frame (s : State) (r : Region) : ∃ tillers, (if r.sigt = 63 then s else signalAdd s r.sigt r.sigc 1) = { s with tillers } := by
  unfold signalAdd
  dsimp only
  split
  · exact ⟨_, rfl⟩
  · split <;> exact ⟨_, rfl⟩

/-- A region whose range is complete is finished, or its hand-off entries are offered, and its counter is signalled (R110, R182). -/
theorem regionFinish_finishes {s : State} {n : Nat} {r : Region} (hf : (getSheaf s n).regions.find? (fun x => x.rbase == r.rbase) = some r)
    (hn : r.finished = false) (hp : r.pushes = r.nblk) (ht : r.passEnd + finishTime r (runOrder s) + 1 ≤ s.tick)
    (hw : (storeWords (getSheaf s n).store (if r.finish then regionEntries (runOrder s) r else [])).any eccBad = false) :
    ∃ u, Noted s u ∧ exec (.regionFinish n r.rbase) s = .next (
      let p := if r.finish then finishRegion (getSheaf s n).store r (runOrder s) else ((getSheaf s n).store, 0)
      let t := noteStep (setSheaf u n (setRegion { getSheaf s n with store := p.1 } { r with finished := true, flags := orFlags r.flags p.2 })) r.step p.2 0
      if r.sigt = 63 then t else signalAdd t r.sigt r.sigc 1) := by
  have due : (r.finished || r.pushes != r.nblk || decide (s.tick < r.passEnd + finishTime r (runOrder s) + 1)) = false := by
    rw [hn, hp, decide_eq_false (by omega)]; simp
  have noted := entryNote_noted s n (storeWords (getSheaf s n).store (if r.finish then regionEntries (runOrder s) r else []))
  refine ⟨_, noted, ?_⟩
  change execRegionFinish n r.rbase s = _
  unfold execRegionFinish
  rw [hf]
  dsimp only
  rw [due, readEntries_sound _ hw, noted.getSheaf, noted.runOrder]
  rfl

/-- What the end of a region leaves: its Sheaf's store and region, the signal, the units and the other Sheaves. -/
theorem regionFinish_leaves {s : State} {n : Nat} {r : Region} (hf : (getSheaf s n).regions.find? (fun x => x.rbase == r.rbase) = some r)
    (hn : r.finished = false) (hp : r.pushes = r.nblk) (ht : r.passEnd + finishTime r (runOrder s) + 1 ≤ s.tick)
    (hw : (storeWords (getSheaf s n).store (if r.finish then regionEntries (runOrder s) r else [])).any eccBad = false) :
    Gives (exec (.regionFinish n r.rbase) s) (fun t =>
      let p := if r.finish then finishRegion (getSheaf s n).store r (runOrder s) else ((getSheaf s n).store, 0)
      (getSheaf t n).store = p.1
      ∧ (getSheaf t n).regions = (getSheaf s n).regions.map (fun x => if x.rbase = r.rbase then
          { r with finished := true, flags := orFlags r.flags p.2 } else x)
      ∧ (r.sigt < 53 → look 0 (getTiller t r.sigt).incoming r.sigc = look 0 (getTiller s r.sigt).incoming r.sigc + 1)
      ∧ t.units = s.units ∧ ∀ k, k ≠ n → getSheaf t k = getSheaf s k) := by
  obtain ⟨w, noted, finished⟩ := regionFinish_finishes hf hn hp ht hw
  refine ⟨_, finished, ?_⟩
  let p := if r.finish then finishRegion (getSheaf s n).store r (runOrder s) else ((getSheaf s n).store, 0)
  let y := setRegion { getSheaf s n with store := p.1 } { r with finished := true, flags := orFlags r.flags p.2 }
  let t := noteStep (setSheaf w n y) r.step p.2 0
  obtain ⟨tillers, frame⟩ := regionSignal_frame t r
  have sheaf : getSheaf { t with tillers } n = y := getSheaf_setSheaf_same w n y
  refine ⟨?_, ?_, fun named => ?_, ?_, fun k hk => ?_⟩
  · change (getSheaf (if r.sigt = 63 then t else signalAdd t r.sigt r.sigc 1) n).store = p.1
    rw [frame, sheaf]; rfl
  · change (getSheaf (if r.sigt = 63 then t else signalAdd t r.sigt r.sigc 1) n).regions = y.regions
    rw [frame, sheaf]
  · dsimp only
    rw [if_neg (by omega), signalAdd_incoming _ _ _ named]
    exact congrArg (fun x : Tiller => look 0 x.incoming r.sigc + 1) (noted.getTiller r.sigt)
  · exact (congrArg State.units frame).trans noted.units
  · exact (congrArg (getSheaf · k) frame).trans ((getSheaf_setSheaf_ne _ y hk).trans (noted.getSheaf k))

end Sys2Proof.Machine

namespace Sys2Proof
open Machine

/-- Settles O36: what each sub-operation answers, and what the begin leaves in its unit and its Sheaf. -/
theorem sheafSubopsComplete : Obligations.SheafSubopsComplete := by
  intro s v n o m g sh ranges begun entry u named
  refine ⟨fun ho hr => ?load, fun p rest hp hm => ⟨fun hu => ?unlike, fun ha hr hc => ?pass⟩, fun x k hold q r hr => ?push,
    fun ho he => ?claim, fun ho he => ?free, fun r hf hn hp ht hw => ?finish⟩
  case load => exact loadTile_leaves ho hr
  case unlike => exact passRows_unlike hp hm hu
  case pass => exact passRows_passes hp hm ha hr hc
  case push => exact runPass_pushes m hold hr
  case claim =>
    obtain ⟨plain, chained⟩ := openRegion_opens ho he rfl rfl
    refine ⟨fun hc => ⟨_, plain hc, ?_, getSheaf_setSheaf_same ..⟩, fun hc => ⟨(chained hc).1, fun q hq hr => ⟨_, (chained hc).2 q hq m v hr, ?_, getSheaf_setSheaf_same ..⟩⟩⟩
    · exact (setSheaf_begins _ n s.tick o _).of_noted (storeNote_noted ..)
    · exact setSheaf_begins (endTask v _) n v.tick o _
  case free =>
    refine ⟨_, freeRegion_frees ho he, ?_, getSheaf_setSheaf_same ..⟩
    exact (setSheaf_begins _ n s.tick o _).of_noted (storeNote_noted ..)
  case finish => exact regionFinish_leaves hf hn hp ht hw

end Sys2Proof
end

section
/-!
PROOFS. The sub-operations of Threshers and Winnowers: an NPUSH of a set that no 64-byte line holds from its start, read twice.
-/
namespace Sys2Proof.Machine

/-! ## A set whose header ends where a line ends

NPUSH reads its set whole (R184): the header, which it has just read, once more with the values behind it. The statement reads only the
values and the stacks. The two agree while the values start in the header's line. Here the set lies at byte 32: its header fills the
second half of line 0 and its values start in line 1. Reading line 0 again makes it the youngest of its set of Bin 0 (R327), so that the
read of the first stack, whose line is of the same set, drops the line of the second stack instead (R328); and that line stands in the pool
with an uncorrectable word, which the Bin's copy hid. -/

/-- A line of zeros that Bin 0 holds shared, at an age. -/
def sharedWay (line age : Nat) : Way := sealWay 0 {} { valid := true, line := line, coh := .shared, age := age, content := zeroLine }

/-- The header of a set of blocks 1 to 2 of two FP32 elements, in the second half of a line. -/
def headerLine : List Byte := List.replicate 32 0 ++ headBytes ⟨0, 1, 2, 0, 2, 1, 0, 0⟩

/-- A reduction of two FP32 elements that expects block 1, its stacks 1 MiB apart: in lines 16,384 and 32,768. -/
def farStacks : Reduction :=
  { rick := 0, red := 0, tensor := 0, elem0 := 0, ecount := 2, acc := 1, kind := 0, depth := 2 ^ 18, work := 2 ^ 20, nlo := 0, nhi := 2, next := 1, flags := 0 }

/-- An NPUSH of Rick 0's Thresher, of the set at byte 32 of the pool. -/
def halfLinePush : SubOp := ⟨16, 0, 0, 0, [agLoad (toLE 8 32)]⟩

/-- The push waits in its unit. One way is free in the set of Bin 0 that lines 0, 16,384 and 32,768 share; of the others line 32,768 is the
oldest. The pool's word at byte 2^21, the first of line 32,768, is uncorrectable. -/
def halfLineState : State :=
  { tick := 2
    boot := { perstLow := false }
    cache := { cfg := 0x3000, bins := [(0, {} :: sharedWay 32768 2 :: (List.range 6).map (fun i => sharedWay (16384 * (i + 3)) 0))] }
    mem := { poolGib := 4, owner := [(0, 0xD00000), (1, 0xD00000)]
             ram := ramPutWord (ramPutLine {} 0 (cleanLine headerLine)) (8 * 32768) (0, poisonBits 0) }
    tillers := [(16, { mode := .run })]
    units := [(16, { queue := [halfLinePush] })]
    reds := [farStacks] }

/-- The reads that the statement speaks of: the header, then the values and the stacks. -/
def headerRead : Option LineMap × State := planRead halfLineState 16 halfLinePush srcNodeSet [(32, 32)]
def valuesRead : Option LineMap × State :=
  planRead headerRead.2 16 halfLinePush srcNodeSet ((64, 1 * 4 * 2) :: workRanges farStacks false)

/-- The stacks after the push, and their write. -/
def pushedStacks : List (List Nat) × Nat :=
  pushAll (valuesRead.1.getD []) farStacks false false (fun e =>
    setNodes false 1 2 ((List.range 1).map (fun j => leNat (mapBytes (valuesRead.1.getD []) (32 + 32 + (e * 1 + j) * 4) 4))))
def stacksWritten : Option State × State := planWrite valuesRead.2 16 halfLinePush (stackWrites farStacks pushedStacks.1)

/-- What unit u has begun in the state that a command leaves. -/
def begunAfter (x : Host.Outcome State Fault Refusal) (u : Nat) : List Begun :=
  match x with
  | .next t => (getUnit t u).begun
  | _ => []

theorem read_brings {x : Option LineMap × State} (h : x.1.isSome = true) : x = (some (x.1.getD []), x.2) := by
  obtain ⟨_ | m, v⟩ := x
  · cases h
  · rfl

/-! ## What the push meets -/

theorem push_heads : headOp halfLineState 16 .thresher 0 = some halfLinePush := by decide +kernel
theorem push_entry : descStored (getTiller halfLineState halfLinePush.tiller) (field halfLinePush.word 39 32) = List.replicate 16 (0, 0) := by
  decide +kernel
theorem push_entry_noted : storeNote halfLineState halfLinePush.tiller (List.replicate 16 (0, 0)) = halfLineState := by decide +kernel
theorem push_reduction : opReduction halfLineState halfLinePush = farStacks := by decide +kernel
theorem push_order : redV1 halfLineState farStacks = false := by decide +kernel
theorem push_order_kept : redV1 headerRead.2 farStacks = false := by decide +kernel
theorem push_address : runAddr (opAg halfLinePush 0) % 2 ^ 56 = 32 := by decide +kernel

theorem headerRead_brings : headerRead.1.isSome = true := by decide +kernel
theorem header_parsed : parseHead (mapBytes (headerRead.1.getD []) 32 32) = ⟨0, 1, 2, 0, 2, 1, 0, 0⟩ := by decide +kernel
theorem header_expected : headOk farStacks (plannedEnds headerRead.2 32 farStacks.next) ⟨0, 1, 2, 0, 2, 1, 0, 0⟩ = true := by decide +kernel
theorem oneBlock_count : stackCount false 1 2 = 1 := by decide +kernel

theorem valuesRead_brings : valuesRead.1.isSome = true := by decide +kernel
theorem stacksWritten_goes : stacksWritten.1.isSome = true := by decide +kernel

/-- The command itself begins nothing: its second read meets the uncorrectable word. -/
theorem push_begins_nothing : begunAfter (exec (.npush 0) halfLineState) 16 = [] := by decide +kernel

end Sys2Proof.Machine

namespace Sys2Proof
open Machine

/-- Refutes O37: an NPUSH of a set at byte 32 meets every condition of the statement and begins nothing. -/
theorem not_reductionSubopsComplete : ¬ Obligations.ReductionSubopsComplete := by
  intro h
  obtain ⟨v2, written⟩ := Option.isSome_iff_exists.1 stacksWritten_goes
  have push := (h halfLineState headerRead.2 valuesRead.2 v2 0 halfLinePush (headerRead.1.getD []) (valuesRead.1.getD [])).1
  dsimp only at push
  simp only [push_entry, push_entry_noted, push_reduction, push_order, push_address, header_parsed, oneBlock_count] at push
  obtain ⟨t, next, ⟨-, done, -, begun, -⟩, -⟩ := (push push_heads (by decide) (by decide) (read_brings headerRead_brings)).2
    header_expected push_order_kept (read_brings valuesRead_brings) written
  have nothing := push_begins_nothing
  rw [next] at nothing
  exact List.append_ne_nil_of_right_ne_nil _ (List.cons_ne_nil _ _) (begun.symm.trans nothing)

end Sys2Proof
end

section
/-!
PROOFS. Asynchronous copies and matrix requests of the engine port: how a request is taken up and answered, what its reads leave alone, and
what each request changes once it is carried out.
-/
namespace Sys2Proof.Machine

/-! ## Copy engines (R479, R480) -/

/-- The oldest waiting copy is the one behind those that have an engine. -/
theorem startFirst_oldest (c : Nat) {pre post : List AcopyJob} {j : AcopyJob} (hp : ∀ i ∈ pre, i.engine.isSome = true) (hj : j.engine = none) :
    startFirst c (pre ++ j :: post) = pre ++ { j with engine := some c } :: post := by
  induction pre with
  | nil => exact if_pos (by rw [hj]; rfl)
  | cons i pre ih =>
    obtain ⟨hi, hp⟩ := List.forall_mem_cons.1 hp
    have held : i.engine.isNone = false := by rw [Option.isNone_eq_false_iff]; exact hi
    exact (if_neg (by rw [held]; exact Bool.false_ne_true)).trans (congrArg (i :: ·) (ih hp))

theorem acopyStart_starts {s : State} {c : Nat} {pre post : List AcopyJob} {j : AcopyJob} (hu : grangerUp s = true)
    (hc : (freeEngines s).head? = some c) (hs : s.ep.copies = pre ++ j :: post) (hp : ∀ i ∈ pre, i.engine.isSome = true) (hj : j.engine = none) :
    exec .acopyStart s = .next { s with ep := { s.ep with copies := pre ++ { j with engine := some c } :: post } } := by
  change execAcopyStart s = _
  unfold execAcopyStart
  rw [hc]
  dsimp only
  rw [if_pos hu, hs, startFirst_oldest c hp hj]

/-- An ended copy waits for its host writes, then its counter is raised (R480). -/
theorem acopyComplete_ended {s : State} {c : Nat} {j : AcopyJob} {ok : Bool} (hf : s.ep.copies.find? (fun x => x.engine == some c) = some j)
    (he : j.ended = some ok) :
    exec (.acopyComplete c) s = .next (if s.hl.hostReqs.any (fun q => q.who == .copyEngine c) then s else countCopy s c j ok) := by
  change execAcopyComplete c s = _
  unfold execAcopyComplete
  rw [hf]
  dsimp only
  rw [he]
  dsimp only
  split <;> rfl

/-- Copy engine c without its copy. -/
def withoutCopy (s : State) (c : Nat) : State := { s with ep := { s.ep with copies := s.ep.copies.filter (fun x => x.engine != some c) } }

/-- The copy whose counter is raised, or refused, leaves its engine. -/
theorem countCopy_copies (s : State) (c : Nat) (j : AcopyJob) (ok : Bool) :
    (countCopy s c j ok).ep.copies = s.ep.copies.filter (fun x => x.engine != some c) := by
  unfold countCopy
  extract_lets port u l
  split
  · exact congrArg EnginePort.copies (refuseCtx_aside u _ _ _ _ _ (.refl u)).ep
  · exact congrArg EnginePort.copies (farAtomic_aside u _ _ _ _ (.refl u)).ep

/-- A counter that the copy's context may raise takes one completion or one failure by a far atomic. -/
theorem countCopy_raises {s : State} {j : AcopyJob} (c : Nat) (ok : Bool) (h : loftCheck s j.counter j.context .atomic = .ok) :
    countCopy s c j ok
      = (farAtomic (withoutCopy s c) (12 + c) ⟨2, j.counter / 64⟩ j.context ⟨0, 3, j.counter % 64, [(if ok then 1 else 2 ^ 32, 0)]⟩).after := by
  unfold countCopy
  extract_lets port u l
  rw [show loftCheck u j.counter j.context .atomic = .ok from h]
  rfl

/-! ## Answers (R466, R468) -/

/-- What becomes of a group's empty buffer touches the attachments only, and no request (R470). -/
theorem freeBuf_requests (s : State) (k n : Nat) : (getAtt (freeBuf s k) n).outstanding = (getAtt s n).outstanding := by
  unfold freeBuf
  extract_lets x g
  split
  · rw [getAtt_setAtt]
    split
    · next h => rw [h]
    · rfl
  · rfl

theorem freeBuf_port (s : State) (k : Nat) : ∃ ep, freeBuf s k = { s with ep } := by
  unfold freeBuf
  extract_lets x g
  split <;> exact ⟨_, rfl⟩

/-- An answer touches the attachments and what leaves only. -/
theorem epAnswer_port (s : State) (att : Nat) (tag : BitVec 12) (status : BitVec 4) (lanes : List (Nat × BitVec 128)) (id : W16) (flags : Byte) :
    ∃ ep, epAnswer s att tag status lanes id flags
      = { s with ep, out := s.out ++ [.epCredits att 1, .epResponse att tag status lanes id flags] } := by
  unfold epAnswer
  extract_lets x err answered sent
  have leaves : sent.out = s.out ++ [.epCredits att 1, .epResponse att tag status lanes id flags] := List.append_assoc s.out [_] [_]
  split
  · obtain ⟨ep, freed⟩ := freeBuf_port sent _
    exact ⟨ep, by rw [freed, ← leaves]; rfl⟩
  · exact ⟨sent.ep, by rw [← leaves]; rfl⟩

/-- A request that is answered is no longer outstanding. -/
theorem epAnswer_requests (s : State) (att : Nat) (tag : BitVec 12) (status : BitVec 4) (lanes : List (Nat × BitVec 128)) (id : W16) (flags : Byte) :
    (getAtt (epAnswer s att tag status lanes id flags) att).outstanding = (getAtt s att).outstanding.filter (fun o => o.tag != tag) := by
  unfold epAnswer
  extract_lets x err answered sent
  have left : (getAtt sent att).outstanding = x.outstanding.filter (fun o => o.tag != tag) :=
    congrArg Attach.outstanding (getAtt_setAtt_same s att _)
  split
  · exact (freeBuf_requests sent _ att).trans left
  · exact left

theorem epAnswer_responds (s : State) (r : EpReq) (status : BitVec 4) (lanes : List (Nat × BitVec 128)) (flags : Byte) :
    Responds (epAnswer s r.att r.tag status lanes 0 flags) r status lanes flags := by
  obtain ⟨ep, answered⟩ := epAnswer_port s r.att r.tag status lanes 0 flags
  refine ⟨⟨s.out, by rw [answered]⟩, fun o ho => ?_⟩
  rw [epAnswer_requests] at ho
  simpa using (List.mem_filter.1 ho).2

/-! ## Requests (R463 to R469, R476, R481) -/

/-- A request that has begun waits for its tick, then is answered OK. -/
theorem epRequest_due {s : State} {r : EpReq} {d : Nat} (sheaf : Option Nat) (body : State → State) (hu : grangerUp s = true)
    (hp : attPresent s r.att = true) (hd : epDue s r = some d) :
    epRequest r sheaf body s = .next (if d ≤ s.tick then epSay s r 0 else s) := by
  have known : (getAtt s r.att).outstanding.any (fun o => o.tag == r.tag) = true := by
    unfold epDue at hd
    obtain ⟨o, found, -⟩ := Option.bind_eq_some_iff.1 hd
    exact List.any_eq_true.2 ⟨o, List.mem_of_find?_eq_some found, by simpa using List.find?_some found⟩
  unfold epRequest
  simp [hu, hp, known, hd]

theorem gmRequest_due {s : State} {r : EpReq} {d : Nat} (body : GmParam → State → State) (hu : grangerUp s = true)
    (hp : attPresent s r.att = true) (hd : epDue s r = some d) :
    gmRequest r body s = .next (if d ≤ s.tick then epSay s r 0 else s) := epRequest_due (gmSheaf r) _ hu hp hd

/-- The requests of the state in which a request is carried out: its own stands last. -/
theorem takenUp_requests (s : State) (r : EpReq) (sheaf : Option Nat) : (getAtt (takenUp s r sheaf) r.att).outstanding
    = (getAtt s r.att).outstanding ++ [{ tag := r.tag, group := r.group, sheaf := sheaf, since := s.tick }] :=
  congrArg Attach.outstanding (getAtt_setAtt_same s r.att _)

/-- No request stands behind one that is taken up at once, and it has no tick of its own yet. -/
theorem taken_first_in_turn {s : State} {r : EpReq} {sheaf : Option Nat} (h : Taken s r sheaf) :
    epDue (takenUp s r sheaf) r = none ∧ epBehind (takenUp s r sheaf) r sheaf = false := by
  have fresh : (getAtt s r.att).outstanding.find? (fun o => o.tag == r.tag) = none :=
    List.find?_eq_none.2 fun o ho => by simpa using (h.first o ho).1
  refine ⟨?_, List.any_eq_false.2 fun o ho => ?_⟩
  · unfold epDue
    rw [takenUp_requests, List.find?_append, fresh]
    simp
  · have earlier : o ∈ (getAtt s r.att).outstanding := by
      unfold epAhead at ho
      rw [takenUp_requests, List.takeWhile_append_of_pos (fun o ho => by simpa using (h.first o ho).1)] at ho
      simpa using ho
    obtain ⟨-, group, sheaves⟩ := h.first o earlier
    cases sheaf with
    | none => simp [group]
    | some n => simp [group, sheaves rfl]

theorem epRequest_taken {s : State} {r : EpReq} {sheaf : Option Nat} (h : Taken s r sheaf) (body : State → State) :
    epRequest r sheaf body s = .next (body (takenUp s r sheaf)) := by
  have known : (getAtt s r.att).outstanding.any (fun o => o.tag == r.tag) = false :=
    List.any_eq_false.2 fun o ho => by simpa using (h.first o ho).1
  have credit : ((getAtt s r.att).credits == 0) = false := by simpa using h.credit
  obtain ⟨due, behind⟩ := taken_first_in_turn h
  have running : groupFault (takenUp s r sheaf) r = none := by
    unfold groupFault takenUp
    rw [getAtt_setAtt_same]
    exact List.find?_eq_none.2 fun f hf => by simpa using h.free f hf
  have mark : r.mark ≠ 3#2 := h.mark
  unfold takenUp at due behind running
  unfold epRequest
  simp [h.up, h.present, known, credit, due, behind, running, mark, Nat.not_lt.2 h.size, takenUp]

/-- A matrix request is taken up at once, and comes from its Sheaf's lease without reserved bits (R474). -/
structure GmTaken (s : State) (r : EpReq) (p : GmParam) : Prop where
  taken : Taken s r (gmSheaf r)
  param : gmParam r.param = p
  leased : gmLeased s r p.sheaf = true
  plain : p.rsv = false

/-- Such a request is carried out. -/
theorem gmRequest_taken {s : State} {r : EpReq} {p : GmParam} (h : GmTaken s r p) (body : GmParam → State → State) :
    gmRequest r body s = .next (body p (takenUp s r (gmSheaf r))) := by
  have leased : gmLeased (takenUp s r (gmSheaf r)) r p.sheaf = true := h.leased
  unfold gmRequest
  rw [epRequest_taken h.taken]
  dsimp only
  rw [h.param, leased, h.plain]
  rfl

/-! ## What a translated access leaves of the port (R471) -/

theorem tlbInsert_ep (s : State) (n : Option Nat) (e : TlbEntry) : (tlbInsert s n e).ep = s.ep := by
  unfold tlbInsert setTlb
  dsimp only
  split <;> rfl

theorem tlbFill_ep (s : State) (n : Option Nat) (e : TlbEntry) : (tlbFill s n e).ep = s.ep := by
  unfold tlbFill
  dsimp only
  split
  · exact tlbInsert_ep s none e
  · exact (tlbInsert_ep _ n e).trans (tlbInsert_ep s none e)

theorem tlbLookup_ep (s : State) (n : Option Nat) (ctx : BitVec 20) (va : Nat) (acc : AccessKind) (ad : Bool) :
    (tlbLookup s n ctx va acc ad).2.ep = s.ep := by
  unfold tlbLookup
  split
  · rfl
  · split
    · dsimp only; split
      · rfl
      · exact tlbInsert_ep ..
    · rfl

theorem tableRead_ep (s : State) (a : Nat) : (tableRead s a).ep = s.ep := by
  unfold tableRead
  split
  · exact (memReadLine_aside s _ (.refl s)).ep
  · rfl

theorem setPteBit_ep (s : State) (ea k : Nat) : (setPteBit s ea k).ep = s.ep := by
  unfold setPteBit
  split
  · rfl
  · dsimp only
    split
    · rfl
    · split
      · exact (memWriteLine_aside s _ _ _ (.refl s)).ep
      · rfl

theorem markPte_ep (s : State) (ea e : Nat) (ad write : Bool) : (markPte s ea e ad write).ep = s.ep := by
  unfold markPte
  split
  · rfl
  · extract_lets used
    have accessed : used.ep = s.ep := by
      dsimp only [used]
      split
      · rfl
      · exact setPteBit_ep ..
    split
    · exact (setPteBit_ep ..).trans accessed
    · exact accessed

theorem leafFill_ep (s : State) (tlb : Option Nat) (ctx : BitVec 20) (va : Nat) (acc : AccessKind) (ea e sh : Nat) (w : Bool) :
    (leafFill s tlb ctx va acc ea e sh w).ep = s.ep := by
  unfold leafFill
  exact (tlbFill_ep ..).trans ((foldl_same State.ep tableRead_ep _ _).trans (markPte_ep ..))

/-- An access that is mapped leaves the port as it is; one that parks may park its group. -/
structure MapsAside (s : State) (x : Xl × State) : Prop where
  port : ∀ d ty, x.1 = .ok d ty → x.2.ep = s.ep

theorem MapsAside.refused (s t : State) (reason st : Byte) : MapsAside s (.refuse reason st, t) := ⟨fun _ _ h => by cases h⟩
theorem MapsAside.parked (s t : State) : MapsAside s (.parked, t) := ⟨fun _ _ h => by cases h⟩
theorem MapsAside.same {s t : State} (x : Xl) (h : t.ep = s.ep) : MapsAside s (x, t) := ⟨fun _ _ _ => h⟩

theorem raiseFault_mapsAside (s t : State) (who : Requester) (ctx : BitVec 20) (va : Nat) (acc : AccessKind) (reason : Byte) (level : Nat) :
    MapsAside s (raiseFault t who ctx va acc reason level) := by
  unfold raiseFault
  dsimp only
  split
  · exact .refused ..
  split
  · exact .parked ..
  split
  · exact .parked ..
  split <;> exact .parked ..

theorem walkNow_mapsAside (s : State) (tlb : Option Nat) (who : Requester) (ctx : BitVec 20) (va : Nat) (acc : AccessKind) :
    MapsAside s (walkNow s tlb who ctx va acc) := by
  unfold walkNow
  dsimp only
  split
  · exact .refused ..
  split
  · split
    · exact raiseFault_mapsAside ..
    · split <;> exact .refused ..
  · exact .same _ ((leafFill_ep ..).trans (foldl_same State.ep tableRead_ep _ _))

theorem translate_mapsAside (s : State) (tlb : Option Nat) (who : Requester) (ctx : BitVec 20) (a n : Nat) (acc : AccessKind) :
    MapsAside s (translate s tlb who ctx a n acc) := by
  unfold translate
  dsimp only
  split
  · exact .refused ..
  split
  · exact .same _ rfl
  split
  · split
    · exact .same _ rfl
    · exact .refused ..
  split
  · exact .refused ..
  split
  · exact .same _ (tlbLookup_ep ..)
  split
  · exact .same _ rfl
  split
  · exact .parked ..
  split
  · exact .parked ..
  · exact ⟨(walkNow_mapsAside (countWalk s) ..).port⟩

/-- Parts that all resolve leave the port as it is. -/
theorem epResolve_ep {r : EpReq} {acc : AccessKind} : ∀ {parts : List (Nat × Nat)} {s s2 : State} {os : List LineOp},
    epResolve s r acc parts = (os, .all, s2) → s2.ep = s.ep
  | [], s, s2, os, h => by cases h; rfl
  | p :: rest, s, s2, os, h => by
    unfold epResolve at h
    dsimp only at h
    split at h
    · cases h
    · cases h
    next mapped =>
      split at h
      · cases h
      · obtain ⟨rfl, ends⟩ := Prod.mk.inj h
        exact (epResolve_ep (Prod.ext rfl ends)).trans ((translate_mapsAside ..).port _ _ mapped)

/-- No parts resolve to no lines. -/
theorem epResolve_nil {s s2 : State} {r : EpReq} {acc : AccessKind} {os : List LineOp} (h : epResolve s r acc [] = (os, .all, s2)) :
    os = [] := by cases h; rfl

/-! ## Reads of a matrix request (R301, R474, R481) -/

theorem lineGet_ep (s : State) (iss : Issuer) (o : LineOp) : (lineGet s iss o).2.ep = s.ep := by
  unfold lineGet
  dsimp only
  split
  · exact (memReadLine_aside s _ (.refl s)).ep
  · split
    · rfl
    · exact (agentRead_aside s _ _ _ _ _ (.refl s)).ep

theorem epReadLines_ep (s : State) (iss : LineOp → Issuer) (os : List LineOp) : (epReadLines s iss os).2.ep = s.ep := by
  unfold epReadLines
  refine List.foldlRecOn os _ (motive := fun x : LineMap × State => x.2.ep = s.ep) rfl fun x kept o _ => ?_
  dsimp only
  split
  · exact kept
  · split
    · exact kept
    · exact (lineGet_ep ..).trans kept

/-- The state once a matrix request has read its lines: its host requests are its own, its task is done. -/
def afterReads (s2 : State) (r : EpReq) (p : GmParam) (os : List LineOp) : State :=
  endTask (claimGroup s2 r (epReadLines s2 (fun _ => gmIssuer r p) os).2) (epWho r)

theorem afterReads_ep (s2 : State) (r : EpReq) (p : GmParam) (os : List LineOp) : (afterReads s2 r p os).ep = s2.ep := epReadLines_ep ..

/-- A matrix request may read its ranges: every part resolves, no remote line is lost or still on its way, and no word is poisoned. -/
structure GmReads (s s2 : State) (r : EpReq) (p : GmParam) (os : List LineOp) (ranges : List (Nat × Nat)) (m : LineMap) : Prop where
  resolved : epResolve s r .read (ranges.flatMap (fun x => splitRange x.1 x.2)).eraseDups = (os, .all, s2)
  kept : (getTask s2 (epWho r)).failed = none
  here : epMissing s2 r os = []
  lines : m = ((ranges.flatMap (fun x => splitRange x.1 x.2)).eraseDups.zip os).map
    (fun q => (64 * (q.1.1 / 64), mapLine (epReadLines s2 (fun _ => gmIssuer r p) os).1 q.2.dpa))
  clean : mapPoison m ranges = none

theorem gmRead_reads {s s2 : State} {r : EpReq} {p : GmParam} {os : List LineOp} {ranges : List (Nat × Nat)} {m : LineMap}
    (h : GmReads s s2 r p os ranges m) (k : State → LineMap → State) : gmRead s r p ranges k = k (afterReads s2 r p os) m := by
  have clean := h.clean
  rw [h.lines] at clean ⊢
  unfold gmRead epAccess epFetch
  simp [h.resolved, h.kept, h.here, clean, afterReads]

/-! ## The tick of a request that has begun -/

/-- A request is among those not answered. -/
def Waits (s : State) (r : EpReq) : Prop := ∃ o ∈ (getAtt s r.att).outstanding, o.tag = r.tag

theorem takenUp_waits (s : State) (r : EpReq) (sheaf : Option Nat) : Waits (takenUp s r sheaf) r := by
  unfold Waits
  rw [takenUp_requests]
  exact ⟨_, List.mem_append_right _ (List.mem_singleton_self _), rfl⟩

theorem Waits.of_ep {s t : State} {r : EpReq} (h : Waits s r) (e : t.ep = s.ep) : Waits t r := by
  unfold Waits getAtt at h ⊢
  rw [e]
  exact h

theorem GmReads.waits {s s2 : State} {r : EpReq} {p : GmParam} {os : List LineOp} {ranges : List (Nat × Nat)} {m : LineMap}
    (h : GmReads s s2 r p os ranges m) (w : Waits s r) : Waits (afterReads s2 r p os) r :=
  w.of_ep ((afterReads_ep s2 r p os).trans (epResolve_ep h.resolved))

/-- A request that begins has its tick. -/
theorem epBegin_due {s : State} {r : EpReq} (h : Waits s r) (due : Nat) (pass : Bool) : epDue (epBegin s r due pass) r = some due := by
  obtain ⟨o, ho, tag⟩ := h
  unfold epDue epBegin
  dsimp only
  rw [getAtt_setAtt_same]
  dsimp only
  cases found : ((getAtt s r.att).outstanding.map (fun o => if o.tag = r.tag then { o with due := some due, pass := pass } else o)).find?
      (fun o => o.tag == r.tag) with
  | none =>
    have := List.find?_eq_none.1 found _ (List.mem_map_of_mem ho)
    simp [tag] at this
  | some q =>
    obtain ⟨o', -, rfl⟩ := List.mem_map.1 (List.mem_of_find?_eq_some found)
    have named := List.find?_some found
    by_cases same : o'.tag = r.tag
    · simp [same]
    · simp [same] at named

/-! ## GM_LOAD (R104, R118) -/

/-- The ranges of a row and of its scale row. -/
def rowRanges (p : GmParam) (a b : Nat) : List (Nat × Nat) := (a, gmRow p) :: (if p.sch = 0 then [] else [(b, gmScales p)])

/-- Context addresses of weight row n and of its scale row. -/
def weightAt (p : GmParam) (n : Nat) : Nat := (p.wbase + n * p.wpitch) % 2 ^ 64
def scalesAt (p : GmParam) (n : Nat) : Nat := (p.wsbase + n * p.wspitch) % 2 ^ 64

/-- The tile that a GM_LOAD's weight rows hold. -/
def gmTile (p : GmParam) (m : LineMap) : Tile :=
  { fmt := p.fmt, sch := p.sch, lanes := lanesOf p.lanes, kblk := p.kblk, len := p.len
    rows := (List.range (256 * lanesOf p.lanes)).map (fun n =>
      let b := if p.sch = 0 then [] else gmScaleBytes p m (scalesAt p n)
      ⟨gmCodes p m (weightAt p n), b.map (fun x => x.1), b.map (fun x => x.2)⟩) }

theorem gmTile_codes (p : GmParam) (m : LineMap) {n : Nat} (h : n < 256 * lanesOf p.lanes) :
    ((gmTile p m).rows.getD n ⟨[], [], []⟩).codes = gmCodes p m (weightAt p n) := by
  unfold gmTile
  simp [List.getD_eq_getElem?_getD, List.getElem?_map, List.getElem?_range h]

/-- The ranges that a GM_LOAD reads. -/
def loadRanges (p : GmParam) : List (Nat × Nat) :=
  (List.range (256 * lanesOf p.lanes)).flatMap (fun n => rowRanges p (weightAt p n) (scalesAt p n))

/-- A GM_LOAD may fill its buffer: its format and layout are legal, its turn has come, and its rows may be read (R59, R474, R476). -/
structure LoadMay (s s2 : State) (r : EpReq) (p : GmParam) (os : List LineOp) (m : LineMap) : Prop where
  taken : GmTaken s r p
  format : gmFormatBad p = false
  layout : gmLayoutBad p = false
  lanes : lanesOf p.lanes ≤ fmtLanes p.fmt
  turn : (getSheaf s p.sheaf).gmLoads < (getSheaf s p.sheaf).gmPasses + 2
  reads : GmReads (takenUp s r (gmSheaf r)) s2 r p os (loadRanges p) m

/-- A GM_LOAD that may fill its buffer takes its tile into the buffer of its turn and begins (R104, R118). -/
theorem gmLoad_fills {s s2 : State} {r : EpReq} {p : GmParam} {os : List LineOp} {m : LineMap} (h : LoadMay s s2 r p os m) :
    exec (.gmLoad r) s = .next (
      let w := afterReads s2 r p os
      let k := (getSheaf w p.sheaf).gmLoads
      let sh := fillBuf (getSheaf w p.sheaf) k w.tick (gmTile p m)
      epBegin (setSheaf w p.sheaf { sh with gmLoads := k + 1 }) r (tileLast (bufOf sh k)) false) := by
  have read := gmRead_reads h.reads
  unfold loadRanges rowRanges weightAt scalesAt at read
  have turn : (gmFormatBad p || gmLayoutBad p || decide (fmtLanes p.fmt < lanesOf p.lanes)
      || decide ((getSheaf (takenUp s r (gmSheaf r)) p.sheaf).gmPasses + 2 ≤ (getSheaf (takenUp s r (gmSheaf r)) p.sheaf).gmLoads)) = false := by
    rw [h.format, h.layout, decide_eq_false (Nat.not_lt.2 h.lanes)]
    exact decide_eq_false (Nat.not_le.2 h.turn)
  change execGmLoad r s = _
  unfold execGmLoad
  rw [gmRequest_taken h.taken]
  dsimp only
  rw [turn, if_neg Bool.false_ne_true, read]
  rfl

/-- The buffer of the turn takes the tile; the other one stays (R103, R180). -/
theorem fillBuf_turn (sh : Sheaf) (k now : Nat) (t : Tile) :
    (k % 2 = 0 → (fillBuf sh k now t).buf0 = filledTile sh k now t ∧ (fillBuf sh k now t).buf1 = sh.buf1)
    ∧ (k % 2 = 1 → (fillBuf sh k now t).buf1 = filledTile sh k now t ∧ (fillBuf sh k now t).buf0 = sh.buf0) := by
  refine ⟨fun even => ?_, fun odd => ?_⟩
  · rw [fillBuf_even now t even]; exact ⟨rfl, rfl⟩
  · rw [fillBuf_odd now t odd]; exact ⟨rfl, rfl⟩

theorem epBegin_sheaf (s : State) (r : EpReq) (due : Nat) (pass : Bool) (n : Nat) : getSheaf (epBegin s r due pass) n = getSheaf s n := rfl

/-- What a GM_LOAD leaves in its Sheaf, and when it is answered. -/
theorem gmLoad_leaves {s s2 : State} {r : EpReq} {p : GmParam} {os : List LineOp} {m : LineMap} (h : LoadMay s s2 r p os m) :
    Gives (exec (.gmLoad r) s) (fun t =>
      let old := getSheaf (afterReads s2 r p os) p.sheaf
      ∃ tile, epDue t r = some (tileLast tile) ∧ (getSheaf t p.sheaf).gmLoads = old.gmLoads + 1
        ∧ (old.gmLoads % 2 = 0 → (getSheaf t p.sheaf).buf0 = tile ∧ (getSheaf t p.sheaf).buf1 = old.buf1)
        ∧ (old.gmLoads % 2 = 1 → (getSheaf t p.sheaf).buf1 = tile ∧ (getSheaf t p.sheaf).buf0 = old.buf0)
        ∧ tile.fmt = p.fmt ∧ tile.sch = p.sch ∧ tile.lanes = lanesOf p.lanes ∧ tile.kblk = p.kblk ∧ tile.len = p.len
        ∧ tile.parity = tileParity tile
        ∧ ∀ n, n < 256 * lanesOf p.lanes → (tile.rows.getD n ⟨[], [], []⟩).codes = gmCodes p m (weightAt p n)) := by
  let w := afterReads s2 r p os
  let old := getSheaf w p.sheaf
  obtain ⟨even, odd⟩ := fillBuf_turn old old.gmLoads w.tick (gmTile p m)
  have waits : Waits w r := h.reads.waits (takenUp_waits s r _)
  refine ⟨_, gmLoad_fills h, filledTile old old.gmLoads w.tick (gmTile p m), ?_⟩
  dsimp only
  rw [bufOf_fillBuf, epBegin_sheaf, getSheaf_setSheaf_same]
  exact ⟨epBegin_due (waits.of_ep rfl) .., rfl, even, odd, rfl, rfl, rfl, rfl, rfl, rfl, fun n hn => gmTile_codes p m hn⟩

/-! ## GM_PASS (R97, R102, R104, R117, R118) -/

/-- A table whose parts are changed one by one, an absent part staying absent. -/
theorem look_map {α : Type} {f : α → α} {d : α} (hd : f d = d) (t : Tbl α) (k : Nat) :
    look d (t.map (fun e => (e.1, f e.2))) k = f (look d t k) := by
  induction t with
  | nil => exact hd.symm
  | cons e t ih =>
    change (if k = e.1 then f e.2 else _) = f (if k = e.1 then e.2 else _)
    split
    · rfl
    · exact ih

/-- A hold delays requests and ends none (R117). -/
theorem freezeSheaf_waits {s : State} {r : EpReq} (h : Waits s r) (n k : Nat) : Waits (freezeSheaf s n k) r := by
  obtain ⟨o, ho, tag⟩ := h
  unfold Waits freezeSheaf
  extract_lets now late u unit delayed port cold sh region
  rw [getAtt_setSheaf, show getAtt cold r.att = delayed (getAtt s r.att) from look_map rfl s.ep.atts r.att]
  refine ⟨_, List.mem_map_of_mem ho, ?_⟩
  split
  · exact tag
  · exact tag

theorem freezeSheaf_gmPasses (s : State) (n k : Nat) : (getSheaf (freezeSheaf s n k) n).gmPasses = (getSheaf s n).gmPasses := by
  unfold freezeSheaf
  extract_lets now late u unit delayed port cold sh region
  rw [getSheaf_setSheaf_same]
  rfl

/-- A pass of the port that starts now on a tile: its Sheaf's store, flags and region, its ticks and its hold (R102, R117). -/
def portPass (u : State) (r : EpReq) (p : GmParam) (g : Region) (t0 : Tile) (rows : Nat) (q : Ram × Tbl Byte) (missing : List Nat) : State :=
  let step := pairStep p.fmt t0.fmt
  let wait := min u.tick (tileReady t0 step) - max (getSheaf u p.sheaf).portFree (epSince u r)
  let hold := Config.passHold u.freeCtr
  let done := u.tick + passSpan step rows + hold
  let cold := freezeSheaf (freshFree u).2 p.sheaf hold
  let sh := getSheaf cold p.sheaf
  let g' := { g with pushes := g.pushes + 1, voids := g.voids ++ missing.filter (fun i => !g.voids.contains i), passEnd := done }
  let sh := { sh with store := q.1, portFlags := q.2, portRegion := some g', gmPasses := sh.gmPasses + 1, hold := satAdd32 sh.hold (hold + wait) }
  epBegin (setSheaf cold p.sheaf (passTimes sh (sh.gmPasses - 1) cold.tick step rows hold)) r done true

/-- What such a pass leaves. -/
theorem portPass_leaves {u : State} {r : EpReq} (h : Waits u r) (p : GmParam) (g : Region) (t0 : Tile) (rows : Nat) (q : Ram × Tbl Byte)
    (missing : List Nat) :
    let t := portPass u r p g t0 rows q missing
    ∃ done, epDue t r = some done ∧ (getSheaf t p.sheaf).gmPasses = (getSheaf u p.sheaf).gmPasses + 1 ∧ (getSheaf t p.sheaf).store = q.1
      ∧ (getSheaf t p.sheaf).portFlags = q.2 ∧ (getSheaf t p.sheaf).portRegion
        = some { g with pushes := g.pushes + 1, voids := g.voids ++ missing.filter (fun i => !g.voids.contains i), passEnd := done } := by
  intro t
  unfold t portPass
  extract_lets step wait hold done cold sh g' sh'
  have waits : Waits cold r := freezeSheaf_waits (h.of_ep rfl) ..
  have passes : sh.gmPasses = (getSheaf u p.sheaf).gmPasses := freezeSheaf_gmPasses ..
  obtain ⟨_, _, _, _, _, times⟩ := passTimes_frame sh' (sh'.gmPasses - 1) cold.tick step rows hold
  refine ⟨done, epBegin_due (waits.of_ep rfl) .., ?_⟩
  rw [epBegin_sheaf, getSheaf_setSheaf_same, times]
  exact ⟨congrArg (· + 1) passes, rfl, rfl, rfl⟩

/-- The lane of a row. -/
def laneOf (lanes : List (Nat × Lane)) (i : Nat) : Option (Nat × Lane) := lanes.find? (fun x => x.1 == i)

/-- The codes and blocks of row i: its lane's, or zeros where it has none (R474). -/
def passRow (p : GmParam) (m : LineMap) (lanes : List (Nat × Lane)) (i : Nat) : List Nat × List Block :=
  match laneOf lanes i with
  | some x =>
    let cs := gmCodes p m x.2.addr.toNat
    (cs, if p.sch = 0 then [] else gmBlocks p cs (gmScaleBytes p m (x.2.data.toNat % 2 ^ 64)))
  | none =>
    let cs := List.replicate p.len 0
    (cs, if p.sch = 0 then [] else gmBlocks p cs (List.replicate (p.len / blockLen p.sch) (0, 0)))

/-- The codes and the scales of row i apart. -/
theorem passRow_eq (p : GmParam) (m : LineMap) (lanes : List (Nat × Lane)) (i : Nat) :
    let codes := match laneOf lanes i with | some x => gmCodes p m x.2.addr.toNat | none => List.replicate p.len 0
    let scales := match laneOf lanes i with
      | some x => gmScaleBytes p m (x.2.data.toNat % 2 ^ 64)
      | none => List.replicate (p.len / blockLen p.sch) (0, 0)
    passRow p m lanes i = (codes, if p.sch = 0 then [] else gmBlocks p codes scales) := by
  unfold passRow
  cases laneOf lanes i <;> rfl

/-- One output of a GM_PASS: the K-block's sum of row e / width and weight row e % width (R97). -/
def gmOutput (p : GmParam) (m : LineMap) (lanes : List (Nat × Lane)) (g : Region) (t0 : Tile) (e : Nat) : Flagged :=
  let x := passRow p m lanes (e / (256 * t0.lanes))
  passNode g.acc p.fmt x.1 x.2 t0 (e % (256 * t0.lanes))

/-- Rows without a lane. -/
def missingRows (lanes : List (Nat × Lane)) (n : Nat) : List Nat := (List.range n).filter (fun i => (laneOf lanes i).isNone)

theorem missingRows_eq (lanes : List (Nat × Lane)) (n : Nat) : missingRows lanes n = (List.range n).filter (fun i => !lanes.any (fun x => x.1 == i)) := by
  unfold missingRows laneOf
  refine List.filter_congr fun i _ => ?_
  rw [← List.isSome_find?, Option.not_isSome]

/-- Reading a Sheaf's store notes what was corrected and touches no request. -/
theorem entryNote_ep (s : State) (n : Nat) (ws : List (Nat × Nat)) : (entryNote s n ws).ep = s.ep := by
  obtain ⟨_, _, noted⟩ := entryNote_noted s n ws
  rw [noted]

/-- A matrix request whose registers and entries hold no error goes on (R114). -/
theorem gmSound_sound {s : State} {r : EpReq} {n : Nat} {tiles : List Tile} {addrs : List Nat} (k : State → State)
    (ht : tiles.all tileSound = true) (hw : (storeWords (getSheaf s n).store addrs).any eccBad = false) :
    gmSound s r n tiles addrs k = k (entryNote s n (storeWords (getSheaf s n).store addrs)) := by
  unfold gmSound
  rw [ht, hw, if_neg (by decide)]
  exact readEntries_sound k hw

/-- The ranges that a GM_PASS reads. -/
def passRanges (p : GmParam) (lanes : List (Nat × Lane)) : List (Nat × Nat) :=
  lanes.flatMap (fun x => rowRanges p x.2.addr.toNat (x.2.data.toNat % 2 ^ 64))

/-- Every row of the group's width has a lane, or rows may be missing under MOK (R474). -/
theorem laneCount_enough {s : State} {r : EpReq} (h : epWidth s r.att ≤ (activeLanes s r).length ∨ r.mok = true) :
    ¬ (decide ((activeLanes s r).length < epWidth s r.att) && !r.mok) = true := by
  rcases h with full | mok
  · simp [full]
  · simp [mok]

/-- A GM_PASS may push its node: its format, tile and region agree, the input port and the tile's first column are free for it, its rows may be
read, and registers and entries hold no error (R104, R114, R474, R476). -/
structure PassMay (s s2 : State) (r : EpReq) (p : GmParam) (os : List LineOp) (m : LineMap) (g : Region) (t0 : Tile) : Prop where
  taken : GmTaken s r p
  format : gmFormatBad p = false
  turn : (getSheaf s p.sheaf).gmPasses < (getSheaf s p.sheaf).gmLoads
  tile : bufOf (getSheaf s p.sheaf) (getSheaf s p.sheaf).gmPasses = t0
  region : passRegion (getSheaf s p.sheaf) p (256 * epWidth s r.att * t0.lanes) = some g
  fits : passBad p t0 g = false
  full : epWidth s r.att ≤ (activeLanes s r).length ∨ r.mok = true
  ready : max (getSheaf s p.sheaf).portFree (tileReady t0 (pairStep p.fmt t0.fmt)) ≤ s.tick
  reads : GmReads (takenUp s r (gmSheaf r)) s2 r p os (passRanges p (activeLanes s r)) m
  sound : tileSound t0 = true
  clean : (storeWords (getSheaf (afterReads s2 r p os) p.sheaf).store (pushReads false g)).any eccBad = false

/-- A GM_PASS that may push its node pushes it onto every element of its region (R97, R474). -/
theorem gmPass_pushes {s s2 : State} {r : EpReq} {p : GmParam} {os : List LineOp} {m : LineMap} {g : Region} {t0 : Tile}
    (h : PassMay s s2 r p os m g t0) :
    let u := entryNote (afterReads s2 r p os) p.sheaf (storeWords (getSheaf (afterReads s2 r p os) p.sheaf).store (pushReads false g))
    exec (.gmPass r) s = .next (portPass u r p g t0 (epWidth s r.att)
      (portPush (getSheaf u p.sheaf).store g (if p.first then [] else (getSheaf u p.sheaf).portFlags) (256 * t0.lanes)
        (gmOutput p m (activeLanes s r) g t0)) (missingRows (activeLanes s r) (epWidth s r.att))) := by
  intro u
  let v := takenUp s r (gmSheaf r)
  have turn : (if (getSheaf v p.sheaf).gmPasses < (getSheaf v p.sheaf).gmLoads then some (bufOf (getSheaf v p.sheaf) (getSheaf v p.sheaf).gmPasses)
      else none) = some t0 := (if_pos h.turn).trans (congrArg some h.tile)
  have region : passRegion (getSheaf v p.sheaf) p (256 * epWidth v r.att * t0.lanes) = some g := h.region
  have ready : ¬ v.tick < max (getSheaf v p.sheaf).portFree (tileReady t0 (pairStep p.fmt t0.fmt)) := Nat.not_lt.2 h.ready
  have read := gmRead_reads h.reads
  unfold passRanges rowRanges at read
  change execGmPass r s = _
  unfold execGmPass
  rw [gmRequest_taken h.taken, missingRows_eq]
  change Host.Outcome.next (if gmFormatBad p then _ else _) = _
  rw [h.format, if_neg Bool.false_ne_true, turn]
  dsimp only
  rw [region]
  dsimp only
  rw [h.fits, if_neg Bool.false_ne_true, if_neg (laneCount_enough (s := v) h.full), if_neg ready]
  refine congrArg Host.Outcome.next ((read _).trans ?_)
  exact gmSound_sound _ (by simpa using h.sound) h.clean

/-- What a GM_PASS leaves in its Sheaf, and when it is answered. -/
theorem gmPass_leaves {s s2 : State} {r : EpReq} {p : GmParam} {os : List LineOp} {m : LineMap} {g : Region} {t0 : Tile}
    (h : PassMay s s2 r p os m g t0) :
    Gives (exec (.gmPass r) s) (fun t =>
      let old := getSheaf (afterReads s2 r p os) p.sheaf
      let q := portPush old.store g (if p.first then [] else old.portFlags) (256 * t0.lanes) (gmOutput p m (activeLanes s r) g t0)
      let missing := missingRows (activeLanes s r) (epWidth s r.att)
      ∃ done, epDue t r = some done ∧ (getSheaf t p.sheaf).gmPasses = old.gmPasses + 1 ∧ (getSheaf t p.sheaf).store = q.1
        ∧ (getSheaf t p.sheaf).portFlags = q.2 ∧ (getSheaf t p.sheaf).portRegion
          = some { g with pushes := g.pushes + 1, voids := g.voids ++ missing.filter (fun i => !g.voids.contains i), passEnd := done }) := by
  let w := afterReads s2 r p os
  let words := storeWords (getSheaf w p.sheaf).store (pushReads false g)
  have noted : getSheaf (entryNote w p.sheaf words) p.sheaf = getSheaf w p.sheaf := (entryNote_noted ..).getSheaf _
  have waits : Waits (entryNote w p.sheaf words) r := (h.reads.waits (takenUp_waits s r _)).of_ep (entryNote_ep ..)
  refine ⟨_, gmPass_pushes h, ?_⟩
  have left := portPass_leaves waits p g t0 (epWidth s r.att) (portPush (getSheaf w p.sheaf).store g
    (if p.first then [] else (getSheaf w p.sheaf).portFlags) (256 * t0.lanes) (gmOutput p m (activeLanes s r) g t0))
    (missingRows (activeLanes s r) (epWidth s r.att))
  rw [noted] at left ⊢
  exact left

/-! ## GM_STORE (R110, R303, R474, R477) -/

/-- A field above the place within a line is that of the line. -/
theorem bits_line (d hi lo : Nat) (h : 6 ≤ lo) : bits (d - d % 64) hi lo = bits d hi lo := by
  obtain ⟨k, rfl⟩ := Nat.exists_eq_add_of_le h
  have line : (d - d % 64) / 2 ^ 6 = d / 2 ^ 6 := by omega
  unfold bits
  rw [Nat.shiftRight_add, Nat.shiftRight_add, Nat.shiftRight_eq_div_pow _ 6, Nat.shiftRight_eq_div_pow _ 6, line]

theorem isRemote_line (s : State) (d : Nat) : isRemote s (d - d % 64) = isRemote s d := by
  unfold isRemote dpaSpace
  rw [bits_line d 55 52 (by omega), bits_line d 49 40 (by omega)]

/-- The lines of some parts are lines of those parts. -/
theorem distinctLines_of (os : List LineOp) : ∀ l ∈ distinctLines os, ∃ o ∈ os, l.dpa = o.dpa - o.dpa % 64 := by
  unfold distinctLines
  refine List.foldlRecOn os _ (motive := fun ls : List LineOp => ∀ l ∈ ls, ∃ o ∈ os, l.dpa = o.dpa - o.dpa % 64) (by simp) fun ls ih o ho => ?_
  split
  · exact ih
  · intro l hl
    rcases List.mem_append.1 hl with old | new
    · exact ih l old
    · exact ⟨o, ho, by rw [List.mem_singleton.1 new]⟩

/-- Local parts have local lines. -/
theorem distinctLines_local {s : State} {os : List LineOp} (h : ∀ o ∈ os, isRemote s o.dpa = false) {l : LineOp} (hl : l ∈ distinctLines os) :
    isRemote s l.dpa = false := by
  obtain ⟨o, ho, place⟩ := distinctLines_of os l hl
  rw [place, isRemote_line]
  exact h o ho

theorem foldl_idle {α β : Type} {g : β → α → β} {s : β} {l : List α} (h : ∀ x ∈ l, g s x = s) : l.foldl g s = s := by
  induction l with
  | nil => rfl
  | cons x l ih => rw [List.foldl_cons, h x (List.mem_cons_self ..), ih fun y hy => h y (List.mem_cons_of_mem _ hy)]

/-- The parts of some rows, and the bytes of each part. -/
def rowParts {α : Type} (rows : List (Nat × List Byte × α)) : List (Nat × Nat) := rows.flatMap (fun w => splitRange w.1 w.2.1.length)
def rowSlices {α : Type} (rows : List (Nat × List Byte × α)) : List (List Byte) := rows.flatMap (fun w =>
  ((splitRange w.1 w.2.1.length).foldl (fun (acc : List (List Byte) × Nat) q => (acc.1 ++ [slice w.2.1 acc.2 q.2], acc.2 + q.2)) ([], 0)).1)

/-- The local lines of resolved parts written, each under the bytes that the parts give it. -/
def writeLocal (s : State) (r : EpReq) (p : GmParam) (os : List LineOp) (bytes : List (List Byte)) : State :=
  let runs := (os.zip bytes).map (fun q => (q.1.dpa, q.2))
  (distinctLines os).foldl (fun x o => if isRemote x o.dpa then x else let c := lineCover runs o.dpa; linePut x (gmIssuer r p) o c.1 c.2) s

/-- Rows whose parts all resolve to lines of this chip are written at once. -/
theorem gmWrite_local {α : Type} {s s2 : State} {r : EpReq} {p : GmParam} {rows : List (Nat × List Byte × α)} {os : List LineOp}
    (h : epResolve s r .write (rowParts rows) = (os, .all, s2)) (hr : ∀ o ∈ os, isRemote s2 o.dpa = false) (k : State → State) :
    gmWrite s r p (rows.map (fun x => (x.1, x.2.1))) k = k (endTask (claimGroup s2 r (writeLocal s2 r p os (rowSlices rows))) (epWho r)) := by
  have here : ∀ o ∈ distinctLines os, isRemote s2 o.dpa = false := fun o ho => distinctLines_local hr ho
  have sent (runs : List (Nat × List Byte)) : (distinctLines os).foldl (fun s o => if isRemote s o.dpa then
      let c := lineCover runs o.dpa; putRemote s (gmIssuer r p) o c.1 c.2 else s) s2 = s2 :=
    foldl_idle fun o ho => if_neg (by rw [here o ho]; exact Bool.false_ne_true)
  have left : (distinctLines os).any (fun o => isRemote s2 o.dpa && !(getTask s2 (gmIssuer r p).who).sent.contains (o.dpa / 64)) = false :=
    List.any_eq_false.2 fun o ho => by rw [here o ho]; simp
  unfold gmWrite epAccess
  simp only [List.flatMap_map]
  rw [show rows.flatMap (fun x => splitRange x.1 x.2.1.length) = rowParts rows from rfl, h]
  dsimp only
  rw [sent, left, if_neg Bool.false_ne_true]
  rfl

/-- The finished elements of the port's region, and the rows of some lanes converted under OUT (R83, R474). -/
def portElems (sh : Sheaf) (g : Region) : List Flagged := (List.range g.ecount).map (portFinish sh.store g)
def storeRows (p : GmParam) (g : Region) (sh : Sheaf) (n : Nat) (lanes : List (Nat × Lane)) : List (Nat × List Byte × Nat) :=
  lanes.map (fun x => (x.2.addr.toNat, storeRow p g (fun e => ((portElems sh g).getD e (0, 0)).1) (g.ecount / n) x.1 (x.2.data.toNat % 2 ^ 32)))

/-- The flags of a row joined: its passes' and those of finishing its elements (R477). -/
def rowFlags (g : Region) (sh : Sheaf) (n f i : Nat) : Nat :=
  (List.range (g.ecount / n)).foldl (fun f k => f ||| ((portElems sh g).getD (i * (g.ecount / n) + k) (0, 0)).2) (f ||| (look 0 sh.portFlags i).toNat)

/-- The flags of the rows that are not void, with those of the rows' conversion (R477). -/
def storeFlags (g : Region) (sh : Sheaf) (n : Nat) (rows : List (Nat × List Byte × Nat)) : Nat :=
  rows.foldl (fun f x => f ||| x.2.2) ((List.range n).foldl (fun (f : Nat) i => if g.voids.contains i then f else rowFlags g sh n f i) 0)

/-- The active lanes whose rows are not void. -/
def liveLanes (s : State) (r : EpReq) (g : Region) : List (Nat × Lane) := (activeLanes s r).filter (fun x => !g.voids.contains x.1)

/-- The state in which a GM_STORE resolves its rows: the entries' corrections are noted, the group's stores are performed. -/
def storeReady (s : State) (r : EpReq) (p : GmParam) (g : Region) : State :=
  drainBuf (entryNote (takenUp s r (gmSheaf r)) p.sheaf (storeWords (getSheaf s p.sheaf).store (regionEntries false g))) (sbKey r.att r.group)

/-- The port's region closed, with the flags of its rows. -/
def closeRegion (s : State) (n : Nat) : State := setSheaf s n { getSheaf s n with portRegion := none, portFlags := [] }

/-- The rows that a GM_STORE writes. -/
def storedRows (s : State) (r : EpReq) (p : GmParam) (g : Region) : List (Nat × List Byte × Nat) :=
  storeRows p g (getSheaf s p.sheaf) (epWidth s r.att) (liveLanes s r g)

/-- A GM_STORE may write: its region's passes are written and its levels are added, its entries hold no error, and the parts of its rows resolve to
lines of this chip (R110, R114, R474). -/
structure StoreMay (s s2 : State) (r : EpReq) (p : GmParam) (os : List LineOp) (g : Region) : Prop where
  taken : GmTaken s r p
  region : (getSheaf s p.sheaf).portRegion = some g
  base : g.rbase = p.rbase
  format : schemeOk p.out 0 = true
  rounding : p.rnd ≠ 3
  full : epWidth s r.att ≤ (activeLanes s r).length ∨ r.mok = true
  ready : g.passEnd + finishTime g false + 1 ≤ s.tick
  clean : (storeWords (getSheaf s p.sheaf).store (regionEntries false g)).any eccBad = false
  resolved : epResolve (storeReady s r p g) r .write (rowParts (storedRows s r p g)) = (os, .all, s2)
  here : ∀ o ∈ os, isRemote s2 o.dpa = false

/-- A GM_STORE of a region whose passes are written and whose levels are added writes its rows, closes it and is answered OK (R110, R474). -/
theorem gmStore_writes {s s2 : State} {r : EpReq} {p : GmParam} {os : List LineOp} {g : Region} (h : StoreMay s s2 r p os g) :
    let rows := storedRows s r p g
    exec (.gmStore r) s = .next (epAnswer (closeRegion (endTask (claimGroup s2 r (writeLocal s2 r p os (rowSlices rows))) (epWho r)) p.sheaf)
      r.att r.tag 0 [] 0 (BitVec.ofNat 8 (storeFlags g (getSheaf s p.sheaf) (epWidth s r.att) rows))) := by
  intro rows
  let v := takenUp s r (gmSheaf r)
  have region : (getSheaf v p.sheaf).portRegion.filter (fun g => g.rbase == p.rbase) = some g := by
    change (getSheaf s p.sheaf).portRegion.filter _ = _
    rw [h.region]
    simp [Option.filter, h.base]
  have sane : ¬ (!schemeOk p.out 0 || p.rnd == 3) = true := by simp [h.format, h.rounding]
  have ready : ¬ v.tick < g.passEnd + finishTime g false + 1 := Nat.not_lt.2 h.ready
  have sound : (storeWords (getSheaf v p.sheaf).store (regionEntries false g)).any eccBad = false := h.clean
  have live : (fun (f i : Nat) => if !g.voids.contains i then rowFlags g (getSheaf s p.sheaf) (epWidth s r.att) f i else f)
      = fun (f i : Nat) => if g.voids.contains i then f else rowFlags g (getSheaf s p.sheaf) (epWidth s r.att) f i := by
    funext f i
    cases g.voids.contains i <;> rfl
  change execGmStore r s = _
  unfold execGmStore
  rw [gmRequest_taken h.taken]
  dsimp only
  rw [region]
  dsimp only
  rw [if_neg sane, if_neg (laneCount_enough (s := v) h.full), if_neg ready]
  refine congrArg Host.Outcome.next ((gmSound_sound (s := v) _ rfl sound).trans ((gmWrite_local h.resolved h.here _).trans ?_))
  unfold storeFlags
  rw [← live]
  rfl

/-- The answer that closes the port's region touches neither memory nor caches. -/
theorem answer_closed (w : State) (r : EpReq) (n : Nat) (flags : Byte) :
    let t := epAnswer (closeRegion w n) r.att r.tag 0 [] 0 flags
    (getSheaf t n).portRegion = none ∧ t.mem = w.mem ∧ t.cache = w.cache := by
  intro t
  obtain ⟨ep, answered⟩ := epAnswer_port (closeRegion w n) r.att r.tag 0 [] 0 flags
  have closed : (getSheaf (closeRegion w n) n).portRegion = none := congrArg Sheaf.portRegion (getSheaf_setSheaf_same ..)
  unfold t
  rw [answered]
  exact ⟨closed, rfl, rfl⟩

/-- What a GM_STORE leaves: its answer, the region closed, and memory and caches as its writes left them. -/
theorem gmStore_leaves {s s2 : State} {r : EpReq} {p : GmParam} {os : List LineOp} {g : Region} (h : StoreMay s s2 r p os g) :
    let rows := storedRows s r p g
    let after := writeLocal s2 r p os (rowSlices rows)
    Gives (exec (.gmStore r) s) (fun t => Responds t r 0 [] (BitVec.ofNat 8 (storeFlags g (getSheaf s p.sheaf) (epWidth s r.att) rows))
      ∧ (getSheaf t p.sheaf).portRegion = none ∧ t.mem = after.mem ∧ t.cache = after.cache
      ∧ (rows = [] → t.mem = s2.mem ∧ t.cache = s2.cache)) := by
  intro rows after
  obtain ⟨closed, mem, cache⟩ := answer_closed (endTask (claimGroup s2 r after) (epWho r)) r p.sheaf
    (BitVec.ofNat 8 (storeFlags g (getSheaf s p.sheaf) (epWidth s r.att) rows))
  refine ⟨_, gmStore_writes h, epAnswer_responds .., closed, mem, cache, fun void => ?_⟩
  have resolved := h.resolved
  rw [show storedRows s r p g = [] from void] at resolved
  obtain rfl := epResolve_nil resolved
  exact ⟨mem, cache⟩

end Sys2Proof.Machine

namespace Sys2Proof
open Machine

/-- Settles O40: what each event of the copy engines does, when a matrix request is answered, and what it leaves in its Sheaf and in memory. -/
theorem copiesAndMatrixPasses : Obligations.CopiesAndMatrixPasses := by
  refine ⟨⟨?start, ?complete, ?due, ?matrix⟩, ?store⟩
  case start => exact fun s c pre post j up free split hp hj => acopyStart_starts up free split hp hj
  case complete =>
    intro s c j ok found ended
    have completes := acopyComplete_ended found ended
    refine ⟨fun waits => ?_, fun written => ⟨countCopy s c j ok, ?_, countCopy_copies s c j ok, fun may => countCopy_raises c ok may⟩⟩
    · rw [completes, if_pos waits]
    · rw [completes, if_neg (by rw [written]; exact Bool.false_ne_true)]
  case due =>
    intro s r c d hc up present due
    have answers : exec c s = .next (if d ≤ s.tick then epSay s r 0 else s) := by
      rcases hc with rfl | rfl
      · change execGmLoad r s = _
        unfold execGmLoad
        exact gmRequest_due _ up present due
      · change execGmPass r s = _
        unfold execGmPass
        exact gmRequest_due _ up present due
    refine ⟨fun early => ?_, fun late => ⟨_, ?_, epAnswer_responds s r 0 [] 0⟩⟩
    · rw [answers, if_neg (Nat.not_le.2 early)]
    · rw [answers, if_pos late]; rfl
  case matrix =>
    intro s s2 r os taken s1 p sh got w old reads row leased plain format
    refine ⟨fun m layout lanes turn brings => ?_, ?_⟩
    · obtain ⟨resolved, kept, here, lines, unpoisoned⟩ := brings
      exact gmLoad_leaves ⟨⟨taken, rfl, leased, plain⟩, format, layout, lanes, turn, resolved, kept, here, lines, unpoisoned⟩
    · intro m g n t0 width lanes words held codes scales val turn region fits full ready brings sound clean
      obtain ⟨resolved, kept, here, lines, unpoisoned⟩ := brings
      have outputs : gmOutput p m lanes g t0 = val := by
        funext e
        unfold gmOutput
        rw [passRow_eq]
        rfl
      rw [← outputs]
      exact gmPass_leaves
        ⟨⟨taken, rfl, leased, plain⟩, format, turn, rfl, region, fits, full, ready, ⟨resolved, kept, here, lines, unpoisoned⟩, sound, clean⟩
  case store =>
    intro s s2 r os g taken p sh words u n lanes width fin rows parts bytes runs after raised leased plain region base format rounding full ready clean resolved here
    exact gmStore_leaves ⟨⟨taken, rfl, leased, plain⟩, region, base, format, rounding, full, ready, clean, resolved, here⟩

end Sys2Proof
end

section
/-!
PROOFS. The tables of the function units: the nearest integer to a root, why a power of two leaves no tie, and the entries of R142 and R145.
-/
namespace Sys2Proof.Machine

/-! ## The nearest integer to a root -/

/-- The bitwise search finds the greatest root among the numbers its remaining bits can reach. -/
theorem rootBits_bounds {k x : Nat} (n r : Nat) (least : r ^ k ≤ x) (most : x < (r + 2 ^ n) ^ k) :
    rootBits k x n r ^ k ≤ x ∧ x < (rootBits k x n r + 1) ^ k := by
  induction n generalizing r with
  | zero => exact ⟨least, most⟩
  | succ n ih =>
    change rootBits k x n (if (r + 2 ^ n) ^ k ≤ x then r + 2 ^ n else r) ^ k ≤ x
      ∧ x < (rootBits k x n (if (r + 2 ^ n) ^ k ≤ x then r + 2 ^ n else r) + 1) ^ k
    by_cases fits : (r + 2 ^ n) ^ k ≤ x
    · rw [if_pos fits]
      exact ih _ fits (by rwa [Nat.add_assoc, ← Nat.two_mul, ← Nat.pow_succ'])
    · rw [if_neg fits]
      exact ih _ least (Nat.lt_of_not_le fits)

/-- With one extra bit, the root lies between half a unit below the rounded value and half a unit above it. -/
theorem rneRoot_bounds {k x : Nat} (hk : k ≠ 0) (small : x < (2 ^ 64) ^ k) :
    (2 * rneRoot k x - 1) ^ k ≤ x ∧ x < (2 * rneRoot k x + 1) ^ k := by
  obtain ⟨least, most⟩ := rootBits_bounds (k := k) (x := x) 64 0 (by simp [hk]) (by simpa using small)
  have below : 2 * rneRoot k x - 1 ≤ rootBits k x 64 0 := by unfold rneRoot; omega
  have above : rootBits k x 64 0 + 1 ≤ 2 * rneRoot k x + 1 := by unfold rneRoot; omega
  exact ⟨(Nat.pow_le_pow_left below k).trans least, most.trans_le (Nat.pow_le_pow_left above k)⟩

/-- No tie: half a unit below an integer is an odd number of halves, whose power times an odd number is no power of two. -/
theorem halfBelow_pow_mul_ne_twoPow {k c m : Nat} (r : Nat) (hk : k ≠ 0) (hc : Odd c) (hm : m ≠ 0) : (2 * r - 1) ^ k * c ≠ 2 ^ m := by
  intro tie
  rcases Nat.eq_zero_or_pos r with rfl | positive
  · rw [Nat.mul_zero, Nat.zero_sub, zero_pow hk, Nat.zero_mul] at tie
    exact (Nat.two_pow_pos m).ne tie
  · have odd : Odd (2 * r - 1) := ⟨r - 1, by omega⟩
    have even : Even (2 ^ m) := even_two.pow_of_ne_zero hm
    exact Nat.not_even_iff_odd.2 (tie ▸ odd.pow.mul hc) even

/-- The root of 2^m / c for an odd c, rounded, is nearest to it and no tie. -/
theorem rneRoot_twoPow_div {k c m : Nat} (hk : k ≠ 0) (hc : Odd c) (hm : m ≠ 0) (small : m < 64 * k) :
    (2 * rneRoot k (2 ^ m / c) - 1) ^ k * c < 2 ^ m ∧ 2 ^ m < (2 * rneRoot k (2 ^ m / c) + 1) ^ k * c := by
  have fits : 2 ^ m / c < (2 ^ 64) ^ k := by
    rw [← Nat.pow_mul]
    exact (Nat.div_le_self _ _).trans_lt (Nat.pow_lt_pow_right Nat.one_lt_two small)
  obtain ⟨least, most⟩ := rneRoot_bounds hk fits
  exact ⟨lt_of_le_of_ne ((Nat.le_div_iff_mul_le hc.pos).1 least) (halfBelow_pow_mul_ne_twoPow _ hk hc hm), (Nat.div_lt_iff_lt_mul hc.pos).1 most⟩

/-! ## The table t -/

/-- The table t printed in the model is the one its definition gives (R142). -/
theorem exp2Table_eq_map : exp2Table = (List.range 64).map exp2Entry := by decide +kernel

theorem exp2Table_entry {i : Nat} (h : i < 64) : exp2Table.getD i 0 = exp2Entry i := by
  rw [exp2Table_eq_map, List.getD_eq_getElem _ _ (by rwa [List.length_map, List.length_range]), List.getElem_map, List.getElem_range]

/-- The entries of t are 32-bit values (R142). -/
theorem exp2Table_lt {i : Nat} (h : i < 64) : exp2Table.getD i 0 < 2 ^ 32 := by
  have all : ∀ t ∈ exp2Table, t < 2 ^ 32 := by decide
  rw [List.getD_eq_getElem _ _ h]
  exact all _ (List.getElem_mem _)

theorem exp2Entry_rounded {i : Nat} (h : i < 64) :
    (2 * exp2Entry i - 1) ^ 64 < 2 ^ (64 * 32 + i) ∧ 2 ^ (64 * 32 + i) < (2 * exp2Entry i + 1) ^ 64 := by
  have bounds := rneRoot_twoPow_div (k := 64) (c := 1) (m := 64 * 32 + i) (by decide) odd_one (by omega) (by omega)
  rwa [Nat.div_one, Nat.mul_one, Nat.mul_one, ← exp2Entry] at bounds

/-- With the 18 low bits zero the correction q is zero, and EXP2 below 1 gives the entry itself (R143). -/
theorem exp2Core_entry {i : Nat} (h : i < 64) : exp2Core (2 ^ 18 * i : Nat) = (exp2Table.getD i 0, 0) := by
  have whole : ((2 ^ 18 * i : Nat) : Int) / (2 ^ 24 : Nat) = 0 := by omega
  have low : (((2 ^ 18 * i : Nat) : Int) % (2 ^ 24 : Nat)).toNat = 2 ^ 18 * i := by omega
  simp only [exp2Core, whole, low, Nat.mul_div_cancel_left i (Nat.two_pow_pos 18), Nat.mul_mod_right, Nat.mul_zero, Nat.zero_shiftRight,
    Nat.add_zero]

/-! ## The seeds of RCP and RSQRT -/

theorem odd_offset (a j : Nat) : Odd (2 * a + 1 + 2 * j) := ⟨a + j, by omega⟩

/-- The seed is the nearest quotient of 2^24 by 257 + 2j, and an odd divisor leaves no tie (R145). -/
theorem rcpSeed_rounded (j : Nat) :
    (2 * rcpSeed j - 1) * (257 + 2 * j) < 2 ^ 25 ∧ 2 ^ 25 < (2 * rcpSeed j + 1) * (257 + 2 * j) := by
  have hc := odd_offset 128 j
  have untied := halfBelow_pow_mul_ne_twoPow (k := 1) (m := 25) (rcpSeed j) (by decide) hc (by decide)
  rw [Nat.pow_one] at untied
  have least : 2 * rcpSeed j * (257 + 2 * j) ≤ 2 ^ 25 + (257 + 2 * j) := by
    have quotient := Nat.div_mul_le_self (2 * 2 ^ 24 + (257 + 2 * j)) (2 * (257 + 2 * j))
    rw [← rcpSeed] at quotient
    linarith
  have most : 2 ^ 25 + (257 + 2 * j) < (2 * rcpSeed j + 2) * (257 + 2 * j) := by
    have quotient := Nat.lt_div_mul_add (a := 2 * 2 ^ 24 + (257 + 2 * j)) (b := 2 * (257 + 2 * j)) (by omega)
    rw [← rcpSeed] at quotient
    linarith
  refine ⟨lt_of_le_of_ne ?_ untied, ?_⟩
  · rw [Nat.sub_mul]; omega
  · rw [Nat.add_mul] at most ⊢; omega

theorem rcpSeed_lt (j : Nat) : rcpSeed j < 2 ^ 16 := by
  unfold rcpSeed
  exact Nat.div_lt_of_lt_mul (by omega)

/-- For j below 64 the square of 2 st[j] is 2^41 / (129 + 2j) (R145). -/
theorem rsqrtSeed_below {j : Nat} (h : j < 64) : rsqrtSeed j = rneRoot 2 (2 ^ 41 / (129 + 2 * j)) := if_pos h

/-- From j = 64 on the square of 2 st[j] is 2^40 / (129 + 2(j − 64)) (R145). -/
theorem rsqrtSeed_above {j : Nat} (h : 64 ≤ j) : rsqrtSeed j = rneRoot 2 (2 ^ 40 / (129 + 2 * (j - 64))) := if_neg (Nat.not_lt.2 h)

/-- A seed of RSQRT is below 1 with weight 2^−16, as c_j is above 1. -/
theorem lt_of_halfBelow_sq {r c : Nat} (hc : 129 ≤ c) (below : (2 * r - 1) ^ 2 * c < 2 ^ 41) : r < 2 ^ 16 := by
  by_contra large
  have root : 2 ^ 17 - 1 ≤ 2 * r - 1 := by omega
  have product : (2 ^ 17 - 1) ^ 2 * 129 ≤ (2 * r - 1) ^ 2 * c := Nat.mul_le_mul (Nat.pow_le_pow_left root 2) hc
  omega

/-- A rounded root of 2^m / c, for the odd numbers c = 129 + 2j of R145. -/
theorem rneRoot_seed {m : Nat} (j : Nat) (hm : m ≠ 0) (small : m ≤ 41) :
    let r := rneRoot 2 (2 ^ m / (129 + 2 * j))
    r < 2 ^ 16 ∧ (2 * r - 1) ^ 2 * (129 + 2 * j) < 2 ^ m ∧ 2 ^ m < (2 * r + 1) ^ 2 * (129 + 2 * j) := by
  obtain ⟨below, above⟩ := rneRoot_twoPow_div (k := 2) (m := m) (by decide) (odd_offset 64 j) hm (by omega)
  exact ⟨lt_of_halfBelow_sq (Nat.le_add_right _ _) (below.trans_le (Nat.pow_le_pow_right (by decide) small)), below, above⟩

end Sys2Proof.Machine

namespace Sys2Proof
open Machine

/-- Settles O60: the tables are rounded roots and quotients of powers of two by odd numbers, which leave no tie. -/
theorem functionTablesAreRounded : Obligations.FunctionTablesAreRounded := by
  refine ⟨rfl, fun i h => ?exp2, fun j _ => ⟨rcpSeed_lt j, rcpSeed_rounded j⟩, fun j h => ?below, fun j h _ => ?above⟩
  case exp2 =>
    obtain ⟨below, above⟩ := exp2Entry_rounded h
    rw [← exp2Table_entry h] at below above
    exact ⟨exp2Table_lt h, below, above, exp2Core_entry h⟩
  case below =>
    rw [rsqrtSeed_below h]
    exact rneRoot_seed j (by decide) (by decide)
  case above =>
    rw [rsqrtSeed_above h]
    exact rneRoot_seed (j - 64) (by decide) (by decide)

end Sys2Proof
end

section
/-!
PROOFS. Address generators: a generator's position as one number of mixed radix, and a step as its successor.
-/
namespace Sys2Proof.Machine

/-! ## Digits -/

/-- Without a carry the lowest digit rises. -/
theorem digit_rises {i c : Nat} (h : i % c + 1 < c) : (i + 1) % c = i % c + 1 ∧ (i + 1) / c = i / c := by
  have whole := Nat.div_add_mod i c
  exact ((Nat.div_mod_unique (by omega)).2 ⟨by omega, h⟩).symm

/-- With a carry the lowest digit falls to 0 and the rest rises. -/
theorem digit_carries {i c : Nat} (hc : 0 < c) (h : ¬ i % c + 1 < c) : (i + 1) % c = 0 ∧ (i + 1) / c = i / c + 1 := by
  have whole := Nat.div_add_mod i c
  have digit := Nat.mod_lt i hc
  exact ((Nat.div_mod_unique hc).2 ⟨by rw [Nat.mul_succ]; omega, hc⟩).symm

/-- The lowest digit of a number given by it and the rest. -/
theorem digit_of_sum {p c : Nat} (r : Nat) (h : p < c) : (p + c * r) % c = p ∧ (p + c * r) / c = r :=
  ⟨by rw [Nat.add_mul_mod_self_left, Nat.mod_eq_of_lt h], by rw [Nat.add_mul_div_left _ _ (Nat.zero_lt_of_lt h), Nat.div_eq_of_lt h, Nat.zero_add]⟩

/-! ## Positions (R173, R174) -/

/-- The generator of a descriptor at its run i, counted from the first. -/
def agAt (g : Agen) (i : Nat) : Agen :=
  { g with p0 := i % agCount g 0, p1 := i / agCount g 0 % agCount g 1, p2 := i / agCount g 0 / agCount g 1 % agCount g 2
           p3 := i / agCount g 0 / agCount g 1 / agCount g 2 % agCount g 3 }

/-- The number of the run a generator stands at. -/
def agIndex (g : Agen) : Nat := g.p0 + agCount g 0 * (g.p1 + agCount g 1 * (g.p2 + agCount g 2 * g.p3))

theorem agCount_pos (g : Agen) (k : Nat) : 0 < agCount g k := Nat.lt_of_lt_of_le Nat.one_pos (Nat.le_max_left _ _)

theorem agSkip_eq_agAt (g : Agen) (n : Nat) : agSkip g n = agAt g (agIndex g + n) := by
  unfold agSkip agAt agIndex
  simp only [Nat.div_div_eq_div_mul, Nat.mul_assoc]

/-- A generator within its counts stands at the run of its number. -/
theorem agAt_agIndex {g : Agen} (h0 : g.p0 < agCount g 0) (h1 : g.p1 < agCount g 1) (h2 : g.p2 < agCount g 2) (h3 : g.p3 < agCount g 3) :
    agAt g (agIndex g) = g := by
  unfold agAt agIndex
  simp only [(digit_of_sum _ h0).1, (digit_of_sum _ h0).2, (digit_of_sum _ h1).1, (digit_of_sum _ h1).2, (digit_of_sum _ h2).1,
    (digit_of_sum _ h2).2, Nat.mod_eq_of_lt h3]

/-- ag_step() goes to the next run: each dimension that is full carries into the next. -/
theorem agStep_agAt (g : Agen) (i : Nat) : agStep (agAt g i) = agAt g (i + 1) := by
  have count (k : Nat) : agCount (agAt g i) k = agCount g k := rfl
  unfold agStep
  simp only [count]
  unfold agAt
  dsimp only
  split
  · next h0 => rw [(digit_rises h0).1, (digit_rises h0).2]
  next h0 =>
  rw [(digit_carries (agCount_pos g 0) h0).1, (digit_carries (agCount_pos g 0) h0).2]
  split
  · next h1 => rw [(digit_rises h1).1, (digit_rises h1).2]
  next h1 =>
  rw [(digit_carries (agCount_pos g 1) h1).1, (digit_carries (agCount_pos g 1) h1).2]
  split
  · next h2 => rw [(digit_rises h2).1, (digit_rises h2).2]
  next h2 =>
  rw [(digit_carries (agCount_pos g 2) h2).1, (digit_carries (agCount_pos g 2) h2).2]
  split
  · next h3 => rw [(digit_rises h3).1]
  · next h3 => rw [(digit_carries (agCount_pos g 3) h3).1]

theorem agStep_foldl (g : Agen) (i n : Nat) : (List.range n).foldl (fun x _ => agStep x) (agAt g i) = agAt g (i + n) := by
  induction n with
  | zero => rfl
  | succ n ih => rw [List.range_succ, List.foldl_append, ih]; exact agStep_agAt g (i + n)

end Sys2Proof.Machine

namespace Sys2Proof
open Machine

/-- Settles O35: a skip adds to the number of the run, and each step adds 1. -/
theorem skippingIsRepeatedStepping : Obligations.SkippingIsRepeatedStepping := by
  intro g n h0 h1 h2 h3
  rw [agSkip_eq_agAt, ← agStep_foldl, agAt_agIndex h0 h1 h2 h3]

end Sys2Proof
end

section
/-!
PROOFS. Tiller instructions: how a word is read and executed, what each instruction leaves, and what ISSUE hands to its unit.
-/
namespace Sys2Proof.Machine

/-! ## Executing a word (R158, R161) -/

/-- Tiller n executes an instruction of this opcode, and its word is correctable. -/
def Executes (s : State) (n op : Nat) : Prop := atOp s n op = true ∧ eccBad (progStored (getTiller s n)) = false

/-- The state in which Tiller n has read its word. -/
def wordRead (s : State) (n : Nat) : State := storeNote s n [progStored (getTiller s n)]

theorem wordRead_noted (s : State) (n : Nat) : Noted s (wordRead s n) := storeNote_noted ..

theorem readStore_sound {s : State} {ws : List (Nat × Nat)} (t : Nat) (k : State → State) (h : ws.any eccBad = false) :
    readStore s t ws k = k (storeNote s t ws) := if_neg (by rw [h]; exact Bool.false_ne_true)

theorem readStore_bad {s : State} {ws : List (Nat × Nat)} (t : Nat) (k : State → State) (h : ws.any eccBad = true) :
    readStore s t ws k = raiseReplayed s srcTillerStore t 0 0 0 := if_pos h

theorem tillerExec_executes {s : State} {n op : Nat} (h : Executes s n op) (k : State → State) : tillerExec s n op k = .next (k (wordRead s n)) := by
  unfold tillerExec
  rw [if_pos h.1, readStore_sound n k (by simpa using h.2)]
  rfl

theorem tillerExec_uncorrectable {s : State} {n op : Nat} (at_ : atOp s n op = true) (bad : eccBad (progStored (getTiller s n)) = true) (k : State → State) :
    tillerExec s n op k = .next (raiseReplayed s srcTillerStore n 0 0 0) := by
  unfold tillerExec
  rw [if_pos at_, readStore_bad n k (by simpa using bad)]

theorem advance_noted {s t : State} (h : Noted s t) : advance t = advance s := by unfold advance; rw [h.tick]

theorem endlStep_noted {s t : State} (h : Noted s t) (x : Tiller) : endlStep t x = endlStep s x := by
  unfold endlStep
  rw [advance_noted h]

theorem next_setTiller {v : State} {n : Nat} {y z : Tiller} (e : y = z) :
    (.next (setTiller v n y) : Host.Outcome State Fault Refusal) = .next (setTiller v n z) := by rw [e]

/-- The rows whose meaning is the word at the Tiller's program counter and nothing else. -/
def wordRows (n : Nat) : List (Instr × Nat) :=
  [(.tillerNop n, 0x01), (.loop n, 0x02), (.endl n, 0x03), (.agset n, 0x04), (.agskip n, 0x05), (.agrst n, 0x06), (.twait n, 0x07), (.sig n, 0x08),
    (.waits n, 0x09), (.step n, 0x0A), (.issue n, 0x10)]

theorem wordRows_exec (s : State) (n : Nat) : ∀ p ∈ wordRows n, ∃ k, exec p.1 s = tillerExec s n p.2 k := by
  unfold wordRows
  simp only [List.forall_mem_cons, List.not_mem_nil, false_implies, implies_true, and_true]
  exact ⟨⟨_, rfl⟩, ⟨_, rfl⟩, ⟨_, rfl⟩, ⟨_, rfl⟩, ⟨_, rfl⟩, ⟨_, rfl⟩, ⟨_, rfl⟩, ⟨_, rfl⟩, ⟨_, rfl⟩, ⟨_, rfl⟩, ⟨_, rfl⟩⟩

/-- A word that cannot be corrected raises an error in place of its instruction (R158). -/
theorem wordRows_uncorrectable {s : State} {n op : Nat} {c : Instr} (row : (c, op) ∈ wordRows n) (at_ : atOp s n op = true)
    (bad : ¬ eccBad (progStored (getTiller s n)) = false) : exec c s = .next (raiseReplayed s srcTillerStore n 0 0 0) := by
  obtain ⟨k, executes⟩ := wordRows_exec s n _ row
  exact executes.trans (tillerExec_uncorrectable at_ (Bool.eq_true_of_not_eq_false bad) k)

/-! ## Flow (R161, R162, R169, R171) -/

section

variable {s : State} {n : Nat}

theorem halt_halts (h : Executes s n 0x00) (none : issuedPending s n = false) :
    exec (.halt n) s = .next (setTiller (wordRead s n) n { getTiller s n with mode := .halted }) := by
  change execHalt n s = _
  unfold execHalt
  rw [none, if_neg Bool.false_ne_true, tillerExec_executes h, (wordRead_noted s n).getTiller]

theorem halt_waits (some_ : issuedPending s n = true) : exec (.halt n) s = .next s := if_pos some_

theorem tillerNop_advances (h : Executes s n 0x01) : exec (.tillerNop n) s = .next (setTiller (wordRead s n) n (advance s (getTiller s n))) := by
  have noted := wordRead_noted s n
  exact (tillerExec_executes h _).trans (by rw [noted.getTiller, advance_noted noted])

theorem loop_pushes (h : Executes s n 0x02) : exec (.loop n) s = .next (
    let x := getTiller s n
    setTiller (wordRead s n) n { advance s x with loops := (field (tillerWord x) 23 0 + 1, pcNext x) :: x.loops }) :=
  (tillerExec_executes h _).trans (by rw [advance_noted (wordRead_noted s n)])

theorem endl_steps (h : Executes s n 0x03) : exec (.endl n) s = .next (setTiller (wordRead s n) n (endlStep s (getTiller s n))) := by
  have noted := wordRead_noted s n
  exact (tillerExec_executes h _).trans (by rw [noted.getTiller, endlStep_noted noted])

theorem endlStep_again {x : Tiller} {c body : Nat} {rest : List (Nat × Nat)} (h : x.loops = (c, body) :: rest) (more : 1 < c) :
    endlStep s x = { advance s x with pc := body, loops := (c - 1, body) :: rest } := by
  unfold endlStep
  rw [h]
  exact if_pos more

theorem endlStep_last {x : Tiller} {c body : Nat} {rest : List (Nat × Nat)} (h : x.loops = (c, body) :: rest) (last : c ≤ 1) :
    endlStep s x = { advance s x with loops := rest } := by
  unfold endlStep
  rw [h]
  exact if_neg (Nat.not_lt.2 last)

theorem step_sets (h : Executes s n 0x0A) : exec (.step n) s = .next (
    let x := getTiller s n
    setTiller (wordRead s n) n { advance s x with step := field (tillerWord x) 15 0 }) :=
  (tillerExec_executes h _).trans (by rw [advance_noted (wordRead_noted s n)])

theorem ebar_arrives (h : Executes s n 0x0B) (none : issuedPending s n = false) :
    exec (.ebar n) s = .next (setTiller (wordRead s n) n { getTiller s n with mode := .barrier }) := by
  change execEbar n s = _
  unfold execEbar
  rw [none, if_neg Bool.false_ne_true, tillerExec_executes h, (wordRead_noted s n).getTiller]

theorem ebar_waits (some_ : issuedPending s n = true) : exec (.ebar n) s = .next s := if_pos some_

/-! ## Address generators (R172 to R174) -/

theorem agset_reads (h : Executes s n 0x04) : exec (.agset n) s = .next (
    let x := getTiller s n
    readStore (wordRead s n) n (descStored x (field (tillerWord x) 7 0)) (fun t =>
      setTiller t n (setAg (advance t x) (agOf (tillerWord x)) (some (agLoad (tillerDesc x (field (tillerWord x) 7 0))))))) :=
  tillerExec_executes h _

/-- AGSET of an entry that can be corrected loads it, all positions zero. -/
theorem agset_loads (h : Executes s n 0x04) {words : List (Nat × Nat)} (hw : words = descStored (getTiller s n) (field (tillerWord (getTiller s n)) 7 0))
    (sound : words.any eccBad = false) : exec (.agset n) s = .next (
      let x := getTiller s n
      setTiller (storeNote (wordRead s n) n words) n
        (setAg (advance s x) (agOf (tillerWord x)) (some (agLoad (tillerDesc x (field (tillerWord x) 7 0)))))) := by
  have noted := (wordRead_noted s n).trans (storeNote_noted (wordRead s n) n words)
  rw [agset_reads h]
  dsimp only
  rw [← hw, readStore_sound n _ sound, advance_noted noted]

theorem agskip_skips (h : Executes s n 0x05) : exec (.agskip n) s = .next (
    let x := getTiller s n
    let k := agOf (tillerWord x)
    setTiller (wordRead s n) n (setAg (advance s x) k ((getAg x k).map (fun g => agSkip g (field (tillerWord x) 31 0))))) :=
  (tillerExec_executes h _).trans (by rw [advance_noted (wordRead_noted s n)])

theorem agrst_restarts (h : Executes s n 0x06) : exec (.agrst n) s = .next (
    let x := getTiller s n
    let k := agOf (tillerWord x)
    setTiller (wordRead s n) n (setAg (advance s x) k ((getAg x k).map (fun g => agLoad g.desc)))) :=
  (tillerExec_executes h _).trans (by rw [advance_noted (wordRead_noted s n)])

/-! ## Targets (R163, R164) -/

theorem twait_meets (h : Executes s n 0x07) : exec (.twait n) s = .next (
    let x := getTiller s n
    let target := twaitTarget x
    setTiller (wordRead s n) n (if epochTick s < target then { x with mode := .waitTick target, prevTarget := target }
      else { advance s x with prevTarget := target, slip := satAdd32 x.slip (epochTick s + 1 - target) })) := by
  refine (tillerExec_executes h _).trans ?_
  dsimp only
  rw [advance_noted (wordRead_noted s n)]
  split <;> rfl

theorem twaitExpiry_waiting {target : Nat} (waits : (getTiller s n).mode = .waitTick target) :
    exec (.twaitExpiry n) s = .next (
      let x := getTiller s n
      if target ≤ epochTick s then setTiller s n { x with mode := .run, pc := pcNext x, nextTick := s.tick } else s) := by
  change execTwaitExpiry n s = _
  unfold execTwaitExpiry
  dsimp only
  rw [waits]
  dsimp only
  split <;> rfl

/-! ## Signals (R165, R166) -/

theorem getTiller_signalAdd (s : State) {n : Nat} (c amount m : Nat) (h : n < 53) : getTiller (signalAdd s n c amount) m
    = if m = n then { getTiller s n with incoming := put 0 (getTiller s n).incoming c (look 0 (getTiller s n).incoming c + amount) } else getTiller s m := by
  unfold signalAdd
  dsimp only
  rw [if_pos h, getTiller_setTiller]

theorem signalAdd_frame (s : State) (n c amount : Nat) : ∃ tillers, signalAdd s n c amount = { s with tillers } := by
  unfold signalAdd
  dsimp only
  split <;> exact ⟨_, rfl⟩

theorem sig_adds (h : Executes s n 0x08) : exec (.sig n) s = .next (
    let x := getTiller s n
    let w := tillerWord x
    signalAdd (setTiller (wordRead s n) n (advance s x)) (field w 57 52) (field w 51 48) (field w 15 0)) :=
  (tillerExec_executes h _).trans (by rw [advance_noted (wordRead_noted s n)])

theorem waits_asks (h : Executes s n 0x09) : exec (.waits n) s = .next (
    let x := getTiller s n
    setTiller (wordRead s n) n (if waitsReady x then waitsTake s x else { x with mode := .waitSignal })) := by
  have taken (x : Tiller) : waitsTake (wordRead s n) x = waitsTake s x := by unfold waitsTake; rw [advance_noted (wordRead_noted s n)]
  exact (tillerExec_executes h _).trans (by rw [taken])

theorem waitsPass_asks (waits : (getTiller s n).mode = .waitSignal) : exec (.waitsPass n) s = .next (
    let x := getTiller s n
    if waitsReady x then setTiller s n (waitsTake s x) else s) := by
  change execWaitsPass n s = _
  unfold execWaitsPass
  dsimp only
  rw [waits, decide_eq_true rfl, Bool.true_and]
  split <;> rfl

theorem waitsReady_iff {x : Tiller} : waitsReady x = true ↔ field (tillerWord x) 15 0 ≤ look 0 x.sc (field (tillerWord x) 51 48) := decide_eq_true_iff

/-- What SIG leaves: the named counter raised, its Tiller's taken counters as they were, and the Tiller that signals behind its word. -/
theorem sig_leaves {u : State} {c k amount : Nat} (h : c < 53) (noted : Noted s u) {on : Tiller} (incoming : on.incoming = (getTiller s n).incoming)
    (sc : on.sc = (getTiller s n).sc) : let t := signalAdd (setTiller u n on) c k amount
    look 0 (getTiller t c).incoming k = look 0 (getTiller s c).incoming k + amount ∧ (getTiller t c).sc = (getTiller s c).sc ∧ (getTiller t n).pc = on.pc
    ∧ (c ≠ n → getTiller t n = on) ∧ (∀ m, m ≠ n → m ≠ c → getTiller t m = getTiller s m) ∧ t = { u with tillers := t.tillers } := by
  intro t
  have before : (getTiller (setTiller u n on) c).incoming = (getTiller s c).incoming ∧ (getTiller (setTiller u n on) c).sc = (getTiller s c).sc := by
    rw [getTiller_setTiller, noted.getTiller]
    split
    · next same => rw [same]; exact ⟨incoming, sc⟩
    · exact ⟨rfl, rfl⟩
  have after (m : Nat) : getTiller t m = _ := getTiller_signalAdd (setTiller u n on) k amount m h
  obtain ⟨tillers, frame⟩ := signalAdd_frame (setTiller u n on) c k amount
  refine ⟨?_, ?_, ?_, fun other => ?_, fun m hn hc => ?_, ?_⟩
  · exact (signalAdd_incoming _ k amount h).trans (by rw [before.1])
  · rw [after, if_pos rfl]; exact before.2
  · rw [after]
    split
    · next same => rw [← same, getTiller_setTiller_same]
    · rw [getTiller_setTiller_same]
  · rw [after, if_neg (Ne.symm other), getTiller_setTiller_same]
  · rw [after, if_neg hc, getTiller_setTiller_ne _ _ hn, noted.getTiller]
  · rw [show t = _ from frame]; rfl

end

/-! ## ISSUE (R168, R173, R175, R176) -/

theorem nodup_eraseDups {α : Type} [BEq α] [LawfulBEq α] (l : List α) : l.eraseDups.Nodup := by
  match l with
  | [] => exact List.nodup_nil
  | a :: l =>
    rw [List.eraseDups_cons, List.nodup_cons, List.mem_eraseDups]
    exact ⟨by simp, nodup_eraseDups _⟩
termination_by l.length
decreasing_by exact Nat.lt_succ_of_le (List.length_filter_le ..)

/-- One named generator advanced past the runs it gives. -/
def advanceAg (us : List AgUse) (x : Tiller) (k : Nat) : Tiller :=
  match us.find? (fun u => u.ag == k) with
  | some u => setAg x k ((getAg x k).map (fun g => agSkip g u.runs))
  | none => x

theorem advanceAgs_eq (x : Tiller) (us : List AgUse) : advanceAgs x us = (us.map (fun u => u.ag)).eraseDups.foldl (advanceAg us) x := rfl

theorem getAg_setAg (x : Tiller) (k : Nat) (g : Option Agen) (j : Nat) : getAg (setAg x k g) j = if j = k then g else getAg x j := look_put ..

theorem getAg_advanceAg_ne (us : List AgUse) (x : Tiller) {k j : Nat} (h : j ≠ k) : getAg (advanceAg us x k) j = getAg x j := by
  unfold advanceAg
  split
  · rw [getAg_setAg, if_neg h]
  · rfl

theorem getAg_advanceAg_same {us : List AgUse} (x : Tiller) {a : AgUse} (named : a ∈ us) (alike : ∀ b ∈ us, b.ag = a.ag → b.runs = a.runs) :
    getAg (advanceAg us x a.ag) a.ag = (getAg x a.ag).map (fun g => agSkip g a.runs) := by
  obtain ⟨b, found⟩ : ∃ b, us.find? (fun u => u.ag == a.ag) = some b :=
    Option.isSome_iff_exists.1 (List.find?_isSome.2 ⟨a, named, beq_self_eq_true _⟩)
  have same := List.find?_some found
  unfold advanceAg
  rw [found]
  dsimp only
  rw [getAg_setAg, if_pos rfl, alike b (List.mem_of_find?_eq_some found) (eq_of_beq same)]

theorem advanceAg_frame (us : List AgUse) (x : Tiller) (k : Nat) : ∃ ags, advanceAg us x k = { x with ags } := by
  unfold advanceAg
  split <;> exact ⟨_, rfl⟩

/-- Generators advanced in succession: those not among them stay. -/
theorem getAg_foldl_other (us : List AgUse) (ks : List Nat) (x : Tiller) {j : Nat} (h : j ∉ ks) : getAg (ks.foldl (advanceAg us) x) j = getAg x j := by
  induction ks generalizing x with
  | nil => rfl
  | cons k ks ih =>
    rw [List.mem_cons, not_or] at h
    exact (ih _ h.2).trans (getAg_advanceAg_ne us x h.1)

/-- Generators advanced in succession, each once: what one of them reads turns on its own advance alone. -/
theorem getAg_foldl_same {us : List AgUse} {a : AgUse} (named : a ∈ us) (alike : ∀ b ∈ us, b.ag = a.ag → b.runs = a.runs) {ks : List Nat} (x : Tiller)
    (once : ks.Nodup) (mem : a.ag ∈ ks) : getAg (ks.foldl (advanceAg us) x) a.ag = (getAg x a.ag).map (fun g => agSkip g a.runs) := by
  induction ks generalizing x with
  | nil => cases mem
  | cons k ks ih =>
    obtain ⟨fresh, once⟩ := List.nodup_cons.1 once
    rw [List.foldl_cons]
    by_cases same : a.ag = k
    · subst same
      rw [getAg_foldl_other us ks _ fresh, getAg_advanceAg_same x named alike]
    · rw [ih _ once ((List.mem_cons.1 mem).resolve_left same), getAg_advanceAg_ne us x same]

theorem advanceAgs_frame (x : Tiller) (us : List AgUse) : ∃ ags, advanceAgs x us = { x with ags } := by
  rw [advanceAgs_eq]
  induction (us.map (fun u => u.ag)).eraseDups generalizing x with
  | nil => exact ⟨_, rfl⟩
  | cons k ks ih =>
    obtain ⟨_, first⟩ := advanceAg_frame us x k
    obtain ⟨_, rest⟩ := ih (advanceAg us x k)
    exact ⟨_, by rw [List.foldl_cons, rest, first]⟩

theorem getAg_advanceAgs {x : Tiller} {us : List AgUse} {a : AgUse} (named : a ∈ us) (alike : ∀ b ∈ us, b.ag = a.ag → b.runs = a.runs) :
    getAg (advanceAgs x us) a.ag = (getAg x a.ag).map (fun g => agSkip g a.runs) :=
  getAg_foldl_same named alike x (nodup_eraseDups _) (List.mem_eraseDups.2 (List.mem_map_of_mem named))

theorem getAg_advanceAgs_other {x : Tiller} {us : List AgUse} {k : Nat} (h : ∀ a ∈ us, a.ag ≠ k) : getAg (advanceAgs x us) k = getAg x k := by
  refine getAg_foldl_other us _ x fun mem => ?_
  obtain ⟨a, named, same⟩ := List.mem_map.1 (List.mem_eraseDups.1 mem)
  exact h a named same

/-- Tiller n's sub-operation has joined its unit's queue with the step index, the tick and the generators of its ISSUE, these stand behind the
runs it draws, and nothing else differs from `b`. -/
def Queued (s : State) (n : Nat) (b t : State) : Prop :=
  let x := getTiller s n
  let w := tillerWord x
  let u := unitOf n w
  (∃ o, (getUnit t u).queue = (getUnit s u).queue ++ [o] ∧ o.tiller = n ∧ o.word = w ∧ o.step = x.step ∧ o.issued = s.tick
    ∧ o.ags = (issueUses n x).map (fun a => (getAg x a.ag).getD (agLoad [])))
  ∧ (getUnit t u).begun = (getUnit s u).begun ∧ (getTiller t n).pc = (x.pc + 1) % 4096 ∧ (getTiller t n).mode = .run
  ∧ (∀ a ∈ issueUses n x, (∀ b ∈ issueUses n x, b.ag = a.ag → b.runs = a.runs) →
      getAg (getTiller t n) a.ag = (getAg x a.ag).map (fun g => agSkip g a.runs))
  ∧ (∀ k, (∀ a ∈ issueUses n x, a.ag ≠ k) → getAg (getTiller t n) k = getAg x k)
  ∧ t = { b with tillers := t.tillers, units := t.units }
  ∧ (∀ m, m ≠ n → getTiller t m = getTiller s m) ∧ (∀ m, m ≠ u → getUnit t m = getUnit s m)

theorem issueNow_queued {s b : State} (n : Nat) (noted : Noted s b) : Queued s n b (issueNow b n) := by
  unfold Queued issueNow
  rw [noted.getTiller]
  extract_lets x w u us op q
  obtain ⟨ags, frame⟩ := advanceAgs_frame (advance b x) us
  have unit : q = getUnit s u := noted.getUnit u
  refine ⟨⟨op, ?_, rfl, rfl, rfl, noted.tick, rfl⟩, ?_, ?_, ?_, fun a named alike => ?_, fun k other => ?_, rfl, fun m hm => ?_, fun m hm => ?_⟩
  · rw [getUnit_setTiller, getUnit_setUnit_same, unit]
  · rw [getUnit_setTiller, getUnit_setUnit_same, unit]
  · rw [getTiller_setTiller_same, frame]; rfl
  · rw [getTiller_setTiller_same, frame]; rfl
  · rw [getTiller_setTiller_same, getAg_advanceAgs named alike]; rfl
  · rw [getTiller_setTiller_same, getAg_advanceAgs_other other]; rfl
  · rw [getTiller_setTiller_ne _ _ hm, getTiller_setUnit, noted.getTiller]
  · rw [getUnit_setTiller, getUnit_setUnit_ne _ _ hm, noted.getUnit]

theorem queueRoom_noted {s t : State} (h : Noted s t) (u : Nat) : queueRoom t u = queueRoom s u := by
  unfold queueRoom
  rw [h.getUnit, h.tick]

section

variable {s : State} {n : Nat}

/-- ISSUE reads the entry that counts a reduction's runs, then enters its unit's queue, or waits for an entry (R158, R176, R184). -/
theorem issue_reads (h : Executes s n 0x10) : exec (.issue n) s = .next (
    let x := getTiller s n
    readStore (wordRead s n) n (issueReads n x) (fun t =>
      if queueRoom t (unitOf n (tillerWord x)) then issueNow t n else setTiller t n { x with mode := .waitQueue })) :=
  tillerExec_executes h _

/-- The state in which an ISSUE has read its words. -/
theorem issueRead_noted (s : State) (n : Nat) : Noted s (storeNote (wordRead s n) n (issueReads n (getTiller s n))) :=
  (wordRead_noted s n).trans (storeNote_noted ..)

theorem issue_sound (h : Executes s n 0x10) (sound : (issueReads n (getTiller s n)).any eccBad = false) : exec (.issue n) s = .next (
    let x := getTiller s n
    let read := storeNote (wordRead s n) n (issueReads n x)
    if queueRoom s (unitOf n (tillerWord x)) then issueNow read n else setTiller read n { x with mode := .waitQueue }) := by
  rw [issue_reads h]
  dsimp only
  rw [readStore_sound n _ sound, queueRoom_noted (issueRead_noted s n)]

theorem queueEntry_waiting (waits : (getTiller s n).mode = .waitQueue) : exec (.queueEntry n) s = .next (
    if queueRoom s (unitOf n (tillerWord (getTiller s n))) then issueNow s n else s) := by
  change execQueueEntry n s = _
  unfold execQueueEntry
  dsimp only
  rw [waits, decide_eq_true rfl, Bool.true_and]
  split <;> rfl

end

end Sys2Proof.Machine

namespace Sys2Proof
open Machine

/-- Settles O34: what each instruction leaves, and what ISSUE and QUEUE_ENTRY hand to a unit. -/
theorem tillerInstructionsAndIssueComplete : Obligations.TillerInstructionsAndIssueComplete := by
  refine ⟨fun s n => ?instructions, fun s n => ?issue⟩
  case instructions =>
    intro x w u sound on sets k moves at_
    refine ⟨fun c op row here bad => wordRows_uncorrectable row here bad, fun h => ⟨halt_halts h, halt_waits⟩, tillerNop_advances, loop_pushes,
      fun h c body rest loops => ⟨fun more => ?again, fun last => ?leave⟩, fun h => ⟨agset_loads h rfl, fun bad => ?entry⟩,
      fun h g loaded => ?skip, fun h g loaded => ?restart, fun h => ⟨fun early => ?wait, fun late => ?met⟩,
      fun target waits => ⟨fun late => ?expired, fun early => ?waiting⟩, fun h named => ?sig,
      ⟨fun h => ⟨fun enough => ?take, fun short => ?lack⟩, fun waits => ⟨fun enough => ?pass, fun short => ?stay⟩⟩, step_sets,
      fun h => ⟨ebar_arrives h, ebar_waits⟩⟩
    case again => exact (endl_steps h).trans (next_setTiller (endlStep_again loops more))
    case leave => exact (endl_steps h).trans (next_setTiller (endlStep_last loops last))
    case entry => exact (agset_reads h).trans (congrArg _ (readStore_bad n _ bad))
    case skip => exact (agskip_skips h).trans (next_setTiller (congrArg (setAg _ _) (congrArg (Option.map _) loaded)))
    case restart => exact (agrst_restarts h).trans (next_setTiller (congrArg (setAg _ _) (congrArg (Option.map _) loaded)))
    case wait => exact (twait_meets h).trans (next_setTiller (if_pos early))
    case met => exact (twait_meets h).trans (next_setTiller (if_neg (Nat.not_lt.2 late)))
    case expired => exact (twaitExpiry_waiting waits).trans (congrArg _ (if_pos late))
    case waiting => exact (twaitExpiry_waiting waits).trans (congrArg _ (if_neg (Nat.not_le.2 early)))
    case sig => exact ⟨_, sig_adds h, sig_leaves named (wordRead_noted s n) rfl rfl⟩
    case take => exact (waits_asks h).trans (next_setTiller (if_pos (waitsReady_iff.2 enough)))
    case lack => exact (waits_asks h).trans (next_setTiller (if_neg (mt waitsReady_iff.1 short)))
    case pass => exact (waitsPass_asks waits).trans (congrArg _ (if_pos (waitsReady_iff.2 enough)))
    case stay => exact (waitsPass_asks waits).trans (congrArg _ (if_neg (mt waitsReady_iff.1 short)))
  case issue =>
    intro x w u read queued
    refine ⟨fun here sound => ⟨fun clean => ⟨fun room => ?enters, fun full => ?waits⟩, fun bad => ?entry⟩, fun waits => ⟨fun room => ?queued, fun full => ?stays⟩⟩
    case enters => exact ⟨_, (issue_sound ⟨here, sound⟩ clean).trans (congrArg _ (if_pos room)), issueNow_queued n (issueRead_noted s n)⟩
    case waits => exact (issue_sound ⟨here, sound⟩ clean).trans (congrArg _ (if_neg (ne_true_of_eq_false full)))
    case entry => exact (issue_reads ⟨here, sound⟩).trans (congrArg _ (readStore_bad n _ bad))
    case queued => exact ⟨_, (queueEntry_waiting waits).trans (congrArg _ (if_pos room)), issueNow_queued n (.refl s)⟩
    case stays => exact (queueEntry_waiting waits).trans (congrArg _ (if_neg (ne_true_of_eq_false full)))

end Sys2Proof
end

section
/-!
PROOFS. Sub-operations that move data: transfers out and in, copy engines, and how a sub-operation begins and completes.
-/
namespace Sys2Proof.Machine

/-! ## Begin (R176) -/

/-- Unit u has begun its oldest queued sub-operation, its last effect at a tick or not yet known. -/
def Starts (u : Nat) (x t : State) (o : SubOp) (done : Option Nat) (earliest : Nat) : Prop :=
  (getUnit t u).queue = (getUnit x u).queue.drop 1 ∧ (getUnit t u).begun = (getUnit x u).begun ++ [⟨o, done, earliest, 0⟩]

theorem beginOp_starts (x : State) (u : Nat) (o : SubOp) (done : Option Nat) (earliest : Nat) : Starts u x (beginOp x u o done earliest) o done earliest := by
  unfold Starts beginOp
  dsimp only
  rw [getUnit_setUnit_same]
  exact ⟨rfl, rfl⟩

theorem occupy_starts {x t : State} {u : Nat} {o : SubOp} {done : Option Nat} {earliest : Nat} (tick : Nat) (h : Starts u x t o done earliest) :
    Starts u x (occupy t u tick) o done earliest := by
  unfold Starts occupy
  rw [getUnit_setUnit_same]
  exact h

/-! ## The end of a task -/

/-- Two states differ in the remote tasks and in the translations for one access at most. -/
def TaskEnded (s t : State) : Prop := ∃ tr tasks, t = { s with tr, wain := { s.wain with tasks := tasks } }

theorem endTask_frame (s : State) (who : Requester) : TaskEnded s (endTask s who) := ⟨_, _, rfl⟩

namespace TaskEnded

variable {s t : State}

theorem getUnit (h : TaskEnded s t) (n : Nat) : getUnit t n = getUnit s n := by obtain ⟨_, _, rfl⟩ := h; rfl
theorem getLink (h : TaskEnded s t) (n : Nat) : getLink t n = getLink s n := by obtain ⟨_, _, rfl⟩ := h; rfl

end TaskEnded

/-! ## Transfers out (R186, R187, R272) -/

/-- A transfer out whose lines may be read: its unit has begun it, and its lines wait behind the others of its link. -/
theorem sendRuns_leaves {s v : State} {u link runs : Nat} {o : SubOp} {m : LineMap} (crop : Bool)
    (read : planRead s u o srcWainXfer ((moveLines (opAg o 0) runs).map (fun d => (d, 64))) = (some m, v)) :
    let t := sendRuns s u o link runs crop
    (∃ e, Starts u v t o none e) ∧ (getLink t link).tx0 = (getLink v link).tx0 ++ (moveLines (opAg o 0) runs).map (fun d => (mapLine m d).data)
    ∧ (getLink t link).lastXsend = crop ∧ (getLink t link).sentSeq = (getLink v link).sentSeq + 1 ∧ ∀ k, k ≠ link → getLink t k = getLink v k := by
  let w := endTask v (.tiller o.tiller)
  let x : WainLink := { getLink v link with
    tx0 := (getLink v link).tx0 ++ (moveLines (opAg o 0) runs).map (fun d => (mapLine m d).data), lastXsend := crop, sentSeq := (getLink v link).sentSeq + 1 }
  have sent : ∃ e, sendRuns s u o link runs crop = beginOp (setLink w link x) u o none e := by
    unfold sendRuns
    dsimp only
    rw [read]
    exact ⟨_, rfl⟩
  obtain ⟨e, sent⟩ := sent
  intro t
  have links (k : Nat) : getLink t k = if k = link then x else getLink v k := (congrArg (getLink · k) sent).trans (getLink_setLink w link k x)
  refine ⟨⟨e, ?_⟩, ?_, ?_, ?_, fun k other => ?_⟩
  · rw [show t = _ from sent]; exact beginOp_starts (setLink w link x) u o none e
  · rw [links, if_pos rfl]
  · rw [links, if_pos rfl]
  · rw [links, if_pos rfl]
  · rw [links, if_neg other]

theorem send_turn {s : State} {n : Nat} {o : SubOp} (head : headOp s (25 + n) .wain 0 = some o) : exec (.send n) s
    = .next (if sendTurn s n false (xsendFor s n) then sendRuns s (25 + n) o n (field o.word 39 20 + 1) false else s) := by
  change execSend n s = _
  unfold execSend
  rw [head]
  dsimp only
  cases sendTurn s n false (xsendFor s n) <;> rfl

theorem xsend_turn {s : State} {o : SubOp} (head : headOp s 24 .crop 0 = some o) : exec .xsend s
    = .next (
      let link := field o.word 39 35
      if sendTurn s link true (headOp s (25 + link) .wain 0).isSome then sendRuns s 24 o link (field o.word 34 15 + 1) true else s) := by
  change execXsend s = _
  unfold execXsend
  rw [head]
  dsimp only
  cases sendTurn s (field o.word 39 35) true (headOp s (25 + field o.word 39 35) .wain 0).isSome <;> rfl

/-! ## Transfers in (R186, R187, R211, R269, R272, R273) -/

/-- Where no line has arrived, none is written. -/
theorem receiveLines_none {s : State} {link : Nat} (u : Nat) (crop : Bool) (empty : (getLink s link).rx0 = []) : receiveLines s u link crop = s := by
  unfold receiveLines
  rw [empty]
  split
  · split <;> rfl
  · rfl

theorem recv_begins {s : State} {n : Nat} {o : SubOp} (head : headOp s (25 + n) .wain 1 = some o) (empty : (getLink s n).rx0 = []) :
    exec (.recv n) s = .next (beginOp s (25 + n) o none s.tick) := by
  change execRecv n s = _
  unfold execRecv
  dsimp only
  rw [head]
  exact congrArg _ (receiveLines_none (s := beginOp s (25 + n) o none s.tick) _ _ empty)

theorem xrecv_begins {s : State} {o : SubOp} (head : headOp s 24 .crop 1 = some o) (empty : ∀ k, (getLink s k).rx0 = []) :
    exec .xrecv s = .next (beginOp s 24 o none s.tick) := by
  change execXrecv s = _
  unfold execXrecv
  rw [head]
  dsimp only
  split
  · exact congrArg _ (receiveLines_none (s := beginOp s 24 o none s.tick) _ _ (empty _))
  · rfl

/-- A receive that has written one line more. -/
def placed (b : Begun) : Begun := { b with placed := b.placed + 1 }

/-- The state `v` after a write, with the line of a link that was written gone and its credit returned. -/
def linePlaced (v : State) (u link credits : Nat) (b : Begun) : State :=
  setLink (setBegun (endTask v (.tiller b.op.tiller)) u b (placed b)) link { getLink v link with rx0 := [], ret0 := credits }

theorem placeLines_one {s v z : State} {u link d : Nat} {b : Begun} {line : List Byte} {ds rest : List Nat} (crop : Bool)
    (arrived : (getLink s link).rx0 = [line]) (place : ds.drop b.placed = d :: rest) (write : planWrite s u b.op [(d, line)] = (some v, z)) :
    placeLines 1 s u link crop b ds = (
      let w := linePlaced v u link ((getLink s link).ret0 + 1) b
      if rest.isEmpty then receiveDone w u link crop (placed b) else w) := by
  rw [placeLines]
  dsimp only
  rw [arrived, place]
  dsimp only
  rw [write]
  rfl

/-- The only line that has arrived is written at the next place of its receive; the last one completes it. -/
theorem recv_places {s v : State} {n d : Nat} {b : Begun} {line : List Byte} {rest : List Nat} (head : headOp s (25 + n) .wain 1 = none)
    (waits : openReceive s (25 + n) n false = some b) (turn : receiveTurn s n false = true) (arrived : (getLink s n).rx0 = [line])
    (place : (moveLines (opAg b.op 0) (field b.op.word 39 20 + 1)).drop b.placed = d :: rest)
    (written : (planWrite s (25 + n) b.op [(d, line)]).1 = some v) :
    exec (.recv n) s = .next (
      let w := linePlaced v (25 + n) n ((getLink s n).ret0 + 1) b
      if rest.isEmpty then receiveDone w (25 + n) n false (placed b) else w) := by
  change execRecv n s = _
  unfold execRecv receiveLines
  dsimp only
  rw [head]
  dsimp only
  rw [waits]
  dsimp only
  rw [if_pos turn, show (getLink s n).rx0.length = 1 by rw [arrived]; rfl]
  exact congrArg _ (placeLines_one false arrived place (Prod.ext written rfl))

theorem getUnit_setBegun (s : State) (u : Nat) (b c : Begun) :
    (getUnit (setBegun s u b c) u).begun = (getUnit s u).begun.map (fun x => if x = b then c else x) :=
  congrArg SubUnit.begun (getUnit_setUnit_same s u _)

theorem getLink_setBegun (s : State) (u : Nat) (b c : Begun) (k : Nat) : getLink (setBegun s u b c) k = getLink s k := rfl

theorem linePlaced_begun (v : State) (u link credits : Nat) (b : Begun) :
    (getUnit (linePlaced v u link credits b) u).begun = (getUnit v u).begun.map (fun x => if x = b then placed b else x) := by
  unfold linePlaced
  rw [getUnit_setLink, getUnit_setBegun, (endTask_frame v _).getUnit]

theorem linePlaced_link (v : State) (u link credits : Nat) (b : Begun) :
    getLink (linePlaced v u link credits b) link = { getLink v link with rx0 := [], ret0 := credits } := getLink_setLink_same ..

theorem releaseTick_congr {s t : State} (h : t.slots = s.slots) : releaseTick t = releaseTick s := by
  funext link crop seq
  unfold releaseTick runningSlot getSlot
  rw [h]

theorem map_replaces {α : Type} [DecidableEq α] {l : List α} {b : α} (c : α) (h : b ∈ l) : c ∈ l.map (fun x => if x = b then c else x) :=
  List.mem_map.2 ⟨b, h, if_pos rfl⟩

theorem linePlaced_frame (v : State) (u link credits : Nat) (b : Begun) : (linePlaced v u link credits b).slots = v.slots
    ∧ (linePlaced v u link credits b).epochStart = v.epochStart ∧ (linePlaced v u link credits b).tick = v.tick := by
  obtain ⟨_, _, ended⟩ := endTask_frame v (.tiller b.op.tiller)
  unfold linePlaced setBegun
  rw [setLink_slots, setLink_epochStart, setLink_tick, setUnit_slots, setUnit_epochStart, setUnit_tick, ended]
  exact ⟨rfl, rfl, rfl⟩

/-- A link that counts a late line or not. -/
theorem lateErr (x : WainLink) (late : Bool) : ∃ err, (if late then { x with err := bump x.err 63 56 1 } else x) = { x with err := err } := by
  cases late
  · exact ⟨x.err, rfl⟩
  · exact ⟨_, rfl⟩

/-- A receive whose last line is written is complete at its transfer's release tick, or in the next A-cycle (R273). -/
theorem receiveDone_eq (w : State) (u link : Nat) (b : Begun) :
    let e := epochTick w + 1
    let tr := (releaseTick w link false (getLink w link).recvSeq).getD e
    ∃ err, receiveDone w u link false b = setBegun (setLink w link { getLink w link with recvSeq := (getLink w link).recvSeq + 1, err := err })
      u b { b with doneTick := some (w.epochStart + max tr e) } := by
  intro e tr
  let x : WainLink := { getLink w link with recvSeq := (getLink w link).recvSeq + 1 }
  obtain ⟨err, late⟩ := lateErr x (decide (tr < e))
  refine ⟨err, ?_⟩
  have done : receiveDone w u link false b
    = setBegun (setLink w link (if decide (tr < e) then { x with err := bump x.err 63 56 1 } else x)) u b { b with doneTick := some (w.epochStart + max tr e) } := rfl
  rw [done, late]

/-- What the last line of a receive leaves in its link and its unit. -/
theorem lastPlaced_leaves {v t : State} {u link credits : Nat} {b : Begun} (done : t = receiveDone (linePlaced v u link credits b) u link false (placed b))
    (mem : b ∈ (getUnit v u).begun) :
    let e := epochTick v + 1
    let tr := (releaseTick v link false (getLink v link).recvSeq).getD e
    (getLink t link).rx0 = [] ∧ (getLink t link).ret0 = credits ∧ (getLink t link).recvSeq = (getLink v link).recvSeq + 1
    ∧ ({ b with placed := b.placed + 1, doneTick := some (v.epochStart + max tr e) } : Begun) ∈ (getUnit t u).begun := by
  obtain ⟨err, last⟩ := receiveDone_eq (linePlaced v u link credits b) u link (placed b)
  obtain ⟨slots, epochStart, tick⟩ := linePlaced_frame v u link credits b
  rw [last, linePlaced_link, releaseTick_congr slots, epochStart, show epochTick _ = epochTick v from congrArg₂ Nat.sub tick epochStart] at done
  have mem' : placed b ∈ (getUnit (linePlaced v u link credits b) u).begun := by
    rw [linePlaced_begun]
    exact map_replaces _ mem
  rw [done, getLink_setBegun, getLink_setLink_same, getUnit_setBegun]
  exact ⟨rfl, rfl, rfl, map_replaces _ mem'⟩

/-! ## Copy engines (R188) -/

/-- A sub-operation whose reads and writes go through begins, its last effect now. -/
theorem planOp_begins {s v w : State} {u source : Nat} {o : SubOp} {rs : List (Nat × Nat)} {m : LineMap} {f : LineMap → List (Nat × List Byte) × Nat × Nat}
    (read : planRead s u o source rs = (some m, v)) (written : (planWrite v u o (f m).1).1 = some w) :
    Starts u w (planOp s u o source rs f (fun s => (s.tick, s.tick)) (fun _ s => s)) o (some w.tick) w.tick
    ∧ (planOp s u o source rs f (fun s => (s.tick, s.tick)) (fun _ s => s)).mem = w.mem
    ∧ (planOp s u o source rs f (fun s => (s.tick, s.tick)) (fun _ s => s)).cache = w.cache := by
  have write : planWrite v u o (f m).1 = (some w, (planWrite v u o (f m).1).2) := Prod.ext written rfl
  have begins : ∃ z tr wain crop, z = { w with tr, wain, crop }
      ∧ planOp s u o source rs f (fun s => (s.tick, s.tick)) (fun _ s => s) = occupy (beginDone z u o w.tick) u w.tick := by
    refine ⟨noteStep (endTask w (.tiller o.tiller)) o.step (f m).2.1 (f m).2.2, _, _, _, rfl, ?_⟩
    unfold planOp
    rw [read]
    dsimp only
    rw [write]
    rfl
  obtain ⟨z, tr, wain, crop, noted, begins⟩ := begins
  have starts := occupy_starts w.tick (beginOp_starts z u o (some w.tick) w.tick)
  have unit : getUnit z u = getUnit w u := by rw [noted]; rfl
  rw [Starts, unit] at starts
  have stores : z.mem = w.mem ∧ z.cache = w.cache := by rw [noted]; exact ⟨rfl, rfl⟩
  rw [begins]
  exact ⟨starts, stores⟩

theorem planRead_nil (s : State) (u : Nat) (o : SubOp) (source : Nat) : planRead s u o source [] = (some [], s) := by
  have claimed : claimTiller s o.tiller s = s := by
    unfold claimTiller
    simp
  have none_ : planRead s u o source [] = (some [], claimTiller s o.tiller s) := rfl
  rw [none_, claimed]

/-- The ranges of a COPY's source or destination. -/
def copyRanges (o : SubOp) (k : Nat) : List (Nat × Nat) :=
  (List.range (field o.word 36 17 + 1)).flatMap (fun i => bothPlanes (agRun (opAg o k) i))

/-- What a COPY writes. -/
def copyWrites (o : SubOp) (m : LineMap) : List (Nat × List Byte) × Nat × Nat :=
  (((copyRanges o 0).zip (copyRanges o 1)).map (fun p => (p.2.1, mapBytes m p.1.1 p.1.2)), 0, 0)

/-- What a ZERO writes. -/
def zeroWrites (o : SubOp) (_ : LineMap) : List (Nat × List Byte) × Nat × Nat :=
  (((List.range (field o.word 39 20 + 1)).flatMap (fun i => bothPlanes (agRun (opAg o 0) i))).map (fun r => (r.1, List.replicate r.2 0)), 0, 0)

theorem tillerCopy_plans {s : State} {n : Nat} {o : SubOp} (head : headOp s (49 + n) .copy 0 = some o) : exec (.tillerCopy n) s
    = .next (planOp s (49 + n) o srcPoisonUse (copyRanges o 0) (copyWrites o) (fun s => (s.tick, s.tick)) (fun _ s => s)) := by
  change execTillerCopy n s = _
  unfold execTillerCopy
  dsimp only
  rw [head]
  rfl

theorem zero_plans {s : State} {n : Nat} {o : SubOp} (head : headOp s (49 + n) .copy 2 = some o) : exec (.zero n) s
    = .next (planOp s (49 + n) o srcPoisonUse [] (zeroWrites o) (fun s => (s.tick, s.tick)) (fun _ s => s)) := by
  change execZero n s = _
  unfold execZero
  dsimp only
  rw [head]
  rfl

/-- The lines of a PREF, looked up in the order of its runs. -/
def prefLines (s : State) (n : Nat) (o : SubOp) : List LineOp × RangeEnd × State :=
  planLines s (unitIssuer s (49 + n) o.tiller) none .read (rangeDpas ((List.range (field o.word 35 16 + 1)).map (fun i => runRange (agRun (opAg o 0) i))))

theorem pref_brings {s : State} {n : Nat} {o : SubOp} (head : headOp s (49 + n) .copy 1 = some o) (goes : (prefLines s n o).2.1 = .all) :
    exec (.pref n) s = .next (
      let bin := if field o.word 39 38 = 1 then some (field o.word 37 36) else none
      let q := (prefLines s n o).1.foldl (fun x p => prefetchPlan x (unitIssuer s (49 + n) o.tiller) bin p) (prefLines s n o).2.2
      beginOp q (49 + n) o (some q.tick) q.tick) := by
  change execPref n s = _
  unfold execPref
  dsimp only
  rw [head]
  dsimp only
  unfold prefLines at goes ⊢
  rw [goes]
  rfl

/-! ## Completion (R177) -/

theorem subopCompletion_completes {s : State} {n : Nat} {b : Begun} (found : (getUnit s n).begun.find? (isDone s) = some b) :
    exec (.subopCompletion n) s = .next (
      let t := setUnit s n { getUnit s n with begun := (getUnit s n).begun.erase b }
      if dtOf b.op.word = 63 then t else signalAdd t (dtOf b.op.word) (dcOf b.op.word) 1) := by
  change execSubopCompletion n s = _
  unfold execSubopCompletion
  dsimp only
  rw [found]

/-- The signal of a completed sub-operation, where its DT names a Tiller, changes Tillers only. -/
theorem completionSignal_frame (s : State) (b : Begun) :
    ∃ tillers, (if dtOf b.op.word = 63 then s else signalAdd s (dtOf b.op.word) (dcOf b.op.word) 1) = { s with tillers } := by
  split
  · exact ⟨_, rfl⟩
  · exact signalAdd_frame ..

end Sys2Proof.Machine

namespace Sys2Proof
open Machine

/-- Settles O38: what each sub-operation answers when its turn, its lines or its completion come. -/
theorem movingSubopsComplete : Obligations.MovingSubopsComplete := by
  intro s v v2 n o m begun g sends
  refine ⟨fun head => ⟨fun waits => ?_, fun turn read => ?_⟩, fun head => ⟨fun waits => ?_, fun turn read => ?_⟩, recv_begins, xrecv_begins,
    fun b line d rest head waits turn arrived place written => ⟨fun more => ?next, fun last mem => ?last⟩, fun head read written => ?copy,
    fun head written => ?zero, fun head goes => ?pref, fun b found => ?complete⟩
  · exact (send_turn head).trans (congrArg _ (if_neg (ne_true_of_eq_false waits)))
  · exact ⟨_, (send_turn head).trans (congrArg _ (if_pos turn)), sendRuns_leaves false read⟩
  · exact (xsend_turn head).trans (congrArg _ (if_neg (ne_true_of_eq_false waits)))
  · exact ⟨_, (xsend_turn head).trans (congrArg _ (if_pos turn)), sendRuns_leaves true read⟩
  case next =>
    refine ⟨_, (recv_places head waits turn arrived place written).trans (congrArg _ (if_neg (by simpa using more))), ?_, ?_, linePlaced_begun ..⟩
    · rw [linePlaced_link]
    · rw [linePlaced_link]
  case last =>
    exact ⟨_, (recv_places head waits turn arrived place written).trans (congrArg _ (if_pos (by rw [last]; rfl))), lastPlaced_leaves rfl mem⟩
  case copy => exact ⟨_, tillerCopy_plans head, planOp_begins (f := copyWrites o) read written⟩
  case zero => exact ⟨_, zero_plans head, planOp_begins (f := zeroWrites o) (planRead_nil ..) written⟩
  case pref => exact pref_brings head goes
  case complete =>
    refine ⟨_, subopCompletion_completes found, ?_⟩
    obtain ⟨tillers, signalled⟩ := completionSignal_frame (setUnit s n { getUnit s n with begun := (getUnit s n).begun.erase b }) b
    refine ⟨?_, fun k other => ?_, fun named => ?_, fun none_ => ?_, ?_, ?_⟩
    · rw [signalled]; exact getUnit_setUnit_same ..
    · rw [signalled]; exact getUnit_setUnit_ne _ _ other
    · rw [if_neg (by omega), signalAdd_incoming _ _ _ named]; rfl
    · rw [if_pos none_]; rfl
    · rw [signalled]; rfl
    · rw [signalled]; rfl

end Sys2Proof
end

section
/-!
PROOFS. The barriers of a run: what a member sends and keeps, how surplus lines end an epoch's arrival, and what a release leaves.
-/
namespace Sys2Proof.Machine

/-- The run of a chip stands in its running slot. -/
theorem runOf_some {s : State} {n : Nat} {x : Slot} {p : Plan} (run : runOf s = some (n, x, p)) : runningSlot s = some n ∧ getSlot s n = x := by
  unfold runOf at run
  split at run
  · next m running =>
    obtain ⟨_, -, same⟩ := Option.map_eq_some_iff.1 run
    cases same
    exact ⟨running, rfl⟩
  · cases run

/-! ## Arriving (R219, R243) -/

theorem takePolicy_frame (s : State) : ∃ margin, takePolicy s = { s with margin } := by
  unfold takePolicy
  split <;> exact ⟨_, rfl⟩

/-- Forming a margin request changes the margin's part of the state only (R546). -/
theorem formRequest_frame (s : State) (closes : Bool) : ∃ margin, formRequest s closes = { s with margin } := by
  obtain ⟨_, policy⟩ := takePolicy_frame s
  unfold formRequest
  rw [policy]
  cases closes <;> exact ⟨_, rfl⟩

/-- The way to the root turns on the links and on what the member knows of its Crop. -/
theorem upLink_congr {s t : State} (wain : t.wain = s.wain) (crop : t.crop.cropId = s.crop.cropId) (parent : t.crop.parentLink = s.crop.parentLink)
    (children : t.crop.children = s.crop.children) : upLink t = upLink s := by
  unfold upLink memberLinks memberLink peerInCrop getLink
  rw [wain, crop, parent, children]

/-- A member that has arrived with an ARRIVE of its own, its margin request formed. -/
def arrivedWith (s : State) (margin : Margin) (k : ArriveKind) (own : ArriveMsg) : State :=
  { s with margin, crop := { s.crop with selfArrive := some own, phase := if k = .epoch then .epoch else s.crop.phase } }

/-- SEND_ARRIVE where the root, or a member all of whose children have arrived, may send: its own ARRIVE is of the barrier at hand. -/
theorem sendArrive_arrives {s : State} {n : Nat} {x : Slot} {p : Plan} {k : ArriveKind} (run : runOf s = some (n, x, p)) (kind : arriveKind s = some k)
    (may : isCropRoot s = true ∨ childrenHere s k = true) :
    ∃ margin own, own.kind = k ∧ (k = .epoch → own.barrier = x.epoch)
      ∧ exec .sendArrive s = .next (
        let t := arrivedWith s margin k own
        if isCropRoot s then rootTry t else sendCtrl t (upLink t) (.arrive ((heldArrives t k).foldl combineArrive own))) := by
  have formed : ∃ margin, (if k = .second then s else formRequest s (k == .epoch)) = { s with margin } := by
    split
    · exact ⟨_, rfl⟩
    · exact formRequest_frame ..
  obtain ⟨margin, formed⟩ := formed
  have sends : (!isCropRoot s && !childrenHere s k) = false := by rcases may with h | h <;> simp [h]
  refine ⟨margin, ownArrive { s with margin } x k, rfl, fun epoch => by rw [epoch]; rfl, ?_⟩
  change execSendArrive s = _
  unfold execSendArrive
  rw [kind, run]
  dsimp only
  rw [sends, if_neg Bool.false_ne_true, formed]
  rfl

/-! ## Surplus lines (R275) -/

theorem haltTillers_tillers (s : State) : ∃ tillers, haltTillers s = { s with tillers } := by
  rw [haltTillers_eq]
  induction List.range 53 generalizing s with
  | nil => exact ⟨_, rfl⟩
  | cons n l ih =>
    have first : ∃ tillers, haltTiller s n = { s with tillers } := by
      unfold haltTiller
      split <;> exact ⟨_, rfl⟩
    obtain ⟨_, first⟩ := first
    obtain ⟨_, rest⟩ := ih (haltTiller s n)
    exact ⟨_, by rw [List.foldl_cons, rest, first]⟩

/-- A report towards the root leaves the Tillers and the error bank, what each link has received and this member's own arrival. -/
theorem reportToRoot_passes (s : State) (m : StopMsg) : (reportToRoot s m).tillers = s.tillers ∧ (reportToRoot s m).err = s.err
    ∧ (reportToRoot s m).crop.selfArrive = s.crop.selfArrive ∧ ∀ k, (getLink (reportToRoot s m) k).rx0 = (getLink s k).rx0 := by
  unfold reportToRoot
  split
  · split
    · exact ⟨rfl, rfl, rfl, fun _ => rfl⟩
    · refine ⟨rfl, rfl, rfl, fun k => ?_⟩
      obtain ⟨_, _, sent⟩ := (sendCtrl_posted s (upLink s) (.stop m)).link k
      rw [sent]
  · exact ⟨rfl, rfl, rfl, fun _ => rfl⟩

/-- An error of class REPLAYED in a run halts the Tillers and adds one record (R531). -/
theorem raiseReplayed_running {s : State} (run : (runningSlot s).isSome = true) (source inst addr ctx detail : Nat) :
    let t := raiseReplayed s source inst addr ctx detail
    t.err.errWrites = s.err.errWrites + 1 ∧ t.crop.selfArrive = s.crop.selfArrive ∧ (∀ k, (getLink t k).rx0 = (getLink s k).rx0)
    ∧ ∀ k, k < 53 → (getTiller t k).mode = .idle := by
  let u := reportError s (errRecord s clsReplayed source inst addr ctx detail)
  obtain ⟨tillers, halted⟩ := haltTillers_tillers u
  have idle (k : Nat) (hk : k < 53) : (getTiller (haltTillers u) k).mode = .idle := halted_foldl _ u (.inl (List.mem_range.2 hk))
  obtain ⟨stand, bank, arrived, lines⟩ := reportToRoot_passes (haltTillers u) (.replay (ownPosition s))
  have raised : raiseReplayed s source inst addr ctx detail = reportToRoot (haltTillers u) (.replay (ownPosition s)) := if_pos run
  obtain ⟨_, _, logged, writes⟩ := logError_frame s clsReplayed source inst addr ctx detail
  rw [raised]
  refine ⟨?_, ?_, fun k => ?_, fun k hk => ?_⟩
  · rw [bank, halted]
    exact (congrArg (fun v : State => v.err.errWrites) logged).trans writes
  · rw [arrived, halted]; rfl
  · rw [lines, halted]; rfl
  · unfold getTiller at idle ⊢
    rw [stand]
    exact idle k hk

theorem surplusLinks_between {s : State} (h : surplusLinks s ≠ []) : (runningSlot s).isSome = true ∧ (s.crop.phase = .none ∨ s.crop.phase = .epoch) := by
  have done : transfersDone s = true := by
    by_contra open_
    exact h (if_neg open_)
  unfold transfersDone at done
  simp only [Bool.and_eq_true, Bool.or_eq_true, beq_iff_eq] at done
  obtain ⟨⟨⟨⟨run, -⟩, phase⟩, -⟩, -⟩ := done
  exact ⟨run, phase⟩

/-- No ARRIVE goes out while a link holds surplus lines (R275). -/
theorem arriveKind_surplus {s : State} (h : surplusLinks s ≠ []) : arriveKind s = none := by
  have surplus : (surplusLinks s).isEmpty = false := by simpa using h
  unfold arriveKind
  dsimp only
  split
  · rfl
  · rcases (surplusLinks_between h).2 with phase | phase
    · rw [phase]
      dsimp only
      rw [surplus, Bool.and_false, if_neg Bool.false_ne_true]
    · rw [phase]

theorem sendArrive_discards {s : State} {link : Nat} (surplus : surplusLinks s = [link]) : exec .sendArrive s = .next (dropSurplus s link) := by
  change execSendArrive s = _
  unfold execSendArrive
  rw [arriveKind_surplus (by rw [surplus]; exact List.cons_ne_nil _ _), surplus]
  rfl

theorem dropSurplus_leaves {s : State} (link : Nat) (run : (runningSlot s).isSome = true) :
    let t := dropSurplus s link
    (getLink t link).rx0 = [] ∧ t.err.errWrites = s.err.errWrites + 1 ∧ t.crop.selfArrive = s.crop.selfArrive
    ∧ ∀ k, k < 53 → (getTiller t k).mode = .idle := by
  let x := getLink s link
  let u := setLink s link { x with rx0 := [], ret0 := x.ret0 + x.rx0.length }
  have same : runningSlot u = runningSlot s := rfl
  obtain ⟨writes, arrived, lines, idle⟩ := raiseReplayed_running (s := u) (by rw [same]; exact run) srcWainXfer link 0
    (match runningSlot s with | some n => (getSlot s n).context.toNat | none => 0) 0
  exact ⟨(lines link).trans (by rw [getLink_setLink_same]), writes, arrived, idle⟩

/-! ## ARRIVE and STOP (R219, R243, R250) -/

theorem rootTry_member {s : State} (member : isCropRoot s = false) : rootTry s = s := by
  unfold rootTry
  split
  · rw [member]; rfl
  · rfl

/-- A child's ARRIVE that is not of a round given up: a refusal goes on at once, any other is kept in place of the child's last. -/
theorem arrive_current {s : State} {link : Nat} {m : ArriveMsg} (child : s.crop.children.contains link = true) (current : staleArrive s m = false) :
    exec (.arrive link m) s = .next (
      let t := takeFrom s link (.arrive m)
      match m.refusedAt with
      | some pos => if isCropRoot s then decide_ t (.abandon (some pos)) else sendCtrl t (upLink s) (.arrive m)
      | none => rootTry { t with crop := { s.crop with arrived := s.crop.arrived.filter (fun q => q.1 != link) ++ [(link, m)] } }) := by
  have taken := takeFrom_posted s link (.arrive m)
  have current' : staleArrive (takeFrom s link (.arrive m)) m = false := by
    unfold staleArrive at current ⊢
    rw [taken.crop]
    exact current
  change execArrive link m s = _
  unfold execArrive
  dsimp only
  rw [taken.crop, child, current', taken.isCropRoot, taken.upLink]
  cases m.refusedAt <;> rfl

/-- A member keeps a child's ARRIVE that is no refusal, in place of the child's last. -/
def keepArrive (s : State) (link : Nat) (m : ArriveMsg) : State :=
  { takeFrom s link (.arrive m) with crop := { s.crop with arrived := s.crop.arrived.filter (fun q => q.1 != link) ++ [(link, m)] } }

theorem arrive_kept {s : State} {link : Nat} {m : ArriveMsg} (child : s.crop.children.contains link = true) (current : staleArrive s m = false)
    (none_ : m.refusedAt = none) : exec (.arrive link m) s = .next (rootTry (keepArrive s link m)) := by
  rw [arrive_current child current, none_]
  rfl

theorem arrive_refused {s : State} {link pos : Nat} {m : ArriveMsg} (child : s.crop.children.contains link = true) (current : staleArrive s m = false)
    (refused : m.refusedAt = some pos) : exec (.arrive link m) s = .next (
      let t := takeFrom s link (.arrive m)
      if isCropRoot s then decide_ t (.abandon (some pos)) else sendCtrl t (upLink s) (.arrive m)) := by
  rw [arrive_current child current, refused]

theorem stop_member {s : State} (m : StopMsg) (notRoot : isCropRoot s = false) (member : s.crop.member = true) :
    exec (.stop m) s = .next (sendCtrl (takeMsg s (.stop m)) (upLink s) (.stop m)) := by
  have taken := takeMsg_posted s (.stop m)
  change execStop m s = _
  unfold execStop
  dsimp only
  rw [taken.isCropRoot, notRoot, taken.crop, member, taken.upLink]
  rfl

theorem stop_root {s : State} (m : StopMsg) (root : isCropRoot s = true) :
    exec (.stop m) s = .next (rootTry (rootStop { takeMsg s (.stop m) with crop := { s.crop with reports := s.crop.reports.erase m } } m)) := by
  have taken := takeMsg_posted s (.stop m)
  change execStop m s = _
  unfold execStop
  dsimp only
  rw [taken.isCropRoot, root, taken.crop]
  rfl

theorem sendCtrl_ctrl (s : State) (n : Nat) (m : CtrlMsg) : (getLink (sendCtrl s n m) n).ctrl = (getLink s n).ctrl ++ [m] := by
  rw [getLink_sendCtrl, if_pos rfl]

/-! ## The start's timeout (R248) -/

theorem startTimeout_starting {s : State} {n : Nat} (run : runningSlot s = some n) (start : s.crop.startBarrier = true) (phase : s.crop.phase = .start) :
    exec .startTimeout s = .next (if isCropRoot s then decide_ s (.abandon none) else reportToRoot s (.startTimeout (getSlot s n).position)) := by
  change execStartTimeout s = _
  unfold execStartTimeout
  rw [run]
  dsimp only
  rw [start, phase]
  cases isCropRoot s <;> rfl

theorem reportToRoot_member {s : State} (m : StopMsg) (notRoot : isCropRoot s = false) (member : s.crop.member = true) :
    reportToRoot s m = sendCtrl s (upLink s) (.stop m) := by
  have parent : s.crop.parentLink ≠ 0xFF := fun root => by
    unfold isCropRoot at notRoot
    rw [member, root] at notRoot
    exact absurd notRoot (by decide)
  unfold reportToRoot
  rw [if_pos member, if_neg parent]

/-! ## Release (R169, R208, R245, R247) -/

/-- Two states differ in their Tillers at most. -/
def TillersOnly (s t : State) : Prop := ∃ tillers, t = { s with tillers }

/-- Tillers set in succession, each from what it holds and what the state says of time: each is set once, and nothing else changes. -/
theorem setTillers_each {F : State → Nat → Tiller → Tiller} (timed : ∀ s m y, F (setTiller s m y) = F s) {l : List Nat} (once : l.Nodup) (s : State) :
    TillersOnly s (l.foldl (fun s k => setTiller s k (F s k (getTiller s k))) s)
    ∧ ∀ k, getTiller (l.foldl (fun s k => setTiller s k (F s k (getTiller s k))) s) k = if k ∈ l then F s k (getTiller s k) else getTiller s k := by
  induction l generalizing s with
  | nil => exact ⟨⟨_, rfl⟩, fun k => rfl⟩
  | cons n l ih =>
    obtain ⟨fresh, once⟩ := List.nodup_cons.1 once
    obtain ⟨⟨_, set⟩, each⟩ := ih once (setTiller s n (F s n (getTiller s n)))
    refine ⟨⟨_, set⟩, fun k => (each k).trans ?_⟩
    rw [timed, getTiller_setTiller]
    by_cases same : k = n
    · subst same
      rw [if_pos rfl, if_neg fresh, if_pos List.mem_cons_self]
    · rw [if_neg same]
      simp only [List.mem_cons, same, false_or]

theorem setTillers_all {F : State → Nat → Tiller → Tiller} (timed : ∀ s m y, F (setTiller s m y) = F s) (s : State) :
    TillersOnly s ((List.range 53).foldl (fun s k => setTiller s k (F s k (getTiller s k))) s)
    ∧ ∀ k, k < 53 → getTiller ((List.range 53).foldl (fun s k => setTiller s k (F s k (getTiller s k))) s) k = F s k (getTiller s k) := by
  obtain ⟨set, each⟩ := setTillers_each timed List.nodup_range s
  exact ⟨set, fun k hk => (each k).trans (if_pos (List.mem_range.2 hk))⟩

/-- Every Tiller starts from its record (R157, R170). -/
theorem restoreTillers_each (s : State) (x : Slot) (p : Plan) (epoch : Nat) (recs : List TillerRec) (keepSlip : Bool) :
    TillersOnly s (restoreTillers s x p epoch recs keepSlip) ∧ ∀ k, k < 53 → getTiller (restoreTillers s x p epoch recs keepSlip) k
      = tillerFrom s (p.progs.getD k []) ((patchDescs x p epoch).getD k []) (if keepSlip then (getTiller s k).slip else 0) recs[k]? :=
  setTillers_all (F := fun s k t => tillerFrom s (p.progs.getD k []) ((patchDescs x p epoch).getD k []) (if keepSlip then t.slip else 0) recs[k]?)
    (fun _ _ _ => rfl) s

/-- Two states differ in the Sheaves, the margin's part and what is sent at most. -/
def Eased (s t : State) : Prop := ∃ out sheaves margin, t = { s with out, sheaves, margin }

namespace Eased

variable {s t u : State}

theorem refl (s : State) : Eased s s := ⟨_, _, _, rfl⟩

theorem trans (h : Eased s t) (k : Eased t u) : Eased s u := by
  obtain ⟨_, _, _, rfl⟩ := h
  obtain ⟨_, _, _, rfl⟩ := k
  exact ⟨_, _, _, rfl⟩

theorem foldl {α : Type} {g : State → α → State} (h : ∀ s x, Eased s (g s x)) (l : List α) (s : State) : Eased s (l.foldl g s) := by
  induction l generalizing s with
  | nil => exact .refl s
  | cons x l ih => exact (h s x).trans (ih _)

end Eased

theorem emit_eased (s : State) (o : Out) : Eased s (emit s o) := ⟨_, _, _, rfl⟩
theorem setSheaf_eased (s : State) (n : Nat) (x : Sheaf) : Eased s (setSheaf s n x) := ⟨_, _, _, rfl⟩

/-- The second state has the first's part in a run: its epoch, its slots, its Tillers and their work, and what it knows of its Crop. -/
structure SameRun (s t : State) : Prop where
  slots : t.slots = s.slots
  crop : t.crop = s.crop
  tick : t.tick = s.tick
  epochStart : t.epochStart = s.epochStart
  globalTick : t.globalTick = s.globalTick
  counting : t.counting = s.counting
  err : t.err = s.err
  tillers : t.tillers = s.tillers
  units : t.units = s.units
  reds : t.reds = s.reds

theorem Eased.sameRun {s t : State} (h : Eased s t) : SameRun s t := by
  obtain ⟨_, _, _, rfl⟩ := h
  exact ⟨rfl, rfl, rfl, rfl, rfl, rfl, rfl, rfl, rfl, rfl⟩

theorem LinksOnly.sameRun {s t : State} (h : LinksOnly s t) : SameRun s t := by
  obtain ⟨_, rfl⟩ := h
  exact ⟨rfl, rfl, rfl, rfl, rfl, rfl, rfl, rfl, rfl, rfl⟩

theorem leaseBegins_eased (s : State) (n : Nat) : Eased s (leaseBegins s n) := by
  cases held : (getSheaf s n).lease with
  | none =>
    unfold leaseBegins
    rw [held]
    exact .refl s
  | some l =>
    rw [leaseBegins_eq held]
    exact (setSheaf_eased s n _).trans (emit_eased _ _)

theorem beginPlanLeases_eased (s : State) : Eased s (beginPlanLeases s) := by
  refine .foldl (fun s n => ?_) _ s
  split
  · split
    · exact .refl s
    · exact leaseBegins_eased s n
  · exact .refl s

theorem driveVid_eased (s : State) : Eased s (driveVid s) := by
  unfold driveVid
  dsimp only
  split
  · exact ⟨_, _, _, rfl⟩
  · exact .refl s

theorem stepVdd_eased (s : State) : Eased s (stepVdd s) := by
  unfold stepVdd
  dsimp only
  split
  · exact .refl s
  · next up _ =>
    generalize (if up = true then min s.margin.vddCeil (s.margin.vddMv + 5) else s.margin.vddMv - 5) = v
    split
    · exact ⟨_, _, _, rfl⟩
    · exact Eased.trans ⟨_, _, _, rfl⟩ (driveVid_eased _)

theorem marginRelease_eased (s : State) (opens : Bool) : Eased s (marginRelease s opens) :=
  Eased.trans ⟨_, _, _, rfl⟩ (stepVdd_eased _)

theorem restoreSheaves_eased (s : State) (counts : List (Nat × Nat)) (keepHold : Bool) : Eased s (restoreSheaves s counts keepHold) :=
  .foldl (fun _ _ => ⟨_, _, _, rfl⟩) _ s

/-- The state in which a barrier is over and the epoch begins, its links' counts and samples aside (R245). -/
def epochOpened (s : State) (start : Bool) : State := { s with
  epochStart := s.tick, globalTick := if start then 0 else s.globalTick, counting := if start then true else s.counting
  crop := { s.crop with
    phase := .none, startBarrier := false, replayBarrier := false, arrived := [], selfArrive := none, lastRelease := s.crop.release, acc := []
    settled := true, realigned := false, waitTime := none, startCtb := if start then s.ctb else s.crop.startCtb } }

theorem barrierOver_opened (s : State) (start : Bool) : LinksOnly (epochOpened s start) (barrierOver s start) := by
  have opens : barrierOver s start = restartLinks (dropSamples (epochOpened s start)) := by cases start <;> rfl
  rw [opens]
  exact (dropSamples_linksOnly _).trans (.foldl (fun s n => setLink_linksOnly s n _) _ _)

/-- Every Tiller as the epoch begins: at a start barrier from its record, at any other behind its EBAR if it waits there (R169, R227). -/
def openTillers (start : Bool) (s : State) (y : Slot) (p : Plan) (r : SeedRec) : State :=
  if start then restoreTillers s y p r.epoch.toNat r.tillers false
  else (List.range 53).foldl (fun s k => setTiller s k (tillerRelease s (getTiller s k))) s

theorem openTillers_each (start : Bool) (s : State) (y : Slot) (p : Plan) (r : SeedRec) :
    TillersOnly s (openTillers start s y p r) ∧ ∀ k, k < 53 → getTiller (openTillers start s y p r) k =
      if start then tillerFrom s (p.progs.getD k []) ((patchDescs y p r.epoch.toNat).getD k []) 0 r.tillers[k]? else tillerRelease s (getTiller s k) := by
  cases start with
  | true => exact restoreTillers_each s y p r.epoch.toNat r.tillers false
  | false => exact setTillers_all (F := fun s _ t => tillerRelease s t) (fun _ _ _ => rfl) s

/-- A waiting Tiller goes on behind its EBAR at epoch tick 0 (R169). -/
theorem tillerRelease_barrier (s : State) {t : Tiller} (waits : t.mode = .barrier) : (tillerRelease s t).mode = .run ∧ (tillerRelease s t).pc = pcNext t
    ∧ (tillerRelease s t).prevTarget = 0 ∧ (tillerRelease s t).nextTick = s.tick := by
  unfold tillerRelease
  rw [if_pos waits]
  exact ⟨rfl, rfl, rfl, rfl⟩

/-- The handling of errors is over once a barrier releases (R533). -/
def handlingOver (s : State) : State :=
  { s with err := { s.err with replaying := false, restarts := 0, reported := [] }, crop := { s.crop with replaySeen := [] } }

theorem commitRelease_eq {s : State} (n : Nat) {x y : Slot} (p : Plan) {r : SeedRec} (newest : x.newest = some r)
    (hy : y = { x with epoch := r.epoch, pend := none }) : commitRelease s n x p
    = marginRelease (beginPlanLeases (handlingOver (openTillers s.crop.startBarrier (barrierOver (setSlot s n y) s.crop.startBarrier) y p r)))
        (!s.crop.startBarrier) := by
  rw [hy]
  unfold commitRelease
  rw [newest]
  rfl

theorem commitReplay_eq {s : State} (n : Nat) {x y : Slot} (p : Plan) {r : SeedRec} (newest : x.newest = some r)
    (hy : y = { x with epoch := r.epoch, steps := r.steps, pend := none }) : commitReplay s n x p
    = marginRelease (beginPlanLeases (restoreSheaves
        (restoreTillers (barrierOver (setSlot (discardWork s) n y) s.crop.startBarrier) y p r.epoch.toNat r.tillers true) r.counts true)) false := by
  rw [hy]
  unfold commitReplay
  rw [newest]
  rfl

theorem discardWork_frame (s : State) : ∃ out sheaves links margin,
    discardWork s = { s with units := [], reds := [], out, sheaves, margin, wain := { s.wain with links := links } } := by
  obtain ⟨_, lines⟩ : LinksOnly { s with units := [], reds := [] } (discardTransfers { s with units := [], reds := [] }) :=
    .foldl (fun s n => setLink_linksOnly s n _) _ _
  obtain ⟨_, _, _, regions⟩ : Eased (discardTransfers { s with units := [], reds := [] }) (discardWork s) :=
    .foldl (fun s n => setSheaf_eased s n _) _ _
  exact ⟨_, _, _, _, by rw [regions, lines]⟩

theorem tillerFrom_congr {s t : State} (tick : t.tick = s.tick) : tillerFrom t = tillerFrom s := by
  unfold tillerFrom
  rw [tick]

theorem tillerRelease_congr {s t : State} (tick : t.tick = s.tick) : tillerRelease t = tillerRelease s := by
  unfold tillerRelease
  rw [tick]

/-- The part in a run of a state whose epoch has just opened. -/
theorem epochOpened_keeps (s : State) (n : Nat) (y : Slot) (start : Bool) : let v := epochOpened (setSlot s n y) start
    v.slots = (setSlot s n y).slots ∧ v.tick = s.tick ∧ v.epochStart = s.tick ∧ v.tillers = s.tillers ∧ v.units = s.units ∧ v.reds = s.reds :=
  ⟨rfl, rfl, rfl, rfl, rfl, rfl⟩

theorem getSlot_congr {s t : State} (h : t.slots = s.slots) (k : Nat) : getSlot t k = getSlot s k := by
  unfold getSlot
  rw [h]

theorem getTiller_congr {s t : State} (h : t.tillers = s.tillers) (k : Nat) : getTiller t k = getTiller s k := by
  unfold getTiller
  rw [h]

/-- What the release of a start or epoch barrier leaves. -/
theorem commitRelease_leaves {s t : State} (n : Nat) {x y : Slot} (p : Plan) {r : SeedRec} (newest : x.newest = some r)
    (hy : y = { x with epoch := r.epoch, pend := none }) (ht : t = commitRelease s n x p) :
    let v := epochOpened (setSlot s n y) s.crop.startBarrier
    t.slots = (setSlot s n y).slots ∧ t.crop = { v.crop with replaySeen := [] } ∧ t.epochStart = s.tick
    ∧ t.err.replaying = false ∧ t.globalTick = v.globalTick ∧ t.counting = v.counting
    ∧ ∀ k, k < 53 → getTiller t k = if s.crop.startBarrier then tillerFrom s (p.progs.getD k []) ((patchDescs y p r.epoch.toNat).getD k []) 0 r.tillers[k]?
        else tillerRelease s (getTiller s k) := by
  intro v
  have opened : SameRun v (barrierOver (setSlot s n y) s.crop.startBarrier) := (barrierOver_opened ..).sameRun
  rw [commitRelease_eq n p newest hy] at ht
  generalize barrierOver (setSlot s n y) s.crop.startBarrier = b at opened ht
  obtain ⟨⟨_, set⟩, each⟩ := openTillers_each s.crop.startBarrier b y p r
  generalize openTillers s.crop.startBarrier b y p r = u at set each ht
  have eased : SameRun (handlingOver u) t := ht ▸ ((beginPlanLeases_eased (handlingOver u)).trans (marginRelease_eased _ _)).sameRun
  have begun : SameRun { v with tillers := u.tillers } u := by
    rw [set]
    exact ⟨opened.slots, opened.crop, opened.tick, opened.epochStart, opened.globalTick, opened.counting, opened.err, rfl, opened.units, opened.reds⟩
  obtain ⟨slots, tick, epochStart, stand, -, -⟩ := epochOpened_keeps s n y s.crop.startBarrier
  refine ⟨eased.slots.trans (begun.slots.trans slots), eased.crop.trans ?_, eased.epochStart.trans (begun.epochStart.trans epochStart), ?_,
    eased.globalTick.trans begun.globalTick, eased.counting.trans begun.counting, fun k hk => ?_⟩
  · unfold handlingOver
    rw [begun.crop]
  · rw [eased.err]; rfl
  · have timed := opened.tick.trans tick
    rw [getTiller_congr eased.tillers]
    exact (each k hk).trans (by rw [tillerFrom_congr timed, tillerRelease_congr timed, getTiller_congr (opened.tillers.trans stand)])

/-- What the release of a replay leaves. -/
theorem commitReplay_leaves {s t : State} (n : Nat) {x y : Slot} (p : Plan) {r : SeedRec} (newest : x.newest = some r)
    (hy : y = { x with epoch := r.epoch, steps := r.steps, pend := none }) (ht : t = commitReplay s n x p) :
    t.slots = (setSlot s n y).slots ∧ t.crop.phase = .none ∧ t.epochStart = s.tick ∧ t.units = [] ∧ t.reds = []
    ∧ ∀ k, k < 53 → getTiller t k
        = tillerFrom s (p.progs.getD k []) ((patchDescs y p r.epoch.toNat).getD k []) (getTiller s k).slip r.tillers[k]? := by
  obtain ⟨_, _, _, _, discarded⟩ := discardWork_frame s
  have work : (discardWork s).slots = s.slots ∧ (discardWork s).tick = s.tick ∧ (discardWork s).tillers = s.tillers
      ∧ (discardWork s).units = [] ∧ (discardWork s).reds = [] := by
    rw [discarded]
    exact ⟨rfl, rfl, rfl, rfl, rfl⟩
  rw [commitReplay_eq n p newest hy] at ht
  generalize discardWork s = d at work ht
  obtain ⟨slots', tick', stand', units', reds'⟩ := work
  have opened : SameRun (epochOpened (setSlot d n y) s.crop.startBarrier) (barrierOver (setSlot d n y) s.crop.startBarrier) :=
    (barrierOver_opened ..).sameRun
  obtain ⟨slots, tick, epochStart, stand, units, reds⟩ := epochOpened_keeps d n y s.crop.startBarrier
  generalize barrierOver (setSlot d n y) s.crop.startBarrier = b at opened ht
  obtain ⟨⟨_, set⟩, each⟩ := restoreTillers_each b y p r.epoch.toNat r.tillers true
  generalize restoreTillers b y p r.epoch.toNat r.tillers true = u at set each ht
  have eased : SameRun u t := ht ▸ (((restoreSheaves_eased u r.counts true).trans (beginPlanLeases_eased _)).trans (marginRelease_eased _ _)).sameRun
  have begun : u.slots = b.slots ∧ u.crop = b.crop ∧ u.epochStart = b.epochStart ∧ u.units = b.units ∧ u.reds = b.reds := by
    rw [set]
    exact ⟨rfl, rfl, rfl, rfl, rfl⟩
  rw [eased.slots, eased.crop, eased.epochStart, eased.units, eased.reds]
  obtain ⟨slots'', crop'', epochStart'', units'', reds''⟩ := begun
  rw [slots'', crop'', epochStart'', units'', reds'', opened.slots, opened.crop, opened.epochStart, opened.units, opened.reds, slots, epochStart, units,
    reds, tick', units', reds']
  refine ⟨?_, rfl, rfl, rfl, rfl, fun k hk => ?_⟩
  · unfold setSlot
    rw [slots']
  · have timed := opened.tick.trans (tick.trans tick')
    rw [getTiller_congr eased.tillers]
    exact (each k hk).trans (by rw [tillerFrom_congr timed, getTiller_congr (opened.tillers.trans (stand.trans stand')), if_pos rfl])

theorem barrierRelease_at {s : State} {n : Nat} {x : Slot} {p : Plan} (run : runOf s = some (n, x, p)) (up : alive s = true) (goes : s.crop.ending = none)
    (tick : cropTick s = s.crop.release.toNat) : exec .barrierRelease s = .next (
      match s.crop.phase with
      | .decided => commitRelease s n x p
      | .replayDecided => commitReplay s n x p
      | _ => s) := by
  change execBarrierRelease s = _
  unfold execBarrierRelease
  dsimp only
  rw [up, goes, if_neg (by simp [tick]), run]
  cases s.crop.phase <;> rfl

end Sys2Proof.Machine

namespace Sys2Proof
open Machine

/-- Settles O42: what each barrier command answers, and what a release leaves of the run. -/
theorem barriersComplete : Obligations.BarriersComplete := by
  intro s n x p run idle others stopped
  obtain ⟨running, slot⟩ := runOf_some run
  refine ⟨fun k kind notRoot here => ?send, fun k kind root => ?root, fun link surplus => ?surplus, fun link m child current => ⟨fun none_ notRoot => ?kept,
    fun none_ root => ?decides, fun pos refused => ?refused⟩, fun m notRoot member => ?stop, fun m root => ?taken,
    fun r up goes phase newest tick => ?release, fun r up goes phase newest tick => ?replay, fun start phase => ⟨fun root => ?abandon, fun notRoot member => ?report⟩⟩
  case send =>
    obtain ⟨margin, own, kinds, barrier, sends⟩ := sendArrive_arrives run kind (.inr here)
    refine ⟨_, sends.trans (congrArg _ (if_neg (ne_true_of_eq_false notRoot))), own, ?_, kinds, fun epoch => ⟨barrier epoch, ?_⟩, ?_⟩
    · rw [(sendCtrl_posted _ _ _).crop]; rfl
    · rw [(sendCtrl_posted _ _ _).crop]; exact if_pos epoch
    · rw [upLink_congr (s := s) (t := arrivedWith s margin k own) rfl rfl rfl rfl, sendCtrl_ctrl]; rfl
  case root =>
    obtain ⟨margin, own, kinds, -, sends⟩ := sendArrive_arrives run kind (.inl root)
    exact ⟨_, sends.trans (congrArg _ (if_pos root)), own, rfl, kinds⟩
  case surplus =>
    exact ⟨_, sendArrive_discards surplus, dropSurplus_leaves link (by rw [running]; rfl)⟩
  case kept => exact ⟨_, (arrive_kept child current none_).trans (congrArg _ (rootTry_member notRoot)), rfl⟩
  case decides => exact ⟨_, arrive_kept child current none_, rfl⟩
  case refused => exact arrive_refused child current refused
  case stop => exact ⟨_, stop_member m notRoot member, sendCtrl_ctrl .., ((takeMsg_posted s _).trans (sendCtrl_posted _ _ _)).crop⟩
  case taken => exact ⟨_, stop_root m root, rfl⟩
  case release =>
    intro y
    obtain ⟨slots, crop, epochStart, replaying, globalTick, counting, tillers⟩ := commitRelease_leaves (s := s) n p newest (y := y) rfl rfl
    have releases : exec .barrierRelease s = .next (commitRelease s n x p) := (barrierRelease_at run up goes tick).trans (by rw [phase])
    refine ⟨_, releases, ?_⟩
    beta_reduce
    rw [crop]
    refine ⟨?_, fun k other => ?_, rfl, rfl, rfl, rfl, rfl, epochStart, replaying, fun start => ⟨?_, ?_, fun k hk => ?_⟩, fun later k hk => ⟨?_, fun waits => ?_⟩⟩
    · exact (getSlot_congr slots n).trans (getSlot_setSlot_same s n y)
    · exact (getSlot_congr slots k).trans (getSlot_setSlot_ne s y other)
    · exact globalTick.trans (if_pos start)
    · exact counting.trans (if_pos start)
    · exact (tillers k hk).trans (if_pos start)
    · exact (tillers k hk).trans (if_neg (ne_true_of_eq_false later))
    · rw [tillers k hk, if_neg (ne_true_of_eq_false later)]
      exact tillerRelease_barrier s waits
  case replay =>
    intro y
    obtain ⟨slots, phase', epochStart, units, reds, tillers⟩ := commitReplay_leaves (s := s) n p newest (y := y) rfl rfl
    refine ⟨_, (barrierRelease_at run up goes tick).trans (by rw [phase]), ?_, fun k other => ?_, phase', epochStart, units, reds, tillers⟩
    · exact (getSlot_congr slots n).trans (getSlot_setSlot_same s n y)
    · exact (getSlot_congr slots k).trans (getSlot_setSlot_ne s y other)
  case abandon => exact (startTimeout_starting running start phase).trans (congrArg _ (if_pos root))
  case report =>
    refine ⟨_, (startTimeout_starting running start phase).trans (congrArg _ (if_neg (ne_true_of_eq_false notRoot))), ?_, ?_⟩
    · rw [reportToRoot_member _ notRoot member, sendCtrl_ctrl, slot]
    · rw [reportToRoot_member _ notRoot member, (sendCtrl_posted _ _ _).crop]

end Sys2Proof
end

section
/-!
PROOFS. How a run begins and is stopped: PLAN_RUN, PLAN_RESUME and PLAN_STOP.
-/
namespace Sys2Proof.Machine

theorem stayInProgress_frame (s : State) (h : CmdHdr) (c : Instr) : ∃ grg, stayInProgress s h c = { s with grg } := by
  unfold stayInProgress
  dsimp only
  split <;> exact ⟨_, rfl⟩

theorem stayInProgress_run (s : State) (h : CmdHdr) (c : Instr) :
    (stayInProgress s h c).slots = s.slots ∧ (stayInProgress s h c).crop = s.crop ∧ (stayInProgress s h c).tillers = s.tillers := by
  obtain ⟨_, stays⟩ := stayInProgress_frame s h c
  rw [stays]
  exact ⟨rfl, rfl, rfl⟩

/-- The Tillers, units and reductions of a run that is cleared are gone; besides them the Sheaves and the tick count change. -/
theorem clearRun_frame (s : State) : ∃ sheaves out margin, clearRun s
    = { s with tillers := [], units := [], reds := [], counting := false, out, sheaves, margin } := by
  obtain ⟨_, _, _, closed⟩ : Eased { s with tillers := [], units := [], reds := [], counting := false } (clearRun s) :=
    .foldl (fun s n => setSheaf_eased s n _) _ _
  exact ⟨_, _, _, closed⟩

/-! ## The start barrier (R224, R227) -/

/-- The slot, in its plan's hands, stands RUNNING in the start barrier. -/
structure Starting (t : State) (h : CmdHdr) (n : Nat) (x : Slot) : Prop where
  slot : ∃ run, getSlot t n = { x with state := .running, run := some run, pend := none, isolated := false, twoEpochs := false }
  phase : t.crop.phase = .start
  barrier : t.crop.startBarrier = true
  tillers : t.tillers = []
  listed : ∃ q ∈ (getWindrow t h.windrow).inprog, q.seq = h.seq

/-- The part of a run's beginning that follows on the flush and the clearing of the run before. -/
def startBarrierOf (s : State) (h : CmdHdr) (c : Instr) (n : Nat) (x : Slot) : State :=
  let s := setSlot s n { x with state := .running, run := some (runReqOf s h), pend := none, isolated := false, twoEpochs := false }
  let s := { s with crop := { s.crop with
    phase := .start, startBarrier := true, replayBarrier := false, selfArrive := none, stopAgreed := false, stops := [], ending := none, acc := []
    completions := [], stage := 0, replaySeen := [], reports := [], settled := true, realigned := false, waitTime := none } }
  stayInProgress { s with err := { s.err with replaying := false, restarts := 0, reported := [] } } h c

theorem enterStart_eq (s : State) (h : CmdHdr) (c : Instr) (n : Nat) (p : Plan) (x : Slot) : enterStart s h c n p x = startBarrierOf
    (restoreSheaves (clearRun (flushArenas s (localArenas x p (fun a => a.kind == 0)) true)) ((x.newest.map (fun r => r.counts)).getD []) false)
    h c n x := rfl

theorem startBarrierOf_starting (s : State) (h : CmdHdr) (c : Instr) (n : Nat) (x : Slot) (stand : s.tillers = []) :
    Starting (startBarrierOf s h c n x) h n x := by
  have slot := getSlot_setSlot_same s n
    { x with state := .running, run := some (runReqOf s h), pend := none, isolated := false, twoEpochs := false }
  unfold startBarrierOf
  extract_lets placed crop begun
  obtain ⟨slots, crop', tillers⟩ := stayInProgress_run { begun with err := { begun.err with replaying := false, restarts := 0, reported := [] } } h c
  exact ⟨⟨_, (getSlot_congr slots n).trans slot⟩, congrArg Crop.phase crop', congrArg Crop.startBarrier crop', tillers.trans stand,
    stayInProgress_listed _ _ _⟩

theorem enterStart_starting (s : State) (h : CmdHdr) (c : Instr) (n : Nat) (p : Plan) (x : Slot) : Starting (enterStart s h c n p x) h n x := by
  rw [enterStart_eq]
  obtain ⟨_, _, _, gone⟩ := clearRun_frame (flushArenas s (localArenas x p (fun a => a.kind == 0)) true)
  exact startBarrierOf_starting _ h c n x ((restoreSheaves_eased _ _ false).sameRun.tillers.trans (by rw [gone]))

/-- A slot that PLAN_RUN or PLAN_RESUME accepts, with no run on the chip, enters the start barrier (R217 to R219). -/
theorem startRun_enters {s : State} (h : CmdHdr) (c : Instr) {n : Nat} {p : Plan} {accepts : Slot → Bool} (prepare : Plan → Slot → Slot) (hn : n ≤ 15)
    (own : slotForeign s h n = false) (idle : runningSlot s = none) (plan : (getSlot s n).plan = some p) (ways : p.loftWays ≤ s.cache.loftWays)
    (leased : leasedAway s (getSlot s n) p = false) (accepted : accepts (getSlot s n) = true) :
    startRun s h c n accepts prepare = enterStart s h c n p (prepare p (getSlot s n)) := by
  unfold startRun
  simp [own, idle, plan, leased, accepted, show ¬ 15 < n by omega, show ¬ s.cache.loftWays < p.loftWays by omega]

/-- The slot from which PLAN_RUN starts (R224). -/
def freshRun (p : Plan) (x : Slot) : Slot :=
  { x with epoch := 0, replays := 0, replans := 0, steps := List.replicate p.nstep {}, seedValid := false, newest := none, older := none, counters := {} }

/-- The slot from which PLAN_RESUME starts (R227). -/
def resumedRun (p : Plan) (x : Slot) : Slot :=
  match x.newest with
  | some r => { x with epoch := r.epoch, steps := r.steps }
  | none => { x with steps := if x.steps.isEmpty then List.replicate p.nstep {} else x.steps }

theorem planRun_admitted {s : State} {h : CmdHdr} {slot : Byte} (ha : Admitted s h false false) (new : running s h slot.toNat = false) :
    exec (.planRun h slot) s
      = .next (startRun s h (.planRun h slot) slot.toNat (fun x => x.state == .bound || x.state == .done) freshRun) := by
  change execPlanRun h slot s = _
  unfold execPlanRun
  exact (command_admitted _ ha).trans (congrArg _ (if_neg (ne_true_of_eq_false new)))

theorem planResume_admitted {s : State} {h : CmdHdr} {slot : Byte} (ha : Admitted s h false false) (new : running s h slot.toNat = false) :
    exec (.planResume h slot) s
      = .next (startRun s h (.planResume h slot) slot.toNat (fun x => x.state == .stopped || (x.state == .bound && x.seedValid)) resumedRun) := by
  change execPlanResume h slot s = _
  unfold execPlanResume
  exact (command_admitted _ ha).trans (congrArg _ (if_neg (ne_true_of_eq_false new)))

/-- A resumed run keeps the counts, and goes on from the Seedcorn's epoch (R227). -/
theorem resumedRun_kept (p : Plan) (x : Slot) : (resumedRun p x).replays = x.replays ∧ (resumedRun p x).replans = x.replans
    ∧ ∀ r, x.newest = some r → (resumedRun p x).epoch = r.epoch ∧ (resumedRun p x).steps = r.steps := by
  unfold resumedRun
  split
  · next r newest =>
    refine ⟨rfl, rfl, fun q hq => ?_⟩
    rw [newest] at hq
    cases hq
    exact ⟨rfl, rfl⟩
  · next none_ => exact ⟨rfl, rfl, fun q hq => by rw [none_] at hq; cases hq⟩

/-! ## Stopping (R226, R250) -/

/-- PLAN_STOP of a slot that the command may name goes by the slot's state. -/
theorem planStop_admitted {s : State} {h : CmdHdr} {slot mode : Byte} (ha : Admitted s h false false) (hs : slot.toNat ≤ 15) (hm : mode.toNat ≤ 1)
    (own : slotForeign s h slot.toNat = false) : exec (.planStop h slot mode) s = .next (
      if (getSlot s slot.toNat).state = .stopping ∨ (getSlot s slot.toNat).state = .stopped then done s h
      else guardCodes s h [(!((getSlot s slot.toNat).state == .running), pcState)] (fun s =>
        if isCropRoot s then rootTry (rootStop (done s h) (.planStop (mode == 1)))
        else
          let t := stayInProgress s h (.planStop h slot mode)
          if t.crop.stops.contains (h, mode == 1) then t
          else reportToRoot { t with crop := { t.crop with stops := t.crop.stops ++ [(h, mode == 1)] } } (.planStop (mode == 1)))) := by
  change execPlanStop h slot mode s = _
  unfold execPlanStop
  refine (command_admitted _ ha).trans (congrArg _ ?_)
  simp only [show decide (15 < slot.toNat) = false by simpa using hs, show decide (1 < mode.toNat) = false by simpa using hm, Bool.or_self,
    guardCodes_ok, guardCodes_nil, own, Bool.false_eq_true, if_false]

/-- The command's stop waits for the root's agreement. -/
def stopAsked (s : State) (h : CmdHdr) (c : Instr) (now : Bool) : State :=
  let t := stayInProgress s h c
  { t with crop := { t.crop with stops := t.crop.stops ++ [(h, now)] } }

theorem stopAsked_frame (s : State) (h : CmdHdr) (c : Instr) (now : Bool) : (stopAsked s h c now).wain = s.wain
    ∧ (stopAsked s h c now).crop = { s.crop with stops := s.crop.stops ++ [(h, now)] }
    ∧ ∃ q ∈ (getWindrow (stopAsked s h c now) h.windrow).inprog, q.seq = h.seq := by
  refine ⟨?_, ?_, stayInProgress_listed s h c⟩
  all_goals
    unfold stopAsked
    obtain ⟨_, stays⟩ := stayInProgress_frame s h c
    rw [stays]

/-- A stop that is asked for goes towards the root (R250). -/
theorem planStop_asks {s : State} {h : CmdHdr} {slot mode : Byte} (ha : Admitted s h false false) (hs : slot.toNat ≤ 15) (hm : mode.toNat ≤ 1)
    (own : slotForeign s h slot.toNat = false) (runs : (getSlot s slot.toNat).state = .running) (notRoot : isCropRoot s = false)
    (new : (h, mode == 1) ∉ s.crop.stops) : exec (.planStop h slot mode) s
      = .next (reportToRoot (stopAsked s h (.planStop h slot mode) (mode == 1)) (.planStop (mode == 1))) := by
  obtain ⟨_, stays⟩ := stayInProgress_frame s h (.planStop h slot mode)
  rw [planStop_admitted ha hs hm own, runs, if_neg (by simp)]
  simp only [beq_self_eq_true, Bool.not_true, guardCodes_ok, guardCodes_nil, notRoot, Bool.false_eq_true, if_false]
  rw [if_neg (by rw [stays]; simpa using new)]
  rfl

theorem reportToRoot_posted {s : State} (m : StopMsg) (notRoot : isCropRoot s = false) : Posted s (reportToRoot s m) := by
  cases member : s.crop.member with
  | true =>
    rw [reportToRoot_member m notRoot member]
    exact sendCtrl_posted _ _ _
  | false =>
    unfold reportToRoot
    rw [if_neg (ne_true_of_eq_false member)]
    exact .refl s

end Sys2Proof.Machine

namespace Sys2Proof
open Machine

/-- Settles O7: the commands that begin a run lead a slot they accept into the start barrier, and PLAN_STOP goes by the slot's state. -/
theorem runsBeginAndStop : Obligations.RunsBeginAndStop := by
  constructor
  · intro s h slot p ha hs x own idle plan ways leased new waiting
    refine ⟨fun state => ?run, fun state => ?resume⟩
    case run =>
      obtain ⟨⟨_, begun⟩, phase, barrier, tillers, listed⟩ := enterStart_starting s h (.planRun h slot) slot.toNat p (freshRun p x)
      refine ⟨_, (planRun_admitted ha new).trans (congrArg _ (startRun_enters h _ freshRun hs own idle plan ways leased ?_)), ?_⟩
      · rcases state with bound | done <;> simp [*, x]
      · refine ⟨⟨?_, phase, barrier, tillers, listed⟩, ?_⟩
        · rw [begun]
        · rw [begun]; exact ⟨rfl, rfl, rfl, rfl⟩
    case resume =>
      obtain ⟨⟨_, begun⟩, phase, barrier, tillers, listed⟩ := enterStart_starting s h (.planResume h slot) slot.toNat p (resumedRun p x)
      refine ⟨_, (planResume_admitted ha new).trans (congrArg _ (startRun_enters h _ resumedRun hs own idle plan ways leased ?_)), ?_⟩
      · rcases state with stopped | ⟨bound, seed⟩ <;> simp [*, x]
      · refine ⟨⟨?_, phase, barrier, tillers, listed⟩, ?_⟩
        · rw [begun]
        · rw [begun]; exact resumedRun_kept p x
  · intro s h slot mode ha hs hm own x
    refine ⟨fun state => ?ended, fun runs root => ?root, fun runs notRoot first => ?asked⟩
    case ended => exact ⟨_, (planStop_admitted ha hs hm own).trans (congrArg _ (if_pos state)), complete_answered _ _ _ _ _⟩
    case root =>
      rw [planStop_admitted ha hs hm own, show (getSlot s slot.toNat).state = .running from runs]
      simp [root, done]
    case asked =>
      obtain ⟨wain, crop, listed⟩ := stopAsked_frame s h (.planStop h slot mode) (mode == 1)
      have notRoot' : isCropRoot (stopAsked s h (.planStop h slot mode) (mode == 1)) = false := by
        unfold isCropRoot at notRoot ⊢
        rw [crop]
        exact notRoot
      have told := reportToRoot_posted (.planStop (mode == 1)) notRoot'
      refine ⟨_, planStop_asks ha hs hm own runs notRoot first, ?_, ?_, fun member => ?_⟩
      · rw [told.crop, crop]
      · rw [told.getWindrow]; exact listed
      · rw [reportToRoot_member _ notRoot' (by rw [crop]; exact member), upLink_congr wain (by rw [crop]) (by rw [crop]) (by rw [crop]), sendCtrl_ctrl]
        unfold getLink
        rw [wain]

end Sys2Proof
end

section
/-!
PROOFS. What flushing cached lines leaves of a member's way to the root: its Crop record stands, and of its links only the queues of messages grow,
by the reports of lost tags (R284, R335).
-/
namespace Sys2Proof.Machine

/-- What a member knows of its Crop, with its links. -/
def way (s : State) : Wain × Crop := (s.wain, s.crop)

theorem foldl_way {α : Type} {g : State → α → State} (h : ∀ s x, way (g s x) = way s) (l : List α) (s : State) : way (l.foldl g s) = way s :=
  foldl_same way h l s

theorem emit_way (s : State) (o : Out) : way (emit s o) = way s := rfl

/-! ## Arrays and what stands behind them -/

theorem cacheModify_way (s : State) (c : Nat) (l : LineAddr) (f : Way → Way) : way (cacheModify s c l f) = way s := by
  unfold cacheModify
  dsimp only
  split <;> rfl

theorem memReadLine_way (s : State) (n : Nat) : way (memReadLine s n).2 = way s :=
  foldl_way (fun s i => by
    unfold memWordRead
    dsimp only
    split <;> rfl) _ s

theorem openHostReq_way (s : State) (k : HostReqKind) (ctx : BitVec 20) (who : Requester) : way (openHostReq s k ctx who) = way s := by
  unfold openHostReq
  dsimp only
  split <;> rfl

theorem arrayRead_way (s : State) (inst addr : Nat) (x : Line) : way (arrayRead s inst addr x).2 = way s :=
  foldl_way (fun s i => by
    dsimp only
    split <;> rfl) _ s

theorem backRead_way (s : State) (l : LineAddr) (forWrite : Bool) : way (backRead s l forWrite).2 = way s := by
  unfold backRead
  split
  · exact memReadLine_way s _
  · split
    · rfl
    · exact arrayRead_way s _ _ _

theorem ownHostLine_way (s : State) (l : LineAddr) : way (ownHostLine s l) = way s := by
  unfold ownHostLine
  split
  · split
    · exact cacheModify_way s _ _ _
    · rfl
  · rfl

theorem hostPutLine_way (s : State) (n : Nat) (x : Line) : way (hostPutLine s n x) = way s := by
  unfold hostPutLine hostPutWhole hostPutMasked emit way
  dsimp only

theorem memPutLine_way (s : State) (n : Nat) (x : Line) : way (memPutLine s n x) = way s := by
  unfold memPutLine cancelCorr way
  dsimp only

theorem backPut_way (s : State) (l : LineAddr) (x : Line) : way (backPut s l x) = way s := by
  unfold backPut
  split
  · exact memPutLine_way s _ _
  · split
    · exact hostPutLine_way s _ _
    · rfl

theorem backWrite_way (s : State) (l : LineAddr) (data : List Byte) (mask : Nat) (ctx : BitVec 20) : way (backWrite s l data mask ctx) = way s := by
  unfold backWrite
  split
  · exact memPutLine_way s _ _
  · split
    · exact (emit_way _ _).trans (openHostReq_way s _ _ _)
    · rfl

theorem granaryInsert_way (s : State) (l : LineAddr) (x : Line) (dirty own : Bool) (age : Nat) : way (granaryInsert s l x dirty own age) = way s := by
  have evicted (s : State) (w : Way) : way (granaryEvict s w) = way s := by
    unfold granaryEvict
    dsimp only
    split
    · rfl
    · split
      · exact backPut_way s _ _
      · split <;> rfl
  unfold granaryInsert
  split
  · exact evicted _ _
  · split
    · exact backPut_way s l x
    · rfl

theorem homeTakeDirty_way (s : State) (l : LineAddr) (x : Line) : way (homeTakeDirty s l x) = way s := by
  unfold homeTakeDirty
  split
  · exact backPut_way s l x
  · split
    · exact cacheModify_way s _ _ _
    · exact granaryInsert_way s _ _ _ _ _

theorem homeFetch_way (s : State) (l : LineAddr) (how : FillHow) (forWrite : Bool) : way (homeFetch s l how forWrite).2 = way s := by
  unfold homeFetch
  split
  · exact backRead_way s l forWrite
  · split
    · refine (cacheModify_way _ _ _ _).trans ((arrayRead_way _ _ _ _).trans ?_)
      split
      · exact ownHostLine_way s l
      · rfl
    · exact (granaryInsert_way _ _ _ _ _ _).trans (backRead_way s l forWrite)

theorem homeStore_way (s : State) (l : LineAddr) (data : List Byte) (mask : Nat) (streaming : Bool) (ctx : BitVec 20) :
    way (homeStore s l data mask streaming ctx) = way s := by
  unfold homeStore
  split
  · rfl
  · split
    · refine (backWrite_way _ _ _ _ _).trans ?_
      split
      · rfl
      · exact arrayRead_way s _ _ _
    · split
      · refine (cacheModify_way _ _ _ _).trans ?_
        split
        · exact ownHostLine_way s l
        · exact (arrayRead_way _ _ _ _).trans (ownHostLine_way s l)
      · split
        · exact backWrite_way s _ _ _ _
        · split
          · refine (granaryInsert_way _ _ _ _ _ _).trans ?_
            split <;> rfl
          · exact (granaryInsert_way _ _ _ _ _ _).trans (backRead_way s l true)

/-! ## Directory and copies -/

theorem dirPut_way (s : State) (l : LineAddr) (e : DirEntry) : way (dirPut s l e) = way s := by
  unfold dirPut
  extract_lets e es
  split
  · rfl
  · split
    · rfl
    · split
      · split <;> rfl
      · rfl

theorem agentSet_way (s : State) (a : Nat) (l : LineAddr) (c : Coh) : way (agentSet s a l c) = way s := by
  have set : way (if c = .invalid then cacheDrop s a l else cacheModify s a l (fun w => { w with coh := c })) = way s := by
    split <;> exact cacheModify_way s _ _ _
  exact set

theorem copyRead_way (s : State) (a : Nat) (l : LineAddr) : way (copyRead s a l).2 = way s := by
  unfold copyRead
  split
  · exact (cacheModify_way _ _ _ _).trans (arrayRead_way s _ _ _)
  · rfl

theorem noteRecent_way (s : State) (r : HomeReq) : way (noteRecent s r) = way s := by
  unfold noteRecent
  split <;> rfl

theorem frontStreaming_way (s : State) (r : HomeReq) : way (frontStreaming s r).2 = way s := by
  unfold frontStreaming
  split <;> rfl

/-! ## A transaction's end at its home (R350, R351) -/

theorem homeFinish_way (s : State) (r : HomeReq) (content : Option Line) (dirty held : Bool) : way (homeFinish s r content dirty held).2 = way s := by
  unfold homeFinish
  extract_lets l u e read readAt shared entry fetched owned keepM upgraded cur streaming old new wrote
  have taken : way u = way s := by
    unfold u
    split
    · split
      · exact homeTakeDirty_way s _ _
      · rfl
    · rfl
  rw [← taken]
  clear_value u
  split
  case h_1 =>
    have got : way readAt = way u := by
      unfold readAt read
      split
      · rfl
      · exact homeFetch_way u _ _ _
    rw [← got]
    split
    · rfl
    · split
      · exact dirPut_way readAt _ _
      · split
        · split <;> rfl
        · exact dirPut_way readAt _ _
  case h_2 =>
    have got : way owned.2 = way u := by
      unfold owned
      split
      · rfl
      · split
        · rfl
        · split
          · dsimp only
            split <;> rfl
          · exact homeFetch_way u _ _ _
    rw [← got]
    split
    · rfl
    · exact (noteRecent_way _ _).trans (dirPut_way _ _ _)
  case h_3 =>
    refine (dirPut_way upgraded _ _).trans ?_
    unfold upgraded
    split
    · rfl
    · exact (agentSet_way _ _ _ _).trans (ownHostLine_way u l)
  case h_4 =>
    split
    · rfl
    · exact homeFetch_way u _ _ _
  case h_5 => exact (dirPut_way _ _ _).trans ((homeStore_way _ _ _ _ _ _).trans (frontStreaming_way u r))
  case h_6 =>
    refine (noteRecent_way _ _).trans ((dirPut_way wrote _ _).trans ?_)
    unfold wrote
    split
    · exact (homeTakeDirty_way _ _ _).trans (homeFetch_way u _ _ _)
    · exact homeFetch_way u _ _ _

theorem sendAnswer_way (s : State) (r : HomeReq) (a : Answer) : way (sendAnswer s r a) = way s := by
  unfold sendAnswer
  split
  · dsimp only
    split <;> rfl
  · split
    · rfl
    · split
      · split <;> rfl
      · rfl

theorem joinSlice_way (s : State) (r : HomeReq) (kept : Bool) : way (joinSlice s r kept) = way s := by
  have asked (own : Bool) : way (askHost s r.line own r.info.ctx) = way s := by
    unfold askHost
    split
    · exact openHostReq_way _ _ _ _
    · rfl
  unfold joinSlice
  extract_lets mine open_ u fills
  have way_u : way u = way s := by
    unfold u
    split
    · exact asked _
    · rfl
  exact way_u

theorem nackNote_way (s : State) (r : HomeReq) : way (nackNote s r) = way s := by
  unfold nackNote
  extract_lets same old other n u v nacks
  have counted : way v = way s := by
    unfold v
    split <;> rfl
  exact counted

theorem fillRead_way (s : State) (f : Fill) : way (fillRead s f).2 = way s := by
  unfold fillRead
  split
  · dsimp only
    split <;> rfl
  · exact backRead_way s _ _

theorem finishTxn_way (s : State) (t : Txn) : way (finishTxn s t) = way s := by
  unfold finishTxn
  extract_lets cache u entry v
  have busy : way v = way s := dirPut_way u _ _
  split
  · exact (joinSlice_way _ _ _).trans busy
  · exact (sendAnswer_way _ _ _).trans ((homeFinish_way _ _ _ _ _).trans busy)

theorem writeBack_way (s : State) (l : LineAddr) : way (writeBack s l) = way s := by
  unfold writeBack
  split
  · exact (cacheModify_way _ _ _ _).trans ((backPut_way _ _ _).trans ((agentSet_way _ _ _ _).trans (copyRead_way s _ l)))
  · split
    · split
      · exact (cacheModify_way _ _ _ _).trans ((backPut_way _ _ _).trans (arrayRead_way s _ _ _))
      · rfl
    · rfl

theorem dropLine_way (s : State) (l : LineAddr) : way (dropLine s l) = way s := by
  unfold dropLine
  extract_lets u
  have gone : way u = way s := foldl_way (fun s a => agentSet_way s a l .invalid) _ s
  refine (dirPut_way _ _ _).trans ?_
  split
  · exact gone
  · exact (cacheModify_way u _ _ _).trans gone

/-! ## Reports of lost tags (R335) -/

theorem Posted.of_wain {s t u v : State} (h : Posted s u) (same : t.wain = u.wain) (k : Posted t v) : ∃ w, Posted s w ∧ w.wain = v.wain := by
  obtain ⟨links, rfl⟩ := k.frame
  refine ⟨{ u with wain := { u.wain with links := links } }, h.trans ⟨⟨links, rfl⟩, fun n => ?_⟩, by rw [same]⟩
  obtain ⟨inbox, more, link⟩ := k.link n
  unfold getLink at link ⊢
  rw [same] at link
  exact ⟨inbox, more, link⟩

/-- A member that is no root is left, of what leads to the root, with what it had, but for messages that have joined the links' queues. -/
def Tells (s t : State) : Prop := isCropRoot s = false → t.crop = s.crop ∧ ∃ u, Posted s u ∧ u.wain = t.wain

namespace Tells

variable {s t u : State}

theorem of_way (h : way t = way s) : Tells s t := fun _ => by
  obtain ⟨wain, crop⟩ := Prod.mk.inj h
  exact ⟨crop, s, .refl s, wain.symm⟩

theorem refl (s : State) : Tells s s := of_way rfl

theorem trans (h : Tells s t) (k : Tells t u) : Tells s u := fun notRoot => by
  obtain ⟨crop, v, sent, wain⟩ := h notRoot
  obtain ⟨crop', w, sent', wain'⟩ := k (by unfold isCropRoot at notRoot ⊢; rwa [crop])
  obtain ⟨z, all, same⟩ := sent.of_wain wain.symm sent'
  exact ⟨crop'.trans crop, z, all, same.trans wain'⟩

/-- Where the first of two operations leaves the way to the root alone, the other decides. -/
theorem after (h : way t = way s) (k : Tells t u) : Tells s u := (of_way h).trans k

theorem before (h : way u = way t) (k : Tells s t) : Tells s u := k.trans (of_way h)

theorem foldl {α : Type} {g : State → α → State} (h : ∀ s x, Tells s (g s x)) (l : List α) (s : State) : Tells s (l.foldl g s) := by
  induction l generalizing s with
  | nil => exact .refl s
  | cons x l ih => exact (h s x).trans (ih _)

/-- The way up is the one it was, and every message that waited goes on waiting. -/
theorem keeps (h : Tells s t) (notRoot : isCropRoot s = false) :
    t.crop = s.crop ∧ upLink t = upLink s ∧ ∀ k m, m ∈ (getLink s k).ctrl → m ∈ (getLink t k).ctrl := by
  obtain ⟨crop, u, sent, wain⟩ := h notRoot
  refine ⟨crop, ?_, fun k m hm => ?_⟩
  · rw [← sent.upLink, upLink_congr wain.symm] <;> rw [crop, sent.crop]
  · unfold getLink
    rw [← wain]
    exact sent.queued hm

end Tells

theorem raiseReplanned_tells (s : State) (source inst addr ctx detail : Nat) (suspect : Option Nat) :
    Tells s (raiseReplanned s source inst addr ctx detail suspect) := by
  unfold raiseReplanned
  extract_lets e
  split
  · intro notRoot
    have told := reportToRoot_posted (s := reportError s e) (.replanned (ownPosition s) suspect source) notRoot
    obtain ⟨w, sent, wain⟩ := (Posted.refl s).of_wain (t := reportError s e) rfl told
    exact ⟨told.crop, w, sent, wain⟩
  · exact .of_way rfl

theorem tagReport_tells (s : State) (inst addr : Nat) (f : TagFind) : Tells s (tagReport s inst addr f) := by
  unfold tagReport
  split
  · exact .refl s
  · exact raiseReplanned_tells s _ _ _ _ _ _
  · exact .of_way rfl

theorem checkSet_tells (s : State) (c : Nat) (l : LineAddr) : Tells s (checkSet s c l) := by
  unfold checkSet
  dsimp only
  split
  · exact .refl s
  · exact .after (t := storeWays s c l _) rfl (.foldl (fun s f => tagReport_tells s _ _ f) _ _)

theorem checkHome_tells (s : State) (l : LineAddr) : Tells s (checkHome s l) := by
  have dir (s : State) : Tells s (checkDir s l) := by
    unfold checkDir
    dsimp only
    split
    · split
      · exact .refl s
      · refine .after ?_ (tagReport_tells _ _ _ _)
        rfl
    · split
      · exact .refl s
      · exact .after (t := storeDirSet s l _) rfl (.foldl (fun s f => tagReport_tells s _ _ f) _ _)
  refine .trans ?_ (dir _)
  split
  · exact .refl s
  · exact checkSet_tells s 12 l

theorem snoopAct_tells (s : State) (k : SnoopKind) (a : Nat) (l : LineAddr) : Tells s (snoopAct s k a l).1 := by
  unfold snoopAct
  extract_lets u
  refine .trans (checkSet_tells s a l) (?_ : Tells u _)
  clear_value u
  split
  · exact .refl u
  · dsimp only
    split
    · exact .of_way (agentSet_way u a l _)
    · split
      · exact .of_way ((agentSet_way _ _ _ _).trans (copyRead_way u a l))
      · exact .of_way (copyRead_way u a l)
      · exact .of_way ((agentSet_way _ _ _ _).trans (copyRead_way u a l))

theorem recallEntry_tells (s : State) (e : DirEntry) : Tells s (recallEntry s e) := by
  unfold recallEntry
  extract_lets l u
  refine .before (t := u) (dirPut_way u l {}) (.foldl (fun s a => ?_) _ s)
  dsimp only
  split
  · exact .before (homeTakeDirty_way _ _ _) (snoopAct_tells s _ _ _)
  · exact snoopAct_tells s _ _ _

theorem dirReserve_tells {s t : State} {l : LineAddr} (h : dirReserve s l = some t) : Tells s t := by
  unfold dirReserve at h
  extract_lets es el oldest aged at h
  split at h
  · cases h
    exact .refl s
  · split at h
    · cases h
      exact .after (t := setDirSet s l aged) rfl (recallEntry_tells _ _)
    · cases h

theorem snoopAll_tells (s : State) (l : LineAddr) (ks : List (Nat × SnoopKind)) : Tells s (snoopAll s l ks).1 := by
  unfold snoopAll
  generalize (none, false) = found
  induction ks generalizing s found with
  | nil => exact .refl s
  | cons k ks ih =>
    refine (snoopAct_tells s k.2 k.1 l).trans ?_
    rw [List.foldl_cons]
    dsimp only
    split
    · exact ih _ _
    · exact ih _ _

theorem serveWaiter_tells (s : State) (r : HomeReq) : Tells s (serveWaiter s r) := by
  unfold serveWaiter
  split
  · exact .of_way (nackNote_way s r)
  · next t room =>
    have reserved : Tells s t := by
      unfold roomFor at room
      split at room
      · exact dirReserve_tells room
      · cases room
        exact .refl s
    exact reserved.trans (.before ((sendAnswer_way _ _ _).trans (homeFinish_way _ _ _ _ _)) (snoopAll_tells t _ _))

/-! ## Flushing (R374) -/

theorem granaryFillArrive_tells (s : State) (f : Fill) : Tells s (granaryFillArrive s f) := by
  unfold granaryFillArrive
  split
  · exact .refl s
  · extract_lets cache u r v
    have placed : way v = way u := by
      unfold v
      split
      · rfl
      · exact (granaryInsert_way _ _ _ _ _ _).trans (fillRead_way u f)
    exact .after placed (.foldl serveWaiter_tells _ v)

theorem settleLine_tells (s : State) (l : LineAddr) : Tells s (settleLine s l) := by
  unfold settleLine
  extract_lets u
  refine .trans (.foldl (fun s t => ?_) _ s) (.foldl granaryFillArrive_tells _ u)
  extract_lets pend g doneData t'
  exact .before (finishTxn_way _ t') (.before rfl (snoopAll_tells s l _))

theorem flushLine_tells (s : State) (l : LineAddr) (inval : Bool) : Tells s (flushLine s l inval) := by
  unfold flushLine
  extract_lets u
  have back : Tells s u := .before (writeBack_way _ l) ((checkHome_tells s l).trans (settleLine_tells _ l))
  split
  · exact .before (dropLine_way u l) back
  · exact back

theorem flushWhere_tells (s : State) (p : LineAddr → Bool) (inval : Bool) : Tells s (flushWhere s p inval) :=
  .foldl (fun s l => flushLine_tells s l inval) _ s

end Sys2Proof.Machine
end

section
/-!
PROOFS. How a run ends at a member: its leases, its reply, and what is left of it.
-/
namespace Sys2Proof.Machine

/-! ## Leases (R215, R478) -/

/-- Leases taken and ended touch the Sheaves, the engine port and what is sent. -/
def Leased (s t : State) : Prop := ∃ out sheaves ep, t = { s with out, sheaves, ep }

namespace Leased

variable {s t u : State}

theorem refl (s : State) : Leased s s := ⟨_, _, _, rfl⟩

theorem trans (h : Leased s t) (k : Leased t u) : Leased s u := by
  obtain ⟨_, _, _, rfl⟩ := h
  obtain ⟨_, _, _, rfl⟩ := k
  exact ⟨_, _, _, rfl⟩

theorem foldl {α : Type} {g : State → α → State} (h : ∀ s x, Leased s (g s x)) (l : List α) (s : State) : Leased s (l.foldl g s) := by
  induction l generalizing s with
  | nil => exact .refl s
  | cons x l ih => exact (h s x).trans (ih _)

end Leased

theorem epAnswer_leased (s : State) (att : Nat) (tag : BitVec 12) (status : BitVec 4) (lanes : List (Nat × BitVec 128)) (id : W16) (flags : Byte) :
    Leased s (epAnswer s att tag status lanes id flags) := by
  have freed (s : State) (k : Nat) : Leased s (freeBuf s k) := by
    unfold freeBuf
    dsimp only
    split
    · exact ⟨_, _, _, rfl⟩
    · exact .refl s
  unfold epAnswer
  extract_lets x err answered sent
  have out : Leased s sent := ⟨_, _, _, rfl⟩
  split
  · exact out.trans (freed _ _)
  · exact out

theorem setSheaf_leased (s : State) (n : Nat) (x : Sheaf) : Leased s (setSheaf s n x) := ⟨_, _, _, rfl⟩
theorem emit_leased (s : State) (o : Out) : Leased s (emit s o) := ⟨_, _, _, rfl⟩

theorem leaseEnd_leased (s : State) (n : Nat) : Leased s (leaseEnd s n) := by
  unfold leaseEnd
  split
  · exact .refl s
  · next l _ =>
    have answered (outstanding : List OutReq) : Leased s (outstanding.foldl (fun s o => epAnswer s l.att o.tag 0xA [] 0 0) s) :=
      .foldl (fun s o => epAnswer_leased s _ _ _ _ _ _) _ s
    exact (((answered _).trans (setSheaf_leased _ n _)).trans (setSheaf_leased _ n _)).trans (emit_leased _ _)

theorem endPlanLeases_leased (s : State) : Leased s (endPlanLeases s) := .foldl leaseEnd_leased _ s

theorem turnLeases_leased (s : State) (x : Slot) (p : Plan) (from_ : Option Nat) (epoch : Nat) : Leased s (turnLeases s x p from_ epoch) := by
  refine (Leased.foldl leaseEnd_leased _ s).trans (.foldl (fun s w => ?_) _ _)
  split
  · exact .refl s
  · exact ⟨_, _, _, rfl⟩

/-! ## Links that go down with the membership (R229, R284) -/

/-- The second state has the Tillers and their work of the first, and its Windrows' replies. -/
structure Stands (s t : State) : Prop where
  tillers : t.tillers = s.tillers
  units : t.units = s.units
  reds : t.reds = s.reds
  replies : ∀ w, (getWindrow t w).replies = (getWindrow s w).replies

/-- What a table does not list has the fields of the default. -/
theorem look_field {α β : Type} (f : α → β) {d e : α} (h : f d = f e) (t : Tbl α) (k : Nat) : f (look d t k) = f (look e t k) := by
  induction t with
  | nil => exact h
  | cons p t ih =>
    obtain ⟨i, v⟩ := p
    unfold look
    split
    · rfl
    · exact ih

theorem replies_of_grg {s t : State} (grg : t.grg = s.grg) (w : Nat) : (getWindrow t w).replies = (getWindrow s w).replies := by
  unfold getWindrow
  rw [grg]
  exact look_field Windrow.replies (d := windrowDefault t) (e := windrowDefault s) rfl _ w

namespace Stands

variable {s t u : State}

theorem of_same (tillers : t.tillers = s.tillers) (units : t.units = s.units) (reds : t.reds = s.reds) (grg : t.grg = s.grg) : Stands s t :=
  ⟨tillers, units, reds, replies_of_grg grg⟩

theorem refl (s : State) : Stands s s := of_same rfl rfl rfl rfl

theorem trans (h : Stands s t) (k : Stands t u) : Stands s u :=
  ⟨k.tillers.trans h.tillers, k.units.trans h.units, k.reds.trans h.reds, fun w => (k.replies w).trans (h.replies w)⟩

theorem foldl {α : Type} {g : State → α → State} (h : ∀ s x, Stands s (g s x)) (l : List α) (s : State) : Stands s (l.foldl g s) := by
  induction l generalizing s with
  | nil => exact .refl s
  | cons x l ih => exact (h s x).trans (ih _)

end Stands

theorem raiseReplanned_stands (s : State) (source inst addr ctx detail : Nat) (suspect : Option Nat) :
    Stands s (raiseReplanned s source inst addr ctx detail suspect) := by
  unfold raiseReplanned
  extract_lets e
  split
  · generalize StopMsg.replanned (ownPosition s) suspect source = m
    have tillers := (reportToRoot_passes (reportError s e) m).1
    obtain ⟨_, _, _, _, _, told⟩ := reportToRoot_reported (reportError s e) m
    rw [told] at tillers ⊢
    exact .of_same tillers rfl rfl rfl
  · exact .of_same rfl rfl rfl rfl

theorem setWindrow_stands (s : State) (w : Nat) (lost : Bool) : Stands s (setWindrow s w { getWindrow s w with targetLost := lost }) := by
  refine ⟨rfl, rfl, rfl, fun k => ?_⟩
  rw [getWindrow_setWindrow]
  split
  · next same => rw [same]
  · rfl

theorem loseRemote_stands (s : State) (r : RemoteReq) : Stands s (loseRemote s r) := by
  unfold loseRemote
  extract_lets wain u isPlan v
  have logged : Stands s v := by
    unfold v
    split
    · exact .trans (t := u) (.of_same rfl rfl rfl rfl) (raiseReplanned_stands u _ _ _ _ _ _)
    · exact .of_same rfl rfl rfl rfl
  clear_value v
  refine logged.trans ?_
  split
  · exact .trans (t := setTask v _) (.of_same rfl rfl rfl rfl) (setWindrow_stands _ _ true)
  · split <;> exact .of_same rfl rfl rfl rfl
  · exact .of_same rfl rfl rfl rfl
  · exact .refl v
  · exact .refl v

theorem setLink_stands (s : State) (n : Nat) (x : WainLink) : Stands s (setLink s n x) := .of_same rfl rfl rfl rfl
theorem emit_stands (s : State) (o : Out) : Stands s (emit s o) := .of_same rfl rfl rfl rfl

theorem sendControl_stands (s : State) (n : Nat) : Stands s (sendControl s n) :=
  (setLink_stands s n _).trans <| (setLink_stands _ n _).trans <| (setLink_stands _ n _).trans <| (emit_stands _ _).trans (emit_stands _ _)

theorem linkDown_stands (s : State) (n : Nat) : Stands s (linkDown s n) := by
  unfold linkDown
  extract_lets x u
  have sent : Stands s u := by
    unfold u
    split
    · exact .foldl (fun s _ => sendControl_stands s n) _ s
    · exact .refl s
  exact (sent.trans (.foldl loseRemote_stands _ u)).trans (setLink_stands _ n _)

/-- A membership that ends leaves an empty Crop record. -/
theorem checkMembership_stands (s : State) : Stands s (checkMembership s) ∧ ((checkMembership s).crop = s.crop ∨ (checkMembership s).crop = {}) := by
  unfold checkMembership
  split
  · have down : Stands s (linksDown s) := .foldl linkDown_stands _ s
    unfold endMembership
    generalize linksDown s = u at down
    exact ⟨down.trans (.of_same rfl rfl rfl rfl), .inr rfl⟩
  · exact ⟨.refl s, .inl rfl⟩

/-! ## The end of a run (R224, R496) -/

/-- A reply with a command's SEQ and a STATUS stands in its Windrow. -/
def HasReply (s : State) (r : RunReq) (st : Byte) : Prop := ∃ q ∈ (getWindrow s r.windrow).replies, q.seq = r.seq ∧ q.status = st

theorem replyRun_replied (s : State) {x : Slot} {r : RunReq} (st : Byte) (d : W32) (run : x.run = some r) : HasReply (replyRun s x st d) r st := by
  unfold replyRun HasReply
  rw [run]
  dsimp only
  unfold finishReply
  rw [getWindrow_setWindrow_same]
  exact ⟨_, List.mem_append_right _ (List.mem_singleton_self _), rfl, rfl⟩

theorem done_replied {s : State} {r : RunReq} {st : Byte} (h : CmdHdr) (replied : HasReply s r st) : HasReply (done s h) r st := by
  obtain ⟨q, hq, is⟩ := replied
  have answered := complete_answered s h stDone 0 0
  obtain ⟨_, more, -⟩ := answered.reply
  refine ⟨q, ?_, is⟩
  by_cases same : r.windrow = h.windrow
  · rw [same] at hq ⊢
    exact more ▸ List.mem_append_left _ hq
  · exact (answered.others _ same).symm ▸ hq

theorem HasReply.of_replies {s t : State} {r : RunReq} {st : Byte} (h : HasReply s r st)
    (stands : ∀ w, (getWindrow t w).replies = (getWindrow s w).replies) : HasReply t r st := by
  unfold HasReply
  rwa [stands]

theorem HasReply.of_grg {s t : State} {r : RunReq} {st : Byte} (h : HasReply s r st) (grg : t.grg = s.grg) : HasReply t r st :=
  h.of_replies (replies_of_grg grg)

/-- Of the Tillers and their work nothing is left when a run is cleared, and Granger's part stands. -/
theorem clearedRun (s : State) : let t := clearRun (endPlanLeases s); t.tillers = [] ∧ t.units = [] ∧ t.reds = [] ∧ t.grg = s.grg := by
  obtain ⟨_, _, _, leases⟩ := endPlanLeases_leased s
  obtain ⟨_, _, _, cleared⟩ := clearRun_frame (endPlanLeases s)
  rw [cleared, leases]
  exact ⟨rfl, rfl, rfl, rfl⟩

/-- The error handling and the barriers of a run that is over. -/
def runOver (s : State) : State := { s with
  err := { s.err with replaying := false, restarts := 0, reported := [] }
  crop := { s.crop with
    phase := .none, startBarrier := false, replayBarrier := false, arrived := [], selfArrive := none, stopAgreed := false, stops := [], ending := none, acc := []
    completions := [], stage := 0, replaySeen := [], reports := [], settled := true, realigned := false, waitTime := none } }

/-- The command of a run that is over has its reply, and so have the commands that would stop it. -/
def runReplied (s : State) (n : Nat) (y : Slot) (st : Byte) (d : W32) : State :=
  let s := setSlot (replyRun s y st d) n { y with run := none, pend := none, lastStatus := st }
  s.crop.stops.foldl (fun s q => done s q.1) s

theorem endRun_eq (s : State) (n : Nat) (y : Slot) (st : Byte) (d : W32) :
    endRun s n y st d = checkMembership (runOver (clearRun (endPlanLeases (runReplied s n y st d)))) := rfl

theorem runReplied_replied (s : State) (n : Nat) {y : Slot} {r : RunReq} (st : Byte) (d : W32) (run : y.run = some r) :
    HasReply (runReplied s n y st d) r st := by
  unfold runReplied
  extract_lets u
  have first : HasReply u r st := replyRun_replied s st d run
  clear_value u
  generalize u.crop.stops = stops
  induction stops generalizing u with
  | nil => exact first
  | cons q stops ih => exact ih _ (done_replied q.1 first)

/-- A run that has ended at a member: its slot is `y` without it, its command has its reply, and nothing of it is left. -/
structure RunEnded (t : State) (n : Nat) (y : Slot) (r : RunReq) (st : Byte) : Prop where
  slot : getSlot t n = { y with run := none, pend := none, lastStatus := st }
  replied : HasReply t r st
  tillers : t.tillers = []
  units : t.units = []
  reds : t.reds = []
  phase : t.crop.phase = .none
  ending : t.crop.ending = none

/-- The check for the membership's end leaves a run that is over ended. -/
theorem runOver_ended {s : State} {n : Nat} {y : Slot} {r : RunReq} {st : Byte} (replied : HasReply s r st) (tillers : s.tillers = []) (units : s.units = [])
    (reds : s.reds = []) (slot : getSlot (checkMembership (runOver s)) n = { y with run := none, pend := none, lastStatus := st }) :
    RunEnded (checkMembership (runOver s)) n y r st := by
  obtain ⟨stands, crop⟩ := checkMembership_stands (runOver s)
  have quiet : (checkMembership (runOver s)).crop.phase = .none ∧ (checkMembership (runOver s)).crop.ending = none := by
    rcases crop with same | empty
    · rw [same]; exact ⟨rfl, rfl⟩
    · rw [empty]; exact ⟨rfl, rfl⟩
  exact ⟨slot, (replied.of_grg (t := runOver s) rfl).of_replies stands.replies, stands.tillers.trans tillers, stands.units.trans units,
    stands.reds.trans reds, quiet.1, quiet.2⟩

theorem endRun_ended (s : State) (n : Nat) {y : Slot} {r : RunReq} (st : Byte) (d : W32) (run : y.run = some r) :
    RunEnded (endRun s n y st d) n y r st := by
  obtain ⟨tillers, units, reds, grg⟩ := clearedRun (runReplied s n y st d)
  have slot := endRun_slot s n y st d
  rw [endRun_eq] at slot ⊢
  exact runOver_ended ((runReplied_replied s n st d run).of_grg grg) tillers units reds slot

end Sys2Proof.Machine
end

section
/-!
PROOFS. What a run that ends leaves while its accesses drain: the faults that its plan parked on, and the work it discards.
-/
namespace Sys2Proof.Machine

/-! ## Requesters that are not the plan's -/

/-- A requester that is no Tiller. -/
def offPlan (r : Requester) : Bool := match r with | .tiller _ => false | _ => true

/-- No Tiller waits on a pending fault. -/
def faultOff (p : Nat × Option Fault1) : Bool := match p.2 with | some f => f.waiters.all offPlan | none => true

/-- No Tiller waits on a translation or a fault. -/
structure FreeOfPlan (s : State) : Prop where
  misses : ∀ m ∈ s.tr.misses, ∀ w ∈ m.waiters, offPlan w.1 = true
  held : ∀ m ∈ s.tr.held, ∀ w ∈ m.waiters, offPlan w.1 = true
  faults : s.tr.faults.all faultOff = true

theorem planWaits_eq (s : State) : planWaits s = ((s.tr.misses ++ s.tr.held).any (fun m => m.waiters.any (fun w => !offPlan w.1))
    || s.tr.faults.any (fun p => !faultOff p)) := by
  unfold planWaits
  extract_lets tiller
  have plan : tiller = fun r => !offPlan r := by funext r; cases r <;> rfl
  rw [plan]
  congr 2
  funext p
  unfold faultOff
  cases p.2 with
  | none => rfl
  | some f => exact List.not_all_eq_any_not.symm

theorem planWaits_free (s : State) : planWaits s = false ↔ FreeOfPlan s := by
  simp only [planWaits_eq, Bool.or_eq_false_iff, List.any_append, List.any_eq_false, List.any_eq_true, Bool.not_eq_true', not_exists, not_and,
    Bool.not_eq_false]
  exact ⟨fun ⟨⟨misses, held⟩, faults⟩ => ⟨misses, held, List.all_eq_true.2 faults⟩,
    fun ⟨misses, held, faults⟩ => ⟨⟨misses, held⟩, List.all_eq_true.1 faults⟩⟩

theorem FreeOfPlan.of_same {s t : State} (h : FreeOfPlan s) (misses : t.tr.misses = s.tr.misses) (held : t.tr.held = s.tr.held)
    (faults : t.tr.faults = s.tr.faults) : FreeOfPlan t :=
  ⟨by rw [misses]; exact h.misses, by rw [held]; exact h.held, by rw [faults]; exact h.faults⟩

theorem FreeOfPlan.setFault {s : State} (h : FreeOfPlan s) (n : Nat) {f : Option Fault1} (off : faultOff (n, f) = true) : FreeOfPlan (setFault s n f) := by
  refine ⟨h.misses, h.held, ?_⟩
  change (put none s.tr.faults n f).all faultOff = true
  unfold put
  split
  · exact all_del _ n _ h.faults
  · exact all_ins _ n f _ h.faults off

theorem FreeOfPlan.getFault {s : State} (h : FreeOfPlan s) {n : Nat} {f : Fault1} (hf : getFault s n = some f) : f.waiters.all offPlan = true := by
  have all := h.faults
  unfold Machine.getFault at hf
  generalize s.tr.faults = faults at all hf
  induction faults with
  | nil => cases hf
  | cons p faults ih =>
    obtain ⟨i, g⟩ := p
    obtain ⟨first, rest⟩ := Bool.and_eq_true_iff.1 all
    unfold look at hf
    split at hf
    · rw [hf] at first
      exact first
    · exact ih rest hf

/-! ## Draining -/

/-- What the taking of faults leaves of a run that drains: its slots, what it awaits, Tillers that are halted, and the messages that wait. -/
structure RunKept (s t : State) : Prop where
  slots : t.slots = s.slots
  units : t.units = s.units
  reds : t.reds = s.reds
  remote : t.wain.remote = s.wain.remote
  hostReqs : t.hl.hostReqs = s.hl.hostReqs
  idle : ∀ k, (getTiller s k).mode = .idle → (getTiller t k).mode = .idle
  queued : ∀ k m, m ∈ (getLink s k).ctrl → m ∈ (getLink t k).ctrl

namespace RunKept

variable {s t u : State}

theorem refl (s : State) : RunKept s s := ⟨rfl, rfl, rfl, rfl, rfl, fun _ => id, fun _ _ => id⟩

theorem trans (h : RunKept s t) (k : RunKept t u) : RunKept s u :=
  ⟨k.slots.trans h.slots, k.units.trans h.units, k.reds.trans h.reds, k.remote.trans h.remote, k.hostReqs.trans h.hostReqs,
    fun n idle => k.idle n (h.idle n idle), fun n m queued => k.queued n m (h.queued n m queued)⟩

theorem foldl {α : Type} {g : State → α → State} (h : ∀ s x, RunKept s (g s x)) (l : List α) (s : State) : RunKept s (l.foldl g s) := by
  induction l generalizing s with
  | nil => exact .refl s
  | cons x l ih => exact (h s x).trans (ih _)

theorem of_same (slots : t.slots = s.slots) (units : t.units = s.units) (reds : t.reds = s.reds) (tillers : t.tillers = s.tillers) (wain : t.wain = s.wain)
    (hostReqs : t.hl.hostReqs = s.hl.hostReqs) : RunKept s t :=
  ⟨slots, units, reds, by rw [wain], hostReqs, fun k => by rw [getTiller_congr tillers]; exact id, fun k m => by unfold getLink; rw [wain]; exact id⟩

end RunKept

/-- A run drains while an operation on the requesters of `off` goes on, which brings in no Tiller where there was none. -/
structure Parks (off : Prop) (s t : State) : Prop where
  kept : RunKept s t
  free : off → FreeOfPlan s → FreeOfPlan t

namespace Parks

variable {off on : Prop} {s t u : State}

theorem refl (s : State) : Parks off s s := ⟨.refl s, fun _ => id⟩

theorem trans (h : Parks off s t) (k : Parks off t u) : Parks off s u := ⟨h.kept.trans k.kept, fun o f => k.free o (h.free o f)⟩

theorem imp (h : Parks on s t) (i : off → on) : Parks off s t := ⟨h.kept, fun o => h.free (i o)⟩

theorem of_same (kept : RunKept s t) (misses : t.tr.misses = s.tr.misses) (held : t.tr.held = s.tr.held) (faults : t.tr.faults = s.tr.faults) :
    Parks off s t := ⟨kept, fun _ f => f.of_same misses held faults⟩

theorem foldl {α : Type} {g : State → α → State} {l : List α} (h : ∀ x ∈ l, ∀ s, Parks off s (g s x)) (s : State) : Parks off s (l.foldl g s) := by
  induction l generalizing s with
  | nil => exact .refl s
  | cons x l ih => exact (h x List.mem_cons_self s).trans (ih (fun y hy => h y (List.mem_cons_of_mem x hy)) _)

end Parks

/-! ## Requesters parked, held and refused (R409 to R414) -/

variable {off : Prop}

theorem parkRequester_parks (s : State) (r : Requester) (id : W16) : Parks off s (parkRequester s r id) := by
  unfold parkRequester
  split
  · exact .of_same (.of_same rfl rfl rfl rfl rfl rfl) rfl rfl rfl
  · exact .of_same (.of_same rfl rfl rfl rfl rfl rfl) rfl rfl rfl
  · exact .refl s

theorem haltTillers_kept (s : State) : RunKept s (haltTillers s) := by
  have idle (k : Nat) : (getTiller s k).mode = .idle → (getTiller (haltTillers s) k).mode = .idle := fun h => halted_foldl _ s (.inr h)
  obtain ⟨_, halted⟩ := haltTillers_tillers s
  rw [halted] at idle ⊢
  exact ⟨rfl, rfl, rfl, rfl, rfl, idle, fun _ _ => id⟩

theorem reportToRoot_kept (s : State) (m : StopMsg) : RunKept s (reportToRoot s m) := by
  unfold reportToRoot
  split
  · split
    · exact .of_same rfl rfl rfl rfl rfl rfl
    · exact ⟨rfl, rfl, rfl, rfl, rfl, fun _ => id, fun _ _ => (sendCtrl_posted s _ _).queued⟩
  · exact .refl s

theorem failRequester_parks (s : State) (r : Requester) (id : W16) (status : Byte) : Parks off s (failRequester s r id status) := by
  cases r with
  | tiller t =>
    have tr : (planContained s status).tr = s.tr := by
      obtain ⟨_, _, _, _, _, told⟩ := planContained_reported s status
      rw [told]
    have kept : RunKept s (planContained s status) := by
      unfold planContained
      split
      · exact (haltTillers_kept s).trans (reportToRoot_kept _ _)
      · exact .refl s
    exact .of_same kept (congrArg Trans.misses tr) (congrArg Trans.held tr) (congrArg Trans.faults tr)
  | command w q => exact .of_same (.of_same rfl rfl rfl rfl rfl rfl) rfl rfl rfl
  | engineGroup a g x => exact .of_same (.of_same rfl rfl rfl rfl rfl rfl) rfl rfl rfl
  | copyEngine c => exact .of_same (.of_same rfl rfl rfl rfl rfl rfl) rfl rfl rfl
  | nobody => exact .refl s

theorem refuseWaiter_parks (s : State) (r : Requester) (ctx : BitVec 20) (va : Nat) (reason status : Byte) :
    Parks off s (refuseWaiter s r ctx va reason status) :=
  .trans (t := refuseCtx s ctx va 0 reason.toNat false) (.of_same (.of_same rfl rfl rfl rfl rfl rfl) rfl rfl rfl) (failRequester_parks _ _ _ _)

theorem setFault_kept (s : State) (n : Nat) (f : Option Fault1) : RunKept s (setFault s n f) := .of_same rfl rfl rfl rfl rfl rfl

theorem holdMiss_parks (s : State) (who : Requester) (ctx : BitVec 20) (va : Nat) (acc : AccessKind) :
    Parks (offPlan who = true) s (holdMiss s (newMiss 256 who ctx va acc)) := by
  unfold holdMiss
  split
  · exact .refl s
  · refine ⟨.of_same rfl rfl rfl rfl rfl rfl, fun off f => ⟨f.misses, fun m hm w hw => ?_, f.faults⟩⟩
    rcases List.mem_append.1 hm with old | new
    · exact f.held m old w hw
    · rw [List.mem_singleton.1 new] at hw
      rw [List.mem_singleton.1 hw]
      exact off

theorem joinMiss_parks (s : State) {m : Miss} {w : Requester × AccessKind} (own : m.waiters = [w]) : Parks (offPlan w.1 = true) s (joinMiss s m w) := by
  unfold joinMiss
  split
  · next x found =>
    split
    · exact .refl s
    · refine ⟨.of_same rfl rfl rfl rfl rfl rfl, fun off f => ⟨fun y hy v hv => ?_, f.held, f.faults⟩⟩
      obtain ⟨z, hz, rfl⟩ := List.mem_map.1 hy
      have waits := f.misses x (List.mem_of_find?_eq_some found)
      split at hv
      · rcases List.mem_append.1 hv with old | new
        · exact waits v old
        · rw [List.mem_singleton.1 new]
          exact off
      · exact f.misses z hz v hv
  · refine ⟨.of_same rfl rfl rfl rfl rfl rfl, fun off f => ⟨fun y hy v hv => ?_, f.held, f.faults⟩⟩
    rcases List.mem_append.1 hy with old | new
    · exact f.misses y old v hv
    · rw [List.mem_singleton.1 new, own] at hv
      rw [List.mem_singleton.1 hv]
      exact off

theorem chainFault_parks (s : State) (n : Nat) (who : Requester) : Parks (offPlan who = true) s (chainFault s n who) := by
  unfold chainFault
  split
  · next f found =>
    split
    · exact .refl s
    · refine .trans ⟨setFault_kept s n _, fun off free => free.setFault n ?_⟩ (parkRequester_parks _ _ _)
      change (f.waiters ++ [who]).all offPlan = true
      rw [List.all_append, free.getFault found]
      simpa using off
  · exact .refl s

theorem recordFault_parks (s : State) (n : Nat) (f : Fault1) : Parks (f.waiters.all offPlan = true) s (recordFault s n f) := by
  have posted (s : State) (a : W64) (bs : List Byte) : Parks (f.waiters.all offPlan = true) s (hostPost s a bs) := by
    unfold hostPost
    split
    · exact .of_same (.of_same rfl rfl rfl rfl rfl rfl) rfl rfl rfl
    · exact .of_same (.of_same rfl rfl rfl rfl rfl rfl) rfl rfl rfl
  unfold recordFault
  extract_lets k a rq body phase u c v
  have written : Parks (f.waiters.all offPlan = true) s u := (posted s _ _).trans (posted _ _ _)
  clear_value u
  refine written.trans ⟨.of_same rfl rfl rfl rfl rfl rfl, fun off free => ?_⟩
  exact FreeOfPlan.setFault (s := { v with tr := { v.tr with frTail := v.tr.frTail + 1 } }) (free.of_same rfl rfl rfl) n off

theorem enterFault_parks (s : State) (n : Nat) (who : Requester) (ctx : BitVec 20) (va : Nat) (acc : AccessKind) (reason : Byte) (level : Nat) :
    Parks (offPlan who = true) s (enterFault s n who ctx va acc reason level) := by
  unfold enterFault
  extract_lets g f tr a b c d
  have waits : offPlan who = true → f.waiters.all offPlan = true := fun off => by simpa [f] using off
  have entered : Parks (offPlan who = true) s a := by
    refine ⟨.of_same rfl rfl rfl rfl rfl rfl, fun off free => ?_⟩
    exact FreeOfPlan.setFault (s := { s with tr := { s.tr with gens := put none s.tr.gens n (some g) } }) (free.of_same rfl rfl rfl) n (waits off)
  have parked : Parks (offPlan who = true) s b := entered.trans (parkRequester_parks _ _ _)
  clear_value a b
  have told : Parks (offPlan who = true) s c := by
    refine parked.trans ?_
    unfold c
    split
    · exact .refl b
    · exact .of_same (.of_same rfl rfl rfl rfl rfl rfl) rfl rfl rfl
  clear_value c
  refine told.trans ?_
  split
  · exact .of_same (.of_same rfl rfl rfl rfl rfl rfl) rfl rfl rfl
  · exact (recordFault_parks c n f).imp waits

theorem raiseFault_parks (s : State) (who : Requester) (ctx : BitVec 20) (va : Nat) (acc : AccessKind) (reason : Byte) (level : Nat) :
    Parks (offPlan who = true) s (raiseFault s who ctx va acc reason level).2 := by
  unfold raiseFault
  split
  · exact .refl s
  · split
    · exact holdMiss_parks s who ctx va acc
    · extract_lets c u free k
      refine .trans (t := u) (.of_same (.of_same rfl rfl rfl rfl rfl rfl) rfl rfl rfl) ?_
      clear_value u
      split
      · exact chainFault_parks u _ who
      · split
        · exact joinMiss_parks u (w := (who, acc)) (by rfl)
        · exact .trans (t := k.2) (.of_same (.of_same rfl rfl rfl rfl rfl rfl) rfl rfl rfl) (enterFault_parks _ _ _ _ _ _ _ _)

/-! ## Faults that wait at their walkers (R411, R416) -/

theorem stopWaiter_parks (s : State) (m : Miss) (reason : Byte) (level : Nat) (w : Requester × AccessKind) :
    Parks (offPlan w.1 = true) s (stopWaiter s m reason level w) := by
  have raised := raiseFault_parks s w.1 m.ctx m.va w.2 reason level
  unfold stopWaiter
  split
  · exact .refl s
  · split
    · generalize raiseFault s w.1 m.ctx m.va w.2 reason level = x at raised
      split
      · exact raised.trans (refuseWaiter_parks _ _ _ _ _ _)
      · exact raised
    · exact refuseWaiter_parks _ _ _ _ _ _

theorem enterWaiting_parks (s : State) (m : Miss) : Parks (∀ w ∈ m.waiters, offPlan w.1 = true) s (enterWaiting s m) := by
  unfold enterWaiting
  split
  · exact .refl s
  · next reason level _ =>
    refine .trans (t := { s with tr := { s.tr with misses := s.tr.misses.filter (fun x => x != m) } })
      ⟨.of_same rfl rfl rfl rfl rfl rfl, fun _ f => ⟨fun x hx => f.misses x (List.mem_filter.1 hx).1, f.held, f.faults⟩⟩ ?_
    exact .foldl (fun w hw s => (stopWaiter_parks s m reason level w).imp fun off => off w hw) _

theorem enterFaults_parks (s : State) : Parks (FreeOfPlan s) s (enterFaults s) :=
  .foldl (fun m hm s => (enterWaiting_parks s m).imp fun free => free.misses m (List.mem_filter.1 hm).1) s

theorem unblock_kept (s : State) (ctx : BitVec 20) : RunKept s (unblock s ctx) := by
  unfold unblock
  dsimp only
  split
  · exact .of_same rfl rfl rfl rfl rfl rfl
  · exact .refl s

/-- The parked requesters of a plan that fail leave their run draining, and no Tiller waits where none did (R416). -/
theorem failParkedPlan_parks (s : State) : RunKept s (failParkedPlan s) ∧ (FreeOfPlan s → FreeOfPlan (failParkedPlan s)) := by
  unfold failParkedPlan
  extract_lets other held tr u
  have off : other = offPlan := by funext r; cases r <;> rfl
  have begun : Parks True s u := by
    refine ⟨.of_same rfl rfl rfl rfl rfl rfl, fun _ f => ⟨f.misses, fun m hm w hw => ?_, f.faults⟩⟩
    obtain ⟨x, hx, rfl⟩ := List.mem_map.1 (List.mem_filter.1 hm).1
    exact off ▸ (List.mem_filter.1 hw).2
  clear_value u
  have dropped (p : Nat × Option Fault1) (hp : p ∈ u.tr.faults) (s : State) : Parks (FreeOfPlan u) s (match p.2 with
      | none => s
      | some f =>
        if f.waiters.all other then s
        else if f.waiters.any other then setFault s p.1 (some { f with waiters := f.waiters.filter other })
        else unblock (freeFault s p.1) f.ctx) := by
    split
    · exact .refl s
    · next f hf =>
      split
      · exact .refl s
      · next some_ =>
        have none_ : ¬ FreeOfPlan u := fun free => by
          have all := List.all_eq_true.1 free.faults p hp
          unfold faultOff at all
          rw [hf] at all
          exact some_ (off ▸ all)
        refine ⟨?_, fun free => absurd free none_⟩
        split
        · exact setFault_kept s _ _
        · exact .trans (t := freeFault s p.1) (.of_same rfl rfl rfl rfl rfl rfl) (unblock_kept _ _)
  have fell := Parks.foldl dropped u
  refine ⟨begun.kept.trans (fell.kept.trans (enterFaults_parks _).kept), fun free => ?_⟩
  have stands := begun.free trivial free
  have still := fell.free stands stands
  exact (enterFaults_parks _).free still still

end Sys2Proof.Machine
end

section
/-!
PROOFS. How the end of a run begins at a member, waits for the accesses that are under way, and completes (R226, R251, R531 step 4).
-/
namespace Sys2Proof.Machine

/-! ## Whether a run is quiet -/

/-- The context of the run. -/
def runContext (s : State) : BitVec 20 := match runningSlot s with | some n => (getSlot s n).context | none => 0

theorem runQuiet_eq (s : State) : runQuiet s = ((List.range 53).all (fun t => !awaiting s (.tiller t))
    && s.hl.hostReqs.all (fun r => !(isAccess r.kind && r.context == runContext s)) && !planWaits s) := rfl

theorem runQuiet_iff (s : State) : runQuiet s = true ↔ (List.range 53).all (fun t => !awaiting s (.tiller t)) = true
    ∧ s.hl.hostReqs.all (fun r => !(isAccess r.kind && r.context == runContext s)) = true ∧ FreeOfPlan s := by
  rw [← planWaits_free, runQuiet_eq]
  simp only [Bool.and_eq_true, Bool.not_eq_true', and_assoc]

/-- A run stays quiet that awaits no more than before. -/
theorem runQuiet_kept {s t : State} (quiet : runQuiet s = true) (context : runContext t = runContext s) (remote : t.wain.remote = s.wain.remote)
    (hostReqs : t.hl.hostReqs = s.hl.hostReqs) (free : FreeOfPlan s → FreeOfPlan t) : runQuiet t = true := by
  obtain ⟨quiet, access, none_⟩ := (runQuiet_iff s).1 quiet
  refine (runQuiet_iff t).2 ⟨?_, ?_, free none_⟩
  · unfold awaiting at quiet ⊢
    rwa [remote]
  · rwa [context, hostReqs]

theorem runQuiet_awaiting {s : State} {k : Nat} (hk : k < 53) (waits : awaiting s (.tiller k) = true) : runQuiet s = false := by
  by_contra quiet
  obtain ⟨quiet, -, -⟩ := (runQuiet_iff s).1 (by simpa using quiet)
  have := List.all_eq_true.1 quiet k (List.mem_range.2 hk)
  rw [waits] at this
  cases this

/-- The running slot and the context of a run stand where the run's slot keeps running, or begins to stop. -/
theorem runningSlot_stands {s t : State} {n : Nat} (run : runningSlot s = some n) (others : ∀ k, k ≠ n → getSlot t k = getSlot s k)
    (state : (getSlot t n).state = (getSlot s n).state ∨ (getSlot t n).state = .stopping) (context : (getSlot t n).context = (getSlot s n).context) :
    runningSlot t = some n ∧ runContext t = runContext s := by
  have runs : ((getSlot s n).state == .running || (getSlot s n).state == .stopping) = true := by
    unfold runningSlot at run
    simpa using List.find?_some run
  have same : runningSlot t = runningSlot s := by
    unfold runningSlot
    congr 1
    funext k
    by_cases hk : k = n
    · rcases state with state | state
      · rw [hk, state]
      · rw [hk, runs, state]; rfl
    · rw [others k hk]
  refine ⟨same.trans run, ?_⟩
  unfold runContext
  rw [same, run]
  exact context

/-! ## Discarding (R226, R531 step 4) -/

theorem discardWork_ctrl (s : State) (k : Nat) : (getLink (discardWork s) k).ctrl = (getLink s k).ctrl := by
  have sheaves (s : State) : getLink ((List.range 16).foldl (fun s n => setSheaf s n { getSheaf s n with regions := [] }) s) k = getLink s k :=
    foldl_same (getLink · k) (fun s n => getLink_setSheaf s n k _) _ s
  have links : ∀ s : State, (getLink (discardTransfers s) k).ctrl = (getLink s k).ctrl :=
    foldl_same (fun s => (getLink s k).ctrl) (fun s n => by
      dsimp only
      rw [getLink_setLink]
      split
      · next same => rw [same]
      · rfl) _
  unfold discardWork
  rw [sheaves, links]
  rfl

/-- A run whose Tillers have halted and whose attempt is discarded. -/
structure Halted (s t : State) : Prop where
  idle : ∀ k, k < 53 → (getTiller t k).mode = .idle
  units : t.units = []
  reds : t.reds = []
  slots : t.slots = s.slots
  crop : t.crop = s.crop
  err : t.err = s.err
  hl : t.hl = s.hl
  tr : t.tr = s.tr
  remote : t.wain.remote = s.wain.remote
  queued : ∀ k m, m ∈ (getLink s k).ctrl → m ∈ (getLink t k).ctrl

theorem discard_halted (s : State) : Halted s (discardWork (haltTillers s)) := by
  obtain ⟨-, idle⟩ := discardRun s
  have ctrl := discardWork_ctrl (haltTillers s)
  have kept := haltTillers_kept s
  have still : (haltTillers s).crop = s.crop ∧ (haltTillers s).err = s.err ∧ (haltTillers s).hl = s.hl ∧ (haltTillers s).tr = s.tr := by
    obtain ⟨_, halted⟩ := haltTillers_tillers s
    rw [halted]
    exact ⟨rfl, rfl, rfl, rfl⟩
  generalize haltTillers s = u at *
  obtain ⟨crop, err, hl, tr⟩ := still
  obtain ⟨_, _, _, _, discarded⟩ := discardWork_frame u
  rw [discarded] at idle ctrl ⊢
  exact ⟨idle, rfl, rfl, kept.slots, crop, err, hl, tr, kept.remote, fun k m hm => by rw [ctrl]; exact kept.queued k m hm⟩

/-! ## The end of a run -/

theorem dropRecord_pend (x : Slot) : (dropRecord x).pend = none := by
  unfold dropRecord
  split
  · rfl
  · next none_ => exact none_

theorem dropRecord_run (x : Slot) : (dropRecord x).run = x.run := by
  unfold dropRecord
  split <;> rfl

theorem endingSlot_kept (x : Slot) (e : RunEnding) : ((endingSlot x e).state = x.state ∨ (endingSlot x e).state = .stopping)
    ∧ (endingSlot x e).context = x.context ∧ (endingSlot x e).pend = none ∧ (endingSlot x e).run = x.run
    ∧ (endingSlot x e).newest = (dropRecord x).newest := by
  obtain ⟨state, context, -, -⟩ := dropRecord_keeps x
  have pend := dropRecord_pend x
  have run := dropRecord_run x
  unfold endingSlot
  dsimp only
  split
  · exact ⟨.inr rfl, context, pend, run, rfl⟩
  · exact ⟨.inl state, context, pend, run, rfl⟩

/-- The end of a run that has begun: the attempt is discarded, and whether accesses are under way is as it was, or, where faults no longer hold
the plan, no more so. -/
structure Ending (s t : State) (n : Nat) (e : RunEnding) : Prop where
  ending : t.crop.ending = some e
  running : runningSlot t = some n
  slot : getSlot t n = endingSlot (getSlot s n) e
  idle : ∀ k, k < 53 → (getTiller t k).mode = .idle
  units : t.units = []
  reds : t.reds = []
  queued : ∀ k m, m ∈ (getLink s k).ctrl → m ∈ (getLink t k).ctrl
  quiet : runQuiet s = true → runQuiet t = true
  awaits : ∀ k, awaiting t (.tiller k) = awaiting s (.tiller k)
  busy : (∀ u, endingFaults u e = u) → runQuiet t = true → runQuiet s = true

theorem endingLeases_leased (s : State) (e : RunEnding) : Leased s (endingLeases s e) := by
  unfold endingLeases
  split
  · exact endPlanLeases_leased s
  · exact .refl s

theorem endingFaults_parks (s : State) (e : RunEnding) : RunKept s (endingFaults s e) ∧ (FreeOfPlan s → FreeOfPlan (endingFaults s e)) := by
  unfold endingFaults
  split
  · exact failParkedPlan_parks s
  · exact ⟨.refl s, id⟩

theorem Leased.kept {s t : State} (h : Leased s t) : RunKept s t := by
  obtain ⟨_, _, _, rfl⟩ := h
  exact .of_same rfl rfl rfl rfl rfl rfl

/-- A run's slot as its end begins, with what ends it noted. -/
def noteEnding (s : State) (n : Nat) (e : RunEnding) : State :=
  let s := setSlot s n (endingSlot (getSlot s n) e)
  { s with crop := { s.crop with ending := some e } }

theorem beginEnding_eq {s : State} {n : Nat} (run : runningSlot s = some n) (goes : s.crop.ending = none) (e : RunEnding) :
    beginEnding s e = finishEnding (noteEnding (endingFaults (endingLeases (discardWork (haltTillers s)) e) e) n e) := by
  have crop := (discard_halted s).crop
  unfold beginEnding
  rw [run]
  dsimp only
  rw [goes, if_neg (by decide)]
  rfl

theorem noteEnding_kept (s : State) (n : Nat) (e : RunEnding) : (noteEnding s n e).crop.ending = some e
    ∧ getSlot (noteEnding s n e) n = endingSlot (getSlot s n) e ∧ (∀ k, k ≠ n → getSlot (noteEnding s n e) k = getSlot s k)
    ∧ (noteEnding s n e).tillers = s.tillers ∧ (noteEnding s n e).units = s.units ∧ (noteEnding s n e).reds = s.reds
    ∧ (noteEnding s n e).wain = s.wain ∧ (noteEnding s n e).hl = s.hl ∧ (noteEnding s n e).tr = s.tr :=
  ⟨rfl, getSlot_setSlot_same s n _, fun _ hk => getSlot_setSlot_ne s _ hk, rfl, rfl, rfl, rfl, rfl, rfl⟩

/-- What an end that begins leaves of a run, up to where it is noted. -/
theorem endingFaults_kept (s : State) (e : RunEnding) :
    let t := endingFaults (endingLeases (discardWork (haltTillers s)) e) e
    (∀ k, k < 53 → (getTiller t k).mode = .idle) ∧ t.units = [] ∧ t.reds = [] ∧ t.slots = s.slots ∧ t.wain.remote = s.wain.remote
      ∧ t.hl.hostReqs = s.hl.hostReqs ∧ (∀ k m, m ∈ (getLink s k).ctrl → m ∈ (getLink t k).ctrl) ∧ (FreeOfPlan s → FreeOfPlan t)
      ∧ ((∀ u, endingFaults u e = u) → t.tr = s.tr) := by
  have halted := discard_halted s
  generalize discardWork (haltTillers s) = a at halted
  have leased := endingLeases_leased a e
  have leases := leased.kept
  have tr : (endingLeases a e).tr = a.tr := by
    obtain ⟨_, _, _, same⟩ := leased
    rw [same]
  generalize endingLeases a e = b at leases tr
  obtain ⟨faults, free⟩ := endingFaults_parks b e
  have kept := leases.trans faults
  have same : b.tr = s.tr := tr.trans halted.tr
  exact ⟨fun k hk => kept.idle k (halted.idle k hk), kept.units.trans halted.units, kept.reds.trans halted.reds, kept.slots.trans halted.slots,
    kept.remote.trans halted.remote, kept.hostReqs.trans (by rw [halted.hl]), fun k m hm => kept.queued k m (halted.queued k m hm),
    fun f => free (f.of_same (by rw [same]) (by rw [same]) (by rw [same])), fun none_ => by rw [none_, same]⟩

theorem beginEnding_ending {s : State} {n : Nat} (run : runningSlot s = some n) (goes : s.crop.ending = none) (e : RunEnding) :
    ∃ t, beginEnding s e = finishEnding t ∧ Ending s t n e := by
  rw [beginEnding_eq run goes e]
  obtain ⟨idle, units, reds, slots, remote, hostReqs, queued, free, tr⟩ := endingFaults_kept s e
  generalize endingFaults (endingLeases (discardWork (haltTillers s)) e) e = u at *
  obtain ⟨ending, slot, others, tillers', units', reds', wain, hl, tr'⟩ := noteEnding_kept u n e
  refine ⟨_, rfl, ?_⟩
  generalize noteEnding u n e = t at *
  have slot : getSlot t n = endingSlot (getSlot s n) e := by rw [slot, getSlot_congr slots]
  obtain ⟨state, context, -⟩ := endingSlot_kept (getSlot s n) e
  obtain ⟨running, same⟩ := runningSlot_stands run (fun k hk => (others k hk).trans (getSlot_congr slots k)) (by rw [slot]; exact state)
    (by rw [slot]; exact context)
  have remote : t.wain.remote = s.wain.remote := by rw [wain, remote]
  have hostReqs : t.hl.hostReqs = s.hl.hostReqs := by rw [hl, hostReqs]
  exact {
    ending, running, slot
    idle := fun k hk => by rw [getTiller_congr tillers']; exact idle k hk
    units := units'.trans units
    reds := reds'.trans reds
    queued := fun k m hm => by
      have := queued k m hm
      unfold getLink at this ⊢
      rwa [wain]
    quiet := fun quiet => runQuiet_kept quiet same remote hostReqs (fun f => (free f).of_same (by rw [tr']) (by rw [tr']) (by rw [tr']))
    awaits := fun k => by unfold awaiting; rw [remote]
    busy := fun none_ quiet => by
      have tr : s.tr = t.tr := by rw [tr', tr none_]
      exact runQuiet_kept quiet same.symm remote.symm hostReqs.symm (fun f => f.of_same (by rw [tr]) (by rw [tr]) (by rw [tr])) }

/-- An end that waits for accesses changes nothing more. -/
theorem finishEnding_waits {s : State} (busy : runQuiet s = false) : finishEnding s = s := by
  unfold finishEnding
  split
  · exact if_pos (by rw [busy]; rfl)
  · rfl

/-- How a slot stands once an end completes, with the STATUS of its command's reply. -/
def endedSlot (x : Slot) (e : RunEnding) : Slot × Byte :=
  match e with
  | .isolated | .decided (.replan _ _) => ({ failSlot x true with replans := x.replans + 1 }, stDone)
  | .decided (.failure st _) => (failSlot x false, st)
  | .decided _ => (match x.newest with
    | some r => { x with state := .stopped, epoch := r.epoch, steps := r.steps }
    | none => { x with state := .stopped }, stDone)

theorem endedSlot_run (x : Slot) (e : RunEnding) : (endedSlot x e).1.run = x.run := by
  unfold endedSlot
  split
  · rfl
  · rfl
  · rfl
  · split <;> rfl

theorem finishEnding_ended {s : State} {n : Nat} {e : RunEnding} {r : RunReq} (ending : s.crop.ending = some e) (running : runningSlot s = some n)
    (quiet : runQuiet s = true) (run : (getSlot s n).run = some r) :
    RunEnded (finishEnding s) n (endedSlot (getSlot s n) e).1 r (endedSlot (getSlot s n) e).2 := by
  have byEnd (d : W32) := endRun_ended s n (endedSlot (getSlot s n) e).2 d ((endedSlot_run (getSlot s n) e).trans run)
  have ends : ∃ d, finishEnding s = endRun s n (endedSlot (getSlot s n) e).1 (endedSlot (getSlot s n) e).2 d := by
    unfold finishEnding
    rw [ending, running]
    dsimp only
    rw [if_neg (by rw [quiet]; decide)]
    generalize endRun s n = finish
    cases e with
    | isolated => exact ⟨_, rfl⟩
    | decided m => cases m <;> exact ⟨_, rfl⟩
  obtain ⟨d, ends⟩ := ends
  rw [ends]
  exact byEnd d

end Sys2Proof.Machine
end

section
/-!
PROOFS. What a member does on the root's DECIDE: the message is taken in and passed down, and then each decision has its effect (R246 to R249).
-/
namespace Sys2Proof.Machine

/-! ## Taking a decision in -/

/-- A decision waits for each of a member's children. -/
def Passed (s : State) (m : DecideMsg) (t : State) : Prop := ∀ k ∈ s.crop.children, .decide m ∈ (getLink t k).ctrl

theorem Passed.kept {s v t : State} {m : DecideMsg} (h : Passed s m v) (queued : ∀ k q, q ∈ (getLink v k).ctrl → q ∈ (getLink t k).ctrl) :
    Passed s m t := fun k hk => queued k _ (h k hk)

/-- A decision taken in, and passed down to the children. -/
def passedDown (s : State) (m : DecideMsg) : State := sendAll (takeMsg s (.decide m)) s.crop.children (.decide m)

theorem passedDown_posted (s : State) (m : DecideMsg) : Posted s (passedDown s m) := (takeMsg_posted s _).trans (sendAll_posted _ _ _)

theorem passedDown_passed (s : State) (m : DecideMsg) : Passed s m (passedDown s m) :=
  fun _ hk => mem_ctrl_sendAll hk _ _

theorem takeDecide_member {s : State} (m : DecideMsg) (notRoot : isCropRoot s = false) (member : s.crop.member = true) (goes : s.crop.ending = none) :
    takeDecide s m = applyDecide (passedDown s m) m := by
  have taken := takeMsg_posted s (.decide m)
  unfold takeDecide decide_ passedDown
  dsimp only
  rw [taken.isCropRoot, taken.crop, goes, notRoot, member]
  rfl

/-! ## A member in a run -/

/-- A member of a Crop, not its root, in a run of slot `n` that no decision has begun to end. -/
structure InRun (s : State) (n : Nat) (x : Slot) (p : Plan) : Prop where
  run : runOf s = some (n, x, p)
  notRoot : isCropRoot s = false
  member : s.crop.member = true
  goes : s.crop.ending = none

namespace InRun

variable {s v : State} {n : Nat} {x : Slot} {p : Plan}

theorem slot (h : InRun s n x p) : getSlot s n = x := (runOf_some h.run).2
theorem running (h : InRun s n x p) : runningSlot s = some n := (runOf_some h.run).1

theorem posted (h : InRun s n x p) (k : Posted s v) : InRun v n x p := by
  have same : runOf v = runOf s := by obtain ⟨_, rfl⟩ := k.frame; rfl
  exact ⟨same.trans h.run, k.isCropRoot.trans h.notRoot, by rw [k.crop]; exact h.member, by rw [k.crop]; exact h.goes⟩

end InRun

/-! ## What a decision does -/

/-- What a decision other than ABANDON does in a run that none has begun to end. -/
def decided (s : State) (n : Nat) (x : Slot) (p : Plan) (m : DecideMsg) : State :=
  match m with
  | .release t e pct settle g => onRelease s n x p t e pct settle g
  | .replay none _ false => onReplay s n x
  | .replay tick pct _ => onReplayTick s n x p tick pct
  | .replan _ _ => beginEnding (markPreempted s) (.decided m)
  | .stop true _ _ => beginEnding s (.decided m)
  | .stop false pct g => onStop s n x pct g
  | .complete stage pct g => onComplete s n x p stage pct g
  | .failure _ _ => beginEnding (markPreempted s) (.decided m)
  | .abandon pos => onAbandon s pos

theorem applyDecide_inRun {s : State} {n : Nat} {x : Slot} {p : Plan} (run : InRun s n x p) (m : DecideMsg) : applyDecide s m = decided s n x p m := by
  unfold applyDecide
  rw [run.run]
  dsimp only
  rw [run.goes]
  cases m with
  | replay tick pct settle => cases tick <;> cases settle <;> rfl
  | stop now pct g => cases now <;> rfl
  | _ => rfl

/-- A member takes a decision in, passes it down, and does what it says. -/
theorem decision_taken {s : State} {n : Nat} {x : Slot} {p : Plan} {m : DecideMsg} {c : Instr} (run : InRun s n x p) (carries : exec c s = .next (takeDecide s m)) :
    ∃ v, exec c s = .next (decided v n x p m) ∧ Posted s v ∧ InRun v n x p ∧ Passed s m v := by
  have posted := passedDown_posted s m
  have run' := run.posted posted
  exact ⟨_, carries.trans (congrArg _ ((takeDecide_member m run.notRoot run.member run.goes).trans (applyDecide_inRun run' m))), posted, run', passedDown_passed s m⟩

/-! ## The tick a decision names (R246) -/

theorem namedTick_names {s : State} {tick : W64} (n : Nat) (replay : Bool) (ahead : cropTick s ≤ tick.toNat) :
    namedTick s n tick replay = { s with crop := { s.crop with release := tick, phase := if replay then .replayDecided else .decided } } :=
  if_neg (by omega)

theorem dropRecord_position (x : Slot) : (dropRecord x).position = x.position := by
  unfold dropRecord
  split <;> rfl

/-- A member on which the named tick has passed is isolated (R251, R536). -/
def isolatedAt (s : State) (n : Nat) : State :=
  let s := setSlot s n { dropRecord (getSlot s n) with isolated := true, twoEpochs := true }
  { s with crop := { s.crop with phase := .none } }

theorem namedTick_late {s : State} {tick : W64} (n : Nat) (replay : Bool) (late : tick.toNat < cropTick s) :
    namedTick s n tick replay = raiseReplanned (isolatedAt s n) srcMember 0 0 (getSlot (isolatedAt s n) n).context.toNat 0
      (some (getSlot (isolatedAt s n) n).position) := if_pos late

/-- An error of a member's run is logged once, and the root is told of it. -/
theorem raiseReplanned_told {s : State} {n : Nat} (running : runningSlot s = some n) (notRoot : isCropRoot s = false) (member : s.crop.member = true)
    (source inst addr ctx detail : Nat) (suspect : Option Nat) : let t := raiseReplanned s source inst addr ctx detail suspect
    t.crop = s.crop ∧ t.slots = s.slots ∧ t.err.errWrites = s.err.errWrites + 1
    ∧ .stop (.replanned (getSlot s n).position suspect source) ∈ (getLink t (upLink s)).ctrl := by
  intro t
  obtain ⟨err, boot, logged, writes⟩ := logError_frame s clsReplanned source inst addr ctx detail
  have position : ownPosition s = (getSlot s n).position := by
    unfold ownPosition
    rw [running]
  obtain ⟨u, hu, crop, slots, wain, counted⟩ : ∃ u, t = reportToRoot u (.replanned (ownPosition s) suspect source)
      ∧ u.crop = s.crop ∧ u.slots = s.slots ∧ u.wain = s.wain ∧ u.err.errWrites = s.err.errWrites + 1 := by
    refine ⟨reportError s (errRecord s clsReplanned source inst addr ctx detail), if_pos (by rw [running]; rfl), ?_⟩
    unfold logError at logged
    unfold reportError
    dsimp only
    rw [logged]
    exact ⟨rfl, rfl, rfl, writes⟩
  clear_value t
  have notRoot : isCropRoot u = false := by unfold isCropRoot at notRoot ⊢; rw [crop]; exact notRoot
  have told := reportToRoot_posted (.replanned (ownPosition s) suspect source) notRoot
  have up : upLink u = upLink s := upLink_congr wain (by rw [crop]) (by rw [crop]) (by rw [crop])
  subst hu
  refine ⟨told.crop.trans crop, told.slots.trans slots, ?_, ?_⟩
  · obtain ⟨-, err, -⟩ := reportToRoot_passes u (.replanned (ownPosition s) suspect source)
    rw [err, counted]
  · rw [reportToRoot_member _ notRoot (by rw [crop]; exact member), ← up, position]
    exact mem_ctrl_sendCtrl _ _ _

theorem isolatedAt_kept (s : State) (n : Nat) : getSlot (isolatedAt s n) n = { dropRecord (getSlot s n) with isolated := true, twoEpochs := true }
    ∧ (∀ k, k ≠ n → getSlot (isolatedAt s n) k = getSlot s k) ∧ (isolatedAt s n).crop = { s.crop with phase := .none }
    ∧ (isolatedAt s n).wain = s.wain ∧ (isolatedAt s n).err = s.err :=
  ⟨getSlot_setSlot_same s n _, fun _ hk => getSlot_setSlot_ne s _ hk, rfl, rfl, rfl⟩

/-- A tick that has passed leaves the record before the barrier's, and isolates the chip. -/
theorem namedTick_isolates {s : State} {n : Nat} {tick : W64} (replay : Bool) (running : runningSlot s = some n) (notRoot : isCropRoot s = false)
    (member : s.crop.member = true) (late : tick.toNat < cropTick s) : let t := namedTick s n tick replay
    t.crop.phase = .none ∧ getSlot t n = { dropRecord (getSlot s n) with isolated := true, twoEpochs := true }
    ∧ t.err.errWrites = s.err.errWrites + 1
    ∧ .stop (.replanned (getSlot s n).position (some (getSlot s n).position) srcMember) ∈ (getLink t (upLink s)).ctrl := by
  intro t
  have named : t = _ := namedTick_late n replay late
  clear_value t
  subst named
  obtain ⟨slot, others, crop, wain, err⟩ := isolatedAt_kept s n
  generalize isolatedAt s n = u at *
  obtain ⟨state, context, -⟩ := dropRecord_keeps (getSlot s n)
  obtain ⟨running', -⟩ := runningSlot_stands running others (.inl (by rw [slot]; exact state)) (by rw [slot]; exact context)
  have notRoot' : isCropRoot u = false := by unfold isCropRoot at notRoot ⊢; rw [crop]; exact notRoot
  have up : upLink u = upLink s := upLink_congr wain (by rw [crop]) (by rw [crop]) (by rw [crop])
  have position : (getSlot u n).position = (getSlot s n).position := by rw [slot]; exact dropRecord_position _
  obtain ⟨crop', slots, writes, told⟩ := raiseReplanned_told running' notRoot' (by rw [crop]; exact member) srcMember 0 0
    (getSlot u n).context.toNat 0 (some (getSlot u n).position)
  refine ⟨by rw [crop', crop], by rw [getSlot_congr slots, slot], by rw [writes, err], ?_⟩
  rw [up, position] at told
  rw [position]
  exact told

/-! ## The second round (R247 step 5) -/

theorem realign_waits {s : State} (notRoot : isCropRoot s = false) (none_ : s.crop.waitTime = none) : realign s = s := by
  unfold realign
  dsimp only
  split
  · rfl
  · rw [none_, notRoot]
    rfl

/-- The second round begins: the root change, then the measurement. -/
def settleBegun (c : Crop) (rootPct pct : Nat) : Crop :=
  { c with phase := .resettle, selfArrive := none, arrived := [], nextRootPct := pct, settled := pct == rootPct, realigned := false
           waitTime := none, drift := false }

theorem startSettle_begins {s : State} (pct : Nat) (notRoot : isCropRoot s = false) :
    (startSettle s pct).crop = settleBegun s.crop s.rootPct pct ∧ (startSettle s pct).slots = s.slots := by
  have begun : startSettle s pct = (let u := { s with crop := settleBegun s.crop s.rootPct pct }
    if pct == s.rootPct then realign (startProbes u) else u) := rfl
  rw [begun]
  dsimp only
  split
  · obtain ⟨⟨links, probed⟩, -⟩ := startProbes_sends { s with crop := settleBegun s.crop s.rootPct pct }
    rw [probed, realign_waits]
    · exact ⟨rfl, rfl⟩
    · exact notRoot
    · rfl
  · exact ⟨rfl, rfl⟩

end Sys2Proof.Machine
end

section
/-!
PROOFS. A barrier's decisions at a member: RELEASE and REPLAY (R204, R246, R247, R531).
-/
namespace Sys2Proof.Machine

/-! ## RELEASE -/

/-- The epoch that a barrier ends, where it is no start barrier. -/
def epochEnded (s : State) (x : Slot) : Option W32 := if s.crop.startBarrier then none else some (BitVec.ofNat 32 x.epoch.toNat)

/-- The Seedcorn record of a barrier (R204). -/
def barrierRecord (s : State) (x : Slot) (epoch : W64) (g : List StepGather) : SeedRec := {
  epoch := epoch, counts := sheafCounts s, steps := gatherSteps x.steps g (epochEnded s x)
  tillers := if s.crop.startBarrier then (x.newest.map (fun r => r.tillers)).getD [] else (List.range 53).map (fun k => tillerRecOf (getTiller s k)) }

/-- The Tillers' address fields of MODE IN and OUT stand for the next epoch (R208). -/
def descsTurned (s : State) (x : Slot) (p : Plan) (epoch : W64) : State :=
  if s.crop.startBarrier then s
  else (List.range 53).foldl (fun s t => setTiller s t (turnDescs x p epoch.toNat t (getTiller s t))) s

theorem descsTurned_each (s : State) (x : Slot) (p : Plan) (epoch : W64) : TillersOnly s (descsTurned s x p epoch)
    ∧ (s.crop.startBarrier = false → ∀ k, k < 53 → getTiller (descsTurned s x p epoch) k = turnDescs x p epoch.toNat k (getTiller s k)) := by
  obtain ⟨only, each⟩ := setTillers_all (F := fun _ k t => turnDescs x p epoch.toNat k t) (fun _ _ _ => rfl) s
  unfold descsTurned
  split
  · next start => exact ⟨⟨_, rfl⟩, fun epoch_ => by rw [start] at epoch_; cases epoch_⟩
  · exact ⟨only, fun _ => each⟩

/-- A barrier's record written, with the leases and the address fields of the next epoch. -/
def barrierWritten (s : State) (n : Nat) (x : Slot) (p : Plan) (epoch : W64) (pct : Nat) (g : List StepGather) : State :=
  let u := descsTurned (setSlot s n (writeRecord x (barrierRecord s x epoch g) (snapCounters s epoch))) x p epoch
  let u := turnLeases u x p (if s.crop.startBarrier then none else some x.epoch.toNat) epoch.toNat
  { u with crop := { u.crop with nextEpoch := epoch, nextRootPct := pct } }

/-- A member stands at its start or epoch barrier. -/
def AtBarrier (s : State) : Prop := s.crop.selfArrive.isSome = true ∧ (s.crop.phase = .start ∨ s.crop.phase = .epoch)

theorem AtBarrier.goes {s : State} (h : AtBarrier s) : ¬ (s.crop.selfArrive.isNone || !(s.crop.phase == .start || s.crop.phase == .epoch)) = true := by
  obtain ⟨arrived, phase⟩ := h
  obtain ⟨own, arrived⟩ := Option.isSome_iff_exists.1 arrived
  rcases phase with phase | phase <;> simp [arrived, phase]

theorem onRelease_atBarrier {s : State} (h : AtBarrier s) (n : Nat) (x : Slot) (p : Plan) (tick epoch : W64) (pct : Nat) (settle : Bool)
    (g : List StepGather) : onRelease s n x p tick epoch pct settle g
      = if settle then startSettle (barrierWritten s n x p epoch pct g) pct else namedTick (barrierWritten s n x p epoch pct g) n tick false := by
  have first : ¬ (s.crop.phase = .resettle && !settle && s.crop.settled && s.crop.realigned) = true := by
    rcases h.2 with phase | phase <;> simp [phase]
  unfold onRelease
  dsimp only
  rw [if_neg first, if_neg h.goes]
  rfl

/-- What a barrier that is written leaves. -/
structure Written (s t : State) (n : Nat) (x : Slot) (p : Plan) (epoch : W64) (pct : Nat) (g : List StepGather) : Prop where
  crop : t.crop = { s.crop with nextEpoch := epoch, nextRootPct := pct }
  slot : getSlot t n = writeRecord x (barrierRecord s x epoch g) (snapCounters s epoch)
  others : ∀ k, k ≠ n → getSlot t k = getSlot s k
  descs : s.crop.startBarrier = false → ∀ k, k < 53 → getTiller t k = turnDescs x p epoch.toNat k (getTiller s k)
  err : t.err = s.err
  cropTick : cropTick t = cropTick s
  rootPct : t.rootPct = s.rootPct

theorem barrierWritten_written (s : State) (n : Nat) (x : Slot) (p : Plan) (epoch : W64) (pct : Nat) (g : List StepGather) :
    Written s (barrierWritten s n x p epoch pct g) n x p epoch pct g ∧ (barrierWritten s n x p epoch pct g).wain = s.wain := by
  obtain ⟨y, slot⟩ : ∃ y, y = writeRecord x (barrierRecord s x epoch g) (snapCounters s epoch) := ⟨_, rfl⟩
  unfold barrierWritten
  rw [← slot]
  obtain ⟨⟨tillers, only⟩, each⟩ := descsTurned_each (setSlot s n y) x p epoch
  generalize descsTurned (setSlot s n y) x p epoch = u at *
  obtain ⟨out, sheaves, ep, leased⟩ := turnLeases_leased u x p (if s.crop.startBarrier then none else some x.epoch.toNat) epoch.toNat
  dsimp only
  rw [leased]
  refine ⟨⟨?_, ?_, ?_, each, ?_, ?_, ?_⟩, ?_⟩
  · rw [only]; rfl
  · rw [← slot, only]; exact getSlot_setSlot_same s n y
  · rw [only]; exact fun k hk => getSlot_setSlot_ne s y hk
  all_goals rw [only]; rfl

variable {s v : State} {n : Nat} {x : Slot} {p : Plan}

/-- Messages that wait touch no part of a barrier's record. -/
theorem Posted.barrier (h : Posted s v) : barrierRecord v = barrierRecord s ∧ snapCounters v = snapCounters s ∧ cropTick v = cropTick s
    ∧ v.rootPct = s.rootPct ∧ getTiller v = getTiller s ∧ v.err = s.err := by
  obtain ⟨_, rfl⟩ := h.frame
  exact ⟨rfl, rfl, rfl, rfl, rfl, rfl⟩

theorem AtBarrier.posted (h : AtBarrier s) (k : Posted s v) : AtBarrier v := by
  unfold AtBarrier
  rw [k.crop]
  exact h

/-- A member takes a RELEASE in at its barrier, and writes the barrier's record. -/
theorem release_taken (run : InRun s n x p) (h : AtBarrier s) (tick epoch : W64) (pct : Nat) (settle : Bool) (g : List StepGather) :
    ∃ u, exec (.decideRelease tick epoch pct settle g) s = .next (if settle then startSettle u pct else namedTick u n tick false)
      ∧ Written s u n x p epoch pct g ∧ Passed s (.release tick epoch pct settle g) u ∧ upLink u = upLink s := by
  obtain ⟨v, taken, posted, run', passed⟩ := decision_taken (c := .decideRelease tick epoch pct settle g) run rfl
  obtain ⟨written, wain⟩ := barrierWritten_written v n x p epoch pct g
  obtain ⟨record, counters, cropTick, rootPct, tiller, err⟩ := posted.barrier
  refine ⟨_, taken.trans (congrArg _ (onRelease_atBarrier (h.posted posted) n x p tick epoch pct settle g)), ?_, passed.kept ?_, ?_⟩
  all_goals generalize barrierWritten v n x p epoch pct g = u at *
  · exact ⟨by rw [written.crop, posted.crop], by rw [written.slot, record, counters],
      fun k hk => (written.others k hk).trans (getSlot_congr posted.slots k), by rw [← posted.crop, ← tiller]; exact written.descs,
      written.err.trans err, written.cropTick.trans cropTick, written.rootPct.trans rootPct⟩
  · intro k q hq
    unfold getLink at hq ⊢
    rwa [wain]
  · rw [← posted.upLink, upLink_congr wain] <;> rw [written.crop]

/-- RELEASE in one round names its tick, where that is ahead (R246, R247). -/
theorem release_names (run : InRun s n x p) (h : AtBarrier s) {tick : W64} (ahead : cropTick s ≤ tick.toNat) (epoch : W64) (pct : Nat)
    (g : List StepGather) : Gives (exec (.decideRelease tick epoch pct false g) s) (fun t =>
      t.crop.release = tick ∧ t.crop.phase = .decided ∧ t.crop.nextEpoch = epoch ∧ t.crop.nextRootPct = pct
      ∧ getSlot t n = writeRecord x (barrierRecord s x epoch g) (snapCounters s epoch) ∧ Passed s (.release tick epoch pct false g) t
      ∧ (s.crop.startBarrier = false → ∀ k, k < 53 → getTiller t k = turnDescs x p epoch.toNat k (getTiller s k))) := by
  obtain ⟨u, taken, written, passed, -⟩ := release_taken run h tick epoch pct false g
  have named := namedTick_names n false (by rw [written.cropTick]; exact ahead)
  refine ⟨_, taken.trans (congrArg _ named), rfl, rfl, ?_, ?_, written.slot, passed, written.descs⟩
  · rw [written.crop]
  · rw [written.crop]

/-- RELEASE with a tick that has passed leaves the record before the barrier's, and isolates the chip (R251, R536). -/
theorem release_late (run : InRun s n x p) (h : AtBarrier s) {tick : W64} (late : tick.toNat < cropTick s) (epoch : W64) (pct : Nat)
    (g : List StepGather) : Gives (exec (.decideRelease tick epoch pct false g) s) (fun t => t.crop.phase = .none
      ∧ getSlot t n = { dropRecord (writeRecord x (barrierRecord s x epoch g) (snapCounters s epoch)) with isolated := true, twoEpochs := true }
      ∧ t.err.errWrites = s.err.errWrites + 1 ∧ .stop (.replanned x.position (some x.position) srcMember) ∈ (getLink t (upLink s)).ctrl) := by
  obtain ⟨u, taken, written, -, up⟩ := release_taken run h tick epoch pct false g
  have crop := written.crop
  obtain ⟨running, -⟩ := runningSlot_stands run.running written.others (.inl (by rw [written.slot, run.slot]; rfl))
    (by rw [written.slot, run.slot]; rfl)
  have notRoot : isCropRoot u = false := by have := run.notRoot; unfold isCropRoot at this ⊢; rw [crop]; exact this
  obtain ⟨phase, slot, writes, told⟩ := namedTick_isolates false running notRoot (by rw [crop]; exact run.member) (by rw [written.cropTick]; exact late)
  rw [up, written.slot] at told
  exact ⟨_, taken, phase, by rw [← written.slot]; exact slot, by rw [← written.err]; exact writes, told⟩

/-- RELEASE with a second round begins that round (R247). -/
theorem release_settles (run : InRun s n x p) (h : AtBarrier s) (tick epoch : W64) (pct : Nat) (g : List StepGather) :
    Gives (exec (.decideRelease tick epoch pct true g) s) (fun t =>
      t.crop.phase = .resettle ∧ t.crop.nextEpoch = epoch ∧ t.crop.nextRootPct = pct ∧ t.crop.selfArrive = none
      ∧ t.crop.settled = (pct == s.rootPct) ∧ getSlot t n = writeRecord x (barrierRecord s x epoch g) (snapCounters s epoch)) := by
  obtain ⟨u, taken, written, -⟩ := release_taken run h tick epoch pct true g
  have notRoot : isCropRoot u = false := by have := run.notRoot; unfold isCropRoot at this ⊢; rw [written.crop]; exact this
  obtain ⟨crop, slots⟩ := startSettle_begins pct notRoot
  rw [written.crop, written.rootPct] at crop
  exact ⟨_, taken, congrArg Crop.phase crop, congrArg Crop.nextEpoch crop, congrArg Crop.nextRootPct crop, congrArg Crop.selfArrive crop,
    congrArg Crop.settled crop, (getSlot_congr slots n).trans written.slot⟩

/-! ## REPLAY -/

theorem dropSamples_ctrl (s : State) (k : Nat) : (getLink (dropSamples s) k).ctrl = (getLink s k).ctrl :=
  foldl_same (fun s => (getLink s k).ctrl) (fun s n => by
    dsimp only
    rw [getLink_setLink]
    split
    · next same => rw [same]
    · rfl) _ s

/-- The part of a REPLAY that follows on the discarding of the attempt. -/
def replayCounted (s : State) (n : Nat) (x : Slot) : State :=
  let s := setSlot s n { dropRecord x with replays := x.replays + 1 }
  let b := s.err
  { s with
    err := { b with restarts := if b.replaying then min 3 (b.restarts + 1) else 0, replaying := true }
    crop := { s.crop with
      phase := .replayDrain, replayBarrier := true, selfArrive := none, arrived := [], acc := [], completions := [], stage := 0
      settled := true, realigned := false, waitTime := none } }

theorem onReplay_eq (s : State) (n : Nat) (x : Slot) :
    onReplay s n x = replayCounted (dropSamples (endPlanLeases (discardWork (haltTillers s)))) n x := rfl

theorem replayCounted_kept (s : State) (n : Nat) (x : Slot) : let t := replayCounted s n x
    t.tillers = s.tillers ∧ t.units = s.units ∧ t.reds = s.reds ∧ t.wain = s.wain ∧ t.crop.phase = .replayDrain ∧ t.err.replaying = true
    ∧ getSlot t n = { dropRecord x with replays := x.replays + 1 } :=
  ⟨rfl, rfl, rfl, rfl, rfl, rfl, getSlot_setSlot_same s n _⟩

/-- The first REPLAY discards the attempt and the record that is not released (R531). -/
theorem replay_discards (s : State) (n : Nat) (x : Slot) : let t := onReplay s n x
    (∀ k, k < 53 → (getTiller t k).mode = .idle) ∧ t.units = [] ∧ t.reds = [] ∧ t.crop.phase = .replayDrain ∧ t.err.replaying = true
    ∧ getSlot t n = { dropRecord x with replays := x.replays + 1 } ∧ ∀ k m, m ∈ (getLink s k).ctrl → m ∈ (getLink t k).ctrl := by
  have halted := discard_halted s
  rw [onReplay_eq]
  generalize discardWork (haltTillers s) = a at *
  have leases := (endPlanLeases_leased a).kept
  generalize endPlanLeases a = b at *
  have ctrl := dropSamples_ctrl b
  obtain ⟨_, dropped⟩ := dropSamples_linksOnly b
  rw [dropped] at ctrl ⊢
  obtain ⟨tillers, units, reds, wain, phase, replaying, slot⟩ := replayCounted_kept { b with wain := { b.wain with links := _ } } n x
  refine ⟨fun k hk => ?_, units.trans (leases.units.trans halted.units), reds.trans (leases.reds.trans halted.reds), phase, replaying, slot,
    fun k m hm => ?_⟩
  · rw [getTiller_congr tillers]
    exact leases.idle k (halted.idle k hk)
  · have queued := leases.queued k m (halted.queued k m hm)
    rw [← ctrl k] at queued
    unfold getLink at queued ⊢
    rwa [wain]

/-- A member that has discarded its attempt has arrived for the replay. -/
def ReplayReady (s : State) : Prop := s.crop.phase = .replayDrain ∧ s.crop.selfArrive.isSome = true

theorem onReplayTick_settles {s : State} (h : ReplayReady s) (n : Nat) (x : Slot) (p : Plan) (pct : Nat) :
    onReplayTick s n x p none pct = startSettle s pct := by
  obtain ⟨phase, arrived⟩ := h
  unfold onReplayTick
  exact if_neg (by simp [phase, arrived])

theorem onReplayTick_names {s : State} (h : ReplayReady s) (n : Nat) (x : Slot) (p : Plan) (tick : W64) (pct : Nat) :
    ∃ e, onReplayTick s n x p (some tick) pct = namedTick (turnLeases s x p none e) n tick true := by
  obtain ⟨phase, arrived⟩ := h
  unfold onReplayTick
  exact ⟨_, if_neg (by simp [phase, arrived])⟩

theorem ReplayReady.posted (h : ReplayReady s) (k : Posted s v) : ReplayReady v := by
  unfold ReplayReady
  rw [k.crop]
  exact h

/-- The first REPLAY at a member (R531). -/
theorem replay_begins (run : InRun s n x p) (pct : Nat) : Gives (exec (.decideReplay none pct false) s) (fun t =>
    (∀ k, k < 53 → (getTiller t k).mode = .idle) ∧ t.units = [] ∧ t.reds = [] ∧ t.crop.phase = .replayDrain ∧ t.err.replaying = true
    ∧ getSlot t n = { dropRecord x with replays := x.replays + 1 } ∧ Passed s (.replay none pct false) t) := by
  obtain ⟨v, taken, -, -, passed⟩ := decision_taken (c := .decideReplay none pct false) run rfl
  obtain ⟨idle, units, reds, phase, replaying, slot, queued⟩ := replay_discards v n x
  exact ⟨_, taken, idle, units, reds, phase, replaying, slot, passed.kept queued⟩

/-- The later REPLAY of one round names the tick of the replay (R531). -/
theorem replay_names (run : InRun s n x p) (h : ReplayReady s) {tick : W64} (ahead : cropTick s ≤ tick.toNat) (pct : Nat) (settle : Bool) :
    Gives (exec (.decideReplay (some tick) pct settle) s) (fun t => t.crop.release = tick ∧ t.crop.phase = .replayDecided ∧ getSlot t n = x) := by
  obtain ⟨v, taken, posted, run', -⟩ := decision_taken (c := .decideReplay (some tick) pct settle) run rfl
  obtain ⟨e, named⟩ := onReplayTick_names (h.posted posted) n x p tick pct
  obtain ⟨-, -, cropTick_, -⟩ := posted.barrier
  have leased := turnLeases_leased v x p none e
  generalize turnLeases v x p none e = u at leased named
  have same : cropTick u = cropTick v ∧ u.slots = v.slots := by
    obtain ⟨_, _, _, rfl⟩ := leased
    exact ⟨rfl, rfl⟩
  rw [namedTick_names n true (by rw [same.1, cropTick_]; exact ahead)] at named
  exact ⟨_, taken.trans (congrArg _ named), rfl, rfl, (getSlot_congr same.2 n).trans run'.slot⟩

/-- The later REPLAY with a second round begins that round. -/
theorem replay_settles (run : InRun s n x p) (h : ReplayReady s) (pct : Nat) : Gives (exec (.decideReplay none pct true) s) (fun t =>
    t.crop.phase = .resettle ∧ t.crop.nextRootPct = pct ∧ t.crop.settled = (pct == s.rootPct) ∧ getSlot t n = x) := by
  obtain ⟨v, taken, posted, run', -⟩ := decision_taken (c := .decideReplay none pct true) run rfl
  have settled := taken.trans (congrArg _ (onReplayTick_settles (h.posted posted) n x p pct))
  obtain ⟨-, -, -, rootPct, -⟩ := posted.barrier
  obtain ⟨crop, slots⟩ := startSettle_begins pct run'.notRoot
  rw [rootPct] at crop
  exact ⟨_, settled, congrArg Crop.phase crop, congrArg Crop.nextRootPct crop, congrArg Crop.settled crop,
    (getSlot_congr slots n).trans run'.slot⟩

end Sys2Proof.Machine
end

section
/-!
PROOFS. The decisions that end a run at a member: REPLAN, FAILURE, STOP, COMPLETE and ABANDON (R217, R225, R248 to R251, R587).
-/
namespace Sys2Proof.Machine

/-- What a run that has ended leaves. -/
def Ended (t : State) (n : Nat) (st : SlotState) : Prop := (getSlot t n).state = st
    ∧ (getSlot t n).run = none ∧ (getSlot t n).pend = none ∧ t.tillers = [] ∧ t.units = [] ∧ t.reds = [] ∧ t.crop.phase = .none ∧ t.crop.ending = none

theorem RunEnded.ended {t : State} {y : Slot} {r : RunReq} {st : Byte} (h : RunEnded t n y r st) : Ended t n y.state := by
  refine ⟨?_, ?_, ?_, h.tillers, h.units, h.reds, h.phase, h.ending⟩
  all_goals rw [h.slot]

/-! ## REPLAN, FAILURE and STOP of mode NOW -/

/-- How a decision that ends a run at once begins: REPLAN and FAILURE mark the errors that they pre-empt (R535). -/
def EndBegins (s : State) (m : DecideMsg) (t : State) : Prop := ∃ u, t = beginEnding u (.decided m) ∧ (u = s ∨ u = markPreempted s)

/-- A run whose end waits for its accesses. -/
structure EndWaits (s t : State) (n : Nat) (m : DecideMsg) : Prop where
  idle : ∀ k, k < 53 → (getTiller t k).mode = .idle
  units : t.units = []
  reds : t.reds = []
  ending : t.crop.ending = some (.decided m)
  slot : getSlot t n = endingSlot (getSlot s n) (.decided m)
  queued : ∀ k m, m ∈ (getLink s k).ctrl → m ∈ (getLink t k).ctrl

/-- The end of a run has begun with a decision, and waits. -/
def Stopping (s : State) (n : Nat) (t : State) (m : DecideMsg) (st : SlotState) : Prop := (∀ k, k < 53 → (getTiller t k).mode = .idle)
  ∧ t.units = [] ∧ t.reds = [] ∧ t.crop.ending = some (.decided m) ∧ (getSlot t n).state = st ∧ (getSlot t n).pend = none ∧ Passed s m t

theorem EndWaits.stopping {s v t : State} {n : Nat} {m : DecideMsg} (h : EndWaits v t n m) (passed : Passed s m v) :
    Stopping s n t m (endingSlot (getSlot v n) (.decided m)).state := by
  obtain ⟨-, -, pend, -⟩ := endingSlot_kept (getSlot v n) (.decided m)
  exact ⟨h.idle, h.units, h.reds, h.ending, by rw [h.slot], by rw [h.slot, pend], passed.kept h.queued⟩

theorem EndBegins.unmarked {s t : State} {n : Nat} {m : DecideMsg} (h : EndBegins s m t) (running : runningSlot s = some n) (goes : s.crop.ending = none) :
    ∃ u, t = finishEnding u ∧ Ending s u n (.decided m) := by
  obtain ⟨v, rfl, hv⟩ := h
  have same : v.slots = s.slots ∧ v.crop = s.crop ∧ v.wain = s.wain ∧ v.hl = s.hl ∧ v.tr = s.tr := by
    rcases hv with rfl | rfl
    · exact ⟨rfl, rfl, rfl, rfl, rfl⟩
    · obtain ⟨_, marked, -⟩ := markPreempted_frame s
      rw [marked]
      exact ⟨rfl, rfl, rfl, rfl, rfl⟩
  obtain ⟨slots, crop, wain, hl, tr⟩ := same
  have slot (k : Nat) : getSlot v k = getSlot s k := getSlot_congr slots k
  have quiet : runQuiet v = runQuiet s := runQuiet_congr (fun k => by rw [slot]) (fun k => by rw [slot]) (by rw [wain]) hl tr
  obtain ⟨u, begun, e⟩ := beginEnding_ending (s := v) ((runningSlot_congr fun k => by rw [slot]).trans running) (by rw [crop]; exact goes) (.decided m)
  have slot' := e.slot.trans (by rw [slot] : _ = endingSlot (getSlot s n) (.decided m))
  have queued (k : Nat) (m : CtrlMsg) (hm : m ∈ (getLink s k).ctrl) : m ∈ (getLink v k).ctrl := by
    unfold getLink at hm ⊢
    rwa [wain]
  have awaits (k : Nat) : awaiting v (.tiller k) = awaiting s (.tiller k) := by
    unfold awaiting
    rw [wain]
  exact ⟨u, begun, e.ending, e.running, slot', e.idle, e.units, e.reds, fun k m hm => e.queued k m (queued k m hm), by rw [← quiet]; exact e.quiet,
    fun k => (e.awaits k).trans (awaits k), by rw [← quiet]; exact e.busy⟩

variable {s t v : State} {n : Nat} {m : DecideMsg} {x : Slot} {p : Plan} {r : RunReq}

theorem EndBegins.waits (h : EndBegins s m t) (running : runningSlot s = some n) (goes : s.crop.ending = none)
    (busy : ∀ u, Ending s u n (.decided m) → runQuiet u = false) : EndWaits s t n m := by
  obtain ⟨u, rfl, e⟩ := h.unmarked running goes
  rw [finishEnding_waits (busy u e)]
  exact ⟨e.idle, e.units, e.reds, e.ending, e.slot, e.queued⟩

theorem EndBegins.ends {r : RunReq} (h : EndBegins s m t) (running : runningSlot s = some n) (goes : s.crop.ending = none) (quiet : runQuiet s = true)
    (run : (getSlot s n).run = some r) : RunEnded t n (endedSlot (endingSlot (getSlot s n) (.decided m)) (.decided m)).1 r
      (endedSlot (endingSlot (getSlot s n) (.decided m)) (.decided m)).2 := by
  obtain ⟨u, rfl, e⟩ := h.unmarked running goes
  obtain ⟨-, -, -, kept, -⟩ := endingSlot_kept (getSlot s n) (.decided m)
  have ended := finishEnding_ended (r := r) e.ending e.running (e.quiet quiet) (by rw [e.slot, kept]; exact run)
  rwa [e.slot] at ended

/-- Where faults do not hold the plan, an end waits as long as accesses of the run are under way. -/
theorem EndBegins.waits_busy (h : EndBegins s m t) (running : runningSlot s = some n) (goes : s.crop.ending = none)
    (parks : ∀ u, endingFaults u (.decided m) = u) (busy : runQuiet s = false) : EndWaits s t n m :=
  h.waits running goes fun u e => by
    by_contra quiet
    rw [e.busy parks (by simpa using quiet)] at busy
    cases busy

/-- An end waits for the answers that the run's Tillers await. -/
theorem EndBegins.waits_awaiting {k : Nat} (h : EndBegins s m t) (running : runningSlot s = some n) (goes : s.crop.ending = none) (hk : k < 53)
    (waits : awaiting s (.tiller k) = true) : EndWaits s t n m :=
  h.waits running goes fun _ e => runQuiet_awaiting hk ((e.awaits k).trans waits)

theorem Posted.runQuiet (h : Posted s v) : runQuiet v = runQuiet s := by
  obtain ⟨_, rfl⟩ := h.frame
  exact runQuiet_congr (fun _ => rfl) (fun _ => rfl) rfl rfl rfl

theorem Posted.awaiting (h : Posted s v) (w : Requester) : awaiting v w = awaiting s w := by
  obtain ⟨_, rfl⟩ := h.frame
  rfl

/-- REPLAN and FAILURE, each with the STATUS of the run's reply. -/
def Preempting (m : DecideMsg) (c : Instr) (st : Byte) : Prop :=
  (∃ e q, m = DecideMsg.replan e q ∧ c = Instr.decideReplan e q ∧ st = stDone)
    ∨ (∃ q a, m = DecideMsg.failure a q ∧ c = Instr.decideFailure a q ∧ st = a)

/-- REPLAN and FAILURE begin the end of a run, and faults that hold its plan go on holding it. -/
theorem Preempting.begins {c : Instr} {st : Byte} (is : Preempting m c st) (s v : State) (n : Nat) (x : Slot) (p : Plan) :
    exec c s = .next (takeDecide s m) ∧ EndBegins v m (decided v n x p m) ∧ (∀ u, endingFaults u (.decided m) = u)
    ∧ endingSlot x (.decided m) = dropRecord x := by
  rcases is with ⟨e, q, rfl, rfl, -⟩ | ⟨q, a, rfl, rfl, -⟩
  · exact ⟨rfl, ⟨_, rfl, .inr rfl⟩, fun _ => rfl, rfl⟩
  · exact ⟨rfl, ⟨_, rfl, .inr rfl⟩, fun _ => rfl, rfl⟩

/-- How the run's slot stands when REPLAN or FAILURE has ended it. -/
theorem Preempting.slot {c : Instr} {st : Byte} (is : Preempting m c st) (x : Slot) : let y := endedSlot (dropRecord x) (.decided m)
    y.1.state = .failed ∧ y.2 = st ∧ ((∃ a q, m = DecideMsg.failure a q) → y.1.seedValid = false ∧ y.1.newest = none)
    ∧ ((∃ e q, m = DecideMsg.replan e q) → y.1.replans = x.replans + 1 ∧ y.1.newest = (dropRecord x).newest) := by
  obtain ⟨-, -, -, replans⟩ := dropRecord_keeps x
  rcases is with ⟨e, q, rfl, -, rfl⟩ | ⟨q, a, rfl, -, rfl⟩
  · exact ⟨rfl, rfl, fun ⟨_, _, h⟩ => (nomatch h), fun _ => ⟨congrArg (· + 1) replans, rfl⟩⟩
  · exact ⟨rfl, rfl, fun _ => ⟨rfl, rfl⟩, fun ⟨_, _, h⟩ => nomatch h⟩

theorem preempting_waits {c : Instr} {st : Byte} (run : InRun s n x p) (is : Preempting m c st) (busy : runQuiet s = false) :
    Gives (exec c s) (fun t => Stopping s n t m x.state) := by
  obtain ⟨carries, -⟩ := is.begins s s n x p
  obtain ⟨v, taken, posted, run', passed⟩ := decision_taken run carries
  obtain ⟨-, begins, parks, slot⟩ := is.begins s v n x p
  obtain ⟨state, -⟩ := dropRecord_keeps x
  have waits := begins.waits_busy run'.running run'.goes parks (posted.runQuiet.trans busy)
  refine ⟨_, taken, ?_⟩
  have ends := waits.stopping passed
  rw [run'.slot, slot, state] at ends
  exact ends

theorem preempting_ends {c : Instr} {st : Byte} (run : InRun s n x p) (is : Preempting m c st) (quiet : runQuiet s = true) (hr : x.run = some r) :
    Gives (exec c s) (fun t => Ended t n .failed ∧ HasReply t r st
      ∧ ((∃ a q, m = DecideMsg.failure a q) → (getSlot t n).seedValid = false ∧ (getSlot t n).newest = none)
      ∧ ((∃ e q, m = DecideMsg.replan e q) → (getSlot t n).replans = x.replans + 1 ∧ (getSlot t n).newest = (dropRecord x).newest)) := by
  obtain ⟨carries, -⟩ := is.begins s s n x p
  obtain ⟨v, taken, posted, run', -⟩ := decision_taken run carries
  obtain ⟨-, begins, -, slot⟩ := is.begins s v n x p
  obtain ⟨failed, status, failure, replan⟩ := is.slot x
  have ends := begins.ends run'.running run'.goes (posted.runQuiet.trans quiet) (by rw [run'.slot]; exact hr)
  rw [run'.slot, slot, status] at ends
  exact ⟨_, taken, by rw [← failed]; exact ends.ended, ends.replied, by rw [ends.slot]; exact failure, by rw [ends.slot]; exact replan⟩

/-- How the run's slot stands when STOP of mode NOW has ended it. -/
theorem stopped_slot (x : Slot) (pct : Nat) (g : List StepGather) :
    let y := endedSlot (endingSlot x (.decided (.stop true pct g))) (.decided (.stop true pct g))
    y.1.state = .stopped ∧ y.2 = stDone ∧ y.1.newest = (dropRecord x).newest := by
  unfold endedSlot
  dsimp only
  split
  · exact ⟨rfl, rfl, rfl⟩
  · exact ⟨rfl, rfl, rfl⟩

theorem stopNow_begins (v : State) (n : Nat) (x : Slot) (p : Plan) (pct : Nat) (g : List StepGather) :
    EndBegins v (.stop true pct g) (decided v n x p (.stop true pct g)) := ⟨_, rfl, .inl rfl⟩

theorem stopNow_ends (run : InRun s n x p) (quiet : runQuiet s = true) (hr : x.run = some r) (pct : Nat) (g : List StepGather) :
    Gives (exec (.decideStop true pct g) s) (fun t => Ended t n .stopped ∧ HasReply t r stDone ∧ (getSlot t n).newest = (dropRecord x).newest) := by
  obtain ⟨v, taken, posted, run', -⟩ := decision_taken (c := .decideStop true pct g) run rfl
  obtain ⟨stopped, status, newest⟩ := stopped_slot x pct g
  have ends := (stopNow_begins v n x p pct g).ends run'.running run'.goes (posted.runQuiet.trans quiet) (by rw [run'.slot]; exact hr)
  rw [run'.slot, status] at ends
  exact ⟨_, taken, by rw [← stopped]; exact ends.ended, ends.replied, by rw [ends.slot]; exact newest⟩

theorem stopNow_waits {k : Nat} (run : InRun s n x p) (hk : k < 53) (waits : awaiting s (.tiller k) = true) (pct : Nat) (g : List StepGather) :
    Gives (exec (.decideStop true pct g) s) (fun t => Stopping s n t (.stop true pct g) .stopping) := by
  obtain ⟨v, taken, posted, run', passed⟩ := decision_taken (c := .decideStop true pct g) run rfl
  exact ⟨_, taken, ((stopNow_begins v n x p pct g).waits_awaiting run'.running run'.goes hk ((posted.awaiting _).trans waits)).stopping passed⟩

/-! ## STOP at the barrier (R250) -/

/-- The slot of a run that has stopped at its barrier. -/
def stoppedSlot (s : State) (x : Slot) (g : List StepGather) : Slot :=
  let epoch := if s.crop.startBarrier then x.epoch else x.epoch + 1
  let r := barrierRecord s x epoch g
  { x with state := .stopped, seedValid := true, newest := some r, older := x.newest, steps := r.steps, epoch := epoch, counters := snapCounters s epoch }

theorem onStop_atBarrier (h : AtBarrier s) (n : Nat) (x : Slot) (pct : Nat) (g : List StepGather) :
    onStop s n x pct g = endRun (applyRoot s pct) n (stoppedSlot s x g) stDone (endDetail 0 0x3FF) := by
  unfold onStop
  dsimp only
  rw [if_neg h.goes]
  rfl

theorem stop_ends (run : InRun s n x p) (h : AtBarrier s) (hr : x.run = some r) (pct : Nat) (g : List StepGather) :
    Gives (exec (.decideStop false pct g) s) (fun t => Ended t n .stopped ∧ HasReply t r stDone
      ∧ getSlot t n = { stoppedSlot s x g with run := none, pend := none, lastStatus := stDone }) := by
  obtain ⟨v, taken, posted, -, -⟩ := decision_taken (c := .decideStop false pct g) run rfl
  obtain ⟨record, counters, -⟩ := posted.barrier
  have ends := endRun_ended (applyRoot v pct) n (y := stoppedSlot v x g) stDone (endDetail 0 0x3FF) hr
  rw [← onStop_atBarrier (h.posted posted), show stoppedSlot v x g = stoppedSlot s x g by unfold stoppedSlot; rw [record, counters, posted.crop]] at ends
  exact ⟨_, taken, ends.ended, ends.replied, ends.slot⟩

/-! ## COMPLETE (R217, R225, R587) -/

/-- The first stage of completion: the steps are gathered. -/
def completing (s : State) (n : Nat) (x : Slot) (pct : Nat) (g : List StepGather) : State :=
  let u := setSlot s n { x with
    steps := gatherSteps x.steps g (some (BitVec.ofNat 32 x.epoch.toNat)), counters := snapCounters s x.epoch }
  applyRoot { u with crop := { u.crop with phase := .complete, stage := 1 } } pct

theorem applyRoot_keeps_run (s : State) (pct : Nat) : (applyRoot s pct).slots = s.slots ∧ (applyRoot s pct).wain = s.wain
    ∧ ∃ drift, (applyRoot s pct).crop = { s.crop with drift := drift } := by
  unfold applyRoot
  split
  · exact ⟨rfl, rfl, _, rfl⟩
  · exact ⟨rfl, rfl, _, rfl⟩

theorem completing_kept (s : State) (n : Nat) (x : Slot) (pct : Nat) (g : List StepGather) :
    getSlot (completing s n x pct g) n = { x with
      steps := gatherSteps x.steps g (some (BitVec.ofNat 32 x.epoch.toNat)), counters := snapCounters s x.epoch }
    ∧ (completing s n x pct g).wain = s.wain
    ∧ ∃ drift, (completing s n x pct g).crop = { s.crop with phase := .complete, stage := 1, drift := drift } := by
  unfold completing
  dsimp only
  generalize ({ x with steps := gatherSteps x.steps g _, counters := _ } : Slot) = y
  obtain ⟨slots, wain, drift, crop⟩ := applyRoot_keeps_run { setSlot s n y with crop := { s.crop with phase := .complete, stage := 1 } } pct
  exact ⟨(getSlot_congr slots n).trans (getSlot_setSlot_same s n y), wain, drift, crop⟩

theorem onComplete_first (arrived : s.crop.selfArrive.isSome = true) (phase : s.crop.phase = .epoch) (n : Nat) (x : Slot) (p : Plan) (pct : Nat)
    (g : List StepGather) : onComplete s n x p 1 pct g
      = reportCompletion (flushArenas (completing s n x pct g) (localArenas x p (fun a => a.publish)) false) x.position false := by
  obtain ⟨own, arrived⟩ := Option.isSome_iff_exists.1 arrived
  unfold onComplete
  dsimp only
  rw [if_pos rfl, if_neg (by simp [arrived, phase])]
  rfl

/-- A completion that a member reports goes to the root, and is among those it knows. -/
theorem reportCompletion_told (notRoot : isCropRoot s = false) (pos : Nat) (flag : Bool) : let t := reportCompletion s pos flag
    t.crop = { s.crop with completions := s.crop.completions ++ [(pos, flag)] } ∧ t.slots = s.slots
    ∧ (∀ k m, m ∈ (getLink s k).ctrl → m ∈ (getLink t k).ctrl) ∧ .completion pos flag ∈ (getLink t (upLink s)).ctrl := by
  have told : reportCompletion s pos flag = sendCtrl { s with crop := { s.crop with completions := s.crop.completions ++ [(pos, flag)] } } (upLink s)
      (.completion pos flag) := if_neg (ne_true_of_eq_false notRoot)
  rw [told]
  have sent := sendCtrl_posted { s with crop := { s.crop with completions := s.crop.completions ++ [(pos, flag)] } } (upLink s) (.completion pos flag)
  exact ⟨sent.crop, sent.slots, fun k m hm => sent.queued hm, mem_ctrl_sendCtrl _ _ _⟩

/-- Flushing arenas leaves a member its slots and its way to the root. -/
theorem flushArenas_kept (notRoot : isCropRoot s = false) (rs : List (Nat × Nat)) (inval : Bool) : let t := flushArenas s rs inval
    t.crop = s.crop ∧ upLink t = upLink s ∧ t.slots = s.slots ∧ ∀ k m, m ∈ (getLink s k).ctrl → m ∈ (getLink t k).ctrl := by
  unfold flushArenas
  obtain ⟨crop, up, queued⟩ := (flushWhere_tells s (fun l => rs.any (fun r => inRange r.1 r.2 l)) inval).keeps notRoot
  exact ⟨crop, up, (flushWhere_aside s _ inval (.refl s)).slots, queued⟩

/-- COMPLETE 1 flushes what the plan publishes, and reports it (R587). -/
theorem complete_flushes (notRoot : isCropRoot s = false) (arrived : s.crop.selfArrive.isSome = true) (phase : s.crop.phase = .epoch) (n : Nat)
    (x : Slot) (p : Plan) (pct : Nat) (g : List StepGather) : let t := onComplete s n x p 1 pct g
    t.crop.phase = .complete ∧ t.crop.stage = 1 ∧ t.crop.completions = s.crop.completions ++ [(x.position, false)]
    ∧ getSlot t n = { x with steps := gatherSteps x.steps g (some (BitVec.ofNat 32 x.epoch.toNat)), counters := snapCounters s x.epoch }
    ∧ (∀ k m, m ∈ (getLink s k).ctrl → m ∈ (getLink t k).ctrl) ∧ .completion x.position false ∈ (getLink t (upLink s)).ctrl := by
  rw [onComplete_first arrived phase]
  obtain ⟨slot, wain, drift, crop⟩ := completing_kept s n x pct g
  generalize completing s n x pct g = u at *
  have root : isCropRoot u = false := by unfold isCropRoot at notRoot ⊢; rw [crop]; exact notRoot
  have up : upLink u = upLink s := upLink_congr wain (by rw [crop]) (by rw [crop]) (by rw [crop])
  obtain ⟨crop', up', slots, queued⟩ := flushArenas_kept root (localArenas x p (fun a => a.publish)) false
  generalize flushArenas u (localArenas x p (fun a => a.publish)) false = v at *
  have root' : isCropRoot v = false := by unfold isCropRoot at root ⊢; rw [crop']; exact root
  obtain ⟨known, slots', sent, told⟩ := reportCompletion_told root' x.position false
  rw [up', up] at told
  refine ⟨?_, ?_, ?_, ?_, fun k m hm => sent k m (queued k m ?_), told⟩
  · rw [known, crop', crop]
  · rw [known, crop', crop]
  · rw [known, crop', crop]
  · rw [getSlot_congr slots', getSlot_congr slots, slot]
  · unfold getLink at hm ⊢
    rwa [wain]

theorem complete_gathers (run : InRun s n x p) (arrived : s.crop.selfArrive.isSome = true) (phase : s.crop.phase = .epoch) (pct : Nat)
    (g : List StepGather) : Gives (exec (.decideComplete 1 pct g) s) (fun t =>
      t.crop.phase = .complete ∧ t.crop.stage = 1 ∧ t.crop.completions = s.crop.completions ++ [(x.position, false)]
      ∧ getSlot t n = { x with steps := gatherSteps x.steps g (some (BitVec.ofNat 32 x.epoch.toNat)), counters := snapCounters s x.epoch }
      ∧ Passed s (.complete 1 pct g) t ∧ .completion x.position false ∈ (getLink t (upLink s)).ctrl) := by
  obtain ⟨v, taken, posted, run', passed⟩ := decision_taken (c := .decideComplete 1 pct g) run rfl
  obtain ⟨-, counters, -⟩ := posted.barrier
  rw [← posted.crop] at arrived phase
  obtain ⟨complete, stage, completions, slot, queued, told⟩ := complete_flushes run'.notRoot arrived phase n x p pct g
  rw [counters] at slot
  rw [posted.crop] at completions
  rw [posted.upLink] at told
  exact ⟨_, taken, complete, stage, completions, slot, passed.kept queued, told⟩

theorem onComplete_second (phase : s.crop.phase = .complete) (n : Nat) (x : Slot) (p : Plan) (pct : Nat) (g : List StepGather) :
    onComplete s n x p 2 pct g = if flagHolder p = x.position ∧ !s.crop.completions.contains (x.position, true)
      then writeFlag { s with crop := { s.crop with stage := 2 } } x p else { s with crop := { s.crop with stage := 2 } } := by
  unfold onComplete
  dsimp only
  rw [if_neg (by decide), if_neg (by simp [phase]), if_pos rfl]

theorem onComplete_last {stage : Nat} (last : 2 < stage) (phase : s.crop.phase = .complete) (n : Nat) (x : Slot) (p : Plan) (pct : Nat)
    (g : List StepGather) : onComplete s n x p stage pct g = endRun s n { x with state := .done } (runStatus x) 0 := by
  unfold onComplete
  dsimp only
  rw [if_neg (by omega), if_neg (by simp [phase]), if_neg (by omega)]

/-- COMPLETE 2 leaves a member that holds no flag in its second stage (R587). -/
theorem complete_noFlag (run : InRun s n x p) (phase : s.crop.phase = .complete) (other : flagHolder p ≠ x.position) (pct : Nat) (g : List StepGather) :
    Gives (exec (.decideComplete 2 pct g) s) (fun t => t.crop = { s.crop with stage := 2 } ∧ Passed s (.complete 2 pct g) t) := by
  obtain ⟨v, taken, posted, -, passed⟩ := decision_taken (c := .decideComplete 2 pct g) run rfl
  have second := onComplete_second (s := v) (by rw [posted.crop]; exact phase) n x p pct g
  rw [if_neg (fun h => other h.1)] at second
  exact ⟨_, taken.trans (congrArg _ second), by rw [posted.crop], passed⟩

/-- COMPLETE 2 has the flag written by the member that holds it (R587). -/
theorem complete_flag (run : InRun s n x p) (phase : s.crop.phase = .complete) (holds : flagHolder p = x.position)
    (first : (x.position, true) ∉ s.crop.completions) (pct : Nat) (g : List StepGather) :
    ∃ u, exec (.decideComplete 2 pct g) s = .next (writeFlag u x p) ∧ u.crop = { s.crop with stage := 2 } ∧ u.slots = s.slots ∧ u.mem = s.mem
      ∧ u.cache = s.cache := by
  obtain ⟨v, taken, posted, -, -⟩ := decision_taken (c := .decideComplete 2 pct g) run rfl
  have second := onComplete_second (s := v) (by rw [posted.crop]; exact phase) n x p pct g
  rw [if_pos ⟨holds, by rw [posted.crop]; simpa using first⟩] at second
  obtain ⟨_, same⟩ := posted.frame
  exact ⟨_, taken.trans (congrArg _ second), by rw [posted.crop], by rw [same], by rw [same], by rw [same]⟩

theorem complete_ends {stage : Nat} (run : InRun s n x p) (phase : s.crop.phase = .complete) (last : 2 < stage) (hr : x.run = some r) (pct : Nat)
    (g : List StepGather) : Gives (exec (.decideComplete stage pct g) s) (fun t => Ended t n .done ∧ HasReply t r (runStatus x)) := by
  obtain ⟨v, taken, posted, -, -⟩ := decision_taken (c := .decideComplete stage pct g) run rfl
  have ends := endRun_ended v n (y := { x with state := .done }) (runStatus x) 0 hr
  rw [← onComplete_last last (by rw [posted.crop]; exact phase) n x p pct g] at ends
  exact ⟨_, taken, ends.ended, ends.replied⟩

/-! ## ABANDON (R248) -/

/-- A start that is abandoned ends the run (R248). -/
theorem onAbandon_starting (running : runningSlot s = some n) (start : s.crop.startBarrier = true) (phase : s.crop.phase = .start) (pos : Option Nat) :
    ∃ u d, onAbandon s pos = endRun u n (failSlot (getSlot s n) false) stCropLost d := by
  have running' : runningSlot { s with crop := { s.crop with attempts := s.crop.attempts + 1, arrived := [] } } = some n := running
  unfold onAbandon
  dsimp only
  rw [running']
  dsimp only
  rw [if_pos (by rw [start, phase]; decide)]
  exact ⟨_, _, rfl⟩

theorem abandon_ends (run : InRun s n x p) (start : s.crop.startBarrier = true) (phase : s.crop.phase = .start) (hr : x.run = some r)
    (pos : Option Nat) : Gives (exec (.decideAbandon pos) s) (fun t => Ended t n .failed ∧ HasReply t r stCropLost ∧ (getSlot t n).seedValid = false) := by
  obtain ⟨v, taken, posted, run', -⟩ := decision_taken (c := .decideAbandon pos) run rfl
  rw [← posted.crop] at start phase
  obtain ⟨u, d, abandoned⟩ := onAbandon_starting run'.running start phase pos
  rw [run'.slot] at abandoned
  have ends := endRun_ended u n (y := failSlot x false) stCropLost d hr
  rw [← abandoned] at ends
  exact ⟨_, taken, ends.ended, ends.replied, congrArg Slot.seedValid ends.slot⟩

end Sys2Proof.Machine

namespace Sys2Proof
open Machine

/-- Settles O43: a member takes the decision in and passes it down; then each decision has the effect that its own lemma says. -/
theorem decisionsTakeEffect : Obligations.DecisionsTakeEffect := by
  intro s n x p r hrun notRoot member goes hr
  have run : InRun s n x p := ⟨hrun, notRoot, member, goes⟩
  refine ⟨fun tick epoch pct g atBarrier => ?release, replay_begins run, fun phase arrived => ?replay, fun m c st is => ?preempting,
    fun pct g atBarrier => ?stop, fun pct g => ?stopNow, fun pct g arrived phase => complete_gathers run arrived phase pct g,
    fun pct g phase => ?flag, fun stage pct g last phase => complete_ends run phase last hr pct g,
    fun pos start phase => abandon_ends run start phase hr pos⟩
  case release =>
    exact ⟨fun ahead => release_names run atBarrier ahead epoch pct g, fun late => release_late run atBarrier late epoch pct g,
      release_settles run atBarrier tick epoch pct g⟩
  case replay =>
    exact ⟨fun tick pct settle ahead => replay_names run ⟨phase, arrived⟩ ahead pct settle, replay_settles run ⟨phase, arrived⟩⟩
  case preempting => exact ⟨preempting_waits run is, fun quiet => preempting_ends run is quiet hr⟩
  case stop =>
    obtain ⟨t, taken, ended, replied, slot⟩ := stop_ends run atBarrier hr pct g
    exact ⟨t, taken, ended, replied, congrArg Slot.seedValid slot, congrArg Slot.newest slot, congrArg Slot.epoch slot, congrArg Slot.steps slot⟩
  case stopNow => exact ⟨fun quiet => stopNow_ends run quiet hr pct g, fun k hk waits => stopNow_waits run hk waits pct g⟩
  case flag => exact ⟨fun other => complete_noFlag run phase other pct g, fun holds first => complete_flag run phase holds first pct g⟩

end Sys2Proof
end

section
/-!
PROOFS. The loss of a Wain link: what the errors that it raises and the end of a membership leave of it.
-/
namespace Sys2Proof.Machine

/-! ## What follows a loss -/

/-- An end of a link on which no line waits to be sent and LEAVE is due (R284). -/
structure Emptied (x : WainLink) : Prop where
  leaveLeft : x.leaveLeft = 16
  tx0 : x.tx0 = []
  tx1 : x.tx1 = []
  tx2 : x.tx2 = []

/-- What follows the loss of a link brings nothing back to it, adds no remote request, and leaves the first record that the bank holds. -/
structure StaysLost (n : Nat) (s t : State) : Prop where
  emptied : Emptied (getLink s n) → Emptied (getLink t n)
  remote : ∀ q ∈ t.wain.remote, q ∈ s.wain.remote
  first : s.err.firstValid = true → t.err.firstValid = true ∧ t.err.first = s.err.first

namespace StaysLost

variable {n : Nat} {s t u : State}

theorem of_same (wain : t.wain = s.wain) (err : t.err = s.err) : StaysLost n s t :=
  ⟨by unfold getLink; rw [wain]; exact id, by rw [wain]; exact fun _ => id, fun valid => by rw [err]; exact ⟨valid, rfl⟩⟩

theorem refl (s : State) : StaysLost n s s := of_same rfl rfl

theorem trans (h : StaysLost n s t) (k : StaysLost n t u) : StaysLost n s u := by
  refine ⟨k.emptied ∘ h.emptied, fun q hq => h.remote q (k.remote q hq), fun valid => ?_⟩
  obtain ⟨valid, first⟩ := h.first valid
  obtain ⟨valid', first'⟩ := k.first valid
  exact ⟨valid', first'.trans first⟩

theorem foldl {α : Type} {g : State → α → State} (h : ∀ s x, StaysLost n s (g s x)) (l : List α) (s : State) : StaysLost n s (l.foldl g s) := by
  induction l generalizing s with
  | nil => exact .refl s
  | cons x l ih => exact (h s x).trans (ih _)

/-- An end that is stored anew holds as little as before. -/
theorem of_setLink (s : State) {k : Nat} {x : WainLink} (h : Emptied (getLink s k) → Emptied x) : StaysLost n s (setLink s k x) := by
  refine ⟨fun emptied => ?_, fun _ => id, fun valid => ⟨valid, rfl⟩⟩
  rw [getLink_setLink]
  split
  · next same => exact h (same ▸ emptied)
  · exact emptied

end StaysLost

/-- What logging errors and ending remote requests leaves besides: the link's state, the slots, the membership and what is being formed. -/
structure LossNoted (n : Nat) (s t : State) : Prop extends StaysLost n s t where
  state : (getLink t n).state = (getLink s n).state
  slots : t.slots = s.slots
  member : t.crop.member = s.crop.member
  forming : t.crop.forming = s.crop.forming

namespace LossNoted

variable {n : Nat} {s t u : State}

theorem of_same (wain : t.wain = s.wain) (err : t.err = s.err) (slots : t.slots = s.slots) (crop : t.crop = s.crop) : LossNoted n s t :=
  ⟨.of_same wain err, by unfold getLink; rw [wain], slots, by rw [crop], by rw [crop]⟩

theorem refl (s : State) : LossNoted n s s := of_same rfl rfl rfl rfl

theorem trans (h : LossNoted n s t) (k : LossNoted n t u) : LossNoted n s u :=
  ⟨h.toStaysLost.trans k.toStaysLost, k.state.trans h.state, k.slots.trans h.slots, k.member.trans h.member, k.forming.trans h.forming⟩

theorem foldl {α : Type} {g : State → α → State} (h : ∀ s x, LossNoted n s (g s x)) (l : List α) (s : State) : LossNoted n s (l.foldl g s) := by
  induction l generalizing s with
  | nil => exact .refl s
  | cons x l ih => exact (h s x).trans (ih _)

end LossNoted

/-! ## Errors (R284, R527) -/

/-- The first record that the bank holds stays (R527). -/
theorem logRecord_first {s : State} (e : ErrRec) (valid : s.err.firstValid = true) :
    (logRecord s e).err.firstValid = true ∧ (logRecord s e).err.first = s.err.first := by
  by_cases corrected : e.cls.toNat = 0 <;> simp [logRecord, corrected, valid]

/-- An error above CORRECTED is recorded where the bank holds no first record (R527). -/
theorem logRecord_recorded (s : State) {e : ErrRec} (cls : e.cls.toNat ≠ 0) :
    (logRecord s e).err.firstValid = true ∧ (s.err.firstValid = false → (logRecord s e).err.first = some e) := by
  cases valid : s.err.firstValid <;> simp [logRecord, cls, valid]

theorem logRecord_lossNoted (n : Nat) (s : State) (e : ErrRec) : LossNoted n s (logRecord s e) :=
  ⟨⟨id, fun _ => id, logRecord_first e⟩, rfl, rfl, rfl, rfl⟩

theorem reportError_lossNoted (n : Nat) (s : State) (e : ErrRec) : LossNoted n s (reportError s e) :=
  ⟨⟨id, fun _ => id, logRecord_first e⟩, rfl, rfl, rfl, rfl⟩

theorem sendCtrl_lossNoted (n : Nat) (s : State) (k : Nat) (m : CtrlMsg) : LossNoted n s (sendCtrl s k m) :=
  ⟨.of_setLink s fun ⟨leaveLeft, tx0, tx1, tx2⟩ => ⟨leaveLeft, tx0, tx1, tx2⟩, (sendCtrl_posted s k m).state n, rfl, rfl, rfl⟩

theorem reportToRoot_lossNoted (n : Nat) (s : State) (m : StopMsg) : LossNoted n s (reportToRoot s m) := by
  unfold reportToRoot
  split
  · split
    · exact ⟨.of_same rfl rfl, rfl, rfl, rfl, rfl⟩
    · exact sendCtrl_lossNoted n s _ _
  · exact .refl s

theorem reportToRoot_remote (s : State) (m : StopMsg) : (reportToRoot s m).wain.remote = s.wain.remote := by
  unfold reportToRoot
  split
  · split <;> rfl
  · rfl

theorem raiseReplanned_lossNoted (n : Nat) (s : State) (source inst addr ctx detail : Nat) (suspect : Option Nat) :
    LossNoted n s (raiseReplanned s source inst addr ctx detail suspect) := by
  unfold raiseReplanned
  extract_lets e
  split
  · exact (reportError_lossNoted n s e).trans (reportToRoot_lossNoted n _ _)
  · exact logRecord_lossNoted n s e

theorem raiseReplanned_remote (s : State) (source inst addr ctx detail : Nat) (suspect : Option Nat) :
    (raiseReplanned s source inst addr ctx detail suspect).wain.remote = s.wain.remote := by
  unfold raiseReplanned
  extract_lets e
  split
  · exact reportToRoot_remote (reportError s e) _
  · rfl

/-- An error of class REPLANNED is recorded where the bank holds no first record (R527). -/
theorem raiseReplanned_recorded (s : State) (source inst addr ctx detail : Nat) (suspect : Option Nat) :
    let t := raiseReplanned s source inst addr ctx detail suspect
    t.err.firstValid = true ∧ (s.err.firstValid = false → t.err.first = some (errRecord s clsReplanned source inst addr ctx detail)) := by
  have recorded := logRecord_recorded s (e := errRecord s clsReplanned source inst addr ctx detail)
    (show (BitVec.ofNat 8 clsReplanned).toNat ≠ 0 by decide)
  dsimp only
  unfold raiseReplanned
  extract_lets e
  split
  · obtain ⟨-, err, -⟩ := reportToRoot_passes (reportError s e) (.replanned (ownPosition s) suspect source)
    rw [err]
    exact recorded
  · exact recorded

/-! ## Remote requests (R280, R284) -/

theorem loseRemote_lossNoted (n : Nat) (s : State) (r : RemoteReq) : LossNoted n s (loseRemote s r) := by
  unfold loseRemote
  extract_lets wain u isPlan v
  have erased : LossNoted n s u := ⟨⟨id, fun _ => List.mem_of_mem_erase, fun valid => ⟨valid, rfl⟩⟩, rfl, rfl, rfl, rfl⟩
  have noted : LossNoted n s v := by
    refine erased.trans ?_
    unfold v
    split
    · exact raiseReplanned_lossNoted n u _ _ _ _ _ _
    · exact logRecord_lossNoted n u _
  have task (t : RemoteTask) : LossNoted n v (setTask v t) := ⟨⟨id, fun _ => id, fun valid => ⟨valid, rfl⟩⟩, rfl, rfl, rfl, rfl⟩
  clear_value v
  refine noted.trans ?_
  split
  · exact (task _).trans (.of_same rfl rfl rfl rfl)
  · split
    · exact .of_same rfl rfl rfl rfl
    · exact task _
  · exact task _
  · exact .refl v
  · exact .refl v

theorem loseRemote_remote (s : State) (r : RemoteReq) : (loseRemote s r).wain.remote = s.wain.remote.erase r := by
  unfold loseRemote
  extract_lets wain u isPlan v
  have erased : v.wain.remote = s.wain.remote.erase r := by
    unfold v
    split
    · exact raiseReplanned_remote u _ _ _ _ _ _
    · rfl
  clear_value v
  split
  · exact erased
  · split <;> exact erased
  all_goals exact erased

theorem loseRemoteOver_lossNoted (n : Nat) (s : State) (k : Nat) : LossNoted n s (loseRemoteOver s k) := .foldl (loseRemote_lossNoted n) _ s

/-- No remote request is left on the link (R284). -/
theorem loseRemoteOver_remote (s : State) (n : Nat) : ∀ q ∈ (loseRemoteOver s n).wain.remote, q.link ≠ n := by
  have diff (l : List RemoteReq) (s : State) : (l.foldl loseRemote s).wain.remote = s.wain.remote.diff l := by
    induction l generalizing s with
    | nil => rfl
    | cons r l ih => rw [List.foldl_cons, ih, loseRemote_remote, List.diff_cons]
  intro q hq on
  unfold loseRemoteOver at hq
  rw [diff] at hq
  have count := List.count_pos_iff.2 hq
  rw [List.count_diff, List.count_filter (by simpa using on), Nat.sub_self] at count
  exact Nat.lt_irrefl 0 count

theorem dropBuffered_lossNoted (s : State) (n k : Nat) : LossNoted n s (dropBuffered s n k) := by
  unfold dropBuffered
  split
  · exact .refl s
  · exact logRecord_lossNoted n s _

/-! ## The end of a membership (R229) -/

theorem emit_staysLost (n : Nat) (s : State) (o : Out) : StaysLost n s (emit s o) := .of_same rfl rfl

theorem transmit_staysLost (n : Nat) (s : State) (k : Nat) (f : SentFrame) : StaysLost n s (transmit s k f) :=
  .trans (.of_setLink s fun ⟨leaveLeft, tx0, tx1, tx2⟩ => ⟨leaveLeft, tx0, tx1, tx2⟩) ((emit_staysLost n _ _).trans (emit_staysLost n _ _))

theorem sendNew_staysLost (n : Nat) (s : State) (k : Nat) (b : FrameBody) (resending : Bool) : StaysLost n s (sendNew s k b resending) :=
  .trans (.of_setLink s fun ⟨leaveLeft, tx0, tx1, tx2⟩ => ⟨leaveLeft, tx0, tx1, tx2⟩) (transmit_staysLost n _ k _)

theorem sendControl_staysLost (n : Nat) (s : State) (k : Nat) : StaysLost n s (sendControl s k) :=
  .trans (.of_setLink s fun ⟨leaveLeft, tx0, tx1, tx2⟩ => ⟨leaveLeft, tx0, tx1, tx2⟩) (sendNew_staysLost n _ k _ _)

/-- A link that goes DOWN with LEAVE due still owes it (R284). -/
theorem linkDown_staysLost (n : Nat) (s : State) (k : Nat) : StaysLost n s (linkDown s k) := by
  unfold linkDown
  extract_lets x u
  have sent : StaysLost n s u := by
    unfold u
    split
    · exact .foldl (fun s _ => sendControl_staysLost n s k) _ s
    · exact .refl s
  clear_value u
  obtain ⟨emptied, remote, first⟩ := sent.trans (loseRemoteOver_lossNoted n u k).toStaysLost
  refine ⟨fun lost => ?_, remote, first⟩
  rw [getLink_setLink]
  split
  · next same =>
    subst same
    rw [if_neg (by rw [lost.leaveLeft]; decide)]
    exact ⟨lost.leaveLeft, rfl, rfl, rfl⟩
  · exact emptied lost

theorem checkMembership_staysLost (n : Nat) (s : State) : StaysLost n s (checkMembership s) := by
  have down : StaysLost n s (linksDown s) := .foldl (linkDown_staysLost n) _ s
  unfold checkMembership
  split
  · unfold endMembership
    generalize linksDown s = u at down
    exact down.trans ⟨id, fun _ => id, fun valid => ⟨valid, rfl⟩⟩
  · exact .refl s

theorem dissolve_staysLost (n : Nat) (s : State) : StaysLost n s (dissolve s) := by
  unfold dissolve
  split
  · exact .refl s
  · have unbound : StaysLost n s ((List.range 16).foldl (fun s k => setSlot s k (unbindSlot (getSlot s k))) s) :=
      .foldl (fun s k => .of_same (setSlot_wain s k _) (setSlot_err s k _)) _ s
    exact unbound.trans (checkMembership_staysLost n _)

theorem replyForming_staysLost (n : Nat) (s : State) (st : Byte) (d : W32) : StaysLost n s (replyForming s st d) := by
  unfold replyForming
  dsimp only
  split <;> exact .of_same rfl rfl

theorem endForming_staysLost (n : Nat) (s : State) (st : Byte) (d : W32) : StaysLost n s (endForming s st d) := by
  unfold endForming
  extract_lets f x x' y u
  split
  · exact .refl s
  · have replied : StaysLost n s u := .trans (t := setSlot s f.slot y) (.of_same rfl rfl) (replyForming_staysLost n _ st d)
    clear_value u
    split
    · exact replied.trans (checkMembership_staysLost n u)
    · exact replied.trans (.of_same rfl rfl)

theorem loseCrop_staysLost (n : Nat) (s : State) : StaysLost n s (loseCrop s) := by
  unfold loseCrop
  split
  · exact .refl s
  · exact (endForming_staysLost n s _ _).trans (dissolve_staysLost n _)

/-! ## The loss (R283, R284) -/

/-- What is left of a lost link: its peer, its counters, and 16 LEAVE to send. -/
def lostEnd (x : WainLink) : WainLink :=
  { state := .lost, rate := x.rate, peerLink := x.peerLink, peerTally := x.peerTally, peerIdent := x.peerIdent
    err := x.err, leaveLeft := 16, txSeq := x.txSeq, rxSeq := x.rxSeq }

theorem emptied_lostEnd (x : WainLink) : Emptied (lostEnd x) := ⟨rfl, rfl, rfl, rfl⟩

/-- A link is lost, and the errors of its loss are logged. -/
def linkLost (s : State) (link : Nat) : State :=
  dropBuffered (loseRemoteOver (raiseReplanned (setLink s link (lostEnd (getLink s link))) srcWainLost link 0 0 0 none) link) link
    ((getLink s link).tx1.length + (getLink s link).tx2.length)

/-- A link whose loss has been logged: WAIN_LOST is the first record where the bank held none (R284, R527). -/
structure LinkLost (s t : State) (link : Nat) : Prop where
  emptied : Emptied (getLink t link)
  remote : ∀ q ∈ t.wain.remote, q.link ≠ link
  valid : t.err.firstValid = true
  first : s.err.firstValid = false → ∃ r, t.err.first = some r ∧ r.cls = 3 ∧ r.source = 0x0A ∧ r.inst = BitVec.ofNat 16 link

theorem LinkLost.stays {s t u : State} {link : Nat} (h : LinkLost s t link) (k : StaysLost link t u) : LinkLost s u link := by
  obtain ⟨valid, first⟩ := k.first h.valid
  exact ⟨k.emptied h.emptied, fun q hq => h.remote q (k.remote q hq), valid, fun free => by rw [first]; exact h.first free⟩

theorem linkLost_noted (s : State) (link : Nat) : LossNoted link (setLink s link (lostEnd (getLink s link))) (linkLost s link) :=
  (raiseReplanned_lossNoted link _ srcWainLost link 0 0 0 none).trans
    ((loseRemoteOver_lossNoted link _ link).trans (dropBuffered_lossNoted _ link _))

theorem linkLost_lost (s : State) (link : Nat) : LinkLost s (linkLost s link) link := by
  have emptied : Emptied (getLink (linkLost s link) link) :=
    (linkLost_noted s link).emptied (by rw [getLink_setLink_same]; exact emptied_lostEnd _)
  unfold linkLost at emptied ⊢
  obtain ⟨valid, first⟩ := raiseReplanned_recorded (setLink s link (lostEnd (getLink s link))) srcWainLost link 0 0 0 none
  generalize raiseReplanned (setLink s link (lostEnd (getLink s link))) srcWainLost link 0 0 0 none = w at emptied valid first ⊢
  have dropped := dropBuffered_lossNoted (loseRemoteOver w link) link ((getLink s link).tx1.length + (getLink s link).tx2.length)
  obtain ⟨valid', first'⟩ := ((loseRemoteOver_lossNoted link w link).trans dropped).first valid
  exact ⟨emptied, fun q hq => loseRemoteOver_remote w link q (dropped.remote q hq), valid',
    fun free => ⟨_, first'.trans (first free), rfl, rfl, rfl⟩⟩

theorem declareLost_member {s : State} {link : Nat} (member : s.crop.member = true) :
    declareLost s link = if peerInCrop s (getLink s link) then loseCrop (linkLost s link) else linkLost s link :=
  if_pos ((linkLost_noted s link).member.trans member)

/-- The Crop of a member that runs nothing and forms nothing is dissolved (R229, R233). -/
theorem loseCrop_idle {s : State} (idle : runningSlot s = none) (member : s.crop.member = true) (unformed : (getForming s).active = false) :
    loseCrop s = dissolve s := by
  unfold loseCrop endForming
  rw [if_neg (by simp [idle, member]), if_pos (by simp [unformed])]

/-- A member's link that is declared LOST. -/
structure DeclaredLost (s t : State) (link : Nat) : Prop extends LinkLost s t link where
  inRun : (runningSlot s).isSome = true → (getLink t link).state = .lost
  dissolved : runningSlot s = none → (getForming s).active = false → peerInCrop s (getLink s link) = true →
    t.crop = {} ∧ ∀ k, k < 16 → boundSlot (getSlot t k) = false

theorem declareLost_declaredLost {s : State} (link : Nat) (member : s.crop.member = true) : DeclaredLost s (declareLost s link) link := by
  rw [declareLost_member member]
  have lost := linkLost_lost s link
  obtain ⟨-, state, slots, member', forming⟩ := linkLost_noted s link
  rw [getLink_setLink_same] at state
  generalize linkLost s link = u at *
  have running : runningSlot u = runningSlot s := runningSlot_congr fun k => by rw [getSlot_congr slots]; rfl
  split
  · next peer =>
    refine ⟨lost.stays (loseCrop_staysLost link u), fun run => ?_, fun idle unformed _ => ?_⟩
    · have still : loseCrop u = u := if_pos (by rw [running, run]; rfl)
      rw [still]
      exact state
    · have idle := running.trans idle
      have member := member'.trans member
      obtain ⟨crop, -, unbound⟩ := dissolve_member member idle
      rw [loseCrop_idle idle member ((congrArg Forming.active forming).trans unformed)]
      exact ⟨crop, unbound⟩
  · next other => exact ⟨lost, fun _ => state, fun _ _ peer => absurd peer other⟩

end Sys2Proof.Machine
end

section
/-!
PROOFS. Wain links that train, lose lock, relock and are lost.
-/
namespace Sys2Proof.Machine

/-! ## Training (R231, R234, R282) -/

/-- A chip that forms nothing has no checks to tell. -/
theorem reportChecks_idle {s : State} (unformed : (getForming s).active = false) : reportChecks s = s := by
  have judged : judgeForming s = s := if_pos (by simp [unformed])
  unfold reportChecks
  dsimp only
  rw [if_pos (by simp [unformed]), judged]

theorem trainingComplete_up {s : State} {link : Nat} (up : alive s = true) (training : (getLink s link).state = .training) :
    exec (.trainingComplete link) s = .next (linkUp s link) := congrArg _ (if_pos (by rw [up, training]; rfl))

theorem linkUp_idle {s : State} {link : Nat} (unformed : (getForming s).active = false) (alone : (getForming s).joins = []) :
    linkUp s link = setLink s link { getLink s link with state := .up } := by
  let u := setLink s link { getLink s link with state := .up }
  have forming : getForming u = getForming s := rfl
  unfold linkUp
  dsimp only
  rw [if_neg (ne_true_of_eq_false (by rw [forming]; exact unformed)), forming, alone]
  exact reportChecks_idle unformed

/-- In a formation the link that is UP takes this member's identity, and behind it the checks that the member knows (R231, R234). -/
theorem linkUp_tells {s : State} (link : Nat) (forms : (getForming s).active = true) :
    ∃ w, linkUp s link = reportChecks w ∧ (getLink w link).state = .up ∧ w.crop = s.crop
      ∧ (getLink w link).ctrl = (getLink s link).ctrl ++ .ident (ownIdent s link) :: (getForming s).joins.map (fun j => .bindReport (.checks j)) := by
  let u := setLink s link { getLink s link with state := .up }
  have up : getLink u link = { getLink s link with state := .up } := getLink_setLink_same s link _
  let v := sendCtrl u link (.ident (ownIdent s link))
  have named : getLink v link = { getLink u link with ctrl := (getLink u link).ctrl ++ [.ident (ownIdent s link)] } :=
    (getLink_sendCtrl u link _ link).trans (if_pos rfl)
  have told := (foldl_sendCtrl (fun j => .bindReport (.checks j)) (getForming s).joins v link link).trans (if_pos rfl)
  refine ⟨(getForming s).joins.foldl (fun s j => sendCtrl s link (.bindReport (.checks j))) v, ?_, ?_, 
    (foldl_same State.crop (fun _ _ => (sendCtrl_posted _ _ _).crop) _ v).trans rfl, ?_⟩
  · unfold linkUp
    dsimp only
    rw [if_pos (show (getForming u).active = true from forms)]
    rfl
  · rw [told, named, up]
  · rw [told, named, up]
    simp

theorem trainingTimeout_down {s : State} {link : Nat} (up : alive s = true) (training : (getLink s link).state = .training) :
    exec (.trainingTimeout link) s = .next (reportChecks (linkDown s link)) := congrArg _ (if_pos (by rw [up, training]; rfl))

/-- A link without remote requests that fails to train is DOWN, and of it only its error counters are left (R282, R288). -/
theorem linkDown_training {s : State} {link : Nat} (training : (getLink s link).state = .training) (unasked : s.wain.remote = [])
    (free : (getLink s link).leaveLeft = 0) : linkDown s link = setLink s link { err := (getLink s link).err } := by
  have quiet : loseRemoteOver s link = s := by unfold loseRemoteOver; rw [unasked]; rfl
  unfold linkDown
  dsimp only
  rw [if_neg (by rw [training]; decide), quiet, if_pos free]

/-! ## Lock (R282, R285) -/

theorem lossOfLock_up {s : State} {link : Nat} (up : alive s = true) (carries : (getLink s link).state = .up) :
    exec (.lossOfLock link) s = .next (enterRecovery s link) := congrArg _ (if_pos (by rw [up, carries]; rfl))

theorem relock_recovery {s : State} {link : Nat} (up : alive s = true) (lost : (getLink s link).state = .recovery) :
    exec (.relock link) s = .next (setLink s link { getLink s link with state := .up, resync := true, resend := [] }) :=
  congrArg _ (if_pos (by rw [up, lost]; rfl))

/-! ## The loss events (R283) -/

theorem carrying_iff {x : WainLink} : carrying x = true ↔ x.state = .up ∨ x.state = .recovery := by simp [carrying]

theorem linkLossTimeout_carrying {s : State} {link : Nat} (up : alive s = true) (carries : carrying (getLink s link) = true) :
    exec (.linkLossTimeout link) s = .next (declareLost s link) := congrArg _ (if_pos (by rw [up, carries]; rfl))

theorem elasticBufferOverflow_carrying {s : State} {link : Nat} (up : alive s = true) (carries : carrying (getLink s link) = true) :
    exec (.elasticBufferOverflow link) s = .next (declareLost s link) := congrArg _ (if_pos (by rw [up, carries]; rfl))

theorem creditWaitTimeout_carrying {s : State} {link : Nat} (up : alive s = true) (carries : carrying (getLink s link) = true)
    (waits : waitsForCredit (getLink s link) = true) (free : (getLink s link).peerHeld = false) :
    exec (.creditWaitTimeout link) s = .next (declareLost s link) := congrArg _ (if_pos (by rw [up, carries, waits, free]; rfl))

/-- LEAVE is taken from what the link has delivered, and declares it LOST. -/
theorem leave_carrying {s : State} {link : Nat} (up : alive s = true) (carries : carrying (getLink s link) = true) :
    exec (.leave link) s = .next (declareLost (takeFrom s link .leave) link) := by
  have taken := takeFrom_posted s link .leave
  refine congrArg _ (if_pos ?_)
  unfold carrying at carries ⊢
  unfold alive at up ⊢
  rw [taken.boot, taken.state, up, carries]
  rfl

/-- What has been taken from a link's messages does not show in its loss. -/
theorem DeclaredLost.of_posted {s u t : State} {link : Nat} (p : Posted s u) (h : DeclaredLost u t link) : DeclaredLost s t link := by
  obtain ⟨⟨emptied, remote, valid, first⟩, inRun, dissolved⟩ := h
  have running : runningSlot u = runningSlot s := runningSlot_congr fun k => by rw [getSlot_congr p.slots]
  have err : u.err = s.err := by obtain ⟨_, rfl⟩ := p.frame; rfl
  have peer : peerInCrop u (getLink u link) = peerInCrop s (getLink s link) := by unfold peerInCrop; rw [p.peerIdent, p.crop]
  rw [err] at first
  rw [running] at inRun dissolved
  rw [p.getForming, peer] at dissolved
  exact ⟨⟨emptied, remote, valid, first⟩, inRun, dissolved⟩

end Sys2Proof.Machine

namespace Sys2Proof
open Machine

/-- Settles O45: a link's state decides what a command does to it, and of a loss each part is read off. -/
theorem linkEventsComplete : Obligations.LinkEventsComplete := by
  intro s link up x f lost
  have loses {o t} (next : o = .next t) (h : DeclaredLost s t link) : lost o := by
    obtain ⟨⟨⟨leaveLeft, tx0, tx1, tx2⟩, remote, valid, first⟩, inRun, dissolved⟩ := h
    exact ⟨t, next, leaveLeft, tx0, tx1, tx2, remote, valid, first, inRun, dissolved⟩
  refine ⟨fun training => ⟨fun unformed alone => ?idleUp, fun forms => ?formingUp, trainingTimeout_down up training, fun unformed unasked free => ?fails⟩,
    lossOfLock_up up, relock_recovery up, fun member carries => ?lost⟩
  case idleUp => exact (trainingComplete_up up training).trans (congrArg _ (linkUp_idle unformed alone))
  case formingUp =>
    obtain ⟨w, told, here⟩ := linkUp_tells link forms
    exact ⟨w, (trainingComplete_up up training).trans (congrArg _ told), here⟩
  case fails =>
    refine (trainingTimeout_down up training).trans (congrArg _ ?_)
    rw [linkDown_training training unasked free]
    exact reportChecks_idle unformed
  case lost =>
    have carries := carrying_iff.2 carries
    have declared := declareLost_declaredLost link member
    have taken := takeFrom_posted s link .leave
    refine ⟨loses (linkLossTimeout_carrying up carries) declared, loses (elasticBufferOverflow_carrying up carries) declared,
      loses (leave_carrying up carries) (.of_posted taken (declareLost_declaredLost link ?_)),
      fun waits free => loses (creditWaitTimeout_carrying up carries waits free) declared⟩
    rw [taken.crop]
    exact member

end Sys2Proof
end

section
/-!
PROOFS. The commands that form a Crop: a further slot whose own checks fail at the root.
-/
namespace Sys2Proof.Machine

/-! ## A slot that is not loaded

The statement says what the root's CROP_FORM leaves of a further slot, whatever that slot holds. But the links of a member do not train
again (R229), so that the root awaits nothing before it judges its own checks: the command of a slot that is EMPTY is answered with code 0x02
at once (R231), and nothing is being formed. -/

/-- A command of context 5 through Windrow 0. -/
def rootHdr : CmdHdr := { windrow := 0, seq := 7, context := 5, waitPrev := false, irq := false }

/-- The root of Crop 9, at Tally address 3, and over link 0 the other member, at 0: the Crop's plan is bound in slot 1, and slot 0 is EMPTY.
The pool's first line, which is granted to context 5, holds the Crop's member table, and Windrow 0 is privileged. -/
def furtherRoot : State :=
  { boot := { perstLow := false, fwRunning := true, tallyAddr := 3, tallyValid := true, memoryActive := true }
    mem := { poolGib := 20, owner := [(0, 0x7D00005)], ram := ramPutLine {} 0 (cleanLine (3 :: List.replicate 63 0)) }
    grg := { windrows := [(0, { cfg := 0x605, resident := true })] }
    tr := { ctxs := [(5, { state := .active })] }
    slots := [(1, { state := .bound, context := 5, cropId := 9, table := [3, 0] })]
    wain := { links := [(0, { state := .up, peerIdent := some { tally := 0, cropId := 9, position := 1, planId := 0, imageCrc := 0, bindCrc := 0,
                                                                orderV1 := false, link := 0 } })] }
    crop := { member := true, cropId := 9, nmember := 2, parentLink := 0xFF, children := [0] } }

/-- What the root reads of the table. -/
def furtherRootTable : DoRead × State := readDevice furtherRoot (0 : W64).toNat (2 * (2 : W16).toNat) rootHdr.context

/-- Whether a command leaves a formation under way. -/
def formsAfter (x : Host.Outcome State Fault Refusal) : Bool :=
  match x with
  | .next t => (getForming t).active
  | _ => false

theorem furtherRoot_admits : Admitted furtherRoot rootHdr true false :=
  ⟨by decide, fun _ => by decide, by decide, by decide, fun _ => by decide⟩

theorem furtherRootTable_brings : furtherRootTable.1 = .bytes [3, 0, 0, 0] := by decide +kernel
theorem furtherRootTable_tally : furtherRootTable.2.boot.tallyAddr.toNat = 3 := by decide +kernel

/-- The table's second entry is the chip at Tally address 0, which is not this one. -/
theorem furtherRootTable_other :
    ∃ a ∈ (List.range (2 : W16).toNat).map (fun i => fieldLE [3, 0, 0, 0] (2 * i) 2), a ≤ 1023 ∧ a ≠ furtherRootTable.2.boot.tallyAddr.toNat := by
  rw [furtherRootTable_tally]
  decide

/-- The command itself leaves no formation under way. -/
theorem furtherRoot_forms_nothing : formsAfter (exec (.cropForm rootHdr 0 2 9 0 0 0) furtherRoot) = false := by decide +kernel

end Sys2Proof.Machine

namespace Sys2Proof
open Machine

/-- Refutes O8: CROP_FORM of an empty further slot at the root of its Crop meets every condition of the statement and leaves nothing being
formed. -/
theorem not_cropCommandsStartFormation : ¬ Obligations.CropCommandsStartFormation := by
  intro h
  obtain ⟨starts, -⟩ := h furtherRoot rootHdr 0 2 9 0 0 0 [3, 0, 0, 0] furtherRoot_admits (by decide) (by decide) (by decide) (by decide) (by decide)
    (by decide) (by decide) (by decide) (fun _ => by decide) furtherRootTable_brings
  have other := furtherRootTable_other
  unfold furtherRootTable at other
  obtain ⟨t, next, -, -, ⟨j, formed, -⟩, -⟩ := starts (fun _ => by decide) other
  have nothing := furtherRoot_forms_nothing
  rw [next] at nothing
  exact Bool.false_ne_true (nothing.symm.trans (congrArg Forming.active formed))

end Sys2Proof
end

section
/-!
PROOFS. Wain frames that leave a link: what a new frame, a resent one, and the lines of a DATA frame leave of the link's end.
-/
namespace Sys2Proof.Machine

/-! ## A frame on its lanes (R261, R262, R266) -/

/-- Two states alike in what has left, in every other link, and in the header that the link's frames take. -/
structure SameHead (s u : State) (link : Nat) : Prop where
  out : u.out = s.out
  head : headOf (getLink u link) = headOf (getLink s link)
  others : ∀ k, k ≠ link → getLink u k = getLink s k

theorem SameHead.refl (s : State) (link : Nat) : SameHead s s link := ⟨rfl, rfl, fun _ _ => rfl⟩

theorem SameHead.setLink {s u : State} {link : Nat} {y : WainLink} (h : SameHead s u link) (head : headOf y = headOf (getLink u link)) :
    SameHead s (setLink u link y) link :=
  ⟨h.out, by rw [getLink_setLink_same, head, h.head], fun k other => (getLink_setLink_ne _ _ other).trans (h.others k other)⟩

/-- A frame has left on its lanes with the header of its link's end: it set the NAK that was due (R266), and its HELD is LOCAL_HELD (R287). -/
structure Leaves (s t : State) (link : Nat) (f : SentFrame) : Prop where
  out : t.out = s.out ++ [frameOut link (headOf (getLink s link) f) f.body,
    .lanes link (frameLanes (frameMessage (headOf (getLink s link) f) f.body))]
  nakDue : (getLink t link).nakDue = false
  localHeld : (getLink t link).localHeld = (headOf (getLink s link) f).held
  others : ∀ k, k ≠ link → getLink t k = getLink s k

theorem getLink_transmit (s : State) (link : Nat) (f : SentFrame) (k : Nat) : getLink (transmit s link f) k
    = if k = link then { getLink s link with nakDue := false, localHeld := (headOf (getLink s link) f).held } else getLink s k :=
  getLink_setLink s link k _

theorem transmit_leaves {s u : State} {link : Nat} (f : SentFrame) (same : SameHead s u link) : Leaves s (transmit u link f) link f := by
  have links := getLink_transmit u link f
  refine ⟨?_, ?_, ?_, fun k other => ?_⟩
  · rw [← same.head, ← same.out]
    unfold transmit
    dsimp only
    rw [emit_out, emit_out, setLink_out, List.append_assoc]
    rfl
  · rw [links, if_pos rfl]
  · rw [links, if_pos rfl, same.head]
  · rw [links, if_neg other, same.others k other]

/-! ## A new frame (R266, R269) -/

/-- A new frame of a link's end: its next number, and the credits to return. -/
def freshFrame (x : WainLink) (body : FrameBody) : SentFrame := ⟨x.txSeq, min x.ret0 255, min x.ret1 255, min x.ret2 255, body⟩

/-- A link's end once a new frame has its number and its credits, and is among the last 32. -/
def numbered (x : WainLink) (body : FrameBody) (resending : Bool) : WainLink :=
  { x with
    txSeq := x.txSeq + 1, ret0 := x.ret0 - min x.ret0 255, ret1 := x.ret1 - min x.ret1 255, ret2 := x.ret2 - min x.ret2 255
    replay := (x.replay ++ [freshFrame x body]).drop ((x.replay ++ [freshFrame x body]).length - 32)
    resend := if resending then x.resend ++ [freshFrame x body] else x.resend }

theorem sendNew_eq (s : State) (link : Nat) (body : FrameBody) (resending : Bool) : sendNew s link body resending
    = transmit (setLink s link (numbered (getLink s link) body resending)) link (freshFrame (getLink s link) body) := rfl

theorem getLink_sendNew (s : State) (link : Nat) (body : FrameBody) (resending : Bool) : getLink (sendNew s link body resending) link
    = { numbered (getLink s link) body resending with nakDue := false, localHeld := !(getLink s link).rx0.isEmpty } := by
  rw [sendNew_eq, getLink_transmit, if_pos rfl, getLink_setLink_same]
  rfl

/-- Two ends of a link with the same frames, numbers and credits to return: what they differ in, no frame carries. -/
def Alike (x y : WainLink) : Prop :=
  ∃ ctrl tx0 tx1 tx2 own0 own1 own2 sharedCred lastVc leaveLeft,
    y = { x with ctrl, tx0, tx1, tx2, own0, own1, own2, sharedCred, lastVc, leaveLeft }

theorem Alike.refl (x : WainLink) : Alike x x := ⟨_, _, _, _, _, _, _, _, _, _, rfl⟩

theorem Alike.headOf {x y : WainLink} (h : Alike x y) : headOf y = headOf x := by
  obtain ⟨_, _, _, _, _, _, _, _, _, _, rfl⟩ := h
  rfl

/-- A new frame has left: it took the next number and the credits to return, and is the last of the 32 kept. -/
structure LeavesNew (s t : State) (link : Nat) (body : FrameBody) : Prop extends Leaves s t link (freshFrame (getLink s link) body) where
  txSeq : (getLink t link).txSeq = (getLink s link).txSeq + 1
  ret0 : (getLink t link).ret0 = (getLink s link).ret0 - 255
  ret1 : (getLink t link).ret1 = (getLink s link).ret1 - 255
  ret2 : (getLink t link).ret2 = (getLink s link).ret2 - 255
  replay : (getLink t link).replay
    = ((getLink s link).replay ++ [freshFrame (getLink s link) body]).drop ((getLink s link).replay.length + 1 - 32)

theorem sendNew_leaves {s u : State} {link : Nat} (body : FrameBody) (resending : Bool) (same : SameHead s u link)
    (alike : Alike (getLink s link) (getLink u link)) : LeavesNew s (sendNew u link body resending) link body := by
  have here := getLink_sendNew u link body resending
  have leaves : Leaves s (sendNew u link body resending) link (freshFrame (getLink u link) body) := transmit_leaves _ (same.setLink rfl)
  obtain ⟨_, _, _, _, _, _, _, _, _, _, alike⟩ := alike
  rw [alike] at here leaves
  refine ⟨leaves, ?_, ?_, ?_, ?_, ?_⟩
  · rw [here]; rfl
  · rw [here]; exact (Nat.sub_eq_sub_min _ _).symm
  · rw [here]; exact (Nat.sub_eq_sub_min _ _).symm
  · rw [here]; exact (Nat.sub_eq_sub_min _ _).symm
  · rw [here]
    unfold numbered
    dsimp only
    rw [List.length_append]
    rfl

/-! ## FRAME_SEND (R266, R268, R269, R284) -/

theorem any_iff_filter_ne_nil {α : Type} {p : α → Bool} {l : List α} : l.any p = true ↔ l.filter p ≠ [] := by
  simp [List.filter_eq_nil_iff]

theorem frameSend_control {s : State} {link : Nat} (up : alive s = true) (state : (getLink s link).state = .up)
    (ready : (getLink s link).ctrl.filter (ctrlReady s) ≠ []) : exec (.frameSend link) s = .next (sendControl s link) := by
  change execFrameSend link s = _
  unfold execFrameSend
  dsimp only
  rw [up, if_neg (by decide), if_pos state, if_pos (any_iff_filter_ne_nil.2 ready)]

theorem frameSend_unready {s : State} {link : Nat} (up : alive s = true) (state : (getLink s link).state = .up)
    (ready : (getLink s link).ctrl.filter (ctrlReady s) = []) : exec (.frameSend link) s = .next (
      if (getLink s link).resend ≠ [] then sendAgain s link
      else match (vcOrder (getLink s link).lastVc).find? (fun vc => decide (0 < sendable (getLink s link) vc)) with
        | some vc => sendData s link vc
        | none => sendNew s link .idle false) := by
  change execFrameSend link s = _
  unfold execFrameSend
  dsimp only
  rw [up, if_neg (by decide), if_pos state, if_neg (fun h => any_iff_filter_ne_nil.1 h ready)]
  cases (getLink s link).resend with
  | cons => rfl
  | nil =>
    cases (vcOrder (getLink s link).lastVc).find? (fun vc => decide (0 < sendable (getLink s link) vc)) <;> rfl

theorem frameSend_leaving {s : State} {link : Nat} (up : alive s = true) (state : (getLink s link).state ≠ .up) : exec (.frameSend link) s
    = .next (if 0 < (getLink s link).leaveLeft then sendLeave s link else s) := by
  change execFrameSend link s = _
  unfold execFrameSend
  dsimp only
  rw [up, if_neg (by decide), if_neg state]
  split <;> rfl

theorem sameHead_of_alike {s : State} {link : Nat} {y : WainLink} (alike : Alike (getLink s link) y) : SameHead s (setLink s link y) link :=
  (SameHead.refl s link).setLink alike.headOf

/-- The control messages that are ready leave, at most 80, and join the frames to resend while some are due (R266, R268). -/
theorem sendControl_leaves (s : State) (link : Nat) :
    let x := getLink s link
    let ready := x.ctrl.filter (ctrlReady s)
    let t := sendControl s link
    let body := FrameBody.control ((ready.take 80).map (stamped s))
    LeavesNew s t link body ∧ (getLink t link).ctrl = ready.drop 80 ++ x.ctrl.filter (fun m => !ctrlReady s m)
    ∧ (getLink t link).resend = if x.resend = [] then [] else x.resend ++ [freshFrame x body] := by
  intro x ready t body
  let y : WainLink := { x with ctrl := ready.drop 80 ++ x.ctrl.filter (fun m => !ctrlReady s m) }
  have alike : Alike x y := ⟨_, _, _, _, _, _, _, _, _, _, rfl⟩
  have here : getLink t link = _ := getLink_sendNew (setLink s link y) link body (!x.resend.isEmpty)
  rw [getLink_setLink_same] at here
  refine ⟨sendNew_leaves body _ (sameHead_of_alike alike) (by rw [getLink_setLink_same]; exact alike), by rw [here]; rfl, ?_⟩
  rw [here]
  change (if (!x.resend.isEmpty) = true then x.resend ++ [freshFrame x body] else x.resend) = _
  cases x.resend <;> rfl

/-- A frame kept for resending leaves again with the header of now, and counts in RETRY (R266). -/
theorem sendAgain_leaves {s : State} {link : Nat} {f : SentFrame} {rest : List SentFrame} (resend : (getLink s link).resend = f :: rest) :
    let x := getLink s link
    let t := sendAgain s link
    Leaves s t link f ∧ (getLink t link).resend = rest ∧ (getLink t link).err = bump x.err 47 32 1 ∧ (getLink t link).txSeq = x.txSeq
    ∧ (getLink t link).replay = x.replay := by
  intro x t
  let y : WainLink := { x with resend := rest, err := bump x.err 47 32 1 }
  have sent : t = transmit (setLink s link y) link f := by
    unfold t sendAgain
    dsimp only
    rw [resend]
  have here : getLink t link = { y with nakDue := false, localHeld := (headOf y f).held } := by
    rw [sent, getLink_transmit, if_pos rfl, getLink_setLink_same]
  refine ⟨?_, ?_, ?_, ?_, ?_⟩
  · rw [sent]; exact transmit_leaves f ((SameHead.refl s link).setLink rfl)
  all_goals rw [here]

/-- Lines of a channel that leave: its own credits go before shared ones (R269). -/
theorem takeLines_leaves {x : WainLink} {vc n : Nat} (h : n ≤ sendable x vc) :
    let y := takeLines x vc n
    Alike x y ∧ txLines y vc = (txLines x vc).drop n ∧ y.lastVc = vc
    ∧ ownCredits y vc + y.sharedCred + n = ownCredits x vc + x.sharedCred := by
  have credits : n ≤ ownCredits x vc + x.sharedCred := h.trans ((min_le_right ..).trans (min_le_right ..))
  have spent : ownCredits x vc - min n (ownCredits x vc) + (x.sharedCred - (n - min n (ownCredits x vc))) + n = ownCredits x vc + x.sharedCred := by
    omega
  unfold takeLines txLines
  by_cases vc0 : vc = 0
  · subst vc0
    exact ⟨⟨_, _, _, _, _, _, _, _, _, _, rfl⟩, rfl, rfl, spent⟩
  · by_cases vc1 : vc = 1
    · subst vc1
      exact ⟨⟨_, _, _, _, _, _, _, _, _, _, rfl⟩, rfl, rfl, spent⟩
    · unfold ownCredits at *
      simp only [vc0, vc1, if_false] at *
      exact ⟨⟨_, _, _, _, _, _, _, _, _, _, rfl⟩, trivial, trivial, spent⟩

/-- The state once a DATA frame of a channel has left. -/
def dataSent (s : State) (link vc : Nat) : State :=
  sendNew (setLink s link (takeLines (getLink s link) vc (sendable (getLink s link) vc))) link
    (.data (BitVec.ofNat 2 vc) ((txLines (getLink s link) vc).take (sendable (getLink s link) vc))) false

theorem sendData_eq (s : State) (link vc : Nat) : sendData s link vc
    = if vc = 0 ∧ (getLink (dataSent s link vc) link).tx0 = [] then sendDone (dataSent s link vc) link else dataSent s link vc := by
  change (if (decide (vc = 0) && (getLink (dataSent s link vc) link).tx0.isEmpty) = true then _ else _) = _
  exact if_congr (by simp) rfl rfl

theorem dataSent_leaves (s : State) (link vc : Nat) :
    let x := getLink s link
    let n := sendable x vc
    let w := dataSent s link vc
    LeavesNew s w link (.data (BitVec.ofNat 2 vc) ((txLines x vc).take n)) ∧ txLines (getLink w link) vc = (txLines x vc).drop n
    ∧ (getLink w link).lastVc = vc ∧ ownCredits (getLink w link) vc + (getLink w link).sharedCred + n = ownCredits x vc + x.sharedCred := by
  intro x n w
  obtain ⟨alike, lines, last, credits⟩ := takeLines_leaves (x := x) (vc := vc) (le_refl n)
  have here : getLink w link = _ := getLink_sendNew (setLink s link (takeLines x vc n)) link _ false
  rw [getLink_setLink_same] at here
  exact ⟨sendNew_leaves _ _ (sameHead_of_alike alike) (by rw [getLink_setLink_same]; exact alike), by rw [here]; exact lines, by rw [here]; exact last,
    by rw [here]; exact credits⟩

theorem sendLeave_leaves (s : State) (link : Nat) :
    LeavesNew s (sendLeave s link) link (.control [.leave]) ∧ (getLink (sendLeave s link) link).leaveLeft = (getLink s link).leaveLeft - 1 := by
  let y : WainLink := { getLink s link with leaveLeft := (getLink s link).leaveLeft - 1 }
  have alike : Alike (getLink s link) y := ⟨_, _, _, _, _, _, _, _, _, _, rfl⟩
  have here : getLink (sendLeave s link) link = _ := getLink_sendNew (setLink s link y) link (.control [.leave]) false
  rw [getLink_setLink_same] at here
  exact ⟨sendNew_leaves _ _ (sameHead_of_alike alike) (by rw [getLink_setLink_same]; exact alike), by rw [here]; rfl⟩

end Sys2Proof.Machine
end

section
/-!
PROOFS. Wain frames that arrive on a link that is UP: what an accepted frame and a discarded one leave of the link's end.
-/
namespace Sys2Proof.Machine

/-! ## The check (R264, R285) -/

/-- A link's end that has counted the symbols corrected in a frame (R264). -/
def symbolsCounted (x : WainLink) (n : Nat) : WainLink := { x with err := if n = 0 then x.err else bump x.err 31 0 n }

/-- A link's end once a frame has passed its check: after relock the frame says where to resend from (R285). -/
def checkedEnd (x : WainLink) (h : FrameHead) : WainLink :=
  { symbolsCounted x h.corrected with peerHeld := h.held, resync := false, resend := if x.resync then framesAfter x h.ack else x.resend }

/-- A link's end once a frame has passed its check and come in order. -/
def acceptedEnd (x : WainLink) (h : FrameHead) : WainLink := acceptHead (checkedEnd x h) h

theorem getLink_countSymbols (s : State) (link n k : Nat) :
    getLink (countSymbols s link n) k = if k = link then symbolsCounted (getLink s link) n else getLink s k := by
  unfold countSymbols symbolsCounted
  by_cases none_ : n = 0
  · simp only [none_, if_true]
    split
    · next here => rw [here]
    · rfl
  · simp only [none_, if_false]
    exact getLink_setLink s link k _

/-- Counting corrected symbols changes the link's end and the counts of the error bank only. -/
theorem countSymbols_frame (s : State) (link n : Nat) :
    ∃ err wain, countSymbols s link n = { s with err, wain } ∧ err.errWrites = s.err.errWrites := by
  unfold countSymbols
  split
  · exact ⟨_, _, rfl, rfl⟩
  · exact ⟨_, _, rfl, rfl⟩

theorem checkedEnd_eq (x : WainLink) (h : FrameHead) :
    (let y : WainLink := { symbolsCounted x h.corrected with peerHeld := h.held }
      if y.resync then { y with resync := false, resend := framesAfter y h.ack } else y) = checkedEnd x h := by
  unfold checkedEnd symbolsCounted
  cases relocked : x.resync
  · simp
  · simp [framesAfter]

/-- What a frame on a link that is UP comes to: discarded with a NAK due, discarded as out of order, or accepted. -/
theorem receiveFrame_up {s : State} {link : Nat} (h : FrameHead) (crcOk : Bool) (deliver : State → State) (up : alive s = true)
    (state : (getLink s link).state = .up) : receiveFrame s link h crcOk deliver = (
      let x := getLink s link
      let u := countSymbols s link h.corrected
      if (h.decodes && crcOk) = false then discardFrame u link true
      else if h.seq ≠ x.rxSeq + 1 then discardFrame (setLink u link (checkedEnd x h)) link false
      else deliver (setLink u link (acceptedEnd x h))) := by
  have here := (getLink_countSymbols s link h.corrected link).trans (if_pos rfl)
  have checked := checkedEnd_eq (getLink s link) h
  unfold receiveFrame
  dsimp only at checked ⊢
  rw [up, state, if_neg (by decide), here, checked]
  refine if_congr (by rw [Bool.not_eq_true']) rfl (if_congr (by rw [bne_iff_ne]; rfl) rfl ?_)
  rw [setLink_setLink]
  rfl

/-! ## Frames discarded (R264, R266, R282) -/

/-- A link's end that has discarded a frame: the fourth in a row means RECOVERY. -/
def discardedEnd (x : WainLink) (failed : Bool) : WainLink :=
  if 3 ≤ x.badFrames then { x with nakDue := x.nakDue || failed, state := .recovery, badFrames := 0, err := bump x.err 55 48 1 }
  else { x with nakDue := x.nakDue || failed, badFrames := x.badFrames + 1 }

theorem getLink_discardFrame (s : State) (link : Nat) (failed : Bool) (k : Nat) :
    getLink (discardFrame s link failed) k = if k = link then discardedEnd (getLink s link) failed else getLink s k := by
  unfold discardFrame discardedEnd enterRecovery
  dsimp only
  by_cases fourth : 3 ≤ (getLink s link).badFrames
  · rw [if_pos (Nat.succ_le_succ fourth), if_pos fourth, getLink_setLink_same, setLink_setLink]
    exact getLink_setLink s link k _
  · rw [if_neg (fun h => fourth (Nat.le_of_succ_le_succ h)), if_neg fourth]
    exact getLink_setLink s link k _

/-- A link's end has discarded a frame: nothing of it was taken in, and it counts among those discarded in a row. -/
structure EndDiscards (x y : WainLink) (h : FrameHead) : Prop where
  rxSeq : y.rxSeq = x.rxSeq
  inbox : y.inbox = x.inbox
  rx0 : y.rx0 = x.rx0
  rx1 : y.rx1 = x.rx1
  rx2 : y.rx2 = x.rx2
  counted : x.badFrames < 3 → y.badFrames = x.badFrames + 1 ∧ y.state = .up ∧ y.err = (symbolsCounted x h.corrected).err
  fourth : 3 ≤ x.badFrames → y.state = .recovery ∧ y.badFrames = 0 ∧ y.err = bump (symbolsCounted x h.corrected).err 55 48 1

theorem discardedEnd_discards {x y : WainLink} {h : FrameHead} (failed : Bool) (state : x.state = .up)
    (seen : ∃ peerHeld resync resend, y = { symbolsCounted x h.corrected with peerHeld, resync, resend }) :
    EndDiscards x (discardedEnd y failed) h ∧ (discardedEnd y failed).nakDue = (x.nakDue || failed)
    ∧ (discardedEnd y failed).resend = y.resend := by
  obtain ⟨_, _, _, rfl⟩ := seen
  unfold discardedEnd
  split
  · next fourth =>
    exact ⟨⟨rfl, rfl, rfl, rfl, rfl, fun few => absurd fourth (Nat.not_le.2 few), fun _ => ⟨rfl, rfl, rfl⟩⟩, rfl, rfl⟩
  · next fourth =>
    exact ⟨⟨rfl, rfl, rfl, rfl, rfl, fun _ => ⟨rfl, state, rfl⟩, fun many => absurd many fourth⟩, rfl, rfl⟩

/-- A frame on a link has been discarded. -/
structure FrameDiscarded (s t : State) (link : Nat) (h : FrameHead) : Prop where
  here : EndDiscards (getLink s link) (getLink t link) h
  others : ∀ k, k ≠ link → getLink t k = getLink s k

theorem discardFrame_discards {s u : State} {link : Nat} {h : FrameHead} (failed : Bool) (state : (getLink s link).state = .up)
    (others : ∀ k, k ≠ link → getLink u k = getLink s k)
    (seen : ∃ peerHeld resync resend, getLink u link = { symbolsCounted (getLink s link) h.corrected with peerHeld, resync, resend }) :
    let t := discardFrame u link failed
    FrameDiscarded s t link h ∧ (getLink t link).nakDue = ((getLink s link).nakDue || failed) ∧ (getLink t link).resend = (getLink u link).resend := by
  obtain ⟨discards, nakDue, resend⟩ := discardedEnd_discards failed state seen
  have links := getLink_discardFrame u link failed
  rw [← (links link).trans (if_pos rfl)] at discards nakDue resend
  exact ⟨⟨discards, fun k other => (links k).trans ((if_neg other).trans (others k other))⟩, nakDue, resend⟩

/-- A frame that fails its check is discarded, and asks for a NAK (R264, R266). -/
theorem receiveFrame_refused {s : State} {link : Nat} {h : FrameHead} {crcOk : Bool} (deliver : State → State) (up : alive s = true)
    (state : (getLink s link).state = .up) (fails : (h.decodes && crcOk) = false) :
    let t := receiveFrame s link h crcOk deliver
    FrameDiscarded s t link h ∧ (getLink t link).nakDue = true ∧ (getLink t link).resend = (getLink s link).resend := by
  have links := getLink_countSymbols s link h.corrected
  have here := (links link).trans (if_pos rfl)
  obtain ⟨discarded, nakDue, resend⟩ := discardFrame_discards (u := countSymbols s link h.corrected) true state
    (fun k other => (links k).trans (if_neg other)) ⟨_, _, _, here⟩
  rw [receiveFrame_up h crcOk deliver up state]
  dsimp only
  rw [if_pos fails]
  exact ⟨discarded, nakDue.trans (Bool.or_true _), resend.trans (by rw [here]; rfl)⟩

/-- A frame that passes its check out of order is discarded (R266). -/
theorem receiveFrame_late {s : State} {link : Nat} {h : FrameHead} {crcOk : Bool} (deliver : State → State) (up : alive s = true)
    (state : (getLink s link).state = .up) (passes : (h.decodes && crcOk) = true) (late : h.seq ≠ (getLink s link).rxSeq + 1) :
    let t := receiveFrame s link h crcOk deliver
    FrameDiscarded s t link h ∧ (getLink t link).nakDue = (getLink s link).nakDue
    ∧ (getLink t link).resend = if (getLink s link).resync then framesAfter (getLink s link) h.ack else (getLink s link).resend := by
  have links := getLink_countSymbols s link h.corrected
  obtain ⟨discarded, nakDue, resend⟩ := discardFrame_discards (u := setLink (countSymbols s link h.corrected) link (checkedEnd (getLink s link) h))
    false state (fun k other => (getLink_setLink_ne _ _ other).trans ((links k).trans (if_neg other))) ⟨_, _, _, getLink_setLink_same _ _ _⟩
  rw [receiveFrame_up h crcOk deliver up state]
  dsimp only
  rw [if_neg (by rw [passes]; decide), if_pos late]
  exact ⟨discarded, nakDue.trans (Bool.or_false _), resend.trans (by rw [getLink_setLink_same]; rfl)⟩

/-! ## Frames accepted (R264, R266, R269) -/

/-- The state once a frame has been accepted and before what it carries is delivered. -/
def accepted (s : State) (link : Nat) (h : FrameHead) : State :=
  setLink (countSymbols s link h.corrected) link (acceptedEnd (getLink s link) h)

theorem receiveFrame_accepted {s : State} {link : Nat} {h : FrameHead} {crcOk : Bool} (deliver : State → State) (up : alive s = true)
    (state : (getLink s link).state = .up) (passes : (h.decodes && crcOk) = true) (next : h.seq = (getLink s link).rxSeq + 1) :
    receiveFrame s link h crcOk deliver = deliver (accepted s link h) := by
  rw [receiveFrame_up h crcOk deliver up state]
  dsimp only
  rw [if_neg (by rw [passes]; decide), if_neg (not_not.2 next)]
  rfl

/-- A link's end has accepted a frame: SEQ, the credits that it returned, and where to resend from. -/
structure EndTakes (x y : WainLink) (h : FrameHead) : Prop where
  rxSeq : y.rxSeq = h.seq
  badFrames : y.badFrames = 0
  peerHeld : y.peerHeld = h.held
  own0 : x.own0 ≤ 16 → y.own0 = min 16 (x.own0 + h.cred0.toNat)
  own1 : x.own1 ≤ 16 → y.own1 = min 16 (x.own1 + h.cred1.toNat)
  own2 : x.own2 ≤ 16 → y.own2 = min 16 (x.own2 + h.cred2.toNat)
  sharedCred : y.sharedCred ≤ 2000
  resend : y.resend = if h.nak = true ∧ x.lastNak ≠ some h.ack then framesAfter x h.ack else if x.resync then framesAfter x h.ack else x.resend
  resync : y.resync = false
  err : y.err = (symbolsCounted x h.corrected).err

/-- A frame on a link has been accepted. -/
structure FrameTaken (s t : State) (link : Nat) (h : FrameHead) : Prop where
  here : EndTakes (getLink s link) (getLink t link) h
  others : ∀ k, k ≠ link → getLink t k = getLink s k

theorem creditBack_own {own : Nat} (shared n : Nat) (h : own ≤ 16) : (creditBack own shared n).1 = min 16 (own + n) := by
  unfold creditBack
  dsimp only
  omega

theorem creditBack_shared (own shared n : Nat) : (creditBack own shared n).2 ≤ 2000 := min_le_left _ _

/-- What an accepted header leaves of its link's end: a NAK that is not the second with its ACK asks for the frames after it (R266). -/
theorem acceptHead_eq (x : WainLink) (h : FrameHead) : ∃ own0 own1 own2 sharedCred lastNak resend,
    acceptHead x h = { x with rxSeq := h.seq, badFrames := 0, own0, own1, own2, sharedCred, lastNak, resend }
    ∧ (x.own0 ≤ 16 → own0 = min 16 (x.own0 + h.cred0.toNat)) ∧ (x.own1 ≤ 16 → own1 = min 16 (x.own1 + h.cred1.toNat))
    ∧ (x.own2 ≤ 16 → own2 = min 16 (x.own2 + h.cred2.toNat)) ∧ sharedCred ≤ 2000
    ∧ resend = if h.nak = true ∧ x.lastNak ≠ some h.ack then framesAfter x h.ack else x.resend := by
  unfold acceptHead
  extract_lets c0 c1 c2 y
  have own0 : x.own0 ≤ 16 → c0.1 = min 16 (x.own0 + h.cred0.toNat) := creditBack_own _ _
  have own1 : x.own1 ≤ 16 → c1.1 = min 16 (x.own1 + h.cred1.toNat) := creditBack_own _ _
  have own2 : x.own2 ≤ 16 → c2.1 = min 16 (x.own2 + h.cred2.toNat) := creditBack_own _ _
  have shared : c2.2 ≤ 2000 := creditBack_shared _ _ _
  split
  · next asks =>
    split
    · next second => exact ⟨_, _, _, _, _, _, rfl, own0, own1, own2, shared, (if_neg fun new => new.2 second).symm⟩
    · next new => exact ⟨_, _, _, _, _, _, rfl, own0, own1, own2, shared, (if_pos ⟨asks, new⟩).symm⟩
  · next unasked =>
    split <;> exact ⟨_, _, _, _, _, _, rfl, own0, own1, own2, shared, (if_neg fun new => unasked new.1).symm⟩

/-- An accepted frame leaves its header's fields, whatever control messages and lines it delivers besides. -/
theorem acceptedEnd_takes (x : WainLink) (h : FrameHead) (inbox : List CtrlMsg) (rx0 rx1 rx2 : List (List Byte)) :
    EndTakes x { acceptedEnd x h with inbox, rx0, rx1, rx2 } h := by
  obtain ⟨_, _, _, _, _, _, head, own0, own1, own2, shared, resend⟩ := acceptHead_eq (checkedEnd x h) h
  rw [acceptedEnd, head]
  exact ⟨rfl, rfl, rfl, own0, own1, own2, shared, resend, rfl, rfl⟩

/-- What a link's end has received, an accepted header leaves alone. -/
theorem acceptedEnd_received (x : WainLink) (h : FrameHead) : (acceptedEnd x h).inbox = x.inbox ∧ (acceptedEnd x h).rx0 = x.rx0
    ∧ (acceptedEnd x h).rx1 = x.rx1 ∧ (acceptedEnd x h).rx2 = x.rx2 := by
  obtain ⟨_, _, _, _, _, _, head, -⟩ := acceptHead_eq (checkedEnd x h) h
  rw [acceptedEnd, head]
  exact ⟨rfl, rfl, rfl, rfl⟩

theorem getLink_accepted (s : State) (link : Nat) (h : FrameHead) (k : Nat) :
    getLink (accepted s link h) k = if k = link then acceptedEnd (getLink s link) h else getLink s k := by
  unfold accepted
  rw [getLink_setLink]
  split
  · rfl
  · next other => rw [getLink_countSymbols, if_neg other]

/-- An accepted frame changes the link's end and the counts of the error bank only. -/
theorem accepted_frame (s : State) (link : Nat) (h : FrameHead) :
    ∃ err wain, accepted s link h = { s with err, wain } ∧ err.errWrites = s.err.errWrites := by
  obtain ⟨_, _, counted, writes⟩ := countSymbols_frame s link h.corrected
  unfold accepted
  rw [counted]
  exact ⟨_, _, rfl, writes⟩

/-- The state once an accepted frame has delivered control messages or lines. -/
theorem setLink_accepted_taken (s : State) (link : Nat) (h : FrameHead) (inbox : List CtrlMsg) (rx0 rx1 rx2 : List (List Byte)) :
    FrameTaken s (setLink (accepted s link h) link { acceptedEnd (getLink s link) h with inbox, rx0, rx1, rx2 }) link h := by
  refine ⟨?_, fun k other => ?_⟩
  · rw [getLink_setLink_same]
    exact acceptedEnd_takes _ h inbox rx0 rx1 rx2
  · rw [getLink_setLink_ne _ _ other, getLink_accepted, if_neg other]

end Sys2Proof.Machine
end

section
/-!
PROOFS. What frames deliver, and the frames of a Wain link in order.
-/
namespace Sys2Proof.Machine

/-! ## What an accepted frame delivers (R263, R268, R272) -/

theorem idleFrame_accepted {s : State} {link : Nat} {h : FrameHead} (up : alive s = true) (state : (getLink s link).state = .up)
    (decodes : h.decodes = true) (kind : h.kind = 0) (next : h.seq = (getLink s link).rxSeq + 1) :
    exec (.idleFrame link h (frameCrc h 0 0 [])) s = .next (accepted s link h) :=
  congrArg _ (receiveFrame_accepted _ up state (by simp [decodes, kind]) next)

theorem accepted_taken (s : State) (link : Nat) (h : FrameHead) : FrameTaken s (accepted s link h) link h := by
  refine ⟨?_, fun k other => by rw [getLink_accepted, if_neg other]⟩
  rw [getLink_accepted, if_pos rfl]
  exact acceptedEnd_takes (getLink s link) h _ _ _ _

/-- The state once an accepted CONTROL frame has delivered its messages. -/
def messagesDelivered (s : State) (link : Nat) (h : FrameHead) (ms : List CtrlMsg) : State :=
  setLink (accepted s link h) link { acceptedEnd (getLink s link) h with inbox := (acceptedEnd (getLink s link) h).inbox ++ ms }

theorem controlFrame_accepted {s : State} {link : Nat} {h : FrameHead} (map : BitVec 80) (ms : List CtrlMsg) (up : alive s = true)
    (state : (getLink s link).state = .up) (decodes : h.decodes = true) (kind : h.kind = 2) (next : h.seq = (getLink s link).rxSeq + 1) :
    exec (.controlFrame link h ⟨map, frameCrc h 0 map (ms.map Config.ctrlSlot)⟩ ms) s = .next (messagesDelivered s link h ms) := by
  refine congrArg _ ((receiveFrame_accepted _ up state (by simp [decodes, kind]) next).trans ?_)
  dsimp only
  rw [getLink_accepted, if_pos rfl]
  rfl

/-- The state once the lines of an accepted DATA frame have joined their channel's receive buffer. -/
def linesBuffered (s : State) (link : Nat) (h : FrameHead) (vc : Nat) (ls : List (List Byte)) : State :=
  setLink (accepted s link h) link (bufferLines (acceptedEnd (getLink s link) h) vc ls)

theorem dataFrame_accepted {s : State} {link : Nat} {h : FrameHead} {vc : BitVec 2} (map : BitVec 80) (ls : List (List Byte)) (up : alive s = true)
    (state : (getLink s link).state = .up) (decodes : h.decodes = true) (kind : h.kind = 1) (channel : vc ≠ 3)
    (next : h.seq = (getLink s link).rxSeq + 1) : exec (.dataFrame link ⟨h, vc, map, ls, frameCrc h vc map ls⟩) s
      = .next (let w := linesBuffered s link h vc.toNat ls
        if vc = 0 then deliverVc0 w link else w) := by
  refine congrArg _ ((receiveFrame_accepted _ up state (by simpa [decodes, kind] using channel) next).trans ?_)
  dsimp only
  rw [getLink_accepted, if_pos rfl]
  rfl

theorem bufferLines_eq (x : WainLink) (vc : Nat) (ls : List (List Byte)) : ∃ rx0 rx1 rx2, bufferLines x vc ls = { x with rx0, rx1, rx2 } := by
  unfold bufferLines
  split
  · exact ⟨_, _, _, rfl⟩
  · split <;> exact ⟨_, _, _, rfl⟩

theorem linesBuffered_taken (s : State) (link : Nat) (h : FrameHead) (vc : Nat) (ls : List (List Byte)) :
    FrameTaken s (linesBuffered s link h vc ls) link h := by
  obtain ⟨_, _, _, buffered⟩ := bufferLines_eq (acceptedEnd (getLink s link) h) vc ls
  unfold linesBuffered
  rw [buffered]
  exact setLink_accepted_taken ..

theorem linesBuffered_frame (s : State) (link : Nat) (h : FrameHead) (vc : Nat) (ls : List (List Byte)) :
    ∃ err wain, linesBuffered s link h vc ls = { s with err, wain } ∧ err.errWrites = s.err.errWrites := by
  obtain ⟨_, _, frame, writes⟩ := accepted_frame s link h
  unfold linesBuffered
  rw [frame]
  exact ⟨_, _, rfl, writes⟩

/-- The lines of a frame join the receive buffer of their channel. -/
theorem linesBuffered_rx (s : State) (link : Nat) (h : FrameHead) (ls : List (List Byte)) :
    (getLink (linesBuffered s link h 0 ls) link).rx0 = (getLink s link).rx0 ++ ls
    ∧ (getLink (linesBuffered s link h 1 ls) link).rx1 = (getLink s link).rx1 ++ ls
    ∧ (getLink (linesBuffered s link h 2 ls) link).rx2 = (getLink s link).rx2 ++ ls := by
  obtain ⟨-, rx0, rx1, rx2⟩ := acceptedEnd_received (getLink s link) h
  unfold linesBuffered
  rw [getLink_setLink_same, getLink_setLink_same, getLink_setLink_same, ← rx0, ← rx1, ← rx2]
  exact ⟨rfl, rfl, rfl⟩

/-! ## Lines of VC0 (R272, R275) -/

theorem receiveLines_unopened {s : State} {u link : Nat} {crop : Bool} (none_ : openReceive s u link crop = none) :
    receiveLines s u link crop = s := by
  unfold receiveLines
  rw [none_]

/-- Lines for which no receive is open wait, while the epoch still awaits some. -/
theorem deliverVc0_waits {w : State} {link : Nat} (awaits : transfersDone w = false) (own : openReceive w (25 + link) link false = none)
    (crop : openReceive w 24 link true = none) : deliverVc0 w link = w := by
  have none_ : surplusLinks w = [] := if_neg (ne_true_of_eq_false awaits)
  unfold deliverVc0
  rw [none_, if_neg (by simp), receiveLines_unopened own, receiveLines_unopened crop]

/-- Lines that no receive of the epoch awaits are surplus (R275). -/
theorem deliverVc0_surplus {w : State} {link : Nat} (done : transfersDone w = true) (real : link < 24) (lines : (getLink w link).rx0 ≠ []) :
    deliverVc0 w link = dropSurplus w link := by
  have surplus : surplusLinks w = (List.range 24).filter (fun n => !(getLink w n).rx0.isEmpty) := if_pos done
  unfold deliverVc0
  rw [if_pos]
  rw [surplus, List.contains_iff_mem, List.mem_filter]
  exact ⟨List.mem_range.2 real, by simpa using lines⟩

theorem transfersDone_running {s : State} (done : transfersDone s = true) : (runningSlot s).isSome = true := by
  unfold transfersDone at done
  simp only [Bool.and_eq_true] at done
  exact done.1.1.1.1

theorem reportToRoot_rxSeq (s : State) (m : StopMsg) (k : Nat) : (getLink (reportToRoot s m) k).rxSeq = (getLink s k).rxSeq := by
  unfold reportToRoot
  split
  · split
    · rfl
    · obtain ⟨_, _, sent⟩ := (sendCtrl_posted s (upLink s) (.stop m)).link k
      rw [sent]
  · rfl

/-- What a link has accepted, an error of class REPLAYED in a run leaves alone. -/
theorem raiseReplayed_rxSeq {s : State} (run : (runningSlot s).isSome = true) (source inst addr ctx detail k : Nat) :
    (getLink (raiseReplayed s source inst addr ctx detail) k).rxSeq = (getLink s k).rxSeq := by
  obtain ⟨_, halted⟩ := haltTillers_tillers (reportError s (errRecord s clsReplayed source inst addr ctx detail))
  unfold raiseReplayed
  dsimp only
  rw [if_pos run, reportToRoot_rxSeq, halted]
  rfl

theorem dropSurplus_rxSeq {s : State} (link : Nat) (run : (runningSlot s).isSome = true) :
    (getLink (dropSurplus s link) link).rxSeq = (getLink s link).rxSeq :=
  (raiseReplayed_rxSeq (s := setLink s link { getLink s link with rx0 := [], ret0 := (getLink s link).ret0 + (getLink s link).rx0.length })
    run srcWainXfer link 0 _ 0 link).trans (by rw [getLink_setLink_same])

end Sys2Proof.Machine

namespace Sys2Proof
open Machine

/-- Settles O44: what leaves is read off the frame sent; what arrives is accepted or discarded by its check and its number, and of lines of
VC0 the epoch's transfers decide. -/
theorem framesMoveInOrder : Obligations.FramesMoveInOrder := by
  refine ⟨fun s link up => ?sent, fun s link h up state => ?arrived⟩
  case sent =>
    intro x ready leaves fresh new carries
    have sends {t f} (sent : Leaves s t link f) : leaves t f := by
      obtain ⟨out, nakDue, localHeld, others⟩ := sent
      exact ⟨rfl, rfl, rfl, rfl, out, nakDue, localHeld, others⟩
    have sendsNew {t body} (sent : LeavesNew s t link body) : new t body := by
      obtain ⟨sent, txSeq, ret0, ret1, ret2, replay⟩ := sent
      exact ⟨sends sent, txSeq, ret0, ret1, ret2, replay⟩
    refine ⟨fun state some_ => ?control, fun state none_ f rest resend => ?again, fun state none_ done vc channel => ?data,
      fun state none_ done quiet => ?idle, fun state due => ?leave, fun state due => ?silent⟩
    case control =>
      obtain ⟨sent, left⟩ := sendControl_leaves s link
      exact ⟨_, frameSend_control up state some_, sendsNew sent, left⟩
    case again =>
      obtain ⟨sent, left⟩ := sendAgain_leaves resend
      exact ⟨_, (frameSend_unready up state none_).trans (congrArg _ (if_pos (by rw [resend]; exact List.cons_ne_nil _ _))), sends sent, left⟩
    case data =>
      obtain ⟨sent, left⟩ := dataSent_leaves s link vc
      refine ⟨dataSent s link vc, ?_, sendsNew sent, left⟩
      rw [frameSend_unready up state none_, if_neg (not_not.2 done), ← sendData_eq]
      unfold carries at channel
      rw [channel]
    case idle =>
      refine ⟨sendNew s link .idle false, ?_, sendsNew (sendNew_leaves _ _ (.refl s link) (.refl _))⟩
      rw [frameSend_unready up state none_, if_neg (not_not.2 done)]
      unfold carries at quiet
      rw [quiet]
    case leave =>
      obtain ⟨sent, left⟩ := sendLeave_leaves s link
      exact ⟨_, (frameSend_leaving up state).trans (congrArg _ (if_pos due)), sendsNew sent, left⟩
    case silent => exact (frameSend_leaving up state).trans (congrArg _ (if_neg (by rw [due]; decide)))
  case arrived =>
    intro x err base others took kept refused late
    have takes {t} (taken : FrameTaken s t link h) : took t := by
      obtain ⟨⟨rxSeq, badFrames, peerHeld, own0, own1, own2, shared, resend, resync, errs⟩, others⟩ := taken
      exact ⟨rxSeq, badFrames, peerHeld, own0, own1, own2, shared, resend, resync, errs, others⟩
    have keeps {t} (discarded : FrameDiscarded s t link h) : kept t := by
      obtain ⟨⟨rxSeq, inbox, rx0, rx1, rx2, counted, fourth⟩, others⟩ := discarded
      exact ⟨rxSeq, inbox, rx0, rx1, rx2, others, counted, fourth⟩
    have refuses {crcOk} (deliver : State → State) (fails : (h.decodes && crcOk) = false) : refused (receiveFrame s link h crcOk deliver) := by
      obtain ⟨discarded, asked⟩ := receiveFrame_refused deliver up state fails
      exact ⟨keeps discarded, asked⟩
    have discardsLate {crcOk} (deliver : State → State) (late_ : h.seq ≠ x.rxSeq + 1) (passes : (h.decodes && crcOk) = true) :
        late (receiveFrame s link h crcOk deliver) := by
      obtain ⟨discarded, asked⟩ := receiveFrame_late deliver up state passes late_
      exact ⟨keeps discarded, asked⟩
    refine ⟨fun decodes next => ⟨fun kind => ?idle, fun kind map ms => ?control, fun kind vc map ls => ?data⟩,
      fun crc => ⟨fun fails => ?idleFails, fun map ms fails => ?controlFails, fun vc map ls fails => ?dataFails⟩,
      fun decodes out => ⟨fun kind => ?idleLate, fun kind map ms => ?controlLate, fun kind vc map ls channel => ?dataLate⟩⟩
    case idle =>
      refine ⟨_, idleFrame_accepted up state decodes kind next, takes (accepted_taken s link h), ?_⟩
      rw [getLink_accepted, if_pos rfl]
      exact (acceptedEnd_received x h).1
    case control =>
      refine ⟨_, controlFrame_accepted map ms up state decodes kind next, takes (setLink_accepted_taken ..), ?_⟩
      rw [messagesDelivered, getLink_setLink_same]
      exact congrArg (· ++ ms) (acceptedEnd_received x h).1
    case data =>
      have arrives {vc : BitVec 2} (channel : vc ≠ 3) := dataFrame_accepted (vc := vc) map ls up state decodes kind channel next
      have taken := takes (linesBuffered_taken s link h vc.toNat ls)
      obtain ⟨rx0, rx1, rx2⟩ := linesBuffered_rx s link h ls
      refine ⟨fun one => ?vc1, fun two => ?vc2, fun zero => ?vc0⟩
      case vc1 => subst one; exact ⟨_, arrives (by decide), taken, rx1⟩
      case vc2 => subst two; exact ⟨_, arrives (by decide), taken, rx2⟩
      case vc0 =>
        subst zero
        have delivers := arrives (vc := 0) (by decide)
        obtain ⟨_, _, frame, writes⟩ := linesBuffered_frame s link h 0 ls
        have same : transfersDone (linesBuffered s link h 0 ls) = transfersDone s := by rw [frame]; rfl
        have opened (u : Nat) (crop : Bool) : openReceive (linesBuffered s link h 0 ls) u link crop = openReceive s u link crop := by rw [frame]; rfl
        refine ⟨⟨_, delivers, taken, rx0⟩, fun awaits own crop => ?waits, fun done real lines => ?surplus⟩
        case waits =>
          refine ⟨_, delivers.trans (congrArg _ (deliverVc0_waits ?_ ?_ ?_)), taken, rx0⟩
          · exact same.trans awaits
          · exact (opened _ _).trans own
          · exact (opened _ _).trans crop
        case surplus =>
          have done := same.trans done
          have run := transfersDone_running done
          have held : (getLink (linesBuffered s link h 0 ls) link).rx0 ≠ [] := by
            rw [rx0]
            exact List.append_ne_nil_of_right_ne_nil _ lines
          obtain ⟨empty, logged, -, idle⟩ := dropSurplus_leaves link run
          have counted := congrArg (· + 1) ((congrArg (fun t : State => t.err.errWrites) frame).trans writes)
          exact ⟨_, delivers.trans (congrArg _ (deliverVc0_surplus done real held)), (dropSurplus_rxSeq link run).trans taken.1, empty,
            logged.trans counted, idle⟩
    case idleFails => exact ⟨_, rfl, refuses _ (by simpa only [Bool.and_eq_false_iff, beq_eq_false_iff_ne, ne_eq] using fails)⟩
    case controlFails => exact ⟨_, rfl, refuses _ (by simpa only [Bool.and_eq_false_iff, beq_eq_false_iff_ne, ne_eq] using fails)⟩
    case dataFails =>
      refine ⟨_, rfl, refuses _ ?_⟩
      simpa only [Bool.and_eq_false_iff, beq_eq_false_iff_ne, bne_eq_false_iff_eq, or_assoc, ne_eq] using fails
    case idleLate => exact ⟨_, rfl, discardsLate _ out (by simp [decodes, kind])⟩
    case controlLate => exact ⟨_, rfl, discardsLate _ out (by simp [decodes, kind])⟩
    case dataLate => exact ⟨_, rfl, discardsLate _ out (by simpa [decodes, kind] using channel)⟩

end Sys2Proof
end

section
/-!
PROOFS. The registers at reset.
-/
namespace Sys2Proof.Machine

/-- Every Windrow of the state at reset is as its table gives it: disabled, with LOG2N 6 (R520). -/
theorem getWindrow_reset (w : Nat) : getWindrow State.reset w = windrowDefault State.reset := rfl

theorem windrowDefault_reset : bitOf (windrowDefault State.reset).cfg 0 = false ∧ field (windrowDefault State.reset).cfg 12 8 = 6 := by decide

end Sys2Proof.Machine

namespace Sys2Proof
open Machine

/-- Settles O53: every table is empty at reset, so that each of its entries reads as the default, and each register holds its own. -/
theorem resetHoldsTheRegisters : Obligations.ResetHoldsTheRegisters := by
  refine ⟨rfl, rfl, rfl, rfl, rfl, rfl, rfl, rfl, rfl, rfl, rfl, fun w => ?windrows, fun _ => rfl, fun _ => rfl, fun _ => rfl, rfl⟩
  case windrows =>
    rw [getWindrow_reset]
    exact windrowDefault_reset

end Sys2Proof
end

section
/-!
PROOFS. The stores of the pool as a line is read and written at its memory controller.
-/
namespace Sys2Proof.Machine

/-! ## Lines of a store (R300) -/

theorem slice_whole {bs : List Byte} {n : Nat} (h : bs.length = n) : slice bs 0 n = bs := by
  unfold slice
  simp [h]

theorem toLE_length (n v : Nat) : (toLE n v).length = n := by
  induction n generalizing v with
  | zero => rfl
  | succ n ih => rw [toLE, List.length_cons, ih]

/-- A line holds 64 bytes and 8 check bytes. -/
def WholeLine (x : Line) : Prop := x.data.length = 64 ∧ x.chk.length = 8

theorem lineMerge_whole (old : Line) (data : List Byte) (mask : Nat) : WholeLine (lineMerge old data mask) := by
  unfold lineMerge lineOf
  refine ⟨?_, by simp⟩
  rw [List.length_flatMap]
  simp [toLE_length, Function.comp_def]

/-- What a line reads as after a line was stored. -/
theorem ramLine_ramPutLine (r : Ram) {x : Line} (whole : WholeLine x) (l k : Nat) :
    ramLine (ramPutLine r l x) k = if k = l then x else ramLine r k := by
  obtain ⟨data, chk⟩ := x
  obtain ⟨hdata, hchk⟩ := whole
  dsimp only at hdata hchk
  unfold ramLine ramPutLine ramBytes ramByte
  dsimp only
  rw [slice_whole hdata, slice_whole hchk]
  simp only [look_putAll, hdata, hchk]
  split
  · next same =>
    subst same
    congr 1
    · refine List.ext_getElem (by simp [hdata]) fun i lt lt' => ?_
      have lt : i < 64 := by simpa using lt
      rw [List.getElem_map, List.getElem_range, if_pos (by omega), Nat.add_sub_cancel_left, List.getD_eq_getElem _ _ lt']
    · refine List.ext_getElem (by simp [hchk]) fun i lt lt' => ?_
      have lt : i < 8 := by simpa using lt
      rw [List.getElem_map, List.getElem_range, if_pos (by omega), Nat.add_sub_cancel_left, List.getD_eq_getElem _ _ lt']
  · next other =>
    congr 1
    · refine List.map_congr_left fun i hi => if_neg ?_
      have := List.mem_range.1 hi
      omega
    · refine List.map_congr_left fun i hi => if_neg ?_
      have := List.mem_range.1 hi
      omega

/-! ## Reads and writes at the controllers (R278, R299 to R301) -/

theorem memWordRead_ram (s : State) (w : Nat) : (memWordRead s w).mem.ram = s.mem.ram := by
  unfold memWordRead
  dsimp only
  split <;> rfl

/-- A line is read as it stands, corrected, and nothing of the store is written. -/
theorem memReadLine_ram (s : State) (n : Nat) : (memReadLine s n).2.mem.ram = s.mem.ram :=
  foldl_same (fun s => s.mem.ram) (fun _ _ => memWordRead_ram _ _) _ s

/-- Lines read in succession at their controllers. -/
def readLines (s : State) (ns : List Nat) : List Line × State :=
  ns.foldl (fun acc n => let x := memReadLine acc.2 n; (acc.1 ++ [x.1], x.2)) ([], s)

theorem readLines_reads (s : State) (ns : List Nat) : (readLines s ns).1 = ns.map (fun n => lineSettle (ramLine s.mem.ram n))
    ∧ (readLines s ns).2.mem.ram = s.mem.ram ∧ (readLines s ns).2.wain = s.wain := by
  have reads (acc : List Line × State) :
      let r := ns.foldl (fun (acc : List Line × State) n => let x := memReadLine acc.2 n; (acc.1 ++ [x.1], x.2)) acc
      r.1 = acc.1 ++ ns.map (fun n => lineSettle (ramLine acc.2.mem.ram n)) ∧ r.2.mem.ram = acc.2.mem.ram ∧ r.2.wain = acc.2.wain := by
    induction ns generalizing acc with
    | nil => exact ⟨(List.append_nil _).symm, rfl, rfl⟩
    | cons n ns ih =>
      obtain ⟨lines, ram, wain⟩ := ih (acc.1 ++ [(memReadLine acc.2 n).1], (memReadLine acc.2 n).2)
      refine ⟨lines.trans ?_, ram.trans (memReadLine_ram _ _), wain.trans (congrArg Prod.fst (memReadLine_way _ _))⟩
      dsimp only
      rw [memReadLine_ram, List.append_assoc]
      rfl
  exact reads ([], s)

theorem ramLine_memWriteLine (s : State) (n : Nat) (data : List Byte) (mask k : Nat) : ramLine (memWriteLine s n data mask).mem.ram k
    = if k = n then lineMerge (ramLine s.mem.ram n) data mask else ramLine s.mem.ram k :=
  ramLine_ramPutLine s.mem.ram (lineMerge_whole _ _ _) n k

theorem memWriteLine_wain (s : State) (n : Nat) (data : List Byte) (mask : Nat) : (memWriteLine s n data mask).wain = s.wain :=
  congrArg Prod.fst (memPutLine_way s n (lineMerge (ramLine s.mem.ram n) data mask))

/-- Consecutive lines written in succession: each is merged with what it held, and every other line is left alone. -/
theorem foldl_memWriteLine (s : State) (base n : Nat) (data : Nat → List Byte) (mask : Nat → Nat) :
    let t := (List.range n).foldl (fun s i => memWriteLine s (base + i) (data i) (mask i)) s
    (∀ i, i < n → ramLine t.mem.ram (base + i) = lineMerge (ramLine s.mem.ram (base + i)) (data i) (mask i))
    ∧ (∀ k, k < base ∨ base + n ≤ k → ramLine t.mem.ram k = ramLine s.mem.ram k) ∧ t.wain = s.wain := by
  induction n with
  | zero => exact ⟨fun i h => absurd h (Nat.not_lt_zero i), fun _ _ => rfl, rfl⟩
  | succ n ih =>
    obtain ⟨inside, outside, wain⟩ := ih
    rw [List.range_succ, List.foldl_append]
    refine ⟨fun i hi => ?_, fun k hk => ?_, (memWriteLine_wain _ _ _ _).trans wain⟩
    · refine (ramLine_memWriteLine _ _ _ _ _).trans ?_
      split
      · next last =>
        obtain rfl : i = n := by omega
        rw [outside _ (.inr (Nat.le_refl _))]
      · next before => exact inside i (by omega)
    · refine (ramLine_memWriteLine _ _ _ _ _).trans ?_
      rw [if_neg (by omega), outside k (by omega)]

end Sys2Proof.Machine
end

section
/-!
PROOFS. Remote requests at their target and on their way, and the remote tasks of their requesters.
-/
namespace Sys2Proof.Machine

/-! ## Requests taken in and passed on (R269, R276) -/

/-- The state once the n slots of a request have left the receive buffer of VC1, their credits to return (R269). -/
def requestTaken (s : State) (link n : Nat) : State :=
  setLink s link { getLink s link with rx1 := (getLink s link).rx1.drop n, ret1 := (getLink s link).ret1 + n }

theorem takeSlots_request {s : State} {link : Nat} {slots : List (List Byte)} (arrived : (getLink s link).rx1.take slots.length = slots) :
    takeSlots s link 1 slots = requestTaken s link slots.length := if_pos arrived

theorem requestTaken_alive (s : State) (link n : Nat) : alive (requestTaken s link n) = alive s := rfl
theorem requestTaken_tally (s : State) (link n : Nat) : (requestTaken s link n).boot.tallyAddr = s.boot.tallyAddr := rfl
theorem requestTaken_refusal (s : State) (link n : Nat) (r : RemoteRec) (acc : AccessKind) :
    remoteRefusal (requestTaken s link n) r acc = remoteRefusal s r acc := rfl

/-- A request of n slots has been taken in on a link. -/
structure RequestTaken (s t : State) (link n : Nat) : Prop where
  rx1 : (getLink t link).rx1 = (getLink s link).rx1.drop n
  ret1 : (getLink t link).ret1 = (getLink s link).ret1 + n

section

variable {s v : State} {link n : Nat}

theorem RequestTaken.setLink {out : Nat} {y : WainLink} (h : RequestTaken s v link n) (rx1 : y.rx1 = (getLink v out).rx1)
    (ret1 : y.ret1 = (getLink v out).ret1) : RequestTaken s (setLink v out y) link n := by
  refine ⟨?_, ?_⟩
  · rw [getLink_setLink]
    split
    · next same => rw [rx1, ← same, h.rx1]
    · exact h.rx1
  · rw [getLink_setLink]
    split
    · next same => rw [ret1, ← same, h.ret1]
    · exact h.ret1

theorem getLink_of_taken (wain : v.wain = (requestTaken s link n).wain) (k : Nat) : getLink v k
    = if k = link then { getLink s link with rx1 := (getLink s link).rx1.drop n, ret1 := (getLink s link).ret1 + n } else getLink s k := by
  unfold getLink
  rw [wain]
  exact getLink_setLink s link k _

theorem requestTaken_of_wain (wain : v.wain = (requestTaken s link n).wain) : RequestTaken s v link n := by
  have here := (getLink_of_taken wain link).trans (if_pos rfl)
  exact ⟨by rw [here], by rw [here]⟩

/-- What waits to be sent, taking a request in leaves alone. -/
theorem tx_of_taken (wain : v.wain = (requestTaken s link n).wain) (k : Nat) :
    (getLink v k).tx1 = (getLink s k).tx1 ∧ (getLink v k).tx2 = (getLink s k).tx2 := by
  rw [getLink_of_taken wain]
  split
  · next same => rw [same]; exact ⟨rfl, rfl⟩
  · exact ⟨rfl, rfl⟩

theorem queueVc1_taken (wain : v.wain = (requestTaken s link n).wain) (out : Nat) (ls : List (List Byte)) :
    RequestTaken s (queueVc1 v out ls) link n ∧ (getLink (queueVc1 v out ls) out).tx1 = (getLink s out).tx1 ++ ls := by
  refine ⟨(requestTaken_of_wain wain).setLink rfl rfl, ?_⟩
  rw [queueVc1, getLink_setLink_same, ← (tx_of_taken wain out).1]

theorem queueVc2_taken (wain : v.wain = (requestTaken s link n).wain) (out : Nat) (ls : List (List Byte)) :
    RequestTaken s (queueVc2 v out ls) link n ∧ (getLink (queueVc2 v out ls) out).tx2 = (getLink s out).tx2 ++ ls := by
  refine ⟨(requestTaken_of_wain wain).setLink rfl rfl, ?_⟩
  rw [queueVc2, getLink_setLink_same, ← (tx_of_taken wain out).2]

end

/-- The link on which a record leaves towards a Tally address: the route's, or else the one it came on (R276). -/
def wayTo (s : State) (link : Nat) (tally : BitVec 10) : Nat := (routeTo s tally.toNat).getD link

theorem respond_answers {s v : State} {link n : Nat} (wain : v.wain = (requestTaken s link n).wain) (r : RemoteRec) (op status : Byte)
    (data : List (List Byte)) :
    let t := respond v link r op status data
    RequestTaken s t link n ∧ (getLink t (wayTo s link r.src)).tx2
      = (getLink s (wayTo s link r.src)).tx2 ++ recordBytes (responseTo r op status) :: data := by
  have way : wayTo v link r.src = wayTo s link r.src := by
    unfold wayTo routeTo
    rw [wain]
    rfl
  have queued : respond v link r op status data = queueVc2 v (wayTo v link r.src) (recordBytes (responseTo r op status) :: data) := rfl
  dsimp only
  rw [queued, way]
  exact queueVc2_taken wain _ _

/-! ## Requests at their target (R278, R279, R303) -/

/-- A read at its target that the owner table does not refuse. -/
def readServed (u : State) (link : Nat) (r : RemoteRec) : State :=
  let g := readLines u (remoteLines r)
  if g.1.any linePoison then respond g.2 link r 0x81 2 [] else respond g.2 link r 0x81 0 (g.1.map (fun x => x.data))

/-- The state once each line of a WRITE is merged at its controller (R278). -/
def linesWritten (u : State) (r : RemoteRec) (lines : List (List Byte)) : State :=
  (List.range r.nlines).foldl (fun s i => memWriteLine s (bits r.dpa.toNat 39 6 + i) (lines.getD i []) (lineMask r i)) u

theorem remoteLines_zip (r : RemoteRec) :
    (remoteLines r).zip (List.range r.nlines) = (List.range r.nlines).map (fun i => (bits r.dpa.toNat 39 6 + i, i)) := by
  have paired := List.zip_map' (f := fun i => bits r.dpa.toNat 39 6 + i) (g := id) (l := List.range r.nlines)
  rwa [List.map_id] at paired

/-- A read goes on unchecked at a member that is not its target (R276), and is judged at its target. -/
theorem remoteRead_arrived {s : State} {link : Nat} {r : RemoteRec} (up : alive s = true)
    (arrived : (getLink s link).rx1.take 1 = [recordBytes r]) : exec (.remoteRead link r) s = .next (
      let u := requestTaken s link 1
      if r.dst ≠ s.boot.tallyAddr then queueVc1 u (wayTo s link r.dst) [recordBytes r]
      else match remoteRefusal s r .read with
        | some (n, row) => remoteNack u link r n row
        | none => readServed u link r) := by
  change execRemoteRead link r s = _
  unfold execRemoteRead
  rw [takeSlots_request (slots := [recordBytes r]) arrived]
  dsimp only
  rw [requestTaken_alive, up, if_neg (by decide), requestTaken_tally, requestTaken_refusal]
  by_cases here : r.dst = s.boot.tallyAddr
  · rw [if_neg (by simp [here]), if_neg (not_not.2 here)]
    cases remoteRefusal s r .read with
    | some p => rfl
    | none => exact (apply_ite Host.Outcome.next _ _ _).symm
  · exact (if_pos (bne_iff_ne.2 here)).trans (congrArg Host.Outcome.next (if_pos here).symm)

theorem remoteWrite_arrived {s : State} {link : Nat} {r : RemoteRec} {lines : List (List Byte)} (up : alive s = true)
    (arrived : (getLink s link).rx1.take (lines.length + 1) = recordBytes r :: lines) : exec (.remoteWrite link r lines) s = .next (
      let u := requestTaken s link (lines.length + 1)
      if r.dst ≠ s.boot.tallyAddr then queueVc1 u (wayTo s link r.dst) (recordBytes r :: lines)
      else match remoteRefusal s r .write with
        | some (n, row) => remoteNack u link r n row
        | none => respond (linesWritten u r lines) link r 0x82 0 []) := by
  change execRemoteWrite link r lines s = _
  unfold execRemoteWrite
  rw [takeSlots_request (slots := recordBytes r :: lines) arrived]
  dsimp only
  rw [requestTaken_alive, up, if_neg (by decide), requestTaken_tally, requestTaken_refusal, remoteLines_zip, List.foldl_map]
  by_cases here : r.dst = s.boot.tallyAddr
  · rw [if_neg (by simp [here]), if_neg (not_not.2 here)]
    cases remoteRefusal s r .write <;> rfl
  · exact (if_pos (bne_iff_ne.2 here)).trans (congrArg Host.Outcome.next (if_pos here).symm)

/-- A refused request is counted and logged, and answered with NACK (R278, R303). -/
theorem remoteNack_refuses (s : State) (link k : Nat) (r : RemoteRec) (n row : Nat) :
    let t := remoteNack (requestTaken s link k) link r n row
    RequestTaken s t link k ∧ (getLink t (wayTo s link r.src)).tx2 = (getLink s (wayTo s link r.src)).tx2 ++ [recordBytes (responseTo r 0x83 1)]
    ∧ t.mem.ram = s.mem.ram ∧ t.mem.ownerRefuse = satAdd32 s.mem.ownerRefuse 1 ∧ t.err.errWrites = s.err.errWrites + 1 := by
  obtain ⟨err, boot, logged, writes⟩ := logError_frame (countRefuse (requestTaken s link k)) clsContained srcAccess 0
    (localDpa (countRefuse (requestTaken s link k)) (64 * n)) r.context.toNat row
  let v : State := { countRefuse (requestTaken s link k) with err, boot }
  have nack : remoteNack (requestTaken s link k) link r n row = respond v link r 0x83 1 [] := congrArg (fun v => respond v link r 0x83 1 []) logged
  have wain : v.wain = (requestTaken s link k).wain := rfl
  obtain ⟨taken, answer⟩ := respond_answers wain r 0x83 1 []
  rw [nack]
  exact ⟨taken, answer, rfl, rfl, writes⟩

/-- A read is answered with its lines, or with POISON where one of them cannot be corrected (R278). -/
theorem readServed_eq (s : State) (link k : Nat) (r : RemoteRec) :
    let line (n : Nat) := lineSettle (ramLine s.mem.ram n)
    let v := (readLines (requestTaken s link k) (remoteLines r)).2
    readServed (requestTaken s link k) link r = if ∃ n ∈ remoteLines r, linePoison (line n) = true then respond v link r 0x81 2 []
      else respond v link r 0x81 0 ((remoteLines r).map (fun n => (line n).data)) := by
  intro line v
  obtain ⟨lines, -, -⟩ := readLines_reads (requestTaken s link k) (remoteLines r)
  have lines : (readLines (requestTaken s link k) (remoteLines r)).1 = (remoteLines r).map line := lines
  unfold readServed
  dsimp only
  rw [lines, List.map_map]
  exact if_congr (by rw [List.any_map, List.any_eq_true]; rfl) rfl rfl

theorem read_answers (s : State) (link k : Nat) (r : RemoteRec) (status : Byte) (data : List (List Byte)) :
    let t := respond (readLines (requestTaken s link k) (remoteLines r)).2 link r 0x81 status data
    RequestTaken s t link k ∧ t.mem.ram = s.mem.ram ∧ (getLink t (wayTo s link r.src)).tx2
      = (getLink s (wayTo s link r.src)).tx2 ++ recordBytes (responseTo r 0x81 status) :: data := by
  obtain ⟨-, ram, wain⟩ := readLines_reads (requestTaken s link k) (remoteLines r)
  obtain ⟨taken, answer⟩ := respond_answers (s := s) (link := link) (n := k) wain r 0x81 status data
  exact ⟨taken, ram, answer⟩

end Sys2Proof.Machine
end

section
/-!
PROOFS. Responses and timeouts of remote requests at their requester.
-/
namespace Sys2Proof.Machine

/-! ## Remote tasks (R276) -/

theorem getTask_who (s : State) (w : Requester) : (getTask s w).who = w := by
  unfold getTask
  cases found : s.wain.tasks.find? (fun t => t.who == w) with
  | none => rfl
  | some t =>
    have named := List.find?_some found
    exact beq_iff_eq.1 named

/-- What any requester's task reads as once one was stored. -/
theorem getTask_setTask (s : State) (t : RemoteTask) (w : Requester) : getTask (setTask s t) w = if w = t.who then t else getTask s w := by
  have rest : (s.wain.tasks.filter (fun x => x.who != t.who)).find? (fun x => x.who == w)
      = if w = t.who then none else s.wain.tasks.find? (fun x => x.who == w) := by
    rw [List.find?_filter]
    split
    · next same => exact List.find?_eq_none.2 fun x _ => by simp [same]
    · next other =>
      congr 1
      funext x
      by_cases named : x.who = w
      · simp [named, other]
      · simp [named]
  unfold setTask getTask
  dsimp only
  by_cases default_ : t = { who := t.who }
  · rw [if_pos default_, rest]
    split
    · next same => rw [same]; exact default_.symm
    · rfl
  · rw [if_neg default_, List.find?_append, rest]
    split
    · next same => simp [same]
    · next other => simp [Ne.symm other]

/-- A task fails once: the status of the first request that failed stays. -/
def failTask (s : State) (who : Requester) (status : Byte) : State :=
  setTask s { getTask s who with failed := some ((getTask s who).failed.getD status) }

theorem failTask_failed (s : State) (who : Requester) (status : Byte) :
    (getTask (failTask s who status) who).failed = some ((getTask s who).failed.getD status) := by
  unfold failTask
  rw [getTask_setTask, if_pos (getTask_who s who).symm]

/-! ## Responses (R276, R278 to R280) -/

theorem takeSlots_linksOnly (s : State) (link vc : Nat) (slots : List (List Byte)) : LinksOnly s (takeSlots s link vc slots) := by
  unfold takeSlots
  dsimp only
  split
  · split
    · exact setLink_linksOnly ..
    · exact .refl s
  · split
    · exact setLink_linksOnly ..
    · exact .refl s

/-- The slots of a response that leave take nothing from what waits to be sent. -/
theorem takeSlots_response_tx2 (s : State) (link : Nat) (slots : List (List Byte)) (k : Nat) :
    (getLink (takeSlots s link 2 slots) k).tx2 = (getLink s k).tx2 := by
  have taken : takeSlots s link 2 slots = if (getLink s link).rx2.take slots.length = slots then setLink s link { getLink s link with
    rx2 := (getLink s link).rx2.drop slots.length, ret2 := (getLink s link).ret2 + slots.length } else s := rfl
  rw [taken]
  split
  · rw [getLink_setLink]
    split
    · next same => rw [same]
    · rfl
  · rfl

/-- The state once a response has been taken in and its request closed. -/
def answered (s : State) (link : Nat) (slots : List (List Byte)) (q : RemoteReq) : State := closeRemote (takeSlots s link 2 slots) q

theorem answered_frame (s : State) (link : Nat) (slots : List (List Byte)) (q : RemoteReq) :
    ∃ links, answered s link slots q = { s with wain := { s.wain with links := links, remote := s.wain.remote.erase q } } := by
  obtain ⟨links, taken⟩ := takeSlots_linksOnly s link 2 slots
  unfold answered
  rw [taken]
  exact ⟨links, rfl⟩

/-- What a response comes to: it goes on elsewhere, answers its request, or is logged. -/
theorem response_eq {s : State} (link : Nat) (r : RemoteRec) (lines : List (List Byte)) (f : State → RemoteReq → State) (up : alive s = true) :
    response s link r lines f = (
      let slots := recordBytes r :: lines
      if r.dst ≠ s.boot.tallyAddr then queueVc2 (takeSlots s link 2 slots) (wayTo s link r.dst) slots
      else match requestOf s r with
        | some q => f (answered s link slots q) q
        | none => logError (takeSlots s link 2 slots) clsContained srcAccess link r.dpa.toNat r.context.toNat 0) := by
  unfold response answered
  dsimp only
  obtain ⟨links, taken⟩ := takeSlots_linksOnly s link 2 (recordBytes r :: lines)
  generalize takeSlots s link 2 (recordBytes r :: lines) = u at taken
  have up' : alive u = true := by rw [taken]; exact up
  have tally : u.boot.tallyAddr = s.boot.tallyAddr := by rw [taken]
  have request : requestOf u r = requestOf s r := by rw [taken]; rfl
  have way : wayTo u link r.dst = wayTo s link r.dst := by rw [taken]; rfl
  rw [up', if_neg (by decide), tally, request, ← way]
  by_cases here : r.dst = s.boot.tallyAddr
  · exact (if_neg (by simp [here])).trans (if_neg (not_not.2 here)).symm
  · exact (if_pos (bne_iff_ne.2 here)).trans (if_pos here).symm

section

variable {s : State} {link : Nat} {r : RemoteRec} {lines : List (List Byte)} {f : State → RemoteReq → State}

theorem response_closes {q : RemoteReq} (up : alive s = true) (here : r.dst = s.boot.tallyAddr) (request : requestOf s r = some q) :
    response s link r lines f = f (answered s link (recordBytes r :: lines) q) q := by
  rw [response_eq link r lines f up]
  dsimp only
  rw [if_neg (not_not.2 here), request]

/-- A response whose tag is not outstanding is logged and changes no task (R280). -/
theorem response_unknown (up : alive s = true) (here : r.dst = s.boot.tallyAddr) (request : requestOf s r = none) :
    let t := response s link r lines f
    t.wain.remote = s.wain.remote ∧ t.wain.tasks = s.wain.tasks ∧ t.err.errWrites = s.err.errWrites + 1 := by
  obtain ⟨_, taken⟩ := takeSlots_linksOnly s link 2 (recordBytes r :: lines)
  obtain ⟨_, _, logged, writes⟩ := logError_frame (takeSlots s link 2 (recordBytes r :: lines)) clsContained srcAccess link r.dpa.toNat r.context.toNat 0
  rw [response_eq link r lines f up]
  dsimp only
  rw [if_neg (not_not.2 here), request]
  dsimp only
  rw [logged]
  rw [taken] at writes ⊢
  exact ⟨rfl, rfl, writes⟩

/-- A response goes on towards its requester (R276). -/
theorem response_elsewhere (up : alive s = true) (other : r.dst ≠ s.boot.tallyAddr) :
    let t := response s link r lines f
    t.wain.remote = s.wain.remote ∧ t.wain.tasks = s.wain.tasks
    ∧ (getLink t (wayTo s link r.dst)).tx2 = (getLink s (wayTo s link r.dst)).tx2 ++ recordBytes r :: lines := by
  rw [response_eq link r lines f up]
  dsimp only
  rw [if_pos other]
  have tx2 := takeSlots_response_tx2 s link (recordBytes r :: lines) (wayTo s link r.dst)
  obtain ⟨_, taken⟩ := takeSlots_linksOnly s link 2 (recordBytes r :: lines)
  generalize takeSlots s link 2 (recordBytes r :: lines) = u at taken tx2
  refine ⟨by rw [taken]; rfl, by rw [taken]; rfl, ?_⟩
  rw [queueVc2, getLink_setLink_same, tx2]

end

/-- What RDATA adds to the task of its requester. -/
def linesGot (q : RemoteReq) (r : RemoteRec) (lines : List (List Byte)) : List (Nat × Line) :=
  (List.range q.record.nlines).map (fun i =>
    (q.record.dpa.toNat / 64 + i, if r.status = 2 then poisonLine else cleanLine (lines.getD i [])))

theorem rdata_brings {s : State} {link : Nat} {r : RemoteRec} {lines : List (List Byte)} {q : RemoteReq} (up : alive s = true)
    (here : r.dst = s.boot.tallyAddr) (request : requestOf s r = some q) : ∃ t, exec (.rdata link r lines) s = .next t
    ∧ t.wain.remote = s.wain.remote.erase q ∧ t.mem = s.mem
    ∧ ∀ w, getTask t w = if w = q.who then { getTask s q.who with got := (getTask s q.who).got ++ linesGot q r lines } else getTask s w := by
  let u := answered s link (recordBytes r :: lines) q
  have brings : exec (.rdata link r lines) s
      = .next (setTask u { getTask u q.who with got := (getTask u q.who).got ++ linesGot q r lines }) :=
    congrArg Host.Outcome.next (response_closes up here request)
  obtain ⟨_, frame⟩ := answered_frame s link (recordBytes r :: lines) q
  have tasks (w : Requester) : getTask u w = getTask s w := by unfold u; rw [frame]; rfl
  have rest : u.wain.remote = s.wain.remote.erase q ∧ u.mem = s.mem := by unfold u; rw [frame]; exact ⟨rfl, rfl⟩
  refine ⟨_, brings, rest.1, rest.2, fun w => ?_⟩
  rw [getTask_setTask, tasks, tasks]
  exact if_congr (by rw [getTask_who]) rfl rfl

theorem wack_ends {s : State} {link : Nat} {r : RemoteRec} {q : RemoteReq} (up : alive s = true) (here : r.dst = s.boot.tallyAddr)
    (request : requestOf s r = some q) : ∃ t, exec (.wack link r) s = .next t
    ∧ t.wain.remote = s.wain.remote.erase q ∧ t.wain.tasks = s.wain.tasks ∧ t.mem = s.mem := by
  have ends : exec (.wack link r) s = .next (answered s link [recordBytes r] q) := congrArg Host.Outcome.next (response_closes up here request)
  obtain ⟨_, frame⟩ := answered_frame s link [recordBytes r] q
  refine ⟨_, ends, ?_⟩
  rw [frame]
  exact ⟨rfl, rfl, rfl⟩

/-- A refusal of a context raises its counter, and leaves the Wain alone. -/
theorem refuseCtx_raises (s : State) (ctx : BitVec 20) (asked addr detail : Nat) :
    let t := refuseCtx s ctx asked addr detail false
    t.wain = s.wain ∧ (getCtx t ctx.toNat).refusals = satAdd32 (getCtx s ctx.toNat).refusals 1 := by
  let c : Ctx := { getCtx s ctx.toNat with refusals := satAdd32 (getCtx s ctx.toNat).refusals 1, lastAddr := BitVec.ofNat 64 asked }
  obtain ⟨_, _, logged, -⟩ := logError_frame (setCtx s ctx.toNat c) clsContained srcAccess 0 addr ctx.toNat detail
  have refused : refuseCtx s ctx asked addr detail false = logError (setCtx s ctx.toNat c) clsContained srcAccess 0 addr ctx.toNat detail := rfl
  dsimp only
  rw [refused, logged]
  exact ⟨rfl, congrArg Ctx.refusals (getCtx_setCtx_same s ctx.toNat c)⟩

/-- A refused request of a command fails its task (R278, R303). -/
theorem nack_refuses {s : State} {link : Nat} {r : RemoteRec} {q : RemoteReq} {w : Nat} {n : W32} (up : alive s = true)
    (here : r.dst = s.boot.tallyAddr) (request : requestOf s r = some q) (command : q.who = .command w n) :
    ∃ t, exec (.nack link r) s = .next t ∧ t.wain.remote = s.wain.remote.erase q
    ∧ (getTask t q.who).failed = some ((getTask s q.who).failed.getD stProtection)
    ∧ (getCtx t q.record.context.toNat).refusals = satAdd32 (getCtx s q.record.context.toNat).refusals 1 := by
  let u := answered s link [recordBytes r] q
  obtain ⟨_, frame⟩ := answered_frame s link [recordBytes r] q
  have remote : u.wain.remote = s.wain.remote.erase q := by unfold u; rw [frame]
  have task : getTask u q.who = getTask s q.who := by unfold u; rw [frame]; rfl
  have ctx : getCtx u q.record.context.toNat = getCtx s q.record.context.toNat := by unfold u; rw [frame]; rfl
  obtain ⟨wain, refusals⟩ := refuseCtx_raises u q.record.context q.asked q.record.dpa.toNat 0
  let v := refuseCtx u q.record.context q.asked q.record.dpa.toNat 0 false
  have fails : refuseRemote u q = failTask v q.who stProtection := by
    unfold refuseRemote
    dsimp only
    rw [command]
    rfl
  refine ⟨_, congrArg Host.Outcome.next ((response_closes up here request).trans fails), ?_, ?_, refusals.trans (by rw [ctx])⟩
  · exact (congrArg Wain.remote wain).trans remote
  · rw [failTask_failed, show getTask v q.who = getTask u q.who by unfold getTask; rw [wain], task]

/-! ## Timeouts (R280, R525) -/

theorem raiseReplanned_logs (s : State) (source inst addr ctx detail : Nat) (suspect : Option Nat) :
    let t := raiseReplanned s source inst addr ctx detail suspect
    t.err.errWrites = s.err.errWrites + 1 ∧ t.wain.tasks = s.wain.tasks := by
  obtain ⟨_, _, logged, writes⟩ := logError_frame s clsReplanned source inst addr ctx detail
  have counted : (logRecord s (errRecord s clsReplanned source inst addr ctx detail)).err.errWrites = s.err.errWrites + 1 :=
    (congrArg (fun t : State => t.err.errWrites) logged).trans writes
  unfold raiseReplanned
  dsimp only
  split
  · obtain ⟨-, err, -⟩ := reportToRoot_passes (reportError s (errRecord s clsReplanned source inst addr ctx detail))
      (.replanned (ownPosition s) suspect source)
    refine ⟨(congrArg ErrBank.errWrites err).trans counted, ?_⟩
    unfold reportToRoot
    split
    · split <;> rfl
    · rfl
  · exact ⟨counted, rfl⟩

/-- The state once the loss of a remote request has been logged. -/
def lossLogged (s : State) (r : RemoteReq) : State :=
  let u := { s with wain := { s.wain with remote := s.wain.remote.erase r } }
  let isPlan : Bool := match r.who with | .tiller _ => true | _ => false
  if isPlan then raiseReplanned u srcMember r.link r.record.dpa.toNat r.record.context.toNat 0 none
  else logError u clsContained srcAccess r.link r.record.dpa.toNat r.record.context.toNat 0

theorem lossLogged_logs (s : State) (r : RemoteReq) :
    (lossLogged s r).err.errWrites = s.err.errWrites + 1 ∧ (lossLogged s r).wain.tasks = s.wain.tasks := by
  unfold lossLogged
  extract_lets _ u isPlan
  split
  · exact raiseReplanned_logs u _ _ _ _ _ _
  · obtain ⟨_, _, logged, writes⟩ := logError_frame u clsContained srcAccess r.link r.record.dpa.toNat r.record.context.toNat 0
    rw [logged]
    exact ⟨writes, rfl⟩

/-- Once its loss has been logged, what the end of a remote request touches are its requester's marks and tasks. -/
theorem loseRemote_frame (s : State) (r : RemoteReq) :
    ∃ grg ep tasks, loseRemote s r = { lossLogged s r with grg, ep, wain := { (lossLogged s r).wain with tasks := tasks } } := by
  unfold loseRemote
  extract_lets wain u isPlan v
  have logged : v = lossLogged s r := rfl
  clear_value v
  subst logged
  split
  · exact ⟨_, _, _, rfl⟩
  · split <;> exact ⟨_, _, _, rfl⟩
  all_goals exact ⟨_, _, _, rfl⟩

theorem loseRemote_errWrites (s : State) (r : RemoteReq) : (loseRemote s r).err.errWrites = s.err.errWrites + 1 := by
  obtain ⟨_, _, _, lost⟩ := loseRemote_frame s r
  rw [lost]
  exact (lossLogged_logs s r).1

theorem getTask_lossLogged (s : State) (r : RemoteReq) (w : Requester) : getTask (lossLogged s r) w = getTask s w := by
  unfold getTask
  rw [(lossLogged_logs s r).2]

theorem loseRemote_command {s : State} {r : RemoteReq} {w : Nat} {n : W32} (command : r.who = .command w n) :
    (getTask (loseRemote s r) r.who).failed = some ((getTask s r.who).failed.getD stTargetLost)
    ∧ (getWindrow (loseRemote s r) w).targetLost = true := by
  let v := failTask (lossLogged s r) r.who stTargetLost
  have lost : loseRemote s r = setWindrow v w { getWindrow v w with targetLost := true } := by
    unfold loseRemote v failTask lossLogged
    rw [command]
  rw [lost]
  refine ⟨(failTask_failed _ _ _).trans (by rw [getTask_lossLogged]), by rw [getWindrow_setWindrow_same]⟩

theorem loseRemote_copy {s : State} {r : RemoteReq} {c : Nat} (copy : r.who = .copyEngine c) :
    (getTask (loseRemote s r) r.who).failed = some ((getTask s r.who).failed.getD stTargetLost) := by
  have lost : loseRemote s r = failTask (lossLogged s r) r.who stTargetLost := by
    unfold loseRemote failTask lossLogged
    rw [copy]
  rw [lost, failTask_failed, getTask_lossLogged]

theorem remoteTimeout_loses {s : State} {tag : Nat} {q : RemoteReq} (up : alive s = true)
    (found : s.wain.remote.find? (fun q => q.tag == tag) = some q) : exec (.remoteTimeout tag) s = .next (loseRemote s q) := by
  change execRemoteTimeout tag s = _
  unfold execRemoteTimeout
  rw [found]
  exact congrArg _ (if_pos up)

end Sys2Proof.Machine
end

section
/-!
PROOFS. Remote memory: requests served and passed on, responses and timeouts.
-/
namespace Sys2Proof
open Machine

/-- Settles O46: a request is taken in and passed on, refused or served, and a response closes its request, goes on or is logged. -/
theorem remoteAccessesComplete : Obligations.RemoteAccessesComplete := by
  refine ⟨fun s link r lines up => ?requests, fun s link r lines up => ?responses⟩
  case requests =>
    intro x to_ taken answers refused
    have refuses (k n row : Nat) : taken (remoteNack (requestTaken s link k) link r n row) k ∧ refused (remoteNack (requestTaken s link k) link r n row) := by
      obtain ⟨⟨rx1, ret1⟩, answer, rest⟩ := remoteNack_refuses s link k r n row
      exact ⟨⟨rx1, ret1⟩, answer, rest⟩
    refine ⟨fun other => ⟨fun arrived => ?readOn, fun arrived => ?writeOn⟩, fun here arrived => ?readHere, fun here arrived => ?writeHere⟩
    case readOn =>
      obtain ⟨⟨rx1, ret1⟩, queued⟩ := queueVc1_taken (s := s) (link := link) (n := 1) rfl (wayTo s link r.dst) [recordBytes r]
      exact ⟨_, (remoteRead_arrived up arrived).trans (congrArg _ (if_pos other)), ⟨rx1, ret1⟩, rfl, queued⟩
    case writeOn =>
      obtain ⟨⟨rx1, ret1⟩, queued⟩ := queueVc1_taken (s := s) (link := link) (n := lines.length + 1) rfl (wayTo s link r.dst) (recordBytes r :: lines)
      exact ⟨_, (remoteWrite_arrived up arrived).trans (congrArg _ (if_pos other)), ⟨rx1, ret1⟩, rfl, queued⟩
    case readHere =>
      have judged := (remoteRead_arrived up arrived).trans (congrArg _ (if_neg (not_not.2 here)))
      refine ⟨fun admitted sound => ?_, fun admitted poisoned => ?_, fun n row refusal => ?_⟩
      · rw [admitted] at judged
        obtain ⟨⟨rx1, ret1⟩, ram, answer⟩ := read_answers s link 1 r 0 ((remoteLines r).map (fun n => (lineSettle (ramLine s.mem.ram n)).data))
        refine ⟨_, judged.trans (congrArg _ ((readServed_eq s link 1 r).trans (if_neg ?_))), ⟨rx1, ret1⟩, ram, answer⟩
        exact fun ⟨n, mem, bad⟩ => ne_true_of_eq_false (sound n mem) bad
      · rw [admitted] at judged
        obtain ⟨⟨rx1, ret1⟩, ram, answer⟩ := read_answers s link 1 r 2 []
        exact ⟨_, judged.trans (congrArg _ ((readServed_eq s link 1 r).trans (if_pos poisoned))), ⟨rx1, ret1⟩, ram, answer⟩
      · rw [refusal] at judged
        exact ⟨_, judged, refuses 1 n row⟩
    case writeHere =>
      have judged := (remoteWrite_arrived up arrived).trans (congrArg _ (if_neg (not_not.2 here)))
      refine ⟨fun admitted => ?_, fun n row refusal => ?_⟩
      · rw [admitted] at judged
        obtain ⟨inside, outside, wain⟩ := foldl_memWriteLine (requestTaken s link (lines.length + 1)) (bits r.dpa.toNat 39 6) r.nlines
          (fun i => lines.getD i []) (lineMask r)
        obtain ⟨⟨rx1, ret1⟩, answer⟩ := respond_answers wain r 0x82 0 []
        exact ⟨_, judged, ⟨rx1, ret1⟩, answer, inside, outside⟩
      · rw [refusal] at judged
        exact ⟨_, judged, refuses (lines.length + 1) n row⟩
  case responses =>
    intro got
    refine ⟨fun here q request => ⟨?rdata, ?wack, ?nack⟩, fun here request => ?unknown, fun other => ?elsewhere, fun tag q found => ?timeout⟩
    case rdata =>
      obtain ⟨t, brings, remote, mem, tasks⟩ := rdata_brings (link := link) (lines := lines) up here request
      refine ⟨t, brings, remote, mem, ?_, fun w other => (tasks w).trans (if_neg other)⟩
      exact congrArg RemoteTask.got ((tasks q.who).trans (if_pos rfl))
    case wack => exact wack_ends up here request
    case nack => exact fun w n command => nack_refuses up here request command
    case unknown =>
      exact ⟨⟨_, rfl, response_unknown up here request⟩, ⟨_, rfl, response_unknown up here request⟩, ⟨_, rfl, response_unknown up here request⟩⟩
    case elsewhere =>
      exact ⟨⟨_, rfl, response_elsewhere up other⟩, ⟨_, rfl, response_elsewhere up other⟩, ⟨_, rfl, response_elsewhere up other⟩⟩
    case timeout =>
      exact ⟨_, remoteTimeout_loses up found, loseRemote_remote s q, loseRemote_errWrites s q, fun w n command => loseRemote_command command,
        fun c copy => loseRemote_copy copy⟩

end Sys2Proof
end

section
/-!
PROOFS. Snoops at their holders: what reading, changing and dropping an agent's copy leave alone, and what a snoop gives and leaves.
-/
namespace Sys2Proof.Machine

/-- What work on an agent's copies leaves alone: the pool, what is sent, the snoops, the directory, the transactions, and the Granary. -/
structure HolderKept (a : Nat) (s t : State) : Prop where
  mem : t.mem = s.mem
  out : t.out = s.out
  snoops : t.cache.snoops = s.cache.snoops
  dir : t.cache.dir = s.cache.dir
  txns : t.cache.txns = s.cache.txns
  granary : a < 12 → t.cache.granary = s.cache.granary

namespace HolderKept

variable {a : Nat} {s t u : State}

theorem refl (a : Nat) (s : State) : HolderKept a s s := ⟨rfl, rfl, rfl, rfl, rfl, fun _ => rfl⟩

theorem trans (h : HolderKept a s t) (k : HolderKept a t u) : HolderKept a s u :=
  ⟨k.mem.trans h.mem, k.out.trans h.out, k.snoops.trans h.snoops, k.dir.trans h.dir, k.txns.trans h.txns,
    fun agent => (k.granary agent).trans (h.granary agent)⟩

theorem foldl {α : Type} {g : State → α → State} (h : ∀ s x, HolderKept a s (g s x)) (l : List α) (s : State) : HolderKept a s (l.foldl g s) := by
  induction l generalizing s with
  | nil => exact .refl a s
  | cons x l ih => exact (h s x).trans (ih _)

end HolderKept

/-! ## An agent's copy -/

theorem storeWays_holderKept (s : State) (a : Nat) (l : LineAddr) (ws : List Way) : HolderKept a s (storeWays s a l ws) := by
  unfold storeWays
  extract_lets ws'
  split
  · exact ⟨rfl, rfl, rfl, rfl, rfl, fun _ => rfl⟩
  · split
    · exact ⟨rfl, rfl, rfl, rfl, rfl, fun _ => rfl⟩
    · next other => exact ⟨rfl, rfl, rfl, rfl, rfl, fun agent => absurd agent other⟩

theorem cacheModify_holderKept (s : State) (a : Nat) (l : LineAddr) (f : Way → Way) : HolderKept a s (cacheModify s a l f) := by
  unfold cacheModify
  extract_lets ws
  split
  · exact storeWays_holderKept s a l _
  · exact .refl a s

theorem agentSet_holderKept (s : State) (a : Nat) (l : LineAddr) (c : Coh) : HolderKept a s (agentSet s a l c) := by
  unfold agentSet
  extract_lets u
  have changed : HolderKept a s u := by
    unfold u
    split <;> exact cacheModify_holderKept s a l _
  exact changed.trans ⟨rfl, rfl, rfl, rfl, rfl, fun _ => rfl⟩

theorem arrayRead_holderKept (s : State) (a inst addr : Nat) (x : Line) : HolderKept a s (arrayRead s inst addr x).2 := by
  refine (HolderKept.foldl (fun s i => ?_) _ s).trans ⟨rfl, rfl, rfl, rfl, rfl, fun _ => rfl⟩
  dsimp only
  split
  · exact ⟨rfl, rfl, rfl, rfl, rfl, fun _ => rfl⟩
  · exact .refl a s

theorem copyRead_holderKept (s : State) (a : Nat) (l : LineAddr) : HolderKept a s (copyRead s a l).2 := by
  unfold copyRead
  split
  · exact (arrayRead_holderKept s a _ _ _).trans (cacheModify_holderKept _ a l _)
  · exact .refl a s

/-! ## The check of a set (R335) -/

theorem tagReport_snoops (s : State) (inst addr : Nat) (f : TagFind) : (tagReport s inst addr f).cache.snoops = s.cache.snoops := by
  unfold tagReport
  split
  · rfl
  · obtain ⟨_, _, _, _, _, reported⟩ := raiseReplanned_reported s srcTag inst addr 0 0 none
    rw [reported]
  · rfl

theorem checkSet_snoops (s : State) (c : Nat) (l : LineAddr) : (checkSet s c l).cache.snoops = s.cache.snoops := by
  unfold checkSet
  extract_lets ws
  split
  · rfl
  · exact (foldl_same (fun s => s.cache.snoops) (fun s f => tagReport_snoops s _ _ f) _ _).trans (storeWays_holderKept s c l _).snoops

/-! ## What a snoop does (R351) -/

/-- The data that a snoop's holder gives once the tags are checked. -/
def snoopGiven (u : State) (k : SnoopKind) (a : Nat) (l : LineAddr) : Option (Line × Bool) :=
  snoopGives k ((agentCopy u a l).map (fun p => (p.1, (copyRead u a l).1)))

/-- The state once a holder has read the data it gives. -/
def snoopRead (u : State) (k : SnoopKind) (a : Nat) (l : LineAddr) : State := if (snoopGiven u k a l).isSome then (copyRead u a l).2 else u

/-- The state in which a snoop of a kind leaves the copy it finds. -/
def copyAfter (v : State) (k : SnoopKind) (a : Nat) (l : LineAddr) : State :=
  match k with
  | .fwdS => agentSet v a l .shared
  | .cur => v
  | _ => agentSet v a l .invalid

theorem snoopGiven_unheld {u : State} {a : Nat} {l : LineAddr} (k : SnoopKind) (unheld : agentCopy u a l = none) : snoopGiven u k a l = none := by
  unfold snoopGiven
  rw [unheld]
  rfl

theorem snoopRead_unheld {u : State} {a : Nat} {l : LineAddr} (k : SnoopKind) (unheld : agentCopy u a l = none) : snoopRead u k a l = u := by
  unfold snoopRead
  rw [snoopGiven_unheld k unheld]
  rfl

theorem snoopAct_unheld {s : State} {a : Nat} {l : LineAddr} (k : SnoopKind) (unheld : agentCopy (checkSet s a l) a l = none) :
    snoopAct s k a l = (checkSet s a l, none) := by
  unfold snoopAct
  dsimp only
  rw [unheld]

theorem snoopAct_held {s : State} {a : Nat} {l : LineAddr} (k : SnoopKind) (held : (agentCopy (checkSet s a l) a l).isSome = true) :
    snoopAct s k a l = (copyAfter (snoopRead (checkSet s a l) k a l) k a l, snoopGiven (checkSet s a l) k a l) := by
  obtain ⟨⟨c, x⟩, copy⟩ := Option.isSome_iff_exists.1 held
  unfold snoopAct snoopRead snoopGiven copyAfter
  dsimp only
  rw [copy]
  cases k with
  | invD => by_cases dirty : c = .modified <;> simp [snoopGives, dirty]
  | fwdS | fwdI | inv | cur => simp [snoopGives]

theorem snoopRead_holderKept (u : State) (k : SnoopKind) (a : Nat) (l : LineAddr) : HolderKept a u (snoopRead u k a l) := by
  unfold snoopRead
  split
  · exact copyRead_holderKept u a l
  · exact .refl a u

theorem copyAfter_holderKept (v : State) (k : SnoopKind) (a : Nat) (l : LineAddr) : HolderKept a v (copyAfter v k a l) := by
  cases k with
  | cur => exact .refl a v
  | fwdS | fwdI | inv | invD => exact agentSet_holderKept v a l _

/-- What a snoop gives is what its kind gives of the copy that its holder has, if any. -/
theorem snoopAct_gives (s : State) (k : SnoopKind) (a : Nat) (l : LineAddr) : (snoopAct s k a l).2 = snoopGiven (checkSet s a l) k a l := by
  cases copy : agentCopy (checkSet s a l) a l with
  | none =>
    rw [snoopAct_unheld k copy, snoopGiven_unheld k copy]
  | some p => rw [snoopAct_held k (Option.isSome_of_eq_some copy)]

theorem snoopAct_holderKept (s : State) (k : SnoopKind) (a : Nat) (l : LineAddr) : HolderKept a (checkSet s a l) (snoopAct s k a l).1 := by
  cases copy : agentCopy (checkSet s a l) a l with
  | none =>
    rw [snoopAct_unheld k copy]
    exact .refl a _
  | some p =>
    rw [snoopAct_held k (Option.isSome_of_eq_some copy)]
    exact (snoopRead_holderKept _ k a l).trans (copyAfter_holderKept _ k a l)

theorem snoops_exec {c : Instr} {k : SnoopKind} {a : Nat} {l : LineAddr} (h : snoops c = some (k, a, l)) (s : State) :
    exec c s = .next (snoopArrive s k a l) := by
  unfold snoops at h
  split at h
  case h_6 => cases h
  all_goals
    cases h
    rfl

end Sys2Proof.Machine

namespace Sys2Proof
open Machine

/-- Settles O30: a snoop's holder checks its set, reads what the snoop's kind gives of its copy, and changes that copy alone. -/
theorem snoopsActAtTheirHolders : Obligations.SnoopsActAtTheirHolders := by
  intro s c k a l snoop sent u held gives v copies
  rw [snoops_exec snoop]
  refine ⟨fun absent => ?none, fun x found => ⟨_, rfl, ?some⟩⟩
  case none =>
    unfold snoopArrive
    rw [show s.cache.snoops.find? _ = none from absent]
  case some =>
    have kept := snoopAct_holderKept s k a l
    have given : (snoopAct s k a l).2 = gives := snoopAct_gives s k a l
    unfold snoopArrive
    rw [show s.cache.snoops.find? _ = some x from found]
    dsimp only
    rw [given]
    refine ⟨by rw [kept.snoops, checkSet_snoops], fun untouched => ?_, fun has kind => ?_, fun has kind => ?_, kept.mem, kept.out, kept.granary,
      kept.dir, kept.txns⟩
    · cases copy : held with
      | none =>
        rw [snoopAct_unheld k copy, show v = u from snoopRead_unheld k copy]
        exact ⟨rfl, rfl, rfl⟩
      | some p =>
        obtain rfl : k = .cur := untouched.resolve_left (by rw [copy]; exact Bool.false_ne_true)
        rw [snoopAct_held .cur (Option.isSome_of_eq_some copy)]
        exact ⟨rfl, rfl, rfl⟩
    · subst kind
      rw [snoopAct_held .fwdS has]
      exact ⟨rfl, rfl, rfl⟩
    · rw [snoopAct_held k has]
      rcases kind with rfl | rfl | rfl <;> exact ⟨rfl, rfl, rfl⟩

end Sys2Proof
end

section
/-!
PROOFS. A port that freezes: the host lines it discards, the requests and walks it ends, and what of the host link it leaves.
-/
namespace Sys2Proof.Machine

/-! ## The host lines discarded (R454) -/

/-- The second state differs from the first in its caches, and in the counters of HL_ERR, at most. -/
def LinesDropped (s t : State) : Prop := ∃ cache err, t = { s with cache, hl := { s.hl with err } }

namespace LinesDropped

theorem refl (s : State) : LinesDropped s s := ⟨_, _, rfl⟩

theorem trans {s t u : State} (h : LinesDropped s t) (k : LinesDropped t u) : LinesDropped s u := by
  obtain ⟨_, _, rfl⟩ := h
  obtain ⟨_, _, rfl⟩ := k
  exact ⟨_, _, rfl⟩

theorem foldl {α : Type} {g : State → α → State} (h : ∀ s x, LinesDropped s (g s x)) (l : List α) (s : State) : LinesDropped s (l.foldl g s) := by
  induction l generalizing s with
  | nil => exact .refl s
  | cons x l ih => exact (h s x).trans (ih _)

end LinesDropped

theorem cacheModify_linesDropped (s : State) (c : Nat) (l : LineAddr) (f : Way → Way) : LinesDropped s (cacheModify s c l f) := by
  unfold cacheModify
  dsimp only
  split
  · exact ⟨_, _, rfl⟩
  · exact .refl s

theorem agentSet_linesDropped (s : State) (a : Nat) (l : LineAddr) (c : Coh) : LinesDropped s (agentSet s a l c) := by
  unfold agentSet
  extract_lets u
  have changed : LinesDropped s u := by
    unfold u
    split <;> exact cacheModify_linesDropped s a l _
  exact changed.trans ⟨_, _, rfl⟩

theorem dirPut_linesDropped (s : State) (l : LineAddr) (e : DirEntry) : LinesDropped s (dirPut s l e) := by
  unfold dirPut
  extract_lets e es
  split
  · exact ⟨_, _, rfl⟩
  · split
    · exact ⟨_, _, rfl⟩
    · split
      · split
        · exact ⟨_, _, rfl⟩
        · exact .refl s
      · exact .refl s

theorem dropLine_linesDropped (s : State) (l : LineAddr) : LinesDropped s (dropLine s l) := by
  unfold dropLine
  extract_lets u
  have agents : LinesDropped s u := .foldl (fun s a => agentSet_linesDropped s a l .invalid) _ s
  refine .trans ?_ (dirPut_linesDropped _ l {})
  split
  · exact agents
  · exact agents.trans (cacheModify_linesDropped u 12 l _)

theorem dropHostLines_linesDropped (s : State) (onlyDirty : Bool) : LinesDropped s (dropHostLines s onlyDirty) := by
  refine .foldl (fun s l => ?_) _ s
  extract_lets d u
  split
  · exact .refl s
  · split
    · exact (dropLine_linesDropped s l).trans ⟨_, _, rfl⟩
    · exact dropLine_linesDropped s l

/-! ## The walks that start when others have ended (R402, R437) -/

theorem hl_of_linkRest {s t : State} (h : linkRest t = linkRest s) : t.hl = { s.hl with hostReqs := t.hl.hostReqs } :=
  congrArg (fun hl : HostLink => { hl with hostReqs := t.hl.hostReqs }) h

theorem startWalks_linkRest (s : State) : linkRest (startWalks s) = linkRest s := foldl_same linkRest startWalk_linkRest _ s

/-- None of the requests outstanding on the host link is an access. -/
def NoAccess (s : State) : Prop := ∀ r ∈ s.hl.hostReqs, isAccess r.kind = false

theorem openHostReq_noAccess {s : State} {k : HostReqKind} (ctx : BitVec 20) (who : Requester) (walk : isAccess k = false) (h : NoAccess s) :
    NoAccess (openHostReq s k ctx who) := by
  unfold openHostReq
  dsimp only
  split
  · intro r mem
    rcases List.mem_append.1 mem with before | opened
    · exact h r before
    · rw [List.mem_singleton.1 opened]
      exact walk
  · exact h

theorem startWalk_noAccess {s : State} (i : Nat) (h : NoAccess s) : NoAccess (startWalk s i) := by
  unfold startWalk
  split
  · split
    · dsimp only
      split
      · exact h
      · split
        · exact openHostReq_noAccess _ _ rfl h
        · exact h
    · exact h
  · exact h

theorem startWalks_noAccess {s : State} (h : NoAccess s) : NoAccess (startWalks s) :=
  List.foldlRecOn _ startWalk h fun _ kept i _ => startWalk_noAccess i kept

theorem startWalks_idle {s : State} (walking : ∀ m ∈ s.tr.misses, m.walking = true) : startWalks s = s := by
  refine foldl_idle fun i _ => if_neg ?_
  unfold missReady
  split
  · next m found => simp [walking m (List.mem_of_getElem? found)]
  · exact Bool.false_ne_true

/-! ## The port freezes (R454) -/

theorem loseRequest_taskFrame (s : State) (r : HostReq) : TaskFrame s (loseRequest s r) := by
  unfold loseRequest
  split
  · exact loseStore_taskFrame s _ r
  · exact loseFill_taskFrame s _
  · exact .refl s

/-- The state once its dirty host lines are discarded, none of its requests is outstanding, and the walks that are lost have left the list. -/
def outboundCut (s : State) : State :=
  let u := dropHostLines s true
  { u with
    hl := { u.hl with hostReqs := [] }
    tr := { u.tr with misses := u.tr.misses.filter (fun m => !(m.stopped.isNone && (!profileP u || walksHost u m.ctx m.va))) } }

theorem failOutbound_eq (s : State) : ∃ (ms : List Miss) (reqs : List HostReq), failOutbound s
    = startWalks (ms.foldl (loseMiss stTargetLost) (reqs.foldl loseRequest (outboundCut s))) := ⟨_, _, rfl⟩

theorem outboundCut_hl (s : State) : ∃ err, (outboundCut s).hl = { s.hl with err, hostReqs := [] } := by
  obtain ⟨_, err, dropped⟩ := dropHostLines_linesDropped s true
  unfold outboundCut
  rw [dropped]
  exact ⟨err, rfl⟩

theorem mem_of_outboundCut {s : State} {m : Miss} (mem : m ∈ (outboundCut s).tr.misses) : m ∈ s.tr.misses := by
  obtain ⟨_, _, dropped⟩ := dropHostLines_linesDropped s true
  unfold outboundCut at mem
  rw [dropped] at mem
  exact (List.mem_filter.1 mem).1

/-- A port whose outbound accesses fail keeps its registers but for HL_ERR, and of its requests only walks that start then. -/
theorem failOutbound_hl (s : State) : ∃ err, (failOutbound s).hl = { s.hl with err, hostReqs := (failOutbound s).hl.hostReqs }
    ∧ NoAccess (failOutbound s) ∧ ((∀ m ∈ s.tr.misses, m.walking = true) → (failOutbound s).hl.hostReqs = []) := by
  obtain ⟨ms, reqs, failed⟩ := failOutbound_eq s
  obtain ⟨err, cut⟩ := outboundCut_hl s
  have frame := (TaskFrame.foldl loseRequest_taskFrame reqs (outboundCut s)).trans (.foldl (loseMiss_taskFrame stTargetLost) ms _)
  rw [failed]
  generalize ms.foldl (loseMiss stTargetLost) (reqs.foldl loseRequest (outboundCut s)) = w at frame
  have link := frame.hl.trans cut
  refine ⟨err, ?_, startWalks_noAccess ?_, fun walking => ?_⟩
  · rw [hl_of_linkRest (startWalks_linkRest w), link]
  · unfold NoAccess
    rw [link]
    exact fun r mem => nomatch mem
  · rw [startWalks_idle, link]
    intro m mem
    rw [frame.misses] at mem
    exact walking m (mem_of_outboundCut mem)

/-- The bit of HL_CONTAIN that records a cause of a freeze. -/
def causeBit (cause : FreezeCause) : Nat := match cause with | .surpriseDown => 0 | .fatal => 1 | .viral => 2

theorem causeBit_lt (cause : FreezeCause) : causeBit cause < 32 := by cases cause <;> decide

/-- The state of a port that has frozen, before its outbound accesses end. -/
def portClosed (s : State) (cause : FreezeCause) : State :=
  { s with hl := { s.hl with contain := setBit s.hl.contain (causeBit cause) true, frozen := true, linkUp := s.hl.linkUp && cause != .surpriseDown } }

theorem portClosed_tr (s : State) (cause : FreezeCause) : (portClosed s cause).tr = s.tr := rfl

theorem portClosed_contain (s : State) (cause : FreezeCause) : (portClosed s cause).hl.contain = setBit s.hl.contain (causeBit cause) true := rfl

theorem freezePort_eq (s : State) (cause : FreezeCause) :
    freezePort s cause = signalVector (failOutbound (portClosed s cause)) (field s.hl.cfg 26 16) := rfl

/-- A port that freezes records the cause, keeps none but walks among its requests, and with a surprise loss is no longer up. -/
theorem freezePort_hl (s : State) (cause : FreezeCause) : (freezePort s cause).hl.frozen = true
    ∧ bitOf (freezePort s cause).hl.contain (causeBit cause) = true ∧ NoAccess (freezePort s cause)
    ∧ ((∀ m ∈ s.tr.misses, m.walking = true) → (freezePort s cause).hl.hostReqs = [])
    ∧ (freezePort s cause).hl.linkUp = (s.hl.linkUp && cause != .surpriseDown) := by
  obtain ⟨err, link, walks, none⟩ := failOutbound_hl (portClosed s cause)
  rw [portClosed_tr] at none
  rw [freezePort_eq]
  generalize failOutbound (portClosed s cause) = t at link walks none
  obtain ⟨_, _, _, signalled⟩ := signalVector_frame t (field s.hl.cfg 26 16)
  rw [signalled]
  refine ⟨?_, ?_, walks, none, ?_⟩
  · exact congrArg HostLink.frozen link
  · rw [link]
    dsimp only
    rw [portClosed_contain]
    exact bitOf_setBit_true _ (causeBit_lt cause)
  · exact congrArg HostLink.linkUp link

end Sys2Proof.Machine
end

section
/-!
PROOFS. The three resets: what the work before them leaves of the slots and of the Loft's granules, and what they leave of every unit.
-/
namespace Sys2Proof.Machine

/-! ## The Loft's granules (R341) -/

/-- The owner entries of the Loft's granules. -/
def loftOwners (s : State) : Tbl W32 := s.cache.loftOwner

theorem loftOwners_of_cache {s t : State} (h : t.cache = s.cache) : loftOwners t = loftOwners s := congrArg Caches.loftOwner h

theorem Aside.loftOwners {s t : State} (h : Aside s t) : loftOwners t = loftOwners s := h.loftOwner

theorem linePut_loftOwners (s : State) (iss : Issuer) (o : LineOp) (data : List Byte) (mask : Nat) :
    loftOwners (linePut s iss o data mask) = loftOwners s := by
  unfold linePut
  extract_lets l
  split
  · exact (backWrite_aside s l data mask iss.ctx (.refl s)).loftOwners
  · exact (agentWrite_aside s iss.agent iss.writer l data mask iss.ctx _ (.refl s)).loftOwners

theorem sendRemote_cache {s t : State} {who : Requester} {ctx : BitVec 20} {op : Byte} {dpa asked mask : Nat} {data : List (List Byte)}
    (h : sendRemote s who ctx op dpa asked mask data = some t) : t.cache = s.cache := by
  unfold sendRemote at h
  extract_lets f free at h
  split at h
  · cases h
    rfl
  · cases h

theorem performEntry_loftOwners (s : State) (k : Nat) (e : SbEntry) : loftOwners (performEntry s k e) = loftOwners s := by
  unfold performEntry
  extract_lets att g a iss o n u
  split
  · next st row _ =>
    have refused : loftOwners (lineRefuse s iss o row) = loftOwners s := (refuseCtx_aside s _ _ _ _ _ (.refl s)).loftOwners
    dsimp only
    split
    · exact refused
    · exact refused
  · split
    · cases sent : sendRemote s iss.who e.ctx 0x02 o.dpa o.asked e.mask.toNat [e.data] with
      | none => rfl
      | some t => exact loftOwners_of_cache (sendRemote_cache sent)
    · exact linePut_loftOwners s iss o e.data e.mask.toNat

theorem performAt_loftOwners (s : State) (k i : Nat) : loftOwners (performAt s k i) = loftOwners s := by
  unfold performAt
  extract_lets es
  split
  · next e _ =>
    split
    · obtain ⟨_, freed⟩ := freeBuf_port (performEntry (setBuf s k (es.eraseIdx i)) k e) k
      rw [freed]
      exact performEntry_loftOwners _ k e
    · rfl
  · rfl

theorem drainBuf_loftOwners (s : State) (k : Nat) : loftOwners (drainBuf s k) = loftOwners s :=
  foldl_same loftOwners (fun s _ => performAt_loftOwners s k 0) _ s

theorem drainAll_loftOwners (s : State) : loftOwners (drainAll s) = loftOwners s :=
  foldl_same loftOwners (fun s (b : Nat × List SbEntry) => drainBuf_loftOwners s b.1) _ s

/-! ## The end of a membership and of the leases -/

theorem Reported.cache {s t : State} (h : Reported s t) : t.cache = s.cache := by
  obtain ⟨_, _, _, _, _, rfl⟩ := h
  rfl

theorem lossLogged_cache (s : State) (r : RemoteReq) : (lossLogged s r).cache = s.cache := by
  unfold lossLogged
  extract_lets _ u isPlan
  split
  · exact (raiseReplanned_reported u _ _ _ _ _ _).cache
  · exact (logRecord_reported u _).cache

theorem loseRemote_cache (s : State) (r : RemoteReq) : (loseRemote s r).cache = s.cache := by
  obtain ⟨_, _, _, lost⟩ := loseRemote_frame s r
  rw [lost]
  exact lossLogged_cache s r

theorem sendNew_cache (s : State) (n : Nat) (b : FrameBody) (resending : Bool) : (sendNew s n b resending).cache = s.cache := rfl

theorem sendControl_cache (s : State) (n : Nat) : (sendControl s n).cache = s.cache := sendNew_cache _ _ _ _

theorem linkDown_cache (s : State) (n : Nat) : (linkDown s n).cache = s.cache := by
  unfold linkDown
  extract_lets x u
  rw [setLink_cache]
  refine (foldl_same State.cache loseRemote_cache _ u).trans ?_
  unfold u
  split
  · exact foldl_same State.cache (fun s _ => sendControl_cache s n) _ s
  · rfl

theorem linksDown_cache (s : State) : (linksDown s).cache = s.cache := foldl_same State.cache linkDown_cache _ s

theorem endMembership_cache (s : State) : (endMembership s).cache = s.cache := by
  unfold endMembership
  dsimp only
  exact linksDown_cache s

theorem resetEngines_cache (s : State) : (resetEngines s).cache = s.cache := by
  have ended (s : State) (n : Nat) : (if (getSheaf s n).lease.isSome then
      setSheaf (clearSheaf s n) n { getSheaf (clearSheaf s n) n with lease := none } else s).cache = s.cache := by
    split <;> rfl
  have restarted (s : State) (a : Nat) : (if attPresent s a then
      emit (setAtt s a { err := (getAtt s a).err }) (.epReset a) else s).cache = s.cache := by
    split <;> rfl
  unfold resetEngines
  dsimp only
  refine (foldl_same State.cache restarted _ _).trans ?_
  dsimp only
  exact foldl_same State.cache ended _ s

/-! ## The slots (R217, R507) -/

theorem unbindSlot_run {x : Slot} (idle : x.run = none) : (unbindSlot x).run = none := by
  unfold unbindSlot
  extract_lets y
  cases x.state with
  | bound | running | stopping | stopped | done => rfl
  | _ => exact idle

theorem resetSlot_run (x : Slot) : (resetSlot x).run = none := by
  unfold resetSlot
  extract_lets y
  split
  · rfl
  · next idle =>
    rw [Bool.or_eq_true, not_or, Option.not_isSome_iff_eq_none] at idle
    exact unbindSlot_run idle.1

theorem getSlot_endMembership (s : State) (n : Nat) : getSlot (endMembership s) n = getSlot s n := by
  unfold getSlot
  rw [endMembership_slots]

/-- Slots reset in succession have no run. -/
theorem resetSlots_run (l : List Nat) (s : State) {k : Nat} (hk : k ∈ l ∨ (getSlot s k).run = none) :
    (getSlot (l.foldl (fun s n => setSlot s n (resetSlot (getSlot s n))) s) k).run = none := by
  induction l generalizing s with
  | nil => exact hk.resolve_left List.not_mem_nil
  | cons n l ih =>
    refine ih _ ?_
    by_cases h : k = n
    · exact .inr (by rw [h, getSlot_setSlot_same]; exact resetSlot_run _)
    · rw [getSlot_setSlot_ne _ _ h]
      exact hk.imp_left fun hm => (List.mem_cons.1 hm).resolve_left h

/-! ## Tables rebuilt entry by entry -/

/-- Where the table's entries and the values put into it have a property, the entries of the table after have it. -/
theorem look_foldl_put {α β : Type} [DecidableEq β] (P : β → Prop) (d : β) (key : α → Nat) (val : α → β) (l : List α) {t : Tbl β}
    (before : ∀ k, P (look d t k)) (written : ∀ x, P (val x)) (k : Nat) : P (look d (l.foldl (fun t x => put d t (key x) (val x)) t) k) := by
  induction l generalizing t with
  | nil => exact before k
  | cons x l ih =>
    refine ih fun j => ?_
    rw [look_put]
    split
    · exact written x
    · exact before j

/-- A Windrow that is disabled, with nothing in progress, accepted or to be read. -/
def WindrowIdle (w : Windrow) : Prop := bitOf w.cfg 0 = false ∧ w.inprog = [] ∧ w.accepted = [] ∧ w.replies = []

theorem windrowDefault_idle (s : State) : WindrowIdle (windrowDefault s) := by
  refine ⟨?_, rfl, rfl, rfl⟩
  unfold windrowDefault
  cases bitOf s.boot.straps 1 <;> rfl

theorem abandonWindrow_idle (s : State) (w : Windrow) : WindrowIdle (abandonWindrow s w) := windrowDefault_idle s

theorem resetTrans_unbound (t : Trans) (n : Nat) : (look {} (resetTrans t).ctxs n).state = .unbound :=
  look_foldl_put (fun c : Ctx => c.state = .unbound) {} (fun p : Nat × Ctx => p.1) _ _ (fun _ => rfl) (fun _ => rfl) n

/-! ## What a reset leaves (R452) -/

/-- The outbound requests of a reset end: with `keepHost` the host's memory takes their writes. -/
def writesEnded (s : State) (keepHost : Bool) : State :=
  s.hl.hostReqs.foldl (fun s r => match r.kind with
    | .cacheWrite n d m => if keepHost then hostPutMasked s n d m.toNat else s
    | _ => s) { s with hl := { s.hl with hostReqs := [] } }

/-- No cached line stays over a reset: host lines are written back or dropped, the others written back. -/
def linesEnded (s : State) (keepHost : Bool) : State :=
  flushWhere (if keepHost then flushHostLines s else dropHostLines s false) (fun l => l.space != 1) true

/-- The slots after a reset. -/
def slotsReset (s : State) : State := (List.range 16).foldl (fun s n => setSlot s n (resetSlot (getSlot s n))) s

/-- The state of a block that resets, before its tables and registers go to their values at reset. -/
def resetDrained (s : State) (keepHost self : Bool) : State :=
  endMembership (slotsReset (resetEngines (clearRun (linesEnded (writesEnded
    (drainAll (if self then { s with hl := { s.hl with frozen := true } } else s)) keepHost) keepHost))))

/-- The tables and registers of a block go to their values at reset. -/
def resetTables (s : State) (self : Bool) : State :=
  { s with
    hl := resetHostLink s.hl
    grg := { err := s.grg.err
             windrows := s.grg.windrows.foldl (fun t p => put (windrowDefault s) t p.1 (abandonWindrow s p.2)) [] }
    tr := resetTrans s.tr
    mem := { s.mem with owner := [], gleanCfg := ({} : Pool).gleanCfg }
    cache := { s.cache with
      cfg := ({} : Caches).cfg, cohCfg := ({} : Caches).cohCfg, sbufs := [], fills := [], nacks := [], streams := [], loftBusy := false
      loftOwner := if self then [] else s.cache.loftOwner }
    err := { s.err with replaying := false, restarts := 0, reported := [] }
    wain := { links := s.wain.links } }

theorem resetBlock_eq (s : State) (keepHost self : Bool) : resetBlock s keepHost self = resetTables (resetDrained s keepHost self) self := by
  unfold resetBlock
  extract_lets _ drained reqs _ written dropped flushed cleared freed reset ended
  have same : ended = resetDrained s keepHost self := rfl
  rw [← same]
  clear_value ended
  rfl

theorem slotsReset_run (s : State) {n : Nat} (slot : n < 16) : (getSlot (slotsReset s) n).run = none :=
  resetSlots_run _ s (.inl (List.mem_range.2 slot))

theorem resetDrained_run (s : State) (keepHost self : Bool) {n : Nat} (slot : n < 16) : (getSlot (resetDrained s keepHost self) n).run = none := by
  unfold resetDrained
  rw [getSlot_endMembership]
  exact slotsReset_run _ slot

theorem writesEnded_loftOwners (s : State) (keepHost : Bool) : loftOwners (writesEnded s keepHost) = loftOwners s := by
  refine foldl_same loftOwners (fun s r => ?_) _ _
  split
  · split <;> rfl
  · rfl

theorem linesEnded_loftOwners (s : State) (keepHost : Bool) : loftOwners (linesEnded s keepHost) = loftOwners s := by
  refine (flushWhere_aside _ _ true (.refl _)).loftOwners.trans ?_
  split
  · exact (flushHostLines_aside s (.refl s)).loftOwners
  · exact (dropHostLines_aside s false (.refl s)).loftOwners

theorem clearRun_cache (s : State) : (clearRun s).cache = s.cache := by
  obtain ⟨_, _, _, cleared⟩ := clearRun_frame s
  rw [cleared]

theorem slotsReset_cache (s : State) : (slotsReset s).cache = s.cache := foldl_same State.cache (fun s n => setSlot_cache s n _) _ s

theorem resetDrained_loftOwners (s : State) (keepHost : Bool) : loftOwners (resetDrained s keepHost false) = loftOwners s := by
  unfold resetDrained
  rw [loftOwners_of_cache (endMembership_cache _), loftOwners_of_cache (slotsReset_cache _), loftOwners_of_cache (resetEngines_cache _),
    loftOwners_of_cache (clearRun_cache _), linesEnded_loftOwners, writesEnded_loftOwners, drainAll_loftOwners]
  rfl

/-- What a reset leaves: no context bound, no granule owned, every Windrow idle, no slot with a run, the configuration registers of the host
link, the caches and the Wain at their values at reset, and the port not frozen. -/
structure BlockReset (t : State) : Prop where
  unbound : ∀ n, (getCtx t n).state = .unbound
  free : ∀ g, look 0 t.mem.owner g = 0
  idle : ∀ w, WindrowIdle (getWindrow t w)
  runs : ∀ n, n < 16 → (getSlot t n).run = none
  hlCfg : t.hl.cfg = 0x0000000A
  cacheCfg : t.cache.cfg = 0x00003007
  wainCfg : t.wain.cfg = 0x003C0032
  thawed : t.hl.frozen = false

theorem resetTables_reset {s : State} (self : Bool) (runs : ∀ n, n < 16 → (getSlot s n).run = none) : BlockReset (resetTables s self) where
  unbound := resetTrans_unbound s.tr
  free := fun _ => rfl
  idle := look_foldl_put WindrowIdle (windrowDefault s) (fun p : Nat × Windrow => p.1) (fun p => abandonWindrow s p.2) s.grg.windrows
    (fun _ => windrowDefault_idle s) (fun p => abandonWindrow_idle s p.2)
  runs := runs
  hlCfg := rfl
  cacheCfg := rfl
  wainCfg := rfl
  thawed := rfl

theorem resetTables_loftOwner (s : State) (self : Bool) : (resetTables s self).cache.loftOwner = if self then [] else s.cache.loftOwner := rfl

theorem resetBlock_reset (s : State) (keepHost self : Bool) : BlockReset (resetBlock s keepHost self) := by
  rw [resetBlock_eq]
  exact resetTables_reset self fun _ slot => resetDrained_run s keepHost self slot

theorem resetBlock_keepsLoft (s : State) (keepHost : Bool) : (resetBlock s keepHost false).cache.loftOwner = s.cache.loftOwner := by
  rw [resetBlock_eq, resetTables_loftOwner]
  exact resetDrained_loftOwners s keepHost

theorem resetBlock_freesLoft (s : State) (keepHost : Bool) : (resetBlock s keepHost true).cache.loftOwner = [] := by
  rw [resetBlock_eq, resetTables_loftOwner]
  rfl

end Sys2Proof.Machine

namespace Sys2Proof
open Machine

/-- Settles O28: a freeze by the host link it leaves, a reset by the tables and registers it rebuilds and what the work before it keeps. -/
theorem freezeAndResets : Obligations.FreezeAndResets := by
  refine ⟨fun s cause up => ?freeze, fun s up => ?resets⟩
  case freeze =>
    have frozen : exec (.portFreeze cause) s = .next (freezePort s cause) := congrArg _ (if_pos up)
    exact ⟨_, frozen, freezePort_hl s cause⟩
  case resets =>
    intro cleared
    have isCleared (u : State) (keepHost self : Bool) : cleared (resetBlock u keepHost self) := by
      obtain ⟨unbound, free, idle, runs, hlCfg, cacheCfg, wainCfg, thawed⟩ := resetBlock_reset u keepHost self
      exact ⟨unbound, free, idle, runs, hlCfg, cacheCfg, wainCfg, thawed⟩
    refine ⟨?hot, ?functionLevel, fun inD0 down => ?self⟩
    case hot =>
      have reset : exec .hotReset s = .next (resetBlock s false false) := congrArg Host.Outcome.next (if_pos up)
      exact ⟨_, reset, isCleared s false false, resetBlock_keepsLoft s false⟩
    case functionLevel =>
      have reset : exec .functionLevelReset s = .next (resetBlock s true false) := congrArg Host.Outcome.next (if_pos up)
      exact ⟨_, reset, isCleared s true false, resetBlock_keepsLoft s true⟩
    case self =>
      have reset : exec .selfReset s = .next (fatalReset s srcHostLink) := if_neg (by simp [up, inD0, down])
      exact ⟨_, reset, isCleared _ false true, resetBlock_freesLoft _ false⟩

end Sys2Proof
end
